-- ==== Sys2Proof/Word.lean ====
section
/-!
DEFINITION. The word types of the Volrak V4 (R5, R77, R78, R81) and the plain lists that hold sparse data.
-/
namespace Sys2Proof

/-- A scalar, an address or a CSR: 64 bits (R81). -/
abbrev Word := BitVec 64
/-- One byte of memory (R5). -/
abbrev Byte := BitVec 8
/-- A tile register: 4 KiB, byte `k` of row `i` is byte `256 i + k` (R77). -/
abbrev Tile := BitVec 32768
/-- A mask register: 1,024 bits (R78). -/
abbrev Mask := BitVec 1024
/-- One micro-word of the matrix unit: 128 bits (R223). -/
abbrev MicroWord := BitVec 128
/-- A 64-byte record: a bundle, a template, a descriptor (R18, R235, R391). -/
abbrev Line := BitVec 512

/-- Sparse data by key: keys strictly rising, no entry equal to what an unlisted key reads as. -/
abbrev Tab (α : Type) := List (Nat × α)

end Sys2Proof
end

