-- ==== Sys2Proof/Syntax.lean ====
section
/-!
DEFINITION. The instructions of the Volrak V4 as data: one constructor of `Instr` for each step of spec/opcode_table.json,
with the operand fields the encodings of chapters 01, 05 to 11, 13, 15, 17 to 19 give it.
-/
namespace Sys2Proof

/-- The eight slots of a bundle, in slot order (R19). -/
inductive Slot | sc | va | vb | mx | ld | st | cp | sy
deriving DecidableEq, Repr

/-- The slot's index: its bit number in TSLOT (R19). -/
def Slot.index : Slot → Nat
  | .sc => 0 | .va => 1 | .vb => 2 | .mx => 3 | .ld => 4 | .st => 5 | .cp => 6 | .sy => 7

/-- The two vector slots (R19). -/
inductive VUnit | va | vb
deriving DecidableEq, Repr

def VUnit.slot : VUnit → Slot
  | .va => .va | .vb => .vb

/-- A scalar number s0 to s31. -/
abbrev SReg := BitVec 5
/-- A tile number of a seven-bit field. -/
abbrev TReg := BitVec 7
/-- A mask number m0 to m7. -/
abbrev MReg := BitVec 3
/-- A function register number f0 to f15. -/
abbrev FReg := BitVec 4
/-- A parameter register number p0 to p7. -/
abbrev PReg := BitVec 3
/-- A barrier number b0 to b7. -/
abbrev BNo := BitVec 3
/-- An index queue number. -/
abbrev QNo := BitVec 1

/-- A tile source field (R34, R36): a register with its H and E bits, or the position's latch. -/
inductive TSrc
  | reg (hold trapEmpty : Bool) (r : TReg)
  | latch
deriving DecidableEq, Repr

/-- The b operand of the V format: a tile source, or a broadcast scalar (R40). -/
inductive BSrc
  | tile (s : TSrc)
  | scalar (r : SReg)
deriving DecidableEq, Repr

/-- The element types of R38, codes 0 to 14. -/
inductive EType
  | fp32 | fp16 | bf16 | e4m3 | e5m2 | int32 | uint32 | int64 | uint64 | int16 | int8 | uint8 | mxe2m1 | k4 | mxe4m3
deriving DecidableEq, Repr

/-- The integer conditions of R123, codes 0 to 9. -/
inductive ICond | eq | ne | lt | ge | ltu | geu | gt | le | gtu | leu
deriving DecidableEq, Repr

/-- The floating-point conditions of R126, codes 0 to 7. -/
inductive FCond | eq | ne | lt | ge | le | gt | un | or
deriving DecidableEq, Repr

/-- The vector integer conditions of R154, codes 0 to 5. -/
inductive VICond | eq | ne | lt | ge | le | gt
deriving DecidableEq, Repr

/-- The conversions of FCVT (R127), codes 0 to 11. -/
inductive FCvt
  | fp16Fp32 | fp32Fp16 | bf16Fp32 | fp32Bf16 | int32Fp32 | uint32Fp32 | int64Fp32 | uint64Fp32
  | fp32Int32 | fp32Uint32 | fp32Int64 | fp32Uint64
deriving DecidableEq, Repr

/-- The atomic functions of GAMO (R44, R135), codes 0 to 7. -/
inductive AFunc | add | or | and | xor | min | max | swap | cas
deriving DecidableEq, Repr

/-- The combining steps of a reduction (R162), codes 0 to 5. -/
inductive RedOp | add | max | min | and | or | xor
deriving DecidableEq, Repr

/-- The amount of a rotation or broadcast (R160). -/
inductive RotAmt
  | imm (k : BitVec 8)
  | scalar (r : SReg)
deriving DecidableEq, Repr

/-- The forms of MSET (R169). -/
inductive MSetKind
  | all (v : Bool)
  | pre (t : EType) (sb : SReg)
  | rowpre (t : EType) (sb : SReg)
deriving DecidableEq, Repr

/-- The forms of CHDOM (R189). -/
inductive ChDom
  | set (fd fa : FReg) (sb : SReg)
  | get (sd : SReg) (fa : FReg)
  | pts (td : TReg) (fa : FReg) (n : BitVec 8)
deriving DecidableEq, Repr

/-- The forms of CHMOV (R190). -/
inductive ChMov
  | move (fd fa : FReg)
  | toTile (td : TReg) (fa : FReg)
  | ofTile (fd : FReg) (ta : TSrc)
deriving DecidableEq, Repr

/-- The digest kinds (R336), codes 1 to 4. -/
inductive DKind | bounds | sum | zmap | sketch
deriving DecidableEq, Repr

/-- The predicates of DSCAN (R346), codes 0 to 4. -/
inductive DPred | overlap | ub | znz | sumgt | ham
deriving DecidableEq, Repr

/-- The rounding modes of the mode byte (R31), codes 0 to 5. -/
inductive Rnd | rne | rtz | rup | rdn | rna | sr
deriving DecidableEq, Repr

/-- The mode byte of a bundle (R31). -/
structure Mode where
  sp : Bool
  rnd : Rnd
  sat : Bool
  ftz : Bool
deriving DecidableEq, Repr

/-- The mode byte 0x00. -/
def Mode.zero : Mode := { sp := false, rnd := .rne, sat := false, ftz := false }

/-- The instructions, micro-operations and events of the opcode table. -/
inductive Instr
  -- Every slot (R24, R25)
  /-- NOP: Does nothing (R24). -/
  | nop (slot : Slot)
  /-- ILL: Raises a precise trap 0x01 whatever its other bits hold (R25). -/
  | ill (slot : Slot)
  -- SC slot: integer register forms (R121 to R123)
  /-- ADD: R121. -/
  | add (sd sa sb : SReg)
  /-- SUB: R121. -/
  | sub (sd sa sb : SReg)
  /-- AND: R121. -/
  | and (sd sa sb : SReg)
  /-- OR: R121. -/
  | or (sd sa sb : SReg)
  /-- XOR: R121. -/
  | xor (sd sa sb : SReg)
  /-- SHL: R121. -/
  | shl (sd sa sb : SReg)
  /-- SHR: R121. -/
  | shr (sd sa sb : SReg)
  /-- SAR: R121. -/
  | sar (sd sa sb : SReg)
  /-- MUL: R121. -/
  | mul (sd sa sb : SReg)
  /-- MULH: R121. -/
  | mulh (sd sa sb : SReg)
  /-- MULHU: R121. -/
  | mulhu (sd sa sb : SReg)
  /-- DIV: R121, R122. -/
  | div (sd sa sb : SReg)
  /-- DIVU: R121, R122. -/
  | divu (sd sa sb : SReg)
  /-- REM: R121, R122. -/
  | rem (sd sa sb : SReg)
  /-- REMU: R121, R122. -/
  | remu (sd sa sb : SReg)
  /-- MIN: R121. -/
  | min (sd sa sb : SReg)
  /-- MAX: R121. -/
  | max (sd sa sb : SReg)
  /-- MINU: R121. -/
  | minu (sd sa sb : SReg)
  /-- MAXU: R121. -/
  | maxu (sd sa sb : SReg)
  /-- SEL: R121. -/
  | sel (sd sa sb sc : SReg)
  /-- CMP: R121, R123. -/
  | cmp (cc : ICond) (sd sa sb : SReg)
  /-- CLZ: R121. -/
  | clz (sd sa : SReg)
  /-- POPC: R121. -/
  | popc (sd sa : SReg)
  /-- BREV: R121. -/
  | brev (sd sa : SReg)
  -- SC slot: immediate forms (R124)
  /-- ADDI: R124. -/
  | addi (sd sa : SReg) (imm : BitVec 32)
  /-- ANDI: R124. -/
  | andi (sd sa : SReg) (imm : BitVec 32)
  /-- ORI: R124. -/
  | ori (sd sa : SReg) (imm : BitVec 32)
  /-- XORI: R124. -/
  | xori (sd sa : SReg) (imm : BitVec 32)
  /-- SHLI: R124: a shift amount of 0 to 63. -/
  | shli (sd sa : SReg) (amt : BitVec 6)
  /-- SHRI: R124: a shift amount of 0 to 63. -/
  | shri (sd sa : SReg) (amt : BitVec 6)
  /-- SARI: R124: a shift amount of 0 to 63. -/
  | sari (sd sa : SReg) (amt : BitVec 6)
  /-- LI: R124. -/
  | li (sd : SReg) (imm : BitVec 32)
  /-- LIH: R124. -/
  | lih (sd : SReg) (imm : BitVec 32)
  /-- CMPI: R124, R123. -/
  | cmpi (cc : ICond) (sd sa : SReg) (imm : BitVec 28)
  -- SC slot: scalar floating point (R125 to R127)
  /-- FADD: R125. -/
  | fadd (sd sa sb : SReg)
  /-- FSUB: R125. -/
  | fsub (sd sa sb : SReg)
  /-- FMUL: R125. -/
  | fmul (sd sa sb : SReg)
  /-- FFMA: R125. -/
  | ffma (sd sa sb sc : SReg)
  /-- FMIN: R125. -/
  | fmin (sd sa sb : SReg)
  /-- FMAX: R125. -/
  | fmax (sd sa sb : SReg)
  /-- FCMP: R126. -/
  | fcmp (cc : FCond) (sd sa sb : SReg)
  /-- FCVT: R127. -/
  | fcvt (k : FCvt) (sd sa : SReg)
  -- SC slot: control flow (R128 to R130)
  /-- J: R128. -/
  | j (disp : BitVec 32)
  /-- JR: R128. -/
  | jr (sa : SReg)
  /-- CALL: R128. -/
  | call (f1 : SReg) (disp : BitVec 32)
  /-- CALLR: R128. -/
  | callr (sd sa : SReg)
  /-- RET: R128. -/
  | ret (sa : SReg)
  /-- BZ: R128. -/
  | bz (f1 : SReg) (disp : BitVec 32)
  /-- BNZ: R128. -/
  | bnz (f1 : SReg) (disp : BitVec 32)
  /-- BCMP: R128. -/
  | bcmp (cc : ICond) (f1 f2 : SReg) (disp : BitVec 32)
  /-- LOOP: R129; `last` is the end field. -/
  | loop (sa : SReg) (last : BitVec 21)
  /-- LOOPI: R129. -/
  | loopi (count : BitVec 16) (last : BitVec 21)
  -- SC slot: global scalar memory (R131 to R138)
  /-- GLD: R132. -/
  | gld (size : BitVec 2) (sd base : SReg) (disp : BitVec 32)
  /-- GLD_Q: R133. -/
  | gldQ (size : BitVec 2) (sd base : SReg) (disp : BitVec 32)
  /-- GST: R134; `sd` is stored. -/
  | gst (size : BitVec 2) (sd base : SReg) (disp : BitVec 32)
  /-- GAMO: R135. -/
  | gamo (f : AFunc) (size : BitVec 2) (sd base : SReg) (disp : BitVec 32) (sv : SReg)
  -- SC slot: CSRs, traps, time stamp, index queue reads (R139 to R143)
  /-- CSRR: R139. -/
  | csrr (sd : SReg) (n : BitVec 12)
  /-- CSRW: R139. -/
  | csrw (n : BitVec 12) (sa : SReg)
  /-- SVC: R140. -/
  | svc (n : BitVec 32)
  /-- BRK: R140. -/
  | brk (n : BitVec 32)
  /-- TRET: R97. -/
  | tret
  /-- TSC: R142. -/
  | tsc (sd : SReg)
  /-- IXPOP: R143. -/
  | ixpop (q : QNo) (sd : SReg)
  /-- IXPEEK: R143. -/
  | ixpeek (q : QNo) (sd sa : SReg)
  -- VA and VB slots: floating point (R148 to R151)
  /-- VADD: R148. -/
  | vadd (u : VUnit) (td : TReg) (m : MReg) (a : TSrc) (b : BSrc) (t : EType)
  /-- VSUB: R148. -/
  | vsub (u : VUnit) (td : TReg) (m : MReg) (a : TSrc) (b : BSrc) (t : EType)
  /-- VMUL: R148. -/
  | vmul (u : VUnit) (td : TReg) (m : MReg) (a : TSrc) (b : BSrc) (t : EType)
  /-- VFMA: R148. -/
  | vfma (u : VUnit) (td : TReg) (m : MReg) (a : TSrc) (b : BSrc) (c : TSrc) (t : EType)
  /-- VFMS: R148. -/
  | vfms (u : VUnit) (td : TReg) (m : MReg) (a : TSrc) (b : BSrc) (c : TSrc) (t : EType)
  /-- VFNMA: R148. -/
  | vfnma (u : VUnit) (td : TReg) (m : MReg) (a : TSrc) (b : BSrc) (c : TSrc) (t : EType)
  /-- VMIN: R149. -/
  | vmin (u : VUnit) (td : TReg) (m : MReg) (a : TSrc) (b : BSrc) (t : EType)
  /-- VMAX: R149. -/
  | vmax (u : VUnit) (td : TReg) (m : MReg) (a : TSrc) (b : BSrc) (t : EType)
  /-- VABS: R149. -/
  | vabs (u : VUnit) (td : TReg) (m : MReg) (a : TSrc) (t : EType)
  /-- VNEG: R149. -/
  | vneg (u : VUnit) (td : TReg) (m : MReg) (a : TSrc) (t : EType)
  /-- VCMP: R150. -/
  | vcmp (u : VUnit) (cc : FCond) (md m : MReg) (a : TSrc) (b : BSrc) (t : EType)
  /-- VSEL: R152; `m` selects. -/
  | vsel (u : VUnit) (td : TReg) (m : MReg) (a : TSrc) (b : BSrc) (t : EType)
  /-- VCLAMP: R151. -/
  | vclamp (u : VUnit) (td : TReg) (m : MReg) (a : TSrc) (b : BSrc) (c : TSrc) (t : EType)
  -- VA and VB slots: integer (R153, R154)
  /-- VIADD: R153. -/
  | viadd (u : VUnit) (td : TReg) (m : MReg) (a : TSrc) (b : BSrc) (t : EType)
  /-- VISUB: R153. -/
  | visub (u : VUnit) (td : TReg) (m : MReg) (a : TSrc) (b : BSrc) (t : EType)
  /-- VIMUL: R153. -/
  | vimul (u : VUnit) (td : TReg) (m : MReg) (a : TSrc) (b : BSrc) (t : EType)
  /-- VIMULH: R153. -/
  | vimulh (u : VUnit) (td : TReg) (m : MReg) (a : TSrc) (b : BSrc) (t : EType)
  /-- VSHL: R153. -/
  | vshl (u : VUnit) (td : TReg) (m : MReg) (a : TSrc) (b : BSrc) (t : EType)
  /-- VSHR: R153. -/
  | vshr (u : VUnit) (td : TReg) (m : MReg) (a : TSrc) (b : BSrc) (t : EType)
  /-- VSAR: R153. -/
  | vsar (u : VUnit) (td : TReg) (m : MReg) (a : TSrc) (b : BSrc) (t : EType)
  /-- VAND: R153. -/
  | vand (u : VUnit) (td : TReg) (m : MReg) (a : TSrc) (b : BSrc) (t : EType)
  /-- VOR: R153. -/
  | vor (u : VUnit) (td : TReg) (m : MReg) (a : TSrc) (b : BSrc) (t : EType)
  /-- VXOR: R153. -/
  | vxor (u : VUnit) (td : TReg) (m : MReg) (a : TSrc) (b : BSrc) (t : EType)
  /-- VNOT: R153. -/
  | vnot (u : VUnit) (td : TReg) (m : MReg) (a : TSrc) (t : EType)
  /-- VICMP: R154. -/
  | vicmp (u : VUnit) (cc : VICond) (md m : MReg) (a : TSrc) (b : BSrc) (t : EType)
  /-- VIMIN: R153. -/
  | vimin (u : VUnit) (td : TReg) (m : MReg) (a : TSrc) (b : BSrc) (t : EType)
  /-- VIMAX: R153. -/
  | vimax (u : VUnit) (td : TReg) (m : MReg) (a : TSrc) (b : BSrc) (t : EType)
  /-- VPOPC: R153. -/
  | vpopc (u : VUnit) (td : TReg) (m : MReg) (a : TSrc) (t : EType)
  /-- VCLZ: R153. -/
  | vclz (u : VUnit) (td : TReg) (m : MReg) (a : TSrc) (t : EType)
  -- VA and VB slots: conversion, moves (R155 to R159)
  /-- VCVT: R155. -/
  | vcvt (u : VUnit) (td : TReg) (m : MReg) (a : TSrc) (t src : EType) (part : BitVec 3)
  /-- VPACK: R156. -/
  | vpack (u : VUnit) (scale : Bool) (td : TReg) (a : TSrc) (t : EType) (ktype : BitVec 2) (q : BitVec 3)
  /-- VUNPACK: R157. -/
  | vunpack (u : VUnit) (td : TReg) (m : MReg) (a b : TSrc) (t : EType) (xv : BitVec 2) (q : BitVec 3)
  /-- VMOV: R158. -/
  | vmov (u : VUnit) (td : TReg) (m : MReg) (a : TSrc) (t : EType)
  /-- VMOVS: R158. -/
  | vmovs (u : VUnit) (td : TReg) (m : MReg) (sb : SReg) (t : EType)
  /-- VMOVI: R158. -/
  | vmovi (u : VUnit) (td : TReg) (m : MReg) (imm : BitVec 32) (t : EType)
  /-- VEXT: R159. -/
  | vext (u : VUnit) (sd : SReg) (a : TSrc) (sb : SReg) (t : EType)
  /-- VINS: R159. -/
  | vins (u : VUnit) (td : TReg) (a : TSrc) (sb sc : SReg) (t : EType)
  /-- VIOTA: R159. -/
  | viota (u : VUnit) (td : TReg) (m : MReg) (sb : Option SReg) (t : EType)
  -- VA and VB slots: rotations, reductions, special functions (R160 to R163)
  /-- VROTR: R160. -/
  | vrotr (u : VUnit) (td : TReg) (m : MReg) (a : TSrc) (k : RotAmt) (t : EType)
  /-- VROTC: R160. -/
  | vrotc (u : VUnit) (td : TReg) (m : MReg) (a : TSrc) (k : RotAmt) (t : EType)
  /-- VBCR: R160. -/
  | vbcr (u : VUnit) (td : TReg) (m : MReg) (a : TSrc) (k : RotAmt) (t : EType)
  /-- VBCC: R160. -/
  | vbcc (u : VUnit) (td : TReg) (m : MReg) (a : TSrc) (k : RotAmt) (t : EType)
  /-- VREDR: R162. -/
  | vredr (u : VUnit) (op : RedOp) (td : TReg) (m : MReg) (a : TSrc) (t : EType)
  /-- VREDC: R162. -/
  | vredc (u : VUnit) (op : RedOp) (td : TReg) (m : MReg) (a : TSrc) (t : EType)
  /-- VPERM: R161. -/
  | vperm (u : VUnit) (td : TReg) (m : MReg) (a b : TSrc) (t : EType)
  /-- VRCP: R163. -/
  | vrcp (u : VUnit) (td : TReg) (m : MReg) (a : TSrc) (t : EType)
  /-- VRSQ: R163. -/
  | vrsq (u : VUnit) (td : TReg) (m : MReg) (a : TSrc) (t : EType)
  /-- VEXP2: R163. -/
  | vexp2 (u : VUnit) (td : TReg) (m : MReg) (a : TSrc) (t : EType)
  /-- VLOG2: R163. -/
  | vlog2 (u : VUnit) (td : TReg) (m : MReg) (a : TSrc) (t : EType)
  -- VA and VB slots: sorted streams, VBOUND (R164 to R168)
  /-- VMERGE: R165. -/
  | vmerge (u : VUnit) (desc idx hi : Bool) (td : TReg) (m : MReg) (a b : TSrc) (t : EType)
  /-- VSORT: R166. -/
  | vsort (u : VUnit) (desc idx : Bool) (td : TReg) (m : MReg) (a : TSrc) (t : EType)
  /-- VTOPK: R167; `least` is `.min`. -/
  | vtopk (u : VUnit) (least idx : Bool) (td : TReg) (m : MReg) (a : TSrc) (k : BitVec 8) (t : EType)
  /-- VBOUND: R168. -/
  | vbound (u : VUnit) (td : TReg) (m : MReg) (a b c : TSrc) (g : BitVec 8)
  -- VA and VB slots: masks (R169)
  /-- MAND: R169. -/
  | mand (u : VUnit) (md ma mb : MReg)
  /-- MOR: R169. -/
  | mor (u : VUnit) (md ma mb : MReg)
  /-- MXOR: R169. -/
  | mxor (u : VUnit) (md ma mb : MReg)
  /-- MNOT: R169. -/
  | mnot (u : VUnit) (md ma : MReg)
  /-- MPOPC: R169. -/
  | mpopc (u : VUnit) (sd : SReg) (ma : MReg) (t : EType)
  /-- MFIRST: R169. -/
  | mfirst (u : VUnit) (sd : SReg) (ma : MReg) (t : EType)
  /-- MSET: R169. -/
  | mset (u : VUnit) (md : MReg) (k : MSetKind)
  -- VB slot: function registers (R177 to R191)
  /-- CHEVAL: R179. -/
  | cheval (clamp : Bool) (td : TReg) (m : MReg) (fa : FReg) (b : BSrc)
  /-- CHFIT: R180. -/
  | chfit (fd : FReg) (ta : TSrc) (sc : SReg) (n : BitVec 8)
  /-- CHADD: R182. -/
  | chadd (fd fa fb : FReg)
  /-- CHSUB: R182. -/
  | chsub (fd fa fb : FReg)
  /-- CHMUL: R183. -/
  | chmul (fd fa fb : FReg)
  /-- CHSCL: R184. -/
  | chscl (addv : Bool) (fd fa : FReg) (sb : SReg)
  /-- CHCMP: R181. -/
  | chcmp (fd fa fb : FReg) (n : BitVec 8)
  /-- CHINT: R186. -/
  | chint (fd fa : FReg)
  /-- CHDIF: R185. -/
  | chdif (fd fa : FReg)
  /-- CHROOT: R187. -/
  | chroot (td : TReg) (sb : SReg) (fa : FReg) (row : BitVec 4)
  /-- CHTRN: R188. -/
  | chtrn (fd fa : FReg) (tol : Option SReg) (n : BitVec 8)
  /-- CHDOM: R189. -/
  | chdom (k : ChDom)
  /-- CHMOV: R190. -/
  | chmov (k : ChMov)
  /-- CHFREE: R191. -/
  | chfree (fd : FReg)
  -- MX slot (R213 to R221)
  /-- MCALL: R213. -/
  | mcall (lo acc out : Bool) (tn : TReg) (rtn : BitVec 8)
  /-- MSETP: R219. -/
  | msetp (p : PReg) (sa : SReg)
  /-- MSETPI: R219. -/
  | msetpi (p : PReg) (imm : BitVec 38)
  /-- MSTAT: R218. -/
  | mstat (sd : SReg) (lo : Bool)
  /-- MPLOAD: R221. -/
  | mpload (rtn : BitVec 8) (ta : TReg)
  /-- MCANCEL: R220. -/
  | mcancel (lo : Bool)
  -- Micro-operations of the matrix unit (R223 to R229)
  /-- AGSET: R224. -/
  | agset (g pb : BitVec 3) (w pe : Bool) (pl : BitVec 2) (px : BitVec 3) (off : BitVec 24) (pitch s0 s1 s2 : BitVec 20)
  /-- AGMC: R226. -/
  | agmc (g : BitVec 3) (mode : BitVec 2) (members : BitVec 8) (src : BitVec 3)
  /-- MZERO: R229. -/
  | mzero
  /-- MMA: R228. -/
  | mma (fa fb : BitVec 4) (xv : BitVec 2)
  /-- MLOOP: R227; `last` is the end field. -/
  | mloop (l src : BitVec 2) (p : BitVec 3) (last : BitVec 12) (count : BitVec 16)
  /-- MEND: R227. -/
  | mend (l : BitVec 2)
  /-- MOUT: R229. -/
  | mout
  /-- MCOUNT: R227. -/
  | mcount (l : BitVec 2) (p : BitVec 3) (rd : Bool) (cap : BitVec 16) (off : BitVec 24)
  /-- MYIELD: R214. -/
  | myield
  /-- MSTOP: R215. -/
  | mstop
  -- LD slot (R203 to R209, R193)
  /-- LDT: R204. -/
  | ldt (clr wt : Bool) (td : TReg) (base stride : SReg) (rows : BitVec 4) (disp : BitVec 32)
  /-- LDRW: R204. -/
  | ldrw (clr wt : Bool) (td : TReg) (base srow : SReg) (rows : BitVec 4) (disp : BitVec 32)
  /-- LDG: R205; the displacement is in 16-byte units. -/
  | ldg (clr wt : Bool) (td : TReg) (base sp : SReg) (rows : BitVec 4) (disp : BitVec 28) (q : QNo)
  /-- LDX: R206; `d` is the width bit. -/
  | ldx (clr wt d : Bool) (td : TReg) (base : SReg) (tx : TReg)
  /-- LDS: R207. -/
  | lds (clr wt : Bool) (size : BitVec 2) (sd base : SReg) (disp : BitVec 32)
  /-- LDF: R193. -/
  | ldf (clr wt : Bool) (fd : FReg) (base : SReg) (disp : BitVec 32)
  /-- LDM: R208. -/
  | ldm (clr wt : Bool) (md : MReg) (base : SReg) (disp : BitVec 32)
  -- ST slot (R203 to R208, R193)
  /-- STT: R204. -/
  | stt (fill : Bool) (ta : TReg) (base stride : SReg) (rows : BitVec 4) (disp : BitVec 32)
  /-- STRW: R204. -/
  | strw (fill : Bool) (ta : TReg) (base srow : SReg) (rows : BitVec 4) (disp : BitVec 32)
  /-- STX: R206. -/
  | stx (fill d : Bool) (ta : TReg) (base : SReg) (tx : TReg)
  /-- STS: R207. -/
  | sts (fill : Bool) (size : BitVec 2) (sa base : SReg) (disp : BitVec 32)
  /-- STF: R193. -/
  | stf (fill : Bool) (fa : FReg) (base : SReg) (disp : BitVec 32)
  /-- STM: R208. -/
  | stm (fill : Bool) (ma : MReg) (base : SReg) (disp : BitVec 32)
  /-- SCOR: R206. -/
  | scor (fill d : Bool) (ta : TReg) (base : SReg) (tx : TReg)
  /-- SCADD: R206. -/
  | scadd (fill d : Bool) (ta : TReg) (base : SReg) (tx : TReg)
  /-- SCMAX: R206. -/
  | scmax (fill uns d : Bool) (ta : TReg) (base : SReg) (tx : TReg)
  /-- SCMIN: R206. -/
  | scmin (fill uns d : Bool) (ta : TReg) (base : SReg) (tx : TReg)
  /-- SETE: R204. -/
  | sete (base stride : SReg) (rows : BitVec 4) (disp : BitVec 32)
  /-- SETF: R204. -/
  | setf (base stride : SReg) (rows : BitVec 4) (disp : BitVec 32)
  -- CP slot: forager (R237 to R248)
  /-- COPY: R239. -/
  | copy (ch : BitVec 3) (n : BitVec 6) (sa sb : SReg) (snap : Bool) (asof : Option SReg) (gather : Option QNo) (bar : Option BNo)
  /-- CBATCH: R247. -/
  | cbatch (ch : BitVec 3)
  /-- CWAIT: R247. -/
  | cwait (ch : BitVec 3) (m : BitVec 4)
  /-- PUBLISH: R246. -/
  | publish (ch : BitVec 3)
  /-- CTSET: R237. -/
  | ctset (n : BitVec 6) (ta : TReg)
  /-- CTSET_CODE: R237. -/
  | ctsetCode (k : BitVec 2) (ta : TReg)
  /-- CSTAT: R248. -/
  | cstat (sd : SReg) (ch : BitVec 3) (sel : BitVec 2) (clr : Bool)
  -- CP slot: index engine, scout, guard (R257 to R265)
  /-- IXSCAN: R259. -/
  | ixscan (q : QNo) (row : Bool) (t : EType) (ta : TReg) (sa sb : SReg) (keep : Bool) (rate : BitVec 4)
  /-- IXBMAP: R260. -/
  | ixbmap (q : QNo) (sa sc sb : SReg) (keep : Bool) (rate : BitVec 4)
  /-- IXRLE: R260. -/
  | ixrle (q : QNo) (sa sc sb : SReg) (keep : Bool) (rate : BitVec 4)
  /-- IXCLR: R261. -/
  | ixclr (q : QNo)
  /-- SPRED: R263; `n1` is n - 1. -/
  | spred (q : QNo) (md : MReg) (ta : TReg) (sa sb : SReg) (n1 : BitVec 10) (keep : Bool) (rate : BitVec 4)
  /-- GUARD: R265; `n1` is n - 1. -/
  | guard (q : QNo) (ma : MReg) (tu : TReg) (sa sb sc : SReg) (n1 : BitVec 10) (keep : Bool) (rate : BitVec 4)
  -- CP slot: digests (R346 to R351)
  /-- DQRY: R348, Q = 0. -/
  | dqry (kind : DKind) (td : TReg) (sa sb : SReg)
  /-- DQRY_Q: R348, Q = 1. -/
  | dqryQ (kind : DKind) (td : TReg) (sa sb : SReg)
  /-- DSCAN: R349, R350. -/
  | dscan (q : Option QNo) (pred : DPred) (sa sb sc : SReg) (ta : TReg) (score : Option TReg) (sd : SReg) (keep : Bool) (rate : BitVec 4)
  /-- DREFR: R351. -/
  | drefr (sa sb : SReg)
  -- CP slot: remote call, promotion (R359 to R371, R333)
  /-- RCALL_R: R359, Q = 0. -/
  | rcallR (re nt : Bool) (tn : TReg) (sa sb sc sd : SReg)
  /-- RCALL_Q: R359, Q = 1. -/
  | rcallQ (re nt : Bool) (tn : TReg) (sa sb sc sd : SReg)
  /-- RSTAT: R370. -/
  | rstat (ack : Bool) (sd sa : SReg)
  /-- PROMOTE: R333. -/
  | promote (sa sb sc : SReg)
  -- CP slot of a drone (R365, R372 to R377)
  /-- LNSEQ: R372. -/
  | lnseq (sa : SReg)
  /-- LNWAIT: R374. -/
  | lnwait (sd : SReg)
  /-- DFENCE: R376. -/
  | dfence
  /-- BMAC: R377. -/
  | bmac (sd sa sb sc : SReg) (n : BitVec 16)
  /-- RRET: R365. -/
  | rret (ta : TReg) (sa : SReg)
  -- SY slot (R251, R275, R297, R323)
  /-- BSET: R251. -/
  | bset (clr : Bool) (k : BNo) (sa : SReg)
  /-- BINC: R251. -/
  | binc (k : BNo) (sa sb : SReg) (n : BitVec 16)
  /-- WAITB: R251. -/
  | waitb (k : BNo)
  /-- WAITANY: R251, R252. -/
  | waitany (sd : SReg) (mask : BitVec 8)
  /-- QEND: R323. -/
  | qend
  /-- FORK: R298. -/
  | fork (sa sb : SReg) (disp : BitVec 30)
  /-- JOIN: R301. -/
  | join
  /-- EXIT: R302. -/
  | exit
  /-- YIELD: R305. -/
  | yield
  /-- GJOIN: R303. -/
  | gjoin (g : BitVec 6)
  /-- GLEAVE: R303. -/
  | gleave (g : BitVec 6)
  /-- GBAR: R303. -/
  | gbar (g : BitVec 6)
  /-- CBAR: R275, R276. -/
  | cbar
  /-- DRAIN: R251, R275. -/
  | drain
  /-- PRIO: R305; `n` is used when `sa` is s0. -/
  | prio (sa : SReg) (n : BitVec 6)
  /-- SPAWNG: R298, R303. -/
  | spawng (g : BitVec 6) (sa sb : SReg) (disp : BitVec 30)
  /-- FENCEL: R275. -/
  | fencel
  /-- HALT: R305. -/
  | halt (sa : SReg)
  -- Commands of the host (R392)
  /-- LAUNCH: R392, R286. -/
  | launch (packet : Word)
  /-- MAP: R392, R402. -/
  | map (va w0 w1 attr : Word)
  /-- UNMAP: R392. -/
  | unmap (va : Word)
  /-- HOSTCOPY: R392, R402. -/
  | hostcopy (ha va len dir : Word)
  /-- ASFORT_MPLOAD: R392. -/
  | asfortMpload (rtn ha : Word)
  /-- REGION: R336, R337. -/
  | region (ha : Word)
  /-- REGION_DELETE: R337. -/
  | regionDelete (ha : Word)
  /-- TIERSET: R392, R334. -/
  | tierset (va frame : Word)
  /-- CHECKPOINT: R395. -/
  | checkpoint (ha len : Word)
  /-- RESTORE: R395. -/
  | restore (ha len : Word)
  /-- MONITOR_ARM: R397. -/
  | monitorArm (src quantity w origin : Word)
  /-- MONITOR_READ: R397. -/
  | monitorRead (src ha : Word)
  /-- MONITOR_CLEAR: R397. -/
  | monitorClear (src : Word)
  /-- SELFTEST: R399. -/
  | selftest (src : Word)
  /-- ATTEST: R394. -/
  | attest (nonce report : Word)
  /-- RESET: R393. -/
  | reset (modno route matrixLib droneLib : Word)
  -- Events of the engines of a core and a drone
  /-- GLOBAL_LOAD_COMPLETE: The `k`-th outstanding GLD, GLD.Q of context `h` completes (R132, R133). -/
  | globalLoadComplete (h k : Nat)
  /-- FUNCTION_OP_COMPLETE: The oldest function-unit operation of context `h` completes (R173, R177). -/
  | functionOpComplete (h : Nat)
  /-- MATRIX_CALL_START: The free matrix unit starts a call (R214). -/
  | matrixCallStart (core : Nat)
  /-- MATRIX_CALL_RESUME: The free matrix unit resumes the suspended low call (R214). -/
  | matrixCallResume (core : Nat)
  /-- MPLOAD_APPLY: An MPLOAD at the head of both queues is applied (R221). -/
  | mploadApply (core : Nat)
  /-- MULTICAST_TIMEOUT: A stalled sender or waiting receiver has waited 2^24 reference cycles (R279). -/
  | multicastTimeout (core : Nat)
  /-- LOAD_COMPLETE: The `k`-th outstanding LD-slot load of context `h` completes (R209). -/
  | loadComplete (h k : Nat)
  /-- REMOTE_ACCESS_PERFORM: The `k`-th outstanding access of context `h` to another member performs there (R274). -/
  | remoteAccessPerform (h k : Nat)
  /-- COPY_COMPLETE: Copy `k` of channel `ch` of context `h` completes (R234). -/
  | copyComplete (h ch k : Nat)
  /-- COPY_FAULT: Copy `k` of channel `ch` of context `h` faults (R249). -/
  | copyFault (h ch k : Nat)
  /-- INDEX_PRODUCER_PUSH: The running producer of queue `q` of context `h` pushes its next entry or finishes (R255). -/
  | indexProducerPush (h q : Nat)
  /-- DQRY_COMPLETE: The oldest digest query of context `h` completes (R348, R354). -/
  | dqryComplete (h : Nat)
  /-- REMOTE_CALL_START: Drone or guest context `h` starts the call at the head of its queue (R361). -/
  | remoteCallStart (h : Nat)
  /-- REPLY_ARRIVAL: The reply of the `k`-th outstanding call of context `h` arrives (R366). -/
  | replyArrival (h k : Nat)
  /-- REPLY_TIMEOUT: The `k`-th outstanding call of context `h` becomes LOST (R368). -/
  | replyTimeout (h k : Nat)
  /-- CALL_RUN_LIMIT: The call running on `h` has run 2^32 reference cycles (R361). -/
  | callRunLimit (h : Nat)
  /-- SEQUENCER_COMPLETE: The sequencer of drone `d` completes (R373). -/
  | sequencerComplete (d : Nat)
  /-- SEQUENCER_STOP: The sequencer of drone `d` stops on a recorded cause (R374). -/
  | sequencerStop (d : Nat)
  /-- SEQUENCER_SUSPEND: The sequencer of drone `d` suspends for ordinary accesses (R375). -/
  | sequencerSuspend (d : Nat)
  /-- SEQUENCER_RESUME: The sequencer of drone `d` resumes (R375). -/
  | sequencerResume (d : Nat)
  /-- ORDINARY_ACCESS_ARRIVAL: An access that is not the drone's own arrives at its channel (R375). -/
  | ordinaryAccessArrival (d : Nat)
  /-- BMAC_COMPLETE: The BMAC of drone `d` finishes (R377). -/
  | bmacComplete (d : Nat)
  /-- POSTED_WRITE_DRAIN: The oldest posted write of drone `d` performs in the array (R376). -/
  | postedWriteDrain (d : Nat)
  -- Events of a core and its scheduler
  /-- STRAND_END: An exited strand has settled and frees its context (R302). -/
  | strandEnd (h : Nat)
  /-- TRAP_ENTRY: The oldest waiting trap of the core enters the supervisor context (R96). -/
  | trapEntry (core : Nat)
  /-- SAFE_POINT_OVERRUN: SPMAX is reached before the next effective safe point (R307). -/
  | safePointOverrun (h : Nat)
  /-- QUANTUM_COMMIT: The commit step of launch `l`'s next quantum (R324). -/
  | quantumCommit (l : Nat)
  /-- QW_QUANTUM_END: The QW-th write unit ends the strand's quantum (R322). -/
  | qwQuantumEnd (h : Nat)
  /-- QB_QUANTUM_END: The QB-th bundle ends the strand's quantum (R322). -/
  | qbQuantumEnd (h : Nat)
  /-- PROMOTION_COPY_DONE: The copy of outstanding promotion `k` has ended (R334). -/
  | promotionCopyDone (k : Nat)
  /-- CONTEXT_TAKE_WORK: A free strand context takes work (R292). -/
  | contextTakeWork (h : Nat)
  /-- STAGING_COMPLETE: The operand copies of node `n` of launch `l` are complete (R293). -/
  | stagingComplete (l n : Nat)
  /-- AGING_TICK: Pool entries that have stood 2^AGE cycles at their level rise (R291). -/
  | agingTick (die : Nat)
  /-- CLUSTER_RESERVE: A co-scheduled node first in its level reserves a cluster (R294). -/
  | clusterReserve (die : Nat)
  /-- PREEMPT_REQUEST: Pool entry `k` requests a strand to stop (R308). -/
  | preemptRequest (die k : Nat)
  /-- STRAND_SAVE: A stopping strand at its safe point is saved (R309). -/
  | strandSave (h : Nat)
  /-- STRAND_RESUME: A free context resumes a saved strand (R310). -/
  | strandResume (h : Nat)
  -- Events of the errors and self-tests (R210, R335, R353, R398)
  /-- TARGETED_SELF_TEST: The comb stripe or register bank of source number `src` is tested (R210). -/
  | targetedSelfTest (src : Nat)
  /-- ROW_SELF_TEST: The DRAM row holding physical address `pa` is tested (R335). -/
  | rowSelfTest (pa : Nat)
  /-- DIGEST_AREA_SELF_TEST: The digest area of a keeper is tested (R353). -/
  | digestAreaSelfTest (keeper : Nat)
  -- Events of the fabric (R386, R388)
  /-- FLIT_RECEIVE: A flit arrives on a link (R386). -/
  | flitReceive (link : Nat) (seqNo : BitVec 12) (good : Bool) (payload : BitVec 2048)
  /-- REPLAY_REQUEST: A replay request arrives on a link (R386). -/
  | replayRequest (link : Nat) (seqNo : BitVec 12)
  /-- LANE_RETIRE: A lane's error rate stays above the retraining limit (R386). -/
  | laneRetire (link lane : Nat)
  /-- MESSAGE_RECEIVE: A publish message arrives from another module (R388). -/
  | messageReceive (src seqNo lseq q key : Nat) (granules : List (Nat × BitVec 128)) (adds : List (Nat × Nat × Word)) (notify : List (Nat × Nat × Nat))
  /-- MESSAGE_ACK: Another module acknowledges a message (R388). -/
  | messageAck (dst seqNo : Nat)
  /-- MESSAGE_RESEND: An unacknowledged message is sent again (R388). -/
  | messageResend (k : Nat)
  -- Host registers, power, heat (R390, R393, R400)
  /-- DOORBELL: The host writes DOORBELL (R390). -/
  | doorbell (v : BitVec 16)
  /-- REGISTER_WRITE: The host writes a BAR 0 register (R390). -/
  | registerWrite (off : Nat) (v : Word)
  /-- POWER_ON: R393. -/
  | powerOn
  /-- THERMAL_LIMIT: A die's temperature reaches or leaves its limit (R400). -/
  | thermalLimit (die : Nat) (hot : Bool)
  /-- THERMAL_TRIP: The trip temperature is reached (R400). -/
  | thermalTrip
  -- Further engine events
  /-- FORAGER_GRANULE_WRITE: Copy `k` of channel `ch` of context `h` writes its next granule (R239, R241). -/
  | foragerGranuleWrite (h ch k : Nat)
  /-- DSCAN_COMPLETE: A digest scan completes (R350). -/
  | dscanComplete (h q : Nat)
  /-- REPLY_ACKNOWLEDGEMENT: The caller's die acknowledges a reply and its cache entry is freed (R369). -/
  | replyAcknowledgement (h k : Nat)
deriving DecidableEq, Repr

end Sys2Proof
end

