-- ==== Sys2Proof/Config.lean ====
section
/-!
DEFINITION. What the spec fixes for the module, what one module fixes at manufacture, and the free values: constants with no
body, of which nothing can be proved (notes/assumptions says which is which).
-/
namespace Sys2Proof

/-- An error or a fault that the environment brings about (R210, R222, R335, R353, R398). -/
inductive Strike
  /-- An uncorrectable error in a comb granule. -/
  | comb (core granule : Nat)
  /-- An uncorrectable error in a tile of a context's register bank. -/
  | tile (h r : Nat)
  /-- An uncorrectable error in a 64-byte line of DRAM (its physical address div 64). -/
  | line (n : Nat)
  /-- An uncorrectable error in a micro-word. -/
  | microWord (core addr : Nat)
  /-- An uncorrectable error in a digest record. -/
  | record (key : Nat)
  /-- A corrected error, logged under its source number. -/
  | corrected (src : Nat)
  /-- A corrected error in a 64-byte line of DRAM. -/
  | correctedLine (n : Nat)
  /-- A unit, by source number, acquires a lasting fault that its self-test will find; rows of DRAM have their own. -/
  | lasting (src : Nat)
  /-- A row of DRAM, its physical address div 1,024, acquires a lasting fault (R335). -/
  | lastingRow (row : Nat)
deriving DecidableEq, Repr

/-- Who moves next. -/
inductive Turn
  /-- A core issues one bundle of the context its rule of choice takes (R195). -/
  | core (c : Nat)
  /-- A drone issues one bundle (R356). -/
  | drone (d : Nat)
  /-- A matrix unit executes one micro-word (R222). -/
  | micro (c : Nat)
  /-- A drone's sequencer performs one column command (R373). -/
  | seqStep (d : Nat)
  /-- The firmware executes the next entry of the command ring (R391). -/
  | firmware
  /-- Time passes: the global time-stamp counter advances by this many ns (R7). -/
  | elapse (ns : Nat)
  /-- One event of the opcode table takes place. -/
  | event (i : Instr)
  /-- The environment strikes a memory or a unit. -/
  | strike (e : Strike)
  /-- The reply of the `k`-th outstanding call of context `h` is lost on its way (R368). -/
  | loseReply (h k : Nat)
  /-- The host writes bytes of its own memory. -/
  | hostWrite (addr : Nat) (bytes : List Byte)
  /-- The capture block of a unit samples a value (R397). -/
  | sample (src : Nat) (v : Int)
deriving DecidableEq, Repr, Inhabited

namespace Config

/-! The module (R1, R76, R355). Context `x` of core `c` (0 to 191, die `c / 48`) is number `6 c + x`; drone `d` (0 to 543) is
number `1152 + d`; together they are the contexts (harts) of the machine. -/

def cores : Nat := 192
def drones : Nat := 544
def droneBase : Nat := 1152

/-! Free values: no body, so nothing can be proved of what they are. -/

/-- Who moves when `State.turn` names nobody: any turn at all (R15, R274 leave the order of agents open). -/
opaque choice : Nat → Turn

/-- The address of the ROM trap dispatcher, which the firmware writes to TVEC of every core (R98 gives no number). -/
opaque romDispatcher : Word

/-- The words of a microprogram store that neither the library's routines (R232) nor an MPLOAD has set (R222 gives none). -/
opaque storeWord : Nat → MicroWord

/-- SHAKE256 of the ROM, to 256 bits (R393): the ROM's bytes are not given. -/
opaque romDigest : BitVec 256

/-- SHAKE256 to 256 bits of a byte string (R393), named by the spec and not defined by it. -/
opaque shake256 : List Byte → BitVec 256

/-- Does a library package carry a valid SLH-DSA-SHAKE-256s signature (R393)? -/
opaque signatureGood : List Byte → Bool

/-- The device key's signature over the fields of a report (R394), 29,792 bytes. -/
opaque signReport : List Byte → BitVec 238336

/-- The device's public key and serial number (R394). -/
opaque publicKey : BitVec 512
opaque serialNumber : Word

/-- The length in bytes of the library package at a host address (R393 gives no layout). -/
opaque packageLength : Word → Nat

/-- The 16-bit number of an event code (R396 gives names only). -/
opaque eventCode : Nat → BitVec 16

/-- The addresses of the matrix and drone library packages at power-on, where no command names them (R393). -/
opaque bootPackages : Word × Word

/-- Bytes 16 to 31 of an event record (R396 gives the contents and no layout), from its code and its values. -/
opaque eventDetail : Nat → List Word → BitVec 128

/-- The kind word of a checkpoint record but for its two low bits, which tell the content classes apart (R395 gives no code). -/
opaque checkpointKind : BitVec 62

/-- The part of a save slot whose byte layout R309 leaves open (0x80880 on, channel records, queues, producer state). -/
opaque saveBytes : Nat → List Word → List Byte

/-- The length in bytes of the route table at a host address (R385 gives no layout). -/
opaque routeLength : Word → Nat

/-- The links that the bytes of a route table give for a module, the one to be preferred first (R385 gives no layout). -/
opaque routeLinks : (table : List Byte) → (peer : Nat) → List Nat

/-- The pseudo-channel of its keeper's stack in which a record of the digest area stands (R317, R338 give the stack only). -/
opaque recordChannel : (key : Nat) → Nat

/-- A byte of a line marked bad as a read of the firmware finds it (R335 gives no value), by the step and its physical address. -/
opaque badByte : (tick : Nat) → (pa : Nat) → Byte

/-- The flits of a message (R388 gives no layout), by destination and sequence number. -/
opaque messageFlits : Nat → Nat → List (BitVec 2048)

end Config
end Sys2Proof
end

