-- ==== Sys2Proof/Decode.lean ====
section
/-!
DEFINITION. The decoder, total on any bits, and after it the encoder, both written from the encoding tables of the spec
(chapters 01, 05 to 11, 13, 15, 17 to 19). A slot's 64 bits decode to an instruction, to an illegal encoding (trap 0x01), or to
a number out of range that the field itself shows (trap 0x03); ranges that depend on the context are checked at issue (R27).
-/
namespace Sys2Proof

/-! ### Values the encodings admit -/

/-- The code of an element type (R38). -/
def EType.code : EType → Nat
  | .fp32 => 0 | .fp16 => 1 | .bf16 => 2 | .e4m3 => 3 | .e5m2 => 4 | .int32 => 5 | .uint32 => 6 | .int64 => 7
  | .uint64 => 8 | .int16 => 9 | .int8 => 10 | .uint8 => 11 | .mxe2m1 => 12 | .k4 => 13 | .mxe4m3 => 14

/-- The width of an element in bits (R38). -/
def EType.bits : EType → Nat
  | .fp32 | .int32 | .uint32 => 32
  | .int64 | .uint64 => 64
  | .fp16 | .bf16 | .int16 => 16
  | .e4m3 | .e5m2 | .int8 | .uint8 | .mxe4m3 => 8
  | .mxe2m1 | .k4 => 4

/-- Elements per row (R144). -/
def EType.perRow (t : EType) : Nat := 2048 / t.bits

/-- The sets of accepted types of R144. -/
def EType.isF (t : EType) : Bool := t.code ≤ 2
def EType.isI (t : EType) : Bool := 5 ≤ t.code && t.code ≤ 11
def EType.isB (t : EType) : Bool := t.code ≤ 11
def EType.isK (t : EType) : Bool := t.code == 0 || (5 ≤ t.code && t.code ≤ 8)
def EType.isX (t : EType) : Bool := 12 ≤ t.code

/-- Signed integer types (R103, R144). -/
def EType.signed : EType → Bool
  | .int32 | .int64 | .int16 | .int8 => true
  | _ => false

/-- A rotation amount below its limit (R160). -/
def RotAmt.ok (lim : Nat) : RotAmt → Bool
  | .imm k => k.toNat < lim
  | .scalar _ => true

/-- VCVT's part lies below the ratio of the element counts (R155). -/
def cvtPartOk (t u : EType) (p : Nat) : Bool :=
  p < (if t.perRow ≥ u.perRow then t.perRow / u.perRow else u.perRow / t.perRow)

/-- The chunk limit of VPACK and VUNPACK (R156, R157). -/
def chunkOk (t : EType) (q : Nat) : Bool := t.bits == 4 || q ≤ 3

/-- VMOVI's immediate fits its type (R158). -/
def moviOk (t : EType) (imm : BitVec 32) : Bool :=
  t.isB &&
    (32 ≤ t.bits || imm == ((imm.setWidth t.bits).setWidth 32) || imm == ((imm.setWidth t.bits).signExtend 32))

/-- A reduction's step is one its type accepts (R162). -/
def RedOp.ok (t : EType) : RedOp → Bool
  | .add | .max | .min => t.isF || t.isI
  | .and | .or | .xor => t.isI

/-- The CSR numbers that exist (R84, R85): own CSRs, the supervisor CSRs, the windows on CSRs and scalars of a context. -/
def csrAssigned (n : Nat) : Bool :=
  n ≤ 0x15 || (0x40 ≤ n && n ≤ 0x42) ||
    (0x100 ≤ n && n < 0x100 + 0x80 * 6 &&
      ((n - 0x100) % 0x80 ≤ 0x15 || (0x40 ≤ (n - 0x100) % 0x80 && (n - 0x100) % 0x80 < 0x60)))

/-- The value checks of the encodings. -/
def Instr.wf : Instr → Bool
  | .loop _ e => e != 0
  | .loopi n e => n != 0 && e != 0
  | .gamo _ size _ _ _ _ => 2 ≤ size.toNat
  | .csrr _ n => csrAssigned n.toNat
  | .csrw n _ => csrAssigned n.toNat
  | .vadd _ _ _ _ _ t | .vsub _ _ _ _ _ t | .vmul _ _ _ _ _ t | .vmin _ _ _ _ _ t | .vmax _ _ _ _ _ t => t.isF
  | .vfma _ _ _ _ _ _ t | .vfms _ _ _ _ _ _ t | .vfnma _ _ _ _ _ _ t => t.isF
  | .vabs _ _ _ _ t | .vneg _ _ _ _ t => t.isF
  | .vcmp _ _ _ _ _ _ t => t.isF
  | .vsel _ _ _ _ _ t => t.isB
  | .vclamp _ _ _ _ _ _ t => t.isF || t.isI
  | .viadd _ _ _ _ _ t | .visub _ _ _ _ _ t | .vimul _ _ _ _ _ t | .vimulh _ _ _ _ _ t => t.isI
  | .vshl _ _ _ _ _ t | .vshr _ _ _ _ _ t | .vsar _ _ _ _ _ t => t.isI
  | .vand _ _ _ _ _ t | .vor _ _ _ _ _ t | .vxor _ _ _ _ _ t => t.isB
  | .vnot _ _ _ _ t => t.isB
  | .vicmp _ _ _ _ _ _ t => t.isI
  | .vimin _ _ _ _ _ t | .vimax _ _ _ _ _ t => t.isI
  | .vpopc _ _ _ _ t | .vclz _ _ _ _ t => t.isI
  | .vcvt _ _ _ _ t u p => t.isB && u.isB && cvtPartOk t u p.toNat
  | .vpack _ _ _ _ t k q => t.isX && chunkOk t q.toNat && (t == .k4 || k == 0)
  | .vunpack _ _ _ _ _ t xv q => t.isX && chunkOk t q.toNat && (t == .k4 || xv == 0)
  | .vmov _ _ _ _ t | .vmovs _ _ _ _ t => t.isB
  | .vmovi _ _ _ imm t => moviOk t imm
  | .vext _ _ _ _ t | .vins _ _ _ _ _ t => t.isB
  | .viota _ _ _ _ t => t.isI
  | .vrotr _ _ _ _ k t | .vbcr _ _ _ _ k t => t.isB && k.ok t.perRow
  | .vrotc _ _ _ _ k t | .vbcc _ _ _ _ k t => t.isB && k.ok 16
  | .vredr _ op _ _ _ t | .vredc _ op _ _ _ t => op.ok t
  | .vperm _ _ _ _ _ t => t.isB
  | .vrcp _ _ _ _ t | .vrsq _ _ _ _ t | .vexp2 _ _ _ _ t | .vlog2 _ _ _ _ t => t.isF
  | .vmerge _ _ _ _ _ _ _ _ t | .vsort _ _ _ _ _ _ t => t.isK
  | .vtopk _ _ _ _ _ _ k t => t.isK && 1 ≤ k.toNat && k.toNat ≤ t.perRow
  | .vbound _ _ _ _ _ _ g => 1 ≤ g.toNat && g.toNat ≤ 32
  | .mpopc _ _ _ t | .mfirst _ _ _ t => t.isB
  | .mset _ _ (.all _) => true
  | .mset _ _ (.pre t _) | .mset _ _ (.rowpre t _) => t.isB
  | .chfit _ _ _ n => 1 ≤ n.toNat && n.toNat ≤ 64
  | .chcmp _ _ _ n => n.toNat ≤ 64
  | .chtrn _ _ _ n => n.toNat ≤ 64
  | .chdom (.pts _ _ n) => 1 ≤ n.toNat && n.toNat ≤ 64
  | .copy _ _ _ _ _ asof _ _ => asof != some 0
  | .cstat _ _ sl clr => !(clr && sl == 3)
  | .ixscan _ _ t _ _ _ _ _ => t.isB
  | .dscan q pred _ _ _ ta _ _ keep rate =>
    (q.isSome || (!keep && rate == 0)) && ((pred != .znz && pred != .sumgt) || ta == 0)
  | .rcallR _ _ _ _ _ _ sd | .rcallQ _ _ _ _ _ _ sd => sd != 0
  | .bmac _ _ _ _ n => 16 ≤ n.toNat && n.toNat % 16 == 0
  | .waitany _ mask => mask != 0
  | .prio sa n => sa == 0 || n == 0
  | .chdom (.set ..) | .chdom (.get ..) => true
  | .nop .. | .ill .. | .add .. | .sub .. | .and .. | .or .. | .xor .. | .shl .. | .shr .. | .sar .. | .mul .. | .mulh .. | .mulhu ..
  | .div .. | .divu .. | .rem .. | .remu .. | .min .. | .max .. | .minu .. | .maxu .. | .sel .. | .cmp .. | .clz .. | .popc ..
  | .brev .. | .addi .. | .andi .. | .ori .. | .xori .. | .shli .. | .shri .. | .sari .. | .li .. | .lih .. | .cmpi ..
  | .fadd .. | .fsub .. | .fmul .. | .ffma .. | .fmin .. | .fmax .. | .fcmp .. | .fcvt .. | .j .. | .jr .. | .call ..
  | .callr .. | .ret .. | .bz .. | .bnz .. | .bcmp .. | .gld .. | .gldQ .. | .gst .. | .globalLoadComplete .. | .svc ..
  | .brk .. | .tret | .tsc .. | .ixpop .. | .ixpeek .. | .mand .. | .mor .. | .mxor .. | .mnot .. | .cheval .. | .chadd ..
  | .chsub .. | .chmul .. | .chscl .. | .chint .. | .chdif .. | .chroot .. | .chmov .. | .chfree .. | .functionOpComplete ..
  | .mcall .. | .msetp .. | .msetpi .. | .mstat .. | .mpload .. | .mcancel .. | .matrixCallStart .. | .matrixCallResume ..
  | .mploadApply .. | .agset .. | .agmc .. | .mzero | .mma .. | .mloop .. | .mend .. | .mout | .mcount .. | .myield | .mstop
  | .multicastTimeout .. | .ldt .. | .ldrw .. | .ldg .. | .ldx .. | .lds .. | .ldf .. | .ldm .. | .stt .. | .strw .. | .stx ..
  | .sts .. | .stf .. | .stm .. | .scor .. | .scadd .. | .scmax .. | .scmin .. | .sete .. | .setf .. | .loadComplete ..
  | .remoteAccessPerform .. | .cbatch .. | .cwait .. | .publish .. | .ctset .. | .ctsetCode .. | .copyComplete ..
  | .copyFault .. | .ixbmap .. | .ixrle .. | .ixclr .. | .spred .. | .guard .. | .indexProducerPush .. | .dqry .. | .dqryQ ..
  | .dqryComplete .. | .drefr .. | .rstat .. | .promote .. | .remoteCallStart .. | .replyArrival .. | .replyTimeout ..
  | .callRunLimit .. | .lnseq .. | .lnwait .. | .dfence | .rret .. | .sequencerComplete .. | .sequencerStop ..
  | .sequencerSuspend .. | .sequencerResume .. | .ordinaryAccessArrival .. | .bmacComplete .. | .postedWriteDrain ..
  | .bset .. | .binc .. | .waitb .. | .qend | .fork .. | .join | .exit | .yield | .gjoin .. | .gleave .. | .gbar .. | .cbar
  | .drain | .spawng .. | .fencel | .halt .. | .strandEnd .. | .trapEntry .. | .safePointOverrun .. | .quantumCommit ..
  | .qwQuantumEnd .. | .qbQuantumEnd .. | .promotionCopyDone .. | .contextTakeWork .. | .stagingComplete .. | .agingTick ..
  | .clusterReserve .. | .preemptRequest .. | .strandSave .. | .strandResume .. | .targetedSelfTest .. | .rowSelfTest ..
  | .digestAreaSelfTest .. | .flitReceive .. | .replayRequest .. | .laneRetire .. | .messageReceive .. | .messageAck ..
  | .messageResend .. | .doorbell .. | .registerWrite .. | .launch .. | .map .. | .unmap .. | .hostcopy ..
  | .asfortMpload .. | .region .. | .regionDelete .. | .tierset .. | .checkpoint .. | .restore .. | .monitorArm ..
  | .monitorRead .. | .monitorClear .. | .selftest .. | .attest .. | .reset .. | .powerOn | .thermalLimit .. | .thermalTrip
  | .foragerGranuleWrite .. | .dscanComplete .. | .replyAcknowledgement .. => true

/-! ### Slots -/

/-- What the bits of one slot decode to (R26). -/
inductive Dec
  | ok (i : Instr)
  | illegal
  | range (cls num : Nat)
deriving DecidableEq, Repr

/-- Bits [lo + n - 1 : lo] of a word (R5). -/
def fld (w : Word) (lo n : Nat) : BitVec n := w.extractLsb' lo n

/-- The instruction, where the fields pass. -/
def grd (ok : Bool) (i : Instr) : Option Instr := if ok then some i else none

/-! ### Codes of the fields -/

/-- R38. -/
def EType.ofCode (c : BitVec 4) : Option EType :=
  match c.toNat with
  | 0 => some .fp32 | 1 => some .fp16 | 2 => some .bf16 | 3 => some .e4m3 | 4 => some .e5m2 | 5 => some .int32
  | 6 => some .uint32 | 7 => some .int64 | 8 => some .uint64 | 9 => some .int16 | 10 => some .int8 | 11 => some .uint8
  | 12 => some .mxe2m1 | 13 => some .k4 | 14 => some .mxe4m3 | _ => none

/-- R123. -/
def ICond.ofCode (c : BitVec 4) : Option ICond :=
  match c.toNat with
  | 0 => some .eq | 1 => some .ne | 2 => some .lt | 3 => some .ge | 4 => some .ltu | 5 => some .geu | 6 => some .gt
  | 7 => some .le | 8 => some .gtu | 9 => some .leu | _ => none
def ICond.code : ICond → Nat
  | .eq => 0 | .ne => 1 | .lt => 2 | .ge => 3 | .ltu => 4 | .geu => 5 | .gt => 6 | .le => 7 | .gtu => 8 | .leu => 9

/-- R126. -/
def FCond.ofCode (c : BitVec 4) : Option FCond :=
  match c.toNat with
  | 0 => some .eq | 1 => some .ne | 2 => some .lt | 3 => some .ge | 4 => some .le | 5 => some .gt | 6 => some .un
  | 7 => some .or | _ => none
def FCond.code : FCond → Nat
  | .eq => 0 | .ne => 1 | .lt => 2 | .ge => 3 | .le => 4 | .gt => 5 | .un => 6 | .or => 7

/-- R154. -/
def VICond.ofCode (c : BitVec 3) : Option VICond :=
  match c.toNat with
  | 0 => some .eq | 1 => some .ne | 2 => some .lt | 3 => some .ge | 4 => some .le | 5 => some .gt | _ => none
def VICond.code : VICond → Nat
  | .eq => 0 | .ne => 1 | .lt => 2 | .ge => 3 | .le => 4 | .gt => 5

/-- R127. -/
def FCvt.ofCode (c : BitVec 4) : Option FCvt :=
  match c.toNat with
  | 0 => some .fp16Fp32 | 1 => some .fp32Fp16 | 2 => some .bf16Fp32 | 3 => some .fp32Bf16 | 4 => some .int32Fp32
  | 5 => some .uint32Fp32 | 6 => some .int64Fp32 | 7 => some .uint64Fp32 | 8 => some .fp32Int32 | 9 => some .fp32Uint32
  | 10 => some .fp32Int64 | 11 => some .fp32Uint64 | _ => none
def FCvt.code : FCvt → Nat
  | .fp16Fp32 => 0 | .fp32Fp16 => 1 | .bf16Fp32 => 2 | .fp32Bf16 => 3 | .int32Fp32 => 4 | .uint32Fp32 => 5
  | .int64Fp32 => 6 | .uint64Fp32 => 7 | .fp32Int32 => 8 | .fp32Uint32 => 9 | .fp32Int64 => 10 | .fp32Uint64 => 11

/-- R44. -/
def AFunc.ofCode (c : BitVec 4) : Option AFunc :=
  match c.toNat with
  | 0 => some .add | 1 => some .or | 2 => some .and | 3 => some .xor | 4 => some .min | 5 => some .max | 6 => some .swap
  | 7 => some .cas | _ => none
def AFunc.code : AFunc → Nat
  | .add => 0 | .or => 1 | .and => 2 | .xor => 3 | .min => 4 | .max => 5 | .swap => 6 | .cas => 7

/-- R162. -/
def RedOp.ofCode (c : BitVec 3) : Option RedOp :=
  match c.toNat with
  | 0 => some .add | 1 => some .max | 2 => some .min | 3 => some .and | 4 => some .or | 5 => some .xor | _ => none
def RedOp.code : RedOp → Nat
  | .add => 0 | .max => 1 | .min => 2 | .and => 3 | .or => 4 | .xor => 5

/-- R336, R346. -/
def DKind.ofCode (c : BitVec 6) : Option DKind :=
  match c.toNat with
  | 1 => some .bounds | 2 => some .sum | 3 => some .zmap | 4 => some .sketch | _ => none
def DKind.code : DKind → Nat
  | .bounds => 1 | .sum => 2 | .zmap => 3 | .sketch => 4

/-- R346. -/
def DPred.ofCode (c : BitVec 3) : Option DPred :=
  match c.toNat with
  | 0 => some .overlap | 1 => some .ub | 2 => some .znz | 3 => some .sumgt | 4 => some .ham | _ => none
def DPred.code : DPred → Nat
  | .overlap => 0 | .ub => 1 | .znz => 2 | .sumgt => 3 | .ham => 4

/-- R31. -/
def Rnd.ofCode (c : BitVec 3) : Option Rnd :=
  match c.toNat with
  | 0 => some .rne | 1 => some .rtz | 2 => some .rup | 3 => some .rdn | 4 => some .rna | 5 => some .sr | _ => none
def Rnd.code : Rnd → Nat
  | .rne => 0 | .rtz => 1 | .rup => 2 | .rdn => 3 | .rna => 4 | .sr => 5

/-! ### Fields with forms of their own -/

/-- A tile source field (R34, R36). -/
def readTSrc (f : BitVec 10) : Option TSrc :=
  if f.getLsbD 9 then (if f.setWidth 9 = 0 then some .latch else none)
  else some (.reg (f.getLsbD 8) (f.getLsbD 7) (f.setWidth 7))
def encTSrc : TSrc → BitVec 10
  | .reg h e r => (0 : BitVec 1) ++ BitVec.ofBool h ++ BitVec.ofBool e ++ r
  | .latch => 0x200

/-- The VS variant's field: a scalar in its upper five bits (R40). -/
def readScalarField (f : BitVec 10) : Option SReg :=
  if f.setWidth 5 = 0 then some (f.extractLsb' 5 5) else none
def encScalarField (r : SReg) : BitVec 10 := r ++ (0 : BitVec 5)

/-- The b operand under S (R40). -/
def readBSrc (s : BitVec 1) (f : BitVec 10) : Option BSrc :=
  if s = 1 then (readScalarField f).map .scalar else (readTSrc f).map .tile
def encBSrc : BSrc → BitVec 10
  | .tile t => encTSrc t
  | .scalar r => encScalarField r
def encBSrcS : BSrc → BitVec 1
  | .tile _ => 0
  | .scalar _ => 1

/-- VIOTA's optional base (R159). -/
def readOptScalar (s : BitVec 1) (f : BitVec 10) : Option (Option SReg) :=
  if s = 1 then (readScalarField f).map some else if f = 0 then some none else none
def encOptScalar : Option SReg → BitVec 10
  | some r => encScalarField r
  | none => 0

/-- A rotation amount (R147, R160). -/
def readRot (s : BitVec 1) (f : BitVec 10) (imm : BitVec 8) : Option RotAmt :=
  if s = 1 then (if imm = 0 then (readScalarField f).map .scalar else none)
  else if f = 0 then some (.imm imm) else none
def encRotB : RotAmt → BitVec 10
  | .imm _ => 0
  | .scalar r => encScalarField r
def encRotS : RotAmt → BitVec 1
  | .imm _ => 0
  | .scalar _ => 1
def encRotI : RotAmt → BitVec 8
  | .imm k => k
  | .scalar _ => 0

/-- MSET's forms (R169). -/
def readMSet (fn : BitVec 3) (et : BitVec 4) (b : BitVec 10) (imm : BitVec 8) : Option MSetKind :=
  match fn.toNat with
  | 0 => if et = 0 ∧ b = 0 ∧ imm.toNat < 2 then some (.all (imm = 1)) else none
  | 1 => if b.toNat < 32 ∧ imm = 0 then (EType.ofCode et).map fun t => .pre t (b.setWidth 5) else none
  | 2 => if b.toNat < 32 ∧ imm = 0 then (EType.ofCode et).map fun t => .rowpre t (b.setWidth 5) else none
  | _ => none

/-- CHTRN's optional tolerance (R177, R188). -/
def readTol (fn : BitVec 3) (b : BitVec 10) : Option (Option SReg) :=
  match fn.toNat with
  | 0 => if b = 0 then some none else none
  | 1 => if b.toNat < 32 then some (some (b.setWidth 5)) else none
  | _ => none
def encTol : Option SReg → BitVec 10
  | some r => r.setWidth 10
  | none => 0

/-- CHDOM's forms (R177, R189). -/
def readChDom (fn : BitVec 3) (td : BitVec 7) (a b : BitVec 10) (imm : BitVec 8) : Option ChDom :=
  match fn.toNat with
  | 0 => if td.toNat < 16 ∧ b.toNat < 32 ∧ imm = 0 then some (.set (td.setWidth 4) (a.setWidth 4) (b.setWidth 5)) else none
  | 1 => if td.toNat < 32 ∧ b = 0 ∧ imm = 0 then some (.get (td.setWidth 5) (a.setWidth 4)) else none
  | 2 => if b = 0 then some (.pts td (a.setWidth 4) imm) else none
  | _ => none

/-- CHMOV's forms (R177, R190). -/
def readChMov (fn : BitVec 3) (td : BitVec 7) (a : BitVec 10) : Option ChMov :=
  match fn.toNat with
  | 0 => if td.toNat < 16 ∧ a.toNat < 16 then some (.move (td.setWidth 4) (a.setWidth 4)) else none
  | 1 => if a.toNat < 16 then some (.toTile td (a.setWidth 4)) else none
  | 2 => if td.toNat < 16 then (readTSrc a).map fun s => .ofTile (td.setWidth 4) s else none
  | _ => none

/-- COPY's options (R238): `sc` only with ASOF, the queue only with GATHER, the barrier only with BAR. -/
def readAsof (on : BitVec 1) (sc : SReg) : Option (Option SReg) :=
  if on = 1 then some (some sc) else if sc = 0 then some none else none
def readGather (on q : BitVec 1) : Option (Option QNo) :=
  if on = 1 then some (some q) else if q = 0 then some none else none
def readBar (on : BitVec 1) (k : BitVec 3) : Option (Option BNo) :=
  if on = 1 then some (some k) else if k = 0 then some none else none

/-- DSCAN's queue and score options (R346). -/
def readPush (on : BitVec 1) (chq : BitVec 4) : Option (Option QNo) :=
  if on = 1 then some (some (chq.setWidth 1)) else if chq = 0 then some none else none
def readScore (on : BitVec 1) (tr : TReg) : Option (Option TReg) :=
  if on = 1 then some (some tr) else if tr = 0 then some none else none

/-! ### The slots -/

/-- The SC slot but for NOP and ILL (R43, R44, R49). -/
def rawSC (w : Word) : Option Instr :=
  let op := (fld w 56 8).toNat
  let sd := fld w 51 5
  let sa := fld w 46 5
  let sb := fld w 41 5
  let sc := fld w 36 5
  let fn := fld w 32 4
  let imm := fld w 14 32
  let z32 := fld w 0 32 == 0
  let z14 := fld w 0 14 == 0
  let z10 := fld w 0 10 == 0
  let z2 := fld w 0 2 == 0
  match op with
  | 1 => grd (z32 && (sc == 0) && (fn == 0)) (.add sd sa sb)
  | 2 => grd (z32 && (sc == 0) && (fn == 0)) (.sub sd sa sb)
  | 3 => grd (z32 && (sc == 0) && (fn == 0)) (.and sd sa sb)
  | 4 => grd (z32 && (sc == 0) && (fn == 0)) (.or sd sa sb)
  | 5 => grd (z32 && (sc == 0) && (fn == 0)) (.xor sd sa sb)
  | 6 => grd (z32 && (sc == 0) && (fn == 0)) (.shl sd sa sb)
  | 7 => grd (z32 && (sc == 0) && (fn == 0)) (.shr sd sa sb)
  | 8 => grd (z32 && (sc == 0) && (fn == 0)) (.sar sd sa sb)
  | 9 => grd (z32 && (sc == 0) && (fn == 0)) (.mul sd sa sb)
  | 10 => grd (z32 && (sc == 0) && (fn == 0)) (.mulh sd sa sb)
  | 11 => grd (z32 && (sc == 0) && (fn == 0)) (.mulhu sd sa sb)
  | 12 => grd (z32 && (sc == 0) && (fn == 0)) (.div sd sa sb)
  | 13 => grd (z32 && (sc == 0) && (fn == 0)) (.divu sd sa sb)
  | 14 => grd (z32 && (sc == 0) && (fn == 0)) (.rem sd sa sb)
  | 15 => grd (z32 && (sc == 0) && (fn == 0)) (.remu sd sa sb)
  | 16 => grd (z32 && (sc == 0) && (fn == 0)) (.min sd sa sb)
  | 17 => grd (z32 && (sc == 0) && (fn == 0)) (.max sd sa sb)
  | 18 => grd (z32 && (sc == 0) && (fn == 0)) (.minu sd sa sb)
  | 19 => grd (z32 && (sc == 0) && (fn == 0)) (.maxu sd sa sb)
  | 20 => grd (z32 && (fn == 0)) (.sel sd sa sb sc)
  | 21 => (ICond.ofCode fn).bind fun cc => grd (z32 && (sc == 0)) (.cmp cc sd sa sb)
  | 22 => grd (z32 && (sb == 0) && (sc == 0) && (fn == 0)) (.clz sd sa)
  | 23 => grd (z32 && (sb == 0) && (sc == 0) && (fn == 0)) (.popc sd sa)
  | 24 => grd (z32 && (sb == 0) && (sc == 0) && (fn == 0)) (.brev sd sa)
  | 32 => grd (z14) (.addi sd sa imm)
  | 33 => grd (z14) (.andi sd sa imm)
  | 34 => grd (z14) (.ori sd sa imm)
  | 35 => grd (z14) (.xori sd sa imm)
  | 36 => grd (z14 && (imm.toNat < 64)) (.shli sd sa (imm.setWidth 6))
  | 37 => grd (z14 && (imm.toNat < 64)) (.shri sd sa (imm.setWidth 6))
  | 38 => grd (z14 && (imm.toNat < 64)) (.sari sd sa (imm.setWidth 6))
  | 39 => grd (z14 && (sa == 0)) (.li sd imm)
  | 40 => grd (z14 && (sa == 0)) (.lih sd imm)
  | 41 => (ICond.ofCode (fld w 14 4)).bind fun cc => grd (z14) (.cmpi cc sd sa (fld w 18 28))
  | 48 => grd (z32 && (sc == 0) && (fn == 0)) (.fadd sd sa sb)
  | 49 => grd (z32 && (sc == 0) && (fn == 0)) (.fsub sd sa sb)
  | 50 => grd (z32 && (sc == 0) && (fn == 0)) (.fmul sd sa sb)
  | 51 => grd (z32 && (fn == 0)) (.ffma sd sa sb sc)
  | 52 => grd (z32 && (sc == 0) && (fn == 0)) (.fmin sd sa sb)
  | 53 => grd (z32 && (sc == 0) && (fn == 0)) (.fmax sd sa sb)
  | 54 => (FCond.ofCode fn).bind fun cc => grd (z32 && (sc == 0)) (.fcmp cc sd sa sb)
  | 55 => (FCvt.ofCode fn).bind fun k => grd (z32 && (sb == 0) && (sc == 0)) (.fcvt k sd sa)
  | 64 => grd (z10 && (sd == 0) && (sa == 0) && (fld w 10 4 == 0)) (.j imm)
  | 65 => grd (z32 && (sd == 0) && (sb == 0) && (sc == 0) && (fn == 0)) (.jr sa)
  | 66 => grd (z10 && (sa == 0) && (fld w 10 4 == 0)) (.call sd imm)
  | 67 => grd (z32 && (sb == 0) && (sc == 0) && (fn == 0)) (.callr sd sa)
  | 68 => grd (z32 && (sd == 0) && (sb == 0) && (sc == 0) && (fn == 0)) (.ret sa)
  | 69 => grd (z10 && (sa == 0) && (fld w 10 4 == 0)) (.bz sd imm)
  | 70 => grd (z10 && (sa == 0) && (fld w 10 4 == 0)) (.bnz sd imm)
  | 71 => (ICond.ofCode (fld w 10 4)).bind fun cc => grd (z10) (.bcmp cc sd sa imm)
  | 72 => grd (z14 && (fld w 35 16 == 0)) (.loop sd (fld w 14 21))
  | 73 => grd (z14 && (sd == 0)) (.loopi (fld w 35 16) (fld w 14 21))
  | 80 =>
    (grd (z2 && (fld w 11 1 == 0) && (fld w 7 4 == 0) && (fld w 2 5 == 0)) (.gld (fld w 12 2) sd sa imm)) <|>
    (grd (z2 && (fld w 11 1 == 1) && (fld w 7 4 == 0) && (fld w 2 5 == 0)) (.gldQ (fld w 12 2) sd sa imm))
  | 81 => grd (z2 && (fld w 11 1 == 0) && (fld w 7 4 == 0) && (fld w 2 5 == 0)) (.gst (fld w 12 2) sd sa imm)
  | 82 => (AFunc.ofCode (fld w 7 4)).bind fun f => grd (z2 && (fld w 11 1 == 0)) (.gamo f (fld w 12 2) sd sa imm (fld w 2 5))
  | 96 => grd (z14 && (sa == 0) && (imm.toNat < 4096)) (.csrr sd (imm.setWidth 12))
  | 97 => grd (z14 && (sd == 0) && (imm.toNat < 4096)) (.csrw (imm.setWidth 12) sa)
  | 98 => grd (z14 && (sd == 0) && (sa == 0)) (.svc imm)
  | 99 => grd (z32 && (sd == 0) && (sa == 0) && (sb == 0) && (sc == 0) && (fn == 0)) (.tret)
  | 100 => grd (z14 && (sd == 0) && (sa == 0)) (.brk imm)
  | 101 => grd (z32 && (sa == 0) && (sb == 0) && (sc == 0) && (fn == 0)) (.tsc sd)
  | 102 => grd (z32 && (sa == 0) && (sb == 0) && (sc == 0) && (fn.toNat < 2)) (.ixpop (fn.setWidth 1) sd)
  | 103 => grd (z32 && (sb == 0) && (sc == 0) && (fn.toNat < 2)) (.ixpeek (fn.setWidth 1) sd sa)
  | _ => none

/-- The vector slots but for NOP, ILL and the function-register instructions (R39 to R42, R50, R147, R169). -/
def rawV (u : VUnit) (w : Word) : Option Instr :=
  let op := (fld w 56 8).toNat
  let td := fld w 49 7
  let m := fld w 46 3
  let a := fld w 36 10
  let b := fld w 26 10
  let c := fld w 16 10
  let et := fld w 12 4
  let sbit := fld w 11 1
  let fn := fld w 8 3
  let imm := fld w 0 8
  match op with
  | 1 => (readTSrc a).bind fun a => (readBSrc sbit b).bind fun b => (EType.ofCode et).bind fun t => grd ((c == 0) && (fn == 0) && (imm == 0)) (.vadd u td m a b t)
  | 2 => (readTSrc a).bind fun a => (readBSrc sbit b).bind fun b => (EType.ofCode et).bind fun t => grd ((c == 0) && (fn == 0) && (imm == 0)) (.vsub u td m a b t)
  | 3 => (readTSrc a).bind fun a => (readBSrc sbit b).bind fun b => (EType.ofCode et).bind fun t => grd ((c == 0) && (fn == 0) && (imm == 0)) (.vmul u td m a b t)
  | 4 => (readTSrc a).bind fun a => (readBSrc sbit b).bind fun b => (readTSrc c).bind fun c => (EType.ofCode et).bind fun t => grd ((fn == 0) && (imm == 0)) (.vfma u td m a b c t)
  | 5 => (readTSrc a).bind fun a => (readBSrc sbit b).bind fun b => (readTSrc c).bind fun c => (EType.ofCode et).bind fun t => grd ((fn == 0) && (imm == 0)) (.vfms u td m a b c t)
  | 6 => (readTSrc a).bind fun a => (readBSrc sbit b).bind fun b => (readTSrc c).bind fun c => (EType.ofCode et).bind fun t => grd ((fn == 0) && (imm == 0)) (.vfnma u td m a b c t)
  | 7 => (readTSrc a).bind fun a => (readBSrc sbit b).bind fun b => (EType.ofCode et).bind fun t => grd ((c == 0) && (fn == 0) && (imm == 0)) (.vmin u td m a b t)
  | 8 => (readTSrc a).bind fun a => (readBSrc sbit b).bind fun b => (EType.ofCode et).bind fun t => grd ((c == 0) && (fn == 0) && (imm == 0)) (.vmax u td m a b t)
  | 9 => (readTSrc a).bind fun a => (EType.ofCode et).bind fun t => grd ((b == 0) && (c == 0) && (sbit == 0) && (fn == 0) && (imm == 0)) (.vabs u td m a t)
  | 10 => (readTSrc a).bind fun a => (EType.ofCode et).bind fun t => grd ((b == 0) && (c == 0) && (sbit == 0) && (fn == 0) && (imm == 0)) (.vneg u td m a t)
  | 11 => (readTSrc a).bind fun a => (readBSrc sbit b).bind fun b => (EType.ofCode et).bind fun t => (FCond.ofCode (fn.setWidth 4)).bind fun cc => grd ((td.toNat < 8) && (c == 0) && (imm == 0)) (.vcmp u cc (td.setWidth 3) m a b t)
  | 12 => (readTSrc a).bind fun a => (readBSrc sbit b).bind fun b => (EType.ofCode et).bind fun t => grd ((c == 0) && (fn == 0) && (imm == 0)) (.vsel u td m a b t)
  | 13 => (readTSrc a).bind fun a => (readBSrc sbit b).bind fun b => (readTSrc c).bind fun c => (EType.ofCode et).bind fun t => grd ((fn == 0) && (imm == 0)) (.vclamp u td m a b c t)
  | 16 => (readTSrc a).bind fun a => (readBSrc sbit b).bind fun b => (EType.ofCode et).bind fun t => grd ((c == 0) && (fn == 0) && (imm == 0)) (.viadd u td m a b t)
  | 17 => (readTSrc a).bind fun a => (readBSrc sbit b).bind fun b => (EType.ofCode et).bind fun t => grd ((c == 0) && (fn == 0) && (imm == 0)) (.visub u td m a b t)
  | 18 => (readTSrc a).bind fun a => (readBSrc sbit b).bind fun b => (EType.ofCode et).bind fun t => grd ((c == 0) && (fn == 0) && (imm == 0)) (.vimul u td m a b t)
  | 19 => (readTSrc a).bind fun a => (readBSrc sbit b).bind fun b => (EType.ofCode et).bind fun t => grd ((c == 0) && (fn == 0) && (imm == 0)) (.vimulh u td m a b t)
  | 20 => (readTSrc a).bind fun a => (readBSrc sbit b).bind fun b => (EType.ofCode et).bind fun t => grd ((c == 0) && (fn == 0) && (imm == 0)) (.vshl u td m a b t)
  | 21 => (readTSrc a).bind fun a => (readBSrc sbit b).bind fun b => (EType.ofCode et).bind fun t => grd ((c == 0) && (fn == 0) && (imm == 0)) (.vshr u td m a b t)
  | 22 => (readTSrc a).bind fun a => (readBSrc sbit b).bind fun b => (EType.ofCode et).bind fun t => grd ((c == 0) && (fn == 0) && (imm == 0)) (.vsar u td m a b t)
  | 23 => (readTSrc a).bind fun a => (readBSrc sbit b).bind fun b => (EType.ofCode et).bind fun t => grd ((c == 0) && (fn == 0) && (imm == 0)) (.vand u td m a b t)
  | 24 => (readTSrc a).bind fun a => (readBSrc sbit b).bind fun b => (EType.ofCode et).bind fun t => grd ((c == 0) && (fn == 0) && (imm == 0)) (.vor u td m a b t)
  | 25 => (readTSrc a).bind fun a => (readBSrc sbit b).bind fun b => (EType.ofCode et).bind fun t => grd ((c == 0) && (fn == 0) && (imm == 0)) (.vxor u td m a b t)
  | 26 => (readTSrc a).bind fun a => (EType.ofCode et).bind fun t => grd ((b == 0) && (c == 0) && (sbit == 0) && (fn == 0) && (imm == 0)) (.vnot u td m a t)
  | 27 => (readTSrc a).bind fun a => (readBSrc sbit b).bind fun b => (EType.ofCode et).bind fun t => (VICond.ofCode fn).bind fun cc => grd ((td.toNat < 8) && (c == 0) && (imm == 0)) (.vicmp u cc (td.setWidth 3) m a b t)
  | 28 => (readTSrc a).bind fun a => (readBSrc sbit b).bind fun b => (EType.ofCode et).bind fun t => grd ((c == 0) && (fn == 0) && (imm == 0)) (.vimin u td m a b t)
  | 29 => (readTSrc a).bind fun a => (readBSrc sbit b).bind fun b => (EType.ofCode et).bind fun t => grd ((c == 0) && (fn == 0) && (imm == 0)) (.vimax u td m a b t)
  | 30 => (readTSrc a).bind fun a => (EType.ofCode et).bind fun t => grd ((b == 0) && (c == 0) && (sbit == 0) && (fn == 0) && (imm == 0)) (.vpopc u td m a t)
  | 31 => (readTSrc a).bind fun a => (EType.ofCode et).bind fun t => grd ((b == 0) && (c == 0) && (sbit == 0) && (fn == 0) && (imm == 0)) (.vclz u td m a t)
  | 32 => (readTSrc a).bind fun a => (EType.ofCode et).bind fun t => (EType.ofCode (fld w 0 4)).bind fun src => grd ((b == 0) && (c == 0) && (sbit == 0) && (fn == 0) && (fld w 7 1 == 0)) (.vcvt u td m a t src (fld w 4 3))
  | 33 => (readTSrc a).bind fun a => (EType.ofCode et).bind fun t => grd ((m == 0) && (b == 0) && (c == 0) && (sbit == 0) && (fn.toNat < 2) && (fld w 3 3 == 0)) (.vpack u (fn == 1) td a t (fld w 6 2) (fld w 0 3))
  | 34 => (readTSrc a).bind fun a => (readTSrc b).bind fun b => (EType.ofCode et).bind fun t => grd ((c == 0) && (sbit == 0) && (fn == 0) && (fld w 6 2 == 0) && (fld w 3 1 == 0)) (.vunpack u td m a b t (fld w 4 2) (fld w 0 3))
  | 35 => (readTSrc a).bind fun a => (EType.ofCode et).bind fun t => grd ((b == 0) && (c == 0) && (sbit == 0) && (fn == 0) && (imm == 0)) (.vmov u td m a t)
  | 36 => (readScalarField b).bind fun sb => (EType.ofCode et).bind fun t => grd ((a == 0) && (c == 0) && (sbit == 1) && (fn == 0) && (imm == 0)) (.vmovs u td m sb t)
  | 37 => (EType.ofCode (fld w 0 4)).bind fun t => grd ((a == 0)) (.vmovi u td m (fld w 4 32) t)
  | 38 => (readTSrc a).bind fun a => (readScalarField b).bind fun sb => (EType.ofCode et).bind fun t => grd ((td.toNat < 32) && (m == 0) && (c == 0) && (sbit == 1) && (fn == 0) && (imm == 0)) (.vext u (td.setWidth 5) a sb t)
  | 39 => (readTSrc a).bind fun a => (readScalarField b).bind fun sb => (EType.ofCode et).bind fun t => grd ((m == 0) && (c.toNat < 32) && (sbit == 1) && (fn == 0) && (imm == 0)) (.vins u td a sb (c.setWidth 5) t)
  | 40 => (EType.ofCode et).bind fun t => (readOptScalar sbit b).bind fun sb => grd ((a == 0) && (c == 0) && (fn == 0) && (imm == 0)) (.viota u td m sb t)
  | 48 => (readTSrc a).bind fun a => (EType.ofCode et).bind fun t => (readRot sbit b imm).bind fun k => grd ((c == 0) && (fn == 0)) (.vrotr u td m a k t)
  | 49 => (readTSrc a).bind fun a => (EType.ofCode et).bind fun t => (readRot sbit b imm).bind fun k => grd ((c == 0) && (fn == 0)) (.vrotc u td m a k t)
  | 50 => (readTSrc a).bind fun a => (EType.ofCode et).bind fun t => (readRot sbit b imm).bind fun k => grd ((c == 0) && (fn == 0)) (.vbcr u td m a k t)
  | 51 => (readTSrc a).bind fun a => (EType.ofCode et).bind fun t => (readRot sbit b imm).bind fun k => grd ((c == 0) && (fn == 0)) (.vbcc u td m a k t)
  | 52 => (readTSrc a).bind fun a => (EType.ofCode et).bind fun t => (RedOp.ofCode fn).bind fun op => grd ((b == 0) && (c == 0) && (sbit == 0) && (imm == 0)) (.vredr u op td m a t)
  | 53 => (readTSrc a).bind fun a => (EType.ofCode et).bind fun t => (RedOp.ofCode fn).bind fun op => grd ((b == 0) && (c == 0) && (sbit == 0) && (imm == 0)) (.vredc u op td m a t)
  | 54 => (readTSrc a).bind fun a => (readTSrc b).bind fun b => (EType.ofCode et).bind fun t => grd ((c == 0) && (sbit == 0) && (fn == 0) && (imm == 0)) (.vperm u td m a b t)
  | 64 => (readTSrc a).bind fun a => (EType.ofCode et).bind fun t => grd ((b == 0) && (c == 0) && (sbit == 0) && (fn == 0) && (imm == 0)) (.vrcp u td m a t)
  | 65 => (readTSrc a).bind fun a => (EType.ofCode et).bind fun t => grd ((b == 0) && (c == 0) && (sbit == 0) && (fn == 0) && (imm == 0)) (.vrsq u td m a t)
  | 66 => (readTSrc a).bind fun a => (EType.ofCode et).bind fun t => grd ((b == 0) && (c == 0) && (sbit == 0) && (fn == 0) && (imm == 0)) (.vexp2 u td m a t)
  | 67 => (readTSrc a).bind fun a => (EType.ofCode et).bind fun t => grd ((b == 0) && (c == 0) && (sbit == 0) && (fn == 0) && (imm == 0)) (.vlog2 u td m a t)
  | 72 => (readTSrc a).bind fun a => (readTSrc b).bind fun b => (EType.ofCode et).bind fun t => grd ((c == 0) && (sbit == 0) && (imm == 0)) (.vmerge u (fn.getLsbD 0) (fn.getLsbD 1) (fn.getLsbD 2) td m a b t)
  | 73 => (readTSrc a).bind fun a => (EType.ofCode et).bind fun t => grd ((b == 0) && (c == 0) && (sbit == 0) && (fn.toNat < 4) && (imm == 0)) (.vsort u (fn.getLsbD 0) (fn.getLsbD 1) td m a t)
  | 74 => (readTSrc a).bind fun a => (EType.ofCode et).bind fun t => grd ((b == 0) && (c == 0) && (sbit == 0) && (fn.toNat < 4)) (.vtopk u (fn.getLsbD 0) (fn.getLsbD 1) td m a imm t)
  | 75 => (readTSrc a).bind fun a => (readTSrc b).bind fun b => (readTSrc c).bind fun c => grd ((et == 0) && (sbit == 0) && (fn == 0)) (.vbound u td m a b c imm)
  | 80 => grd ((td.toNat < 8) && (m == 0) && (a.toNat < 8) && (b.toNat < 8) && (c == 0) && (et == 0) && (sbit == 0) && (fn == 0) && (imm == 0)) (.mand u (td.setWidth 3) (a.setWidth 3) (b.setWidth 3))
  | 81 => grd ((td.toNat < 8) && (m == 0) && (a.toNat < 8) && (b.toNat < 8) && (c == 0) && (et == 0) && (sbit == 0) && (fn == 0) && (imm == 0)) (.mor u (td.setWidth 3) (a.setWidth 3) (b.setWidth 3))
  | 82 => grd ((td.toNat < 8) && (m == 0) && (a.toNat < 8) && (b.toNat < 8) && (c == 0) && (et == 0) && (sbit == 0) && (fn == 0) && (imm == 0)) (.mxor u (td.setWidth 3) (a.setWidth 3) (b.setWidth 3))
  | 83 => grd ((td.toNat < 8) && (m == 0) && (a.toNat < 8) && (b == 0) && (c == 0) && (et == 0) && (sbit == 0) && (fn == 0) && (imm == 0)) (.mnot u (td.setWidth 3) (a.setWidth 3))
  | 84 => (EType.ofCode et).bind fun t => grd ((td.toNat < 32) && (m == 0) && (a.toNat < 8) && (b == 0) && (c == 0) && (sbit == 0) && (fn == 0) && (imm == 0)) (.mpopc u (td.setWidth 5) (a.setWidth 3) t)
  | 85 => (EType.ofCode et).bind fun t => grd ((td.toNat < 32) && (m == 0) && (a.toNat < 8) && (b == 0) && (c == 0) && (sbit == 0) && (fn == 0) && (imm == 0)) (.mfirst u (td.setWidth 5) (a.setWidth 3) t)
  | 86 => (readMSet fn et b imm).bind fun k => grd ((td.toNat < 8) && (m == 0) && (a == 0) && (c == 0) && (sbit == 0)) (.mset u (td.setWidth 3) k)
  | _ => none

/-- The function-register instructions of the VB slot (R50, R177). -/
def rawVB (w : Word) : Option Instr :=
  let op := (fld w 56 8).toNat
  let td := fld w 49 7
  let m := fld w 46 3
  let a := fld w 36 10
  let b := fld w 26 10
  let c := fld w 16 10
  let et := fld w 12 4
  let sbit := fld w 11 1
  let fn := fld w 8 3
  let imm := fld w 0 8
  match op with
  | 96 => (readBSrc sbit b).bind fun b => grd ((a.toNat < 16) && (c == 0) && (et == 0) && (fn.toNat < 2) && (imm == 0)) (.cheval (fn == 1) td m (a.setWidth 4) b)
  | 97 => (readTSrc a).bind fun ta => grd ((td.toNat < 16) && (m == 0) && (b == 0) && (c.toNat < 32) && (et == 0) && (sbit == 0) && (fn == 0)) (.chfit (td.setWidth 4) ta (c.setWidth 5) imm)
  | 98 => grd ((td.toNat < 16) && (m == 0) && (a.toNat < 16) && (b.toNat < 16) && (c == 0) && (et == 0) && (sbit == 0) && (fn == 0) && (imm == 0)) (.chadd (td.setWidth 4) (a.setWidth 4) (b.setWidth 4))
  | 99 => grd ((td.toNat < 16) && (m == 0) && (a.toNat < 16) && (b.toNat < 16) && (c == 0) && (et == 0) && (sbit == 0) && (fn == 0) && (imm == 0)) (.chsub (td.setWidth 4) (a.setWidth 4) (b.setWidth 4))
  | 100 => grd ((td.toNat < 16) && (m == 0) && (a.toNat < 16) && (b.toNat < 16) && (c == 0) && (et == 0) && (sbit == 0) && (fn == 0) && (imm == 0)) (.chmul (td.setWidth 4) (a.setWidth 4) (b.setWidth 4))
  | 101 => grd ((td.toNat < 16) && (m == 0) && (a.toNat < 16) && (b.toNat < 32) && (c == 0) && (et == 0) && (sbit == 0) && (fn.toNat < 2) && (imm == 0)) (.chscl (fn == 1) (td.setWidth 4) (a.setWidth 4) (b.setWidth 5))
  | 102 => grd ((td.toNat < 16) && (m == 0) && (a.toNat < 16) && (b.toNat < 16) && (c == 0) && (et == 0) && (sbit == 0) && (fn == 0)) (.chcmp (td.setWidth 4) (a.setWidth 4) (b.setWidth 4) imm)
  | 103 => grd ((td.toNat < 16) && (m == 0) && (a.toNat < 16) && (b == 0) && (c == 0) && (et == 0) && (sbit == 0) && (fn == 0) && (imm == 0)) (.chint (td.setWidth 4) (a.setWidth 4))
  | 104 => grd ((td.toNat < 16) && (m == 0) && (a.toNat < 16) && (b == 0) && (c == 0) && (et == 0) && (sbit == 0) && (fn == 0) && (imm == 0)) (.chdif (td.setWidth 4) (a.setWidth 4))
  | 105 => grd ((m == 0) && (a.toNat < 16) && (b.toNat < 32) && (c == 0) && (et == 0) && (sbit == 0) && (fn == 0) && (imm.toNat < 16)) (.chroot td (b.setWidth 5) (a.setWidth 4) (imm.setWidth 4))
  | 106 => (readTol fn b).bind fun tol => grd ((td.toNat < 16) && (m == 0) && (a.toNat < 16) && (c == 0) && (et == 0) && (sbit == 0)) (.chtrn (td.setWidth 4) (a.setWidth 4) tol imm)
  | 107 => (readChDom fn td a b imm).bind fun k => grd ((m == 0) && (a.toNat < 16) && (c == 0) && (et == 0) && (sbit == 0)) (.chdom k)
  | 108 => (readChMov fn td a).bind fun k => grd ((m == 0) && (b == 0) && (c == 0) && (et == 0) && (sbit == 0) && (imm == 0)) (.chmov k)
  | 109 => grd ((td.toNat < 16) && (m == 0) && (a == 0) && (b == 0) && (c == 0) && (et == 0) && (sbit == 0) && (fn == 0) && (imm == 0)) (.chfree (td.setWidth 4))
  | _ => none

/-- The MX slot but for NOP and ILL (R47, R51, R213 to R221). -/
def rawMX (w : Word) : Option Instr :=
  match (fld w 56 8).toNat with
  | 1 => grd ((fld w 0 38 == 0)) (.mcall (fld w 55 1 == 1) (fld w 39 1 == 1) (fld w 38 1 == 1) (fld w 40 7) (fld w 47 8))
  | 2 => grd ((fld w 55 1 == 0) && (fld w 0 47 == 0)) (.msetp (fld w 52 3) (fld w 47 5))
  | 3 => grd ((fld w 55 1 == 0) && (fld w 47 5 == 0) && (fld w 38 9 == 0)) (.msetpi (fld w 52 3) (fld w 0 38))
  | 4 => grd ((fld w 52 3 == 0) && (fld w 0 47 == 0)) (.mstat (fld w 47 5) (fld w 55 1 == 1))
  | 5 => grd ((fld w 55 1 == 0) && (fld w 0 40 == 0)) (.mpload (fld w 47 8) (fld w 40 7))
  | 6 => grd ((fld w 0 55 == 0)) (.mcancel (fld w 55 1 == 1))
  | _ => none

/-- The LD slot but for NOP and ILL (R45, R51, R203). -/
def rawLD (w : Word) : Option Instr :=
  let op := (fld w 56 8).toNat
  let reg := fld w 49 7
  let base := fld w 44 5
  let stride := fld w 39 5
  let cf := fld w 38 1 == 1
  let wb := fld w 37 1 == 1
  let rows := fld w 33 4
  let z := fld w 32 1
  let disp := fld w 0 32
  match op with
  | 1 => grd ((z == 0)) (.ldt cf wb reg base stride rows disp)
  | 2 => grd ((z == 0)) (.ldrw cf wb reg base stride rows disp)
  | 3 => grd ((z == 0) && (fld w 1 3 == 0)) (.ldg cf wb reg base stride rows (fld w 4 28) (fld w 0 1))
  | 4 => grd ((z == 0) && (stride == 0) && (rows.toNat < 2) && (disp.toNat < 128)) (.ldx cf wb (rows == 1) reg base (disp.setWidth 7))
  | 5 => grd ((z == 0) && (reg.toNat < 32) && (stride == 0) && (rows.toNat < 4)) (.lds cf wb (rows.setWidth 2) (reg.setWidth 5) base disp)
  | 6 => grd ((z == 0) && (reg.toNat < 16) && (stride == 0) && (rows == 0)) (.ldf cf wb (reg.setWidth 4) base disp)
  | 7 => grd ((z == 0) && (reg.toNat < 8) && (stride == 0) && (rows == 0)) (.ldm cf wb (reg.setWidth 3) base disp)
  | _ => none

/-- The ST slot but for NOP and ILL (R45, R51, R203). -/
def rawST (w : Word) : Option Instr :=
  let op := (fld w 56 8).toNat
  let reg := fld w 49 7
  let base := fld w 44 5
  let stride := fld w 39 5
  let cf := fld w 38 1 == 1
  let wb := fld w 37 1 == 1
  let rows := fld w 33 4
  let z := fld w 32 1
  let disp := fld w 0 32
  match op with
  | 1 => grd ((z == 0) && !wb) (.stt cf reg base stride rows disp)
  | 2 => grd ((z == 0) && !wb) (.strw cf reg base stride rows disp)
  | 3 => grd ((z == 0) && !wb && (stride == 0) && (rows.toNat < 2) && (disp.toNat < 128)) (.stx cf (rows == 1) reg base (disp.setWidth 7))
  | 4 => grd ((z == 0) && !wb && (reg.toNat < 32) && (stride == 0) && (rows.toNat < 4)) (.sts cf (rows.setWidth 2) (reg.setWidth 5) base disp)
  | 5 => grd ((z == 0) && !wb && (reg.toNat < 16) && (stride == 0) && (rows == 0)) (.stf cf (reg.setWidth 4) base disp)
  | 6 => grd ((z == 0) && !wb && (reg.toNat < 8) && (stride == 0) && (rows == 0)) (.stm cf (reg.setWidth 3) base disp)
  | 7 => grd ((z == 0) && !wb && (stride == 0) && (rows.toNat < 2) && (disp.toNat < 128)) (.scor cf (rows == 1) reg base (disp.setWidth 7))
  | 8 => grd ((z == 0) && !wb && (stride == 0) && (rows.toNat < 2) && (disp.toNat < 128)) (.scadd cf (rows == 1) reg base (disp.setWidth 7))
  | 9 => grd ((z == 0) && !wb && (stride == 0) && (!rows.getLsbD 1) && (!rows.getLsbD 3) && (disp.toNat < 128)) (.scmax cf (rows.getLsbD 2) (rows.getLsbD 0) reg base (disp.setWidth 7))
  | 10 => grd ((z == 0) && !wb && (stride == 0) && (!rows.getLsbD 1) && (!rows.getLsbD 3) && (disp.toNat < 128)) (.scmin cf (rows.getLsbD 2) (rows.getLsbD 0) reg base (disp.setWidth 7))
  | 11 => grd ((z == 0) && !cf && !wb && (reg == 0)) (.sete base stride rows disp)
  | 12 => grd ((z == 0) && !cf && !wb && (reg == 0)) (.setf base stride rows disp)
  | _ => none

/-- The CP slot but for NOP and ILL (R46, R52, R238, R257, R346, R359, R372 to R377). -/
def rawCP (w : Word) : Option Instr :=
  let op := (fld w 56 8).toNat
  let chq := fld w 52 4
  let sl := fld w 46 6
  let sa := fld w 41 5
  let sb := fld w 36 5
  let sc := fld w 31 5
  let tile := fld w 24 7
  let imm := fld w 0 24
  match op with
  | 1 => (readAsof (fld w 1 1) sc).bind fun asof => (readGather (fld w 2 1) (fld w 3 1)).bind fun gather => (readBar (fld w 4 1) (fld w 5 3)).bind fun bar => grd ((tile == 0) && (fld w 8 16 == 0)) (.copy (chq.setWidth 3) sl sa sb (fld w 0 1 == 1) asof gather bar)
  | 2 => grd ((sl == 0) && (sa == 0) && (sb == 0) && (sc == 0) && (tile == 0) && (imm == 0)) (.cbatch (chq.setWidth 3))
  | 3 => grd ((sl == 0) && (sa == 0) && (sb == 0) && (sc == 0) && (tile == 0) && (imm.toNat < 16)) (.cwait (chq.setWidth 3) (imm.setWidth 4))
  | 4 => grd ((sl == 0) && (sa == 0) && (sb == 0) && (sc == 0) && (tile == 0) && (imm == 0)) (.publish (chq.setWidth 3))
  | 5 =>
    (grd ((chq == 0) && (sa == 0) && (sb == 0) && (sc == 0) && (imm == 0)) (.ctset sl tile)) <|>
    (grd ((chq == 0) && (sl.toNat < 4) && (sa == 0) && (sb == 0) && (sc == 0) && (imm == 1)) (.ctsetCode (sl.setWidth 2) tile))
  | 6 => grd ((sl == 0) && (sb == 0) && (sc == 0) && (tile == 0) && (imm.toNat < 8)) (.cstat sa (chq.setWidth 3) (imm.setWidth 2) (imm.getLsbD 2))
  | 16 => (EType.ofCode (sl.setWidth 4)).bind fun t => grd ((sl.toNat < 16) && (sc == 0) && (fld w 8 16 == 0) && (fld w 2 2 == 0)) (.ixscan (chq.setWidth 1) (imm.getLsbD 1) t tile sa sb (imm.getLsbD 0) (fld w 4 4))
  | 17 => grd ((sl == 0) && (tile == 0) && (fld w 8 16 == 0) && (fld w 1 3 == 0)) (.ixbmap (chq.setWidth 1) sa sc sb (imm.getLsbD 0) (fld w 4 4))
  | 18 => grd ((sl == 0) && (tile == 0) && (fld w 8 16 == 0) && (fld w 1 3 == 0)) (.ixrle (chq.setWidth 1) sa sc sb (imm.getLsbD 0) (fld w 4 4))
  | 19 => grd ((sl == 0) && (sa == 0) && (sb == 0) && (sc == 0) && (tile == 0) && (imm == 0)) (.ixclr (chq.setWidth 1))
  | 24 => grd ((sl.toNat < 8) && (sc == 0) && (fld w 18 6 == 0) && (fld w 1 3 == 0)) (.spred (chq.setWidth 1) (sl.setWidth 3) tile sa sb (fld w 8 10) (imm.getLsbD 0) (fld w 4 4))
  | 25 => grd ((sl.toNat < 8) && (fld w 18 6 == 0) && (fld w 1 3 == 0)) (.guard (chq.setWidth 1) (sl.setWidth 3) tile sa sb sc (fld w 8 10) (imm.getLsbD 0) (fld w 4 4))
  | 32 =>
    ((DKind.ofCode sl).bind fun kind => grd ((chq == 0) && (sc == 0) && (imm == 0)) (.dqry kind tile sa sb)) <|>
    ((DKind.ofCode sl).bind fun kind => grd ((chq == 0) && (sc == 0) && (imm == 0x800000)) (.dqryQ kind tile sa sb))
  | 33 => (DPred.ofCode (sl.setWidth 3)).bind fun pred => (readPush (fld w 1 1) chq).bind fun q => (readScore (fld w 15 1) (fld w 8 7)).bind fun score => grd ((sl.toNat < 8) && (fld w 21 3 == 0) && (fld w 2 2 == 0)) (.dscan q pred sa sb sc tile score (fld w 16 5) (imm.getLsbD 0) (fld w 4 4))
  | 34 => grd ((chq == 0) && (sl == 0) && (sc == 0) && (tile == 0) && (imm == 0)) (.drefr sa sb)
  | 40 =>
    (grd ((chq == 0) && (sl == 0) && (fld w 23 1 == 0) && (fld w 0 16 == 0)) (.rcallR (fld w 22 1 == 1) (fld w 21 1 == 1) tile sa sb sc (fld w 16 5))) <|>
    (grd ((chq == 0) && (sl == 0) && (fld w 23 1 == 1) && (fld w 0 16 == 0)) (.rcallQ (fld w 22 1 == 1) (fld w 21 1 == 1) tile sa sb sc (fld w 16 5)))
  | 41 => grd ((chq == 0) && (sl == 0) && (sb == 0) && (sc == 0) && (tile == 0) && (fld w 21 3 == 0) && (fld w 1 15 == 0)) (.rstat (imm.getLsbD 0) (fld w 16 5) sa)
  | 42 => grd ((chq == 0) && (sl == 0) && (tile == 0) && (imm == 0)) (.promote sa sb sc)
  | 48 => grd ((chq == 0) && (sl == 0) && (sb == 0) && (sc == 0) && (tile == 0) && (imm == 0)) (.lnseq sa)
  | 49 => grd ((chq == 0) && (sl == 0) && (sa == 0) && (sb == 0) && (sc == 0) && (tile == 0) && (fld w 21 3 == 0) && (fld w 0 16 == 0)) (.lnwait (fld w 16 5))
  | 50 => grd ((chq == 0) && (sl == 0) && (sa == 0) && (sb == 0) && (sc == 0) && (tile == 0) && (imm == 0)) (.dfence)
  | 51 => grd ((chq == 0) && (sl == 0) && (tile == 0) && (fld w 21 3 == 0)) (.bmac (fld w 16 5) sa sb sc (fld w 0 16))
  | 52 => grd ((chq == 0) && (sl == 0) && (sb == 0) && (sc == 0) && (imm == 0)) (.rret tile sa)
  | _ => none

/-- The SY slot but for NOP and ILL; its mode byte is read apart (R48, R53, R251, R275, R297). -/
def rawSY (w : Word) : Option Instr :=
  let op := (fld w 56 8).toNat
  let bar := fld w 48 8
  let sa := fld w 43 5
  let sb := fld w 38 5
  let imm := fld w 8 30
  match op with
  | 1 => grd ((sb == 0) && (imm.toNat < 2)) (.bset (imm == 1) (bar.setWidth 3) sa)
  | 2 => grd ((imm.toNat < 65536)) (.binc (bar.setWidth 3) sa sb (imm.setWidth 16))
  | 3 => grd ((sa == 0) && (sb == 0) && (imm == 0)) (.waitb (bar.setWidth 3))
  | 4 => grd ((sb == 0) && (imm == 0)) (.waitany sa bar)
  | 5 => grd ((bar == 0) && (sa == 0) && (sb == 0) && (imm == 0)) (.qend)
  | 6 => grd ((bar == 0)) (.fork sa sb imm)
  | 7 => grd ((bar == 0) && (sa == 0) && (sb == 0) && (imm == 0)) (.join)
  | 8 => grd ((bar == 0) && (sa == 0) && (sb == 0) && (imm == 0)) (.exit)
  | 9 => grd ((bar == 0) && (sa == 0) && (sb == 0) && (imm == 0)) (.yield)
  | 10 => grd ((sa == 0) && (sb == 0) && (imm == 0)) (.gjoin (bar.setWidth 6))
  | 11 => grd ((sa == 0) && (sb == 0) && (imm == 0)) (.gleave (bar.setWidth 6))
  | 12 => grd ((sa == 0) && (sb == 0) && (imm == 0)) (.gbar (bar.setWidth 6))
  | 13 => grd ((bar == 0) && (sa == 0) && (sb == 0) && (imm == 0)) (.cbar)
  | 14 => grd ((bar == 0) && (sa == 0) && (sb == 0) && (imm == 0)) (.drain)
  | 15 => grd ((bar == 0) && (sb == 0) && (imm.toNat < 64)) (.prio sa (imm.setWidth 6))
  | 16 => grd (true) (.spawng (bar.setWidth 6) sa sb imm)
  | 17 => grd ((bar == 0) && (sa == 0) && (sb == 0) && (imm == 0)) (.fencel)
  | 18 => grd ((bar == 0) && (sb == 0) && (imm == 0)) (.halt sa)
  | _ => none

/-- A number that the field shows to be out of range (R238, R257, R48, R297, R46): class and number of R88. -/
def fieldRange (i : Instr) (w : Word) : Option (Nat × Nat) :=
  let chq := (fld w 52 4).toNat
  let bar := (fld w 48 8).toNat
  match i with
  | .copy .. | .cbatch .. | .cwait .. | .publish .. | .cstat .. => if 8 ≤ chq then some (5, chq) else none
  | .ixscan .. | .ixbmap .. | .ixrle .. | .ixclr .. | .spred .. | .guard .. => if 2 ≤ chq then some (6, chq) else none
  | .dscan (some _) .. => if 2 ≤ chq then some (6, chq) else none
  | .rcallR _ _ _ _ _ sc _ | .rcallQ _ _ _ _ _ sc _ => if 24 < sc.toNat then some (1, sc.toNat) else none
  | .bset .. | .binc .. | .waitb .. => if 8 ≤ bar then some (7, bar) else none
  | .gjoin .. | .gleave .. | .gbar .. | .spawng .. => if 64 ≤ bar then some (8, bar) else none
  | _ => none

/-- The one number that its own field can name out of range: the first of the eight scalars of a remote call (R359). -/
def Instr.inRange : Instr → Bool
  | .rcallR _ _ _ _ _ sc _ | .rcallQ _ _ _ _ _ sc _ => sc.toNat ≤ 24
  | _ => true

/-- The layout of one slot, NOP and ILL first (R24, R25). -/
def rawSlot (s : Slot) (w : Word) : Option Instr :=
  let op := (fld w 56 8).toNat
  if op = 0xFF then some (.ill s)
  else if op = 0 then
    (match s with
     | .sy => grd (fld w 8 48 == 0) (.nop s)
     | _ => grd (fld w 0 56 == 0) (.nop s))
  else
    match s with
    | .sc => rawSC w
    | .va => rawV .va w
    | .vb => (rawV .vb w).orElse fun _ => rawVB w
    | .mx => rawMX w
    | .ld => rawLD w
    | .st => rawST w
    | .cp => rawCP w
    | .sy => rawSY w

/-- Decode one slot: the layout, the value checks, then the ranges its fields show (R26, R28: 0x01 before 0x03). -/
def decodeSlot (s : Slot) (w : Word) : Dec :=
  match rawSlot s w with
  | none => .illegal
  | some i =>
    if i.wf then
      match fieldRange i w with
      | some (c, n) => .range c n
      | none => .ok i
    else .illegal

/-- The mode byte (R31); none where RND or a zero bit makes it illegal. -/
def decodeMode (b : Byte) : Option Mode :=
  if b.extractLsb' 0 2 = 0 then
    (Rnd.ofCode (b.extractLsb' 4 3)).map fun r =>
      { sp := b.getLsbD 7, rnd := r, sat := b.getLsbD 3, ftz := b.getLsbD 2 }
  else none

/-- Slot `s` of a bundle's 512 bits (R18, R19). -/
def slotWord (b : Line) (s : Slot) : Word := b.extractLsb' (64 * s.index) 64

/-- The slots in slot order. -/
def Slot.all : List Slot := [.sc, .va, .vb, .mx, .ld, .st, .cp, .sy]

/-- The first slot of a bundle that holds no NOP, decoded; NOP where every slot holds one; none where a slot is refused. -/
def firstInstr (b : Line) : List Slot → Option Instr
  | [] => some (.nop .sc)
  | s :: ss =>
    match decodeSlot s (slotWord b s) with
    | .ok (.nop _) => firstInstr b ss
    | .ok i => some i
    | _ => none

/-- The instruction read from the bundle whose low `nbits` bits are `w` and whose other bits are zero. -/
def decodeTableWord (nbits w : Nat) : Option Instr :=
  firstInstr (BitVec.ofNat 512 (w % 2 ^ nbits)) Slot.all

/-! ### Micro-words (R223) -/

/-- Decode a micro-word; none for an undefined operation or a nonzero unnamed bit (fault subcode 0x01). -/
def decodeMicro (w : MicroWord) : Option Instr :=
  let f (lo n : Nat) : BitVec n := w.extractLsb' lo n
  match (f 120 8).toNat with
  | 1 => grd (f 104 3 == 0)
      (.agset (f 117 3) (f 114 3) (f 113 1 == 1) (f 112 1 == 1) (f 110 2) (f 107 3) (f 80 24) (f 60 20) (f 40 20) (f 20 20) (f 0 20))
  | 2 => grd (f 0 104 == 0) (.agmc (f 117 3) (f 115 2) (f 107 8) (f 104 3))
  | 3 => grd (f 0 120 == 0) .mzero
  | 4 => grd (f 0 110 == 0) (.mma (f 116 4) (f 112 4) (f 110 2))
  | 5 => grd (f 0 84 == 0 && f 112 1 == 0) (.mloop (f 118 2) (f 116 2) (f 113 3) (f 100 12) (f 84 16))
  | 6 => grd (f 0 118 == 0) (.mend (f 118 2))
  | 7 => grd (f 0 120 == 0) .mout
  | 8 => grd (f 0 72 == 0 && f 112 2 == 0) (.mcount (f 118 2) (f 115 3) (f 114 1 == 1) (f 96 16) (f 72 24))
  | 9 => grd (f 0 120 == 0) .myield
  | 10 => grd (f 0 120 == 0) .mstop
  | _ => none

/-! ### The encoder -/

def encSR (op : BitVec 8) (sd sa sb sc : BitVec 5) (fn : BitVec 4) : Word :=
  op ++ sd ++ sa ++ sb ++ sc ++ fn ++ (0 : BitVec 32)
def encSI (op : BitVec 8) (sd sa : BitVec 5) (imm : BitVec 32) : Word := op ++ sd ++ sa ++ imm ++ (0 : BitVec 14)
def encSB (op : BitVec 8) (f1 f2 : BitVec 5) (disp : BitVec 32) (cc : BitVec 4) : Word :=
  op ++ f1 ++ f2 ++ disp ++ cc ++ (0 : BitVec 10)
def encSL (op : BitVec 8) (sa : BitVec 5) (count : BitVec 16) (last : BitVec 21) : Word :=
  op ++ sa ++ count ++ last ++ (0 : BitVec 14)
def encSM (op : BitVec 8) (sd base : BitVec 5) (disp : BitVec 32) (size : BitVec 2) (q : BitVec 1) (f : BitVec 4)
    (sv : BitVec 5) : Word :=
  op ++ sd ++ base ++ disp ++ size ++ q ++ f ++ sv ++ (0 : BitVec 2)
def encV (op : BitVec 8) (td : BitVec 7) (m : BitVec 3) (a b c : BitVec 10) (et : BitVec 4) (s : BitVec 1) (fn : BitVec 3)
    (imm : BitVec 8) : Word :=
  op ++ td ++ m ++ a ++ b ++ c ++ et ++ s ++ fn ++ imm
def encVI (op : BitVec 8) (td : BitVec 7) (m : BitVec 3) (imm : BitVec 32) (et : BitVec 4) : Word :=
  op ++ td ++ m ++ (0 : BitVec 10) ++ imm ++ et
def encMXR (op : BitVec 8) (q : BitVec 1) (rtn : BitVec 8) (t : BitVec 7) (acc out : BitVec 1) : Word :=
  op ++ q ++ rtn ++ t ++ acc ++ out ++ (0 : BitVec 38)
def encMXP (op : BitVec 8) (p : BitVec 3) (sa : BitVec 5) (imm : BitVec 38) : Word :=
  op ++ (0 : BitVec 1) ++ p ++ sa ++ (0 : BitVec 9) ++ imm
def encMXQ (op : BitVec 8) (q : BitVec 1) (sd : BitVec 5) : Word :=
  op ++ q ++ (0 : BitVec 3) ++ sd ++ (0 : BitVec 47)
def encLS (op : BitVec 8) (reg : BitVec 7) (base stride : BitVec 5) (cf wb : BitVec 1) (rows : BitVec 4) (disp : BitVec 32) :
    Word :=
  op ++ reg ++ base ++ stride ++ cf ++ wb ++ rows ++ (0 : BitVec 1) ++ disp
def encCP (op : BitVec 8) (chq : BitVec 4) (sl : BitVec 6) (sa sb sc : BitVec 5) (tile : BitVec 7) (imm : BitVec 24) : Word :=
  op ++ chq ++ sl ++ sa ++ sb ++ sc ++ tile ++ imm
def encSY (op bar : BitVec 8) (sa sb : BitVec 5) (imm : BitVec 30) : Word :=
  op ++ bar ++ sa ++ sb ++ imm ++ (0 : BitVec 8)

def encMSet (md : MReg) : MSetKind → Word
  | .all v => encV 0x56 (md.setWidth 7) 0 0 0 0 0 0 0 (BitVec.ofNat 8 v.toNat)
  | .pre t sb => encV 0x56 (md.setWidth 7) 0 0 (sb.setWidth 10) 0 (BitVec.ofNat 4 t.code) 0 1 0
  | .rowpre t sb => encV 0x56 (md.setWidth 7) 0 0 (sb.setWidth 10) 0 (BitVec.ofNat 4 t.code) 0 2 0
def encChDom : ChDom → Word
  | .set fd fa sb => encV 0x6B (fd.setWidth 7) 0 (fa.setWidth 10) (sb.setWidth 10) 0 0 0 0 0
  | .get sd fa => encV 0x6B (sd.setWidth 7) 0 (fa.setWidth 10) 0 0 0 0 1 0
  | .pts td fa n => encV 0x6B td 0 (fa.setWidth 10) 0 0 0 0 2 n
def encChMov : ChMov → Word
  | .move fd fa => encV 0x6C (fd.setWidth 7) 0 (fa.setWidth 10) 0 0 0 0 0 0
  | .toTile td fa => encV 0x6C td 0 (fa.setWidth 10) 0 0 0 0 1 0
  | .ofTile fd ta => encV 0x6C (fd.setWidth 7) 0 (encTSrc ta) 0 0 0 0 2 0
def encCopy (ch : BitVec 3) (n : BitVec 6) (sa sb : SReg) (snap : Bool) (asof : Option SReg) (gather : Option QNo)
    (bar : Option BNo) : Word :=
  encCP 0x01 (ch.setWidth 4) n sa sb (asof.getD 0) 0
    ((0 : BitVec 16) ++ bar.getD 0 ++ BitVec.ofBool bar.isSome ++ gather.getD 0 ++ BitVec.ofBool gather.isSome ++
      BitVec.ofBool asof.isSome ++ BitVec.ofBool snap)
def encDscan (q : Option QNo) (pred : DPred) (sa sb sc : SReg) (ta : TReg) (score : Option TReg) (sd : SReg) (keep : Bool)
    (rate : BitVec 4) : Word :=
  encCP 0x21 ((q.getD 0).setWidth 4) (BitVec.ofNat 6 pred.code) sa sb sc ta
    ((0 : BitVec 3) ++ sd ++ BitVec.ofBool score.isSome ++ score.getD 0 ++ rate ++ (0 : BitVec 2) ++ BitVec.ofBool q.isSome ++
      BitVec.ofBool keep)

/-- The word of a slot instruction, from the encoding tables of the spec; the SY slot's mode byte is left zero. -/
def encodeSlot : Instr → Word
  | .nop _ => 0
  | .ill _ => 0xFF00000000000000
  | .add sd sa sb => encSR 0x01 sd sa sb 0 0
  | .sub sd sa sb => encSR 0x02 sd sa sb 0 0
  | .and sd sa sb => encSR 0x03 sd sa sb 0 0
  | .or sd sa sb => encSR 0x04 sd sa sb 0 0
  | .xor sd sa sb => encSR 0x05 sd sa sb 0 0
  | .shl sd sa sb => encSR 0x06 sd sa sb 0 0
  | .shr sd sa sb => encSR 0x07 sd sa sb 0 0
  | .sar sd sa sb => encSR 0x08 sd sa sb 0 0
  | .mul sd sa sb => encSR 0x09 sd sa sb 0 0
  | .mulh sd sa sb => encSR 0x0A sd sa sb 0 0
  | .mulhu sd sa sb => encSR 0x0B sd sa sb 0 0
  | .div sd sa sb => encSR 0x0C sd sa sb 0 0
  | .divu sd sa sb => encSR 0x0D sd sa sb 0 0
  | .rem sd sa sb => encSR 0x0E sd sa sb 0 0
  | .remu sd sa sb => encSR 0x0F sd sa sb 0 0
  | .min sd sa sb => encSR 0x10 sd sa sb 0 0
  | .max sd sa sb => encSR 0x11 sd sa sb 0 0
  | .minu sd sa sb => encSR 0x12 sd sa sb 0 0
  | .maxu sd sa sb => encSR 0x13 sd sa sb 0 0
  | .sel sd sa sb sc => encSR 0x14 sd sa sb sc 0
  | .cmp cc sd sa sb => encSR 0x15 sd sa sb 0 (BitVec.ofNat 4 cc.code)
  | .clz sd sa => encSR 0x16 sd sa 0 0 0
  | .popc sd sa => encSR 0x17 sd sa 0 0 0
  | .brev sd sa => encSR 0x18 sd sa 0 0 0
  | .addi sd sa imm => encSI 0x20 sd sa imm
  | .andi sd sa imm => encSI 0x21 sd sa imm
  | .ori sd sa imm => encSI 0x22 sd sa imm
  | .xori sd sa imm => encSI 0x23 sd sa imm
  | .shli sd sa amt => encSI 0x24 sd sa (amt.setWidth 32)
  | .shri sd sa amt => encSI 0x25 sd sa (amt.setWidth 32)
  | .sari sd sa amt => encSI 0x26 sd sa (amt.setWidth 32)
  | .li sd imm => encSI 0x27 sd 0 imm
  | .lih sd imm => encSI 0x28 sd 0 imm
  | .cmpi cc sd sa imm => encSI 0x29 sd sa (imm ++ BitVec.ofNat 4 cc.code)
  | .fadd sd sa sb => encSR 0x30 sd sa sb 0 0
  | .fsub sd sa sb => encSR 0x31 sd sa sb 0 0
  | .fmul sd sa sb => encSR 0x32 sd sa sb 0 0
  | .ffma sd sa sb sc => encSR 0x33 sd sa sb sc 0
  | .fmin sd sa sb => encSR 0x34 sd sa sb 0 0
  | .fmax sd sa sb => encSR 0x35 sd sa sb 0 0
  | .fcmp cc sd sa sb => encSR 0x36 sd sa sb 0 (BitVec.ofNat 4 cc.code)
  | .fcvt k sd sa => encSR 0x37 sd sa 0 0 (BitVec.ofNat 4 k.code)
  | .j disp => encSB 0x40 0 0 disp 0
  | .jr sa => encSR 0x41 0 sa 0 0 0
  | .call f1 disp => encSB 0x42 f1 0 disp 0
  | .callr sd sa => encSR 0x43 sd sa 0 0 0
  | .ret sa => encSR 0x44 0 sa 0 0 0
  | .bz f1 disp => encSB 0x45 f1 0 disp 0
  | .bnz f1 disp => encSB 0x46 f1 0 disp 0
  | .bcmp cc f1 f2 disp => encSB 0x47 f1 f2 disp (BitVec.ofNat 4 cc.code)
  | .loop sa last => encSL 0x48 sa 0 last
  | .loopi count last => encSL 0x49 0 count last
  | .gld size sd base disp => encSM 0x50 sd base disp size 0 0 0
  | .gldQ size sd base disp => encSM 0x50 sd base disp size 1 0 0
  | .gst size sd base disp => encSM 0x51 sd base disp size 0 0 0
  | .gamo f size sd base disp sv => encSM 0x52 sd base disp size 0 (BitVec.ofNat 4 f.code) sv
  | .csrr sd n => encSI 0x60 sd 0 (n.setWidth 32)
  | .csrw n sa => encSI 0x61 0 sa (n.setWidth 32)
  | .svc n => encSI 0x62 0 0 n
  | .tret => encSR 0x63 0 0 0 0 0
  | .brk n => encSI 0x64 0 0 n
  | .tsc sd => encSR 0x65 sd 0 0 0 0
  | .ixpop q sd => encSR 0x66 sd 0 0 0 (q.setWidth 4)
  | .ixpeek q sd sa => encSR 0x67 sd sa 0 0 (q.setWidth 4)
  | .vadd _ td m a b t => encV 0x01 td m (encTSrc a) (encBSrc b) 0 (BitVec.ofNat 4 t.code) (encBSrcS b) 0 0
  | .vsub _ td m a b t => encV 0x02 td m (encTSrc a) (encBSrc b) 0 (BitVec.ofNat 4 t.code) (encBSrcS b) 0 0
  | .vmul _ td m a b t => encV 0x03 td m (encTSrc a) (encBSrc b) 0 (BitVec.ofNat 4 t.code) (encBSrcS b) 0 0
  | .vfma _ td m a b c t => encV 0x04 td m (encTSrc a) (encBSrc b) (encTSrc c) (BitVec.ofNat 4 t.code) (encBSrcS b) 0 0
  | .vfms _ td m a b c t => encV 0x05 td m (encTSrc a) (encBSrc b) (encTSrc c) (BitVec.ofNat 4 t.code) (encBSrcS b) 0 0
  | .vfnma _ td m a b c t => encV 0x06 td m (encTSrc a) (encBSrc b) (encTSrc c) (BitVec.ofNat 4 t.code) (encBSrcS b) 0 0
  | .vmin _ td m a b t => encV 0x07 td m (encTSrc a) (encBSrc b) 0 (BitVec.ofNat 4 t.code) (encBSrcS b) 0 0
  | .vmax _ td m a b t => encV 0x08 td m (encTSrc a) (encBSrc b) 0 (BitVec.ofNat 4 t.code) (encBSrcS b) 0 0
  | .vabs _ td m a t => encV 0x09 td m (encTSrc a) 0 0 (BitVec.ofNat 4 t.code) 0 0 0
  | .vneg _ td m a t => encV 0x0A td m (encTSrc a) 0 0 (BitVec.ofNat 4 t.code) 0 0 0
  | .vcmp _ cc md m a b t => encV 0x0B (md.setWidth 7) m (encTSrc a) (encBSrc b) 0 (BitVec.ofNat 4 t.code) (encBSrcS b) (BitVec.ofNat 3 cc.code) 0
  | .vsel _ td m a b t => encV 0x0C td m (encTSrc a) (encBSrc b) 0 (BitVec.ofNat 4 t.code) (encBSrcS b) 0 0
  | .vclamp _ td m a b c t => encV 0x0D td m (encTSrc a) (encBSrc b) (encTSrc c) (BitVec.ofNat 4 t.code) (encBSrcS b) 0 0
  | .viadd _ td m a b t => encV 0x10 td m (encTSrc a) (encBSrc b) 0 (BitVec.ofNat 4 t.code) (encBSrcS b) 0 0
  | .visub _ td m a b t => encV 0x11 td m (encTSrc a) (encBSrc b) 0 (BitVec.ofNat 4 t.code) (encBSrcS b) 0 0
  | .vimul _ td m a b t => encV 0x12 td m (encTSrc a) (encBSrc b) 0 (BitVec.ofNat 4 t.code) (encBSrcS b) 0 0
  | .vimulh _ td m a b t => encV 0x13 td m (encTSrc a) (encBSrc b) 0 (BitVec.ofNat 4 t.code) (encBSrcS b) 0 0
  | .vshl _ td m a b t => encV 0x14 td m (encTSrc a) (encBSrc b) 0 (BitVec.ofNat 4 t.code) (encBSrcS b) 0 0
  | .vshr _ td m a b t => encV 0x15 td m (encTSrc a) (encBSrc b) 0 (BitVec.ofNat 4 t.code) (encBSrcS b) 0 0
  | .vsar _ td m a b t => encV 0x16 td m (encTSrc a) (encBSrc b) 0 (BitVec.ofNat 4 t.code) (encBSrcS b) 0 0
  | .vand _ td m a b t => encV 0x17 td m (encTSrc a) (encBSrc b) 0 (BitVec.ofNat 4 t.code) (encBSrcS b) 0 0
  | .vor _ td m a b t => encV 0x18 td m (encTSrc a) (encBSrc b) 0 (BitVec.ofNat 4 t.code) (encBSrcS b) 0 0
  | .vxor _ td m a b t => encV 0x19 td m (encTSrc a) (encBSrc b) 0 (BitVec.ofNat 4 t.code) (encBSrcS b) 0 0
  | .vnot _ td m a t => encV 0x1A td m (encTSrc a) 0 0 (BitVec.ofNat 4 t.code) 0 0 0
  | .vicmp _ cc md m a b t => encV 0x1B (md.setWidth 7) m (encTSrc a) (encBSrc b) 0 (BitVec.ofNat 4 t.code) (encBSrcS b) (BitVec.ofNat 3 cc.code) 0
  | .vimin _ td m a b t => encV 0x1C td m (encTSrc a) (encBSrc b) 0 (BitVec.ofNat 4 t.code) (encBSrcS b) 0 0
  | .vimax _ td m a b t => encV 0x1D td m (encTSrc a) (encBSrc b) 0 (BitVec.ofNat 4 t.code) (encBSrcS b) 0 0
  | .vpopc _ td m a t => encV 0x1E td m (encTSrc a) 0 0 (BitVec.ofNat 4 t.code) 0 0 0
  | .vclz _ td m a t => encV 0x1F td m (encTSrc a) 0 0 (BitVec.ofNat 4 t.code) 0 0 0
  | .vcvt _ td m a t src part => encV 0x20 td m (encTSrc a) 0 0 (BitVec.ofNat 4 t.code) 0 0 ((0 : BitVec 1) ++ part ++ BitVec.ofNat 4 src.code)
  | .vpack _ scale td a t ktype q => encV 0x21 td 0 (encTSrc a) 0 0 (BitVec.ofNat 4 t.code) 0 (BitVec.ofNat 3 scale.toNat) (ktype ++ (0 : BitVec 3) ++ q)
  | .vunpack _ td m a b t xv q => encV 0x22 td m (encTSrc a) (encTSrc b) 0 (BitVec.ofNat 4 t.code) 0 0 ((0 : BitVec 2) ++ xv ++ (0 : BitVec 1) ++ q)
  | .vmov _ td m a t => encV 0x23 td m (encTSrc a) 0 0 (BitVec.ofNat 4 t.code) 0 0 0
  | .vmovs _ td m sb t => encV 0x24 td m 0 (encScalarField sb) 0 (BitVec.ofNat 4 t.code) 1 0 0
  | .vmovi _ td m imm t => encVI 0x25 td m imm (BitVec.ofNat 4 t.code)
  | .vext _ sd a sb t => encV 0x26 (sd.setWidth 7) 0 (encTSrc a) (encScalarField sb) 0 (BitVec.ofNat 4 t.code) 1 0 0
  | .vins _ td a sb sc t => encV 0x27 td 0 (encTSrc a) (encScalarField sb) (sc.setWidth 10) (BitVec.ofNat 4 t.code) 1 0 0
  | .viota _ td m sb t => encV 0x28 td m 0 (encOptScalar sb) 0 (BitVec.ofNat 4 t.code) (BitVec.ofBool sb.isSome) 0 0
  | .vrotr _ td m a k t => encV 0x30 td m (encTSrc a) (encRotB k) 0 (BitVec.ofNat 4 t.code) (encRotS k) 0 (encRotI k)
  | .vrotc _ td m a k t => encV 0x31 td m (encTSrc a) (encRotB k) 0 (BitVec.ofNat 4 t.code) (encRotS k) 0 (encRotI k)
  | .vbcr _ td m a k t => encV 0x32 td m (encTSrc a) (encRotB k) 0 (BitVec.ofNat 4 t.code) (encRotS k) 0 (encRotI k)
  | .vbcc _ td m a k t => encV 0x33 td m (encTSrc a) (encRotB k) 0 (BitVec.ofNat 4 t.code) (encRotS k) 0 (encRotI k)
  | .vredr _ op td m a t => encV 0x34 td m (encTSrc a) 0 0 (BitVec.ofNat 4 t.code) 0 (BitVec.ofNat 3 op.code) 0
  | .vredc _ op td m a t => encV 0x35 td m (encTSrc a) 0 0 (BitVec.ofNat 4 t.code) 0 (BitVec.ofNat 3 op.code) 0
  | .vperm _ td m a b t => encV 0x36 td m (encTSrc a) (encTSrc b) 0 (BitVec.ofNat 4 t.code) 0 0 0
  | .vrcp _ td m a t => encV 0x40 td m (encTSrc a) 0 0 (BitVec.ofNat 4 t.code) 0 0 0
  | .vrsq _ td m a t => encV 0x41 td m (encTSrc a) 0 0 (BitVec.ofNat 4 t.code) 0 0 0
  | .vexp2 _ td m a t => encV 0x42 td m (encTSrc a) 0 0 (BitVec.ofNat 4 t.code) 0 0 0
  | .vlog2 _ td m a t => encV 0x43 td m (encTSrc a) 0 0 (BitVec.ofNat 4 t.code) 0 0 0
  | .vmerge _ desc idx hi td m a b t => encV 0x48 td m (encTSrc a) (encTSrc b) 0 (BitVec.ofNat 4 t.code) 0 (BitVec.ofBool hi ++ BitVec.ofBool idx ++ BitVec.ofBool desc) 0
  | .vsort _ desc idx td m a t => encV 0x49 td m (encTSrc a) 0 0 (BitVec.ofNat 4 t.code) 0 ((0 : BitVec 1) ++ BitVec.ofBool idx ++ BitVec.ofBool desc) 0
  | .vtopk _ least idx td m a k t => encV 0x4A td m (encTSrc a) 0 0 (BitVec.ofNat 4 t.code) 0 ((0 : BitVec 1) ++ BitVec.ofBool idx ++ BitVec.ofBool least) k
  | .vbound _ td m a b c g => encV 0x4B td m (encTSrc a) (encTSrc b) (encTSrc c) 0 0 0 g
  | .mand _ md ma mb => encV 0x50 (md.setWidth 7) 0 (ma.setWidth 10) (mb.setWidth 10) 0 0 0 0 0
  | .mor _ md ma mb => encV 0x51 (md.setWidth 7) 0 (ma.setWidth 10) (mb.setWidth 10) 0 0 0 0 0
  | .mxor _ md ma mb => encV 0x52 (md.setWidth 7) 0 (ma.setWidth 10) (mb.setWidth 10) 0 0 0 0 0
  | .mnot _ md ma => encV 0x53 (md.setWidth 7) 0 (ma.setWidth 10) 0 0 0 0 0 0
  | .mpopc _ sd ma t => encV 0x54 (sd.setWidth 7) 0 (ma.setWidth 10) 0 0 (BitVec.ofNat 4 t.code) 0 0 0
  | .mfirst _ sd ma t => encV 0x55 (sd.setWidth 7) 0 (ma.setWidth 10) 0 0 (BitVec.ofNat 4 t.code) 0 0 0
  | .mset _ md k => encMSet md k
  | .cheval clamp td m fa b => encV 0x60 td m (fa.setWidth 10) (encBSrc b) 0 0 (encBSrcS b) (BitVec.ofNat 3 clamp.toNat) 0
  | .chfit fd ta sc n => encV 0x61 (fd.setWidth 7) 0 (encTSrc ta) 0 (sc.setWidth 10) 0 0 0 n
  | .chadd fd fa fb => encV 0x62 (fd.setWidth 7) 0 (fa.setWidth 10) (fb.setWidth 10) 0 0 0 0 0
  | .chsub fd fa fb => encV 0x63 (fd.setWidth 7) 0 (fa.setWidth 10) (fb.setWidth 10) 0 0 0 0 0
  | .chmul fd fa fb => encV 0x64 (fd.setWidth 7) 0 (fa.setWidth 10) (fb.setWidth 10) 0 0 0 0 0
  | .chscl addv fd fa sb => encV 0x65 (fd.setWidth 7) 0 (fa.setWidth 10) (sb.setWidth 10) 0 0 0 (BitVec.ofNat 3 addv.toNat) 0
  | .chcmp fd fa fb n => encV 0x66 (fd.setWidth 7) 0 (fa.setWidth 10) (fb.setWidth 10) 0 0 0 0 n
  | .chint fd fa => encV 0x67 (fd.setWidth 7) 0 (fa.setWidth 10) 0 0 0 0 0 0
  | .chdif fd fa => encV 0x68 (fd.setWidth 7) 0 (fa.setWidth 10) 0 0 0 0 0 0
  | .chroot td sb fa row => encV 0x69 td 0 (fa.setWidth 10) (sb.setWidth 10) 0 0 0 0 (row.setWidth 8)
  | .chtrn fd fa tol n => encV 0x6A (fd.setWidth 7) 0 (fa.setWidth 10) (encTol tol) 0 0 0 (BitVec.ofNat 3 tol.isSome.toNat) n
  | .chdom k => encChDom k
  | .chmov k => encChMov k
  | .chfree fd => encV 0x6D (fd.setWidth 7) 0 0 0 0 0 0 0 0
  | .mcall lo acc out tn rtn => encMXR 0x01 (BitVec.ofBool lo) rtn tn (BitVec.ofBool acc) (BitVec.ofBool out)
  | .msetp p sa => encMXP 0x02 p sa 0
  | .msetpi p imm => encMXP 0x03 p 0 imm
  | .mstat sd lo => encMXQ 0x04 (BitVec.ofBool lo) sd
  | .mpload rtn ta => encMXR 0x05 0 rtn ta 0 0
  | .mcancel lo => encMXQ 0x06 (BitVec.ofBool lo) 0
  | .ldt clr wt td base stride rows disp => encLS 0x01 td base stride (BitVec.ofBool clr) (BitVec.ofBool wt) rows disp
  | .ldrw clr wt td base srow rows disp => encLS 0x02 td base srow (BitVec.ofBool clr) (BitVec.ofBool wt) rows disp
  | .ldg clr wt td base sp rows disp q => encLS 0x03 td base sp (BitVec.ofBool clr) (BitVec.ofBool wt) rows (disp ++ (0 : BitVec 3) ++ q)
  | .ldx clr wt d td base tx => encLS 0x04 td base 0 (BitVec.ofBool clr) (BitVec.ofBool wt) (BitVec.ofNat 4 d.toNat) (tx.setWidth 32)
  | .lds clr wt size sd base disp => encLS 0x05 (sd.setWidth 7) base 0 (BitVec.ofBool clr) (BitVec.ofBool wt) (size.setWidth 4) disp
  | .ldf clr wt fd base disp => encLS 0x06 (fd.setWidth 7) base 0 (BitVec.ofBool clr) (BitVec.ofBool wt) 0 disp
  | .ldm clr wt md base disp => encLS 0x07 (md.setWidth 7) base 0 (BitVec.ofBool clr) (BitVec.ofBool wt) 0 disp
  | .stt fill ta base stride rows disp => encLS 0x01 ta base stride (BitVec.ofBool fill) 0 rows disp
  | .strw fill ta base srow rows disp => encLS 0x02 ta base srow (BitVec.ofBool fill) 0 rows disp
  | .stx fill d ta base tx => encLS 0x03 ta base 0 (BitVec.ofBool fill) 0 (BitVec.ofNat 4 d.toNat) (tx.setWidth 32)
  | .sts fill size sa base disp => encLS 0x04 (sa.setWidth 7) base 0 (BitVec.ofBool fill) 0 (size.setWidth 4) disp
  | .stf fill fa base disp => encLS 0x05 (fa.setWidth 7) base 0 (BitVec.ofBool fill) 0 0 disp
  | .stm fill ma base disp => encLS 0x06 (ma.setWidth 7) base 0 (BitVec.ofBool fill) 0 0 disp
  | .scor fill d ta base tx => encLS 0x07 ta base 0 (BitVec.ofBool fill) 0 (BitVec.ofNat 4 d.toNat) (tx.setWidth 32)
  | .scadd fill d ta base tx => encLS 0x08 ta base 0 (BitVec.ofBool fill) 0 (BitVec.ofNat 4 d.toNat) (tx.setWidth 32)
  | .scmax fill uns d ta base tx => encLS 0x09 ta base 0 (BitVec.ofBool fill) 0 (BitVec.ofNat 4 (4 * uns.toNat + d.toNat)) (tx.setWidth 32)
  | .scmin fill uns d ta base tx => encLS 0x0A ta base 0 (BitVec.ofBool fill) 0 (BitVec.ofNat 4 (4 * uns.toNat + d.toNat)) (tx.setWidth 32)
  | .sete base stride rows disp => encLS 0x0B 0 base stride 0 0 rows disp
  | .setf base stride rows disp => encLS 0x0C 0 base stride 0 0 rows disp
  | .copy ch n sa sb snap asof gather bar => encCopy ch n sa sb snap asof gather bar
  | .cbatch ch => encCP 0x02 (ch.setWidth 4) 0 0 0 0 0 0
  | .cwait ch m => encCP 0x03 (ch.setWidth 4) 0 0 0 0 0 (m.setWidth 24)
  | .publish ch => encCP 0x04 (ch.setWidth 4) 0 0 0 0 0 0
  | .ctset n ta => encCP 0x05 0 n 0 0 0 ta 0
  | .ctsetCode k ta => encCP 0x05 0 (k.setWidth 6) 0 0 0 ta 1
  | .cstat sd ch sl clr => encCP 0x06 (ch.setWidth 4) 0 sd 0 0 0 ((0 : BitVec 21) ++ BitVec.ofBool clr ++ sl)
  | .ixscan q row t ta sa sb keep rate => encCP 0x10 (q.setWidth 4) (BitVec.ofNat 6 t.code) sa sb 0 ta ((0 : BitVec 16) ++ rate ++ (0 : BitVec 2) ++ BitVec.ofBool row ++ BitVec.ofBool keep)
  | .ixbmap q sa sc sb keep rate => encCP 0x11 (q.setWidth 4) 0 sa sb sc 0 ((0 : BitVec 16) ++ rate ++ (0 : BitVec 3) ++ BitVec.ofBool keep)
  | .ixrle q sa sc sb keep rate => encCP 0x12 (q.setWidth 4) 0 sa sb sc 0 ((0 : BitVec 16) ++ rate ++ (0 : BitVec 3) ++ BitVec.ofBool keep)
  | .ixclr q => encCP 0x13 (q.setWidth 4) 0 0 0 0 0 0
  | .spred q md ta sa sb n1 keep rate => encCP 0x18 (q.setWidth 4) (md.setWidth 6) sa sb 0 ta ((0 : BitVec 6) ++ n1 ++ rate ++ (0 : BitVec 3) ++ BitVec.ofBool keep)
  | .guard q ma tu sa sb sc n1 keep rate => encCP 0x19 (q.setWidth 4) (ma.setWidth 6) sa sb sc tu ((0 : BitVec 6) ++ n1 ++ rate ++ (0 : BitVec 3) ++ BitVec.ofBool keep)
  | .dqry kind td sa sb => encCP 0x20 0 (BitVec.ofNat 6 kind.code) sa sb 0 td 0
  | .dqryQ kind td sa sb => encCP 0x20 0 (BitVec.ofNat 6 kind.code) sa sb 0 td 0x800000
  | .dscan q pred sa sb sc ta score sd keep rate => encDscan q pred sa sb sc ta score sd keep rate
  | .drefr sa sb => encCP 0x22 0 0 sa sb 0 0 0
  | .rcallR re nt tn sa sb sc sd => encCP 0x28 0 0 sa sb sc tn ((0 : BitVec 1) ++ BitVec.ofBool re ++ BitVec.ofBool nt ++ sd ++ (0 : BitVec 16))
  | .rcallQ re nt tn sa sb sc sd => encCP 0x28 0 0 sa sb sc tn ((1 : BitVec 1) ++ BitVec.ofBool re ++ BitVec.ofBool nt ++ sd ++ (0 : BitVec 16))
  | .rstat ack sd sa => encCP 0x29 0 0 sa 0 0 0 ((0 : BitVec 3) ++ sd ++ (0 : BitVec 15) ++ BitVec.ofBool ack)
  | .promote sa sb sc => encCP 0x2A 0 0 sa sb sc 0 0
  | .lnseq sa => encCP 0x30 0 0 sa 0 0 0 0
  | .lnwait sd => encCP 0x31 0 0 0 0 0 0 ((0 : BitVec 3) ++ sd ++ (0 : BitVec 16))
  | .dfence => encCP 0x32 0 0 0 0 0 0 0
  | .bmac sd sa sb sc n => encCP 0x33 0 0 sa sb sc 0 ((0 : BitVec 3) ++ sd ++ n)
  | .rret ta sa => encCP 0x34 0 0 sa 0 0 ta 0
  | .bset clr k sa => encSY 0x01 (k.setWidth 8) sa 0 (BitVec.ofNat 30 clr.toNat)
  | .binc k sa sb n => encSY 0x02 (k.setWidth 8) sa sb (n.setWidth 30)
  | .waitb k => encSY 0x03 (k.setWidth 8) 0 0 0
  | .waitany sd mask => encSY 0x04 mask sd 0 0
  | .qend => encSY 0x05 0 0 0 0
  | .fork sa sb disp => encSY 0x06 0 sa sb disp
  | .join => encSY 0x07 0 0 0 0
  | .exit => encSY 0x08 0 0 0 0
  | .yield => encSY 0x09 0 0 0 0
  | .gjoin g => encSY 0x0A (g.setWidth 8) 0 0 0
  | .gleave g => encSY 0x0B (g.setWidth 8) 0 0 0
  | .gbar g => encSY 0x0C (g.setWidth 8) 0 0 0
  | .cbar => encSY 0x0D 0 0 0 0
  | .drain => encSY 0x0E 0 0 0 0
  | .prio sa n => encSY 0x0F 0 sa 0 (n.setWidth 30)
  | .spawng g sa sb disp => encSY 0x10 (g.setWidth 8) sa sb disp
  | .fencel => encSY 0x11 0 0 0 0
  | .halt sa => encSY 0x12 0 sa 0 0
  | .globalLoadComplete .. | .functionOpComplete .. | .matrixCallStart .. | .matrixCallResume .. | .mploadApply .. |
    .agset .. | .agmc .. | .mzero .. | .mma .. | .mloop .. | .mend .. | .mout .. | .mcount .. | .myield .. |
    .mstop .. | .multicastTimeout .. | .loadComplete .. | .remoteAccessPerform .. | .copyComplete .. | .copyFault .. |
    .indexProducerPush .. | .dqryComplete .. | .remoteCallStart .. | .replyArrival .. | .replyTimeout .. |
    .callRunLimit .. | .sequencerComplete .. | .sequencerStop .. | .sequencerSuspend .. | .sequencerResume .. |
    .ordinaryAccessArrival .. | .bmacComplete .. | .postedWriteDrain .. | .strandEnd .. | .trapEntry .. |
    .safePointOverrun .. | .quantumCommit .. | .qwQuantumEnd .. | .qbQuantumEnd .. | .promotionCopyDone .. |
    .contextTakeWork .. | .stagingComplete .. | .agingTick .. | .clusterReserve .. | .preemptRequest .. |
    .strandSave .. | .strandResume .. | .targetedSelfTest .. | .rowSelfTest .. | .digestAreaSelfTest .. |
    .flitReceive .. | .replayRequest .. | .laneRetire .. | .messageReceive .. | .messageAck .. | .messageResend .. |
    .doorbell .. | .registerWrite .. | .launch .. | .map .. | .unmap .. | .hostcopy .. | .asfortMpload .. |
    .region .. | .regionDelete .. | .tierset .. | .checkpoint .. | .restore .. | .monitorArm .. | .monitorRead .. |
    .monitorClear .. | .selftest .. | .attest .. | .reset .. | .powerOn .. | .thermalLimit .. | .thermalTrip .. |
    .foragerGranuleWrite .. | .dscanComplete .. | .replyAcknowledgement .. => 0

/-- The slot an instruction stands in; none for a micro-operation or an event. -/
def slotOf : Instr → Option Slot
  | .nop s => some s
  | .ill s => some s
  | .add .. => some .sc
  | .sub .. => some .sc
  | .and .. => some .sc
  | .or .. => some .sc
  | .xor .. => some .sc
  | .shl .. => some .sc
  | .shr .. => some .sc
  | .sar .. => some .sc
  | .mul .. => some .sc
  | .mulh .. => some .sc
  | .mulhu .. => some .sc
  | .div .. => some .sc
  | .divu .. => some .sc
  | .rem .. => some .sc
  | .remu .. => some .sc
  | .min .. => some .sc
  | .max .. => some .sc
  | .minu .. => some .sc
  | .maxu .. => some .sc
  | .sel .. => some .sc
  | .cmp .. => some .sc
  | .clz .. => some .sc
  | .popc .. => some .sc
  | .brev .. => some .sc
  | .addi .. => some .sc
  | .andi .. => some .sc
  | .ori .. => some .sc
  | .xori .. => some .sc
  | .shli .. => some .sc
  | .shri .. => some .sc
  | .sari .. => some .sc
  | .li .. => some .sc
  | .lih .. => some .sc
  | .cmpi .. => some .sc
  | .fadd .. => some .sc
  | .fsub .. => some .sc
  | .fmul .. => some .sc
  | .ffma .. => some .sc
  | .fmin .. => some .sc
  | .fmax .. => some .sc
  | .fcmp .. => some .sc
  | .fcvt .. => some .sc
  | .j .. => some .sc
  | .jr .. => some .sc
  | .call .. => some .sc
  | .callr .. => some .sc
  | .ret .. => some .sc
  | .bz .. => some .sc
  | .bnz .. => some .sc
  | .bcmp .. => some .sc
  | .loop .. => some .sc
  | .loopi .. => some .sc
  | .gld .. => some .sc
  | .gldQ .. => some .sc
  | .gst .. => some .sc
  | .gamo .. => some .sc
  | .csrr .. => some .sc
  | .csrw .. => some .sc
  | .svc .. => some .sc
  | .tret .. => some .sc
  | .brk .. => some .sc
  | .tsc .. => some .sc
  | .ixpop .. => some .sc
  | .ixpeek .. => some .sc
  | .vadd u .. => some u.slot
  | .vsub u .. => some u.slot
  | .vmul u .. => some u.slot
  | .vfma u .. => some u.slot
  | .vfms u .. => some u.slot
  | .vfnma u .. => some u.slot
  | .vmin u .. => some u.slot
  | .vmax u .. => some u.slot
  | .vabs u .. => some u.slot
  | .vneg u .. => some u.slot
  | .vcmp u .. => some u.slot
  | .vsel u .. => some u.slot
  | .vclamp u .. => some u.slot
  | .viadd u .. => some u.slot
  | .visub u .. => some u.slot
  | .vimul u .. => some u.slot
  | .vimulh u .. => some u.slot
  | .vshl u .. => some u.slot
  | .vshr u .. => some u.slot
  | .vsar u .. => some u.slot
  | .vand u .. => some u.slot
  | .vor u .. => some u.slot
  | .vxor u .. => some u.slot
  | .vnot u .. => some u.slot
  | .vicmp u .. => some u.slot
  | .vimin u .. => some u.slot
  | .vimax u .. => some u.slot
  | .vpopc u .. => some u.slot
  | .vclz u .. => some u.slot
  | .vcvt u .. => some u.slot
  | .vpack u .. => some u.slot
  | .vunpack u .. => some u.slot
  | .vmov u .. => some u.slot
  | .vmovs u .. => some u.slot
  | .vmovi u .. => some u.slot
  | .vext u .. => some u.slot
  | .vins u .. => some u.slot
  | .viota u .. => some u.slot
  | .vrotr u .. => some u.slot
  | .vrotc u .. => some u.slot
  | .vbcr u .. => some u.slot
  | .vbcc u .. => some u.slot
  | .vredr u .. => some u.slot
  | .vredc u .. => some u.slot
  | .vperm u .. => some u.slot
  | .vrcp u .. => some u.slot
  | .vrsq u .. => some u.slot
  | .vexp2 u .. => some u.slot
  | .vlog2 u .. => some u.slot
  | .vmerge u .. => some u.slot
  | .vsort u .. => some u.slot
  | .vtopk u .. => some u.slot
  | .vbound u .. => some u.slot
  | .mand u .. => some u.slot
  | .mor u .. => some u.slot
  | .mxor u .. => some u.slot
  | .mnot u .. => some u.slot
  | .mpopc u .. => some u.slot
  | .mfirst u .. => some u.slot
  | .mset u .. => some u.slot
  | .cheval .. => some .vb
  | .chfit .. => some .vb
  | .chadd .. => some .vb
  | .chsub .. => some .vb
  | .chmul .. => some .vb
  | .chscl .. => some .vb
  | .chcmp .. => some .vb
  | .chint .. => some .vb
  | .chdif .. => some .vb
  | .chroot .. => some .vb
  | .chtrn .. => some .vb
  | .chdom .. => some .vb
  | .chmov .. => some .vb
  | .chfree .. => some .vb
  | .mcall .. => some .mx
  | .msetp .. => some .mx
  | .msetpi .. => some .mx
  | .mstat .. => some .mx
  | .mpload .. => some .mx
  | .mcancel .. => some .mx
  | .ldt .. => some .ld
  | .ldrw .. => some .ld
  | .ldg .. => some .ld
  | .ldx .. => some .ld
  | .lds .. => some .ld
  | .ldf .. => some .ld
  | .ldm .. => some .ld
  | .stt .. => some .st
  | .strw .. => some .st
  | .stx .. => some .st
  | .sts .. => some .st
  | .stf .. => some .st
  | .stm .. => some .st
  | .scor .. => some .st
  | .scadd .. => some .st
  | .scmax .. => some .st
  | .scmin .. => some .st
  | .sete .. => some .st
  | .setf .. => some .st
  | .copy .. => some .cp
  | .cbatch .. => some .cp
  | .cwait .. => some .cp
  | .publish .. => some .cp
  | .ctset .. => some .cp
  | .ctsetCode .. => some .cp
  | .cstat .. => some .cp
  | .ixscan .. => some .cp
  | .ixbmap .. => some .cp
  | .ixrle .. => some .cp
  | .ixclr .. => some .cp
  | .spred .. => some .cp
  | .guard .. => some .cp
  | .dqry .. => some .cp
  | .dqryQ .. => some .cp
  | .dscan .. => some .cp
  | .drefr .. => some .cp
  | .rcallR .. => some .cp
  | .rcallQ .. => some .cp
  | .rstat .. => some .cp
  | .promote .. => some .cp
  | .lnseq .. => some .cp
  | .lnwait .. => some .cp
  | .dfence .. => some .cp
  | .bmac .. => some .cp
  | .rret .. => some .cp
  | .bset .. => some .sy
  | .binc .. => some .sy
  | .waitb .. => some .sy
  | .waitany .. => some .sy
  | .qend .. => some .sy
  | .fork .. => some .sy
  | .join .. => some .sy
  | .exit .. => some .sy
  | .yield .. => some .sy
  | .gjoin .. => some .sy
  | .gleave .. => some .sy
  | .gbar .. => some .sy
  | .cbar .. => some .sy
  | .drain .. => some .sy
  | .prio .. => some .sy
  | .spawng .. => some .sy
  | .fencel .. => some .sy
  | .halt .. => some .sy
  | .globalLoadComplete .. | .functionOpComplete .. | .matrixCallStart .. | .matrixCallResume .. | .mploadApply .. |
    .agset .. | .agmc .. | .mzero .. | .mma .. | .mloop .. | .mend .. | .mout .. | .mcount .. | .myield .. |
    .mstop .. | .multicastTimeout .. | .loadComplete .. | .remoteAccessPerform .. | .copyComplete .. | .copyFault .. |
    .indexProducerPush .. | .dqryComplete .. | .remoteCallStart .. | .replyArrival .. | .replyTimeout .. |
    .callRunLimit .. | .sequencerComplete .. | .sequencerStop .. | .sequencerSuspend .. | .sequencerResume .. |
    .ordinaryAccessArrival .. | .bmacComplete .. | .postedWriteDrain .. | .strandEnd .. | .trapEntry .. |
    .safePointOverrun .. | .quantumCommit .. | .qwQuantumEnd .. | .qbQuantumEnd .. | .promotionCopyDone .. |
    .contextTakeWork .. | .stagingComplete .. | .agingTick .. | .clusterReserve .. | .preemptRequest .. |
    .strandSave .. | .strandResume .. | .targetedSelfTest .. | .rowSelfTest .. | .digestAreaSelfTest .. |
    .flitReceive .. | .replayRequest .. | .laneRetire .. | .messageReceive .. | .messageAck .. | .messageResend .. |
    .doorbell .. | .registerWrite .. | .launch .. | .map .. | .unmap .. | .hostcopy .. | .asfortMpload .. |
    .region .. | .regionDelete .. | .tierset .. | .checkpoint .. | .restore .. | .monitorArm .. | .monitorRead .. |
    .monitorClear .. | .selftest .. | .attest .. | .reset .. | .powerOn .. | .thermalLimit .. | .thermalTrip .. |
    .foragerGranuleWrite .. | .dscanComplete .. | .replyAcknowledgement .. => none

/-- The mode byte's bits (R31). -/
def encodeMode (m : Mode) : Byte :=
  BitVec.ofBool m.sp ++ BitVec.ofNat 3 m.rnd.code ++ BitVec.ofBool m.sat ++ BitVec.ofBool m.ftz ++ (0 : BitVec 2)

/-- A bundle that holds one instruction, under a mode byte, and NOPs in its other slots (R18, R19). -/
def encodeBundle (m : Mode) (i : Instr) : Line :=
  let at64 (w : Word) (s : Slot) : Line := (w.setWidth 512) <<< (64 * s.index)
  ((encodeMode m).setWidth 512 <<< 448) ||| at64 (encodeSlot i) ((slotOf i).getD .sc)

/-- The words of an instruction of a slot: a bundle of its own under the mode byte 0x00. -/
def encode (i : Instr) : Line := encodeBundle Mode.zero i

/-- The bits of a micro-word (R223). -/
def encodeMicro : Instr → MicroWord
  | .agset g pb w pe pl px off pitch s0 s1 s2 =>
    (0x01 : BitVec 8) ++ g ++ pb ++ BitVec.ofBool w ++ BitVec.ofBool pe ++ pl ++ px ++ (0 : BitVec 3) ++ off ++ pitch ++ s0 ++
      s1 ++ s2
  | .agmc g mode members src => (0x02 : BitVec 8) ++ g ++ mode ++ members ++ src ++ (0 : BitVec 104)
  | .mzero => (0x03 : BitVec 8) ++ (0 : BitVec 120)
  | .mma fa fb xv => (0x04 : BitVec 8) ++ fa ++ fb ++ xv ++ (0 : BitVec 110)
  | .mloop l src p last count => (0x05 : BitVec 8) ++ l ++ src ++ p ++ (0 : BitVec 1) ++ last ++ count ++ (0 : BitVec 84)
  | .mend l => (0x06 : BitVec 8) ++ l ++ (0 : BitVec 118)
  | .mout => (0x07 : BitVec 8) ++ (0 : BitVec 120)
  | .mcount l p rd cap off =>
    (0x08 : BitVec 8) ++ l ++ p ++ BitVec.ofBool rd ++ (0 : BitVec 2) ++ cap ++ off ++ (0 : BitVec 72)
  | .myield => (0x09 : BitVec 8) ++ (0 : BitVec 120)
  | .mstop => (0x0A : BitVec 8) ++ (0 : BitVec 120)
  | _ => 0

/-- The 64 bytes of a bundle in memory, the first at the lowest address (R5, R18). -/
def bytesOf (b : Line) : Nat → Nat → List Byte
  | _, 0 => []
  | k, n + 1 => b.extractLsb' (8 * k) 8 :: bytesOf b (k + 1) n

/-- Bytes as one little-endian number (R5). -/
def leNat : List Byte → Nat
  | [] => 0
  | b :: bs => b.toNat + 256 * leNat bs

end Sys2Proof
end

