-- ==== Sys2Proof/Machine/State.lean ====
section
/-!
DEFINITION. The state of the module as plain data: every piece of state the spec names, the reasons a step can stop, and the
machine right after reset. INVENTORY.md, under its heading State, lists the fields with their rules and reset values.
-/
namespace Sys2Proof.Machine

/-! ### Registers of one context -/

/-- A tile is full, empty or poisoned with its origin cause (R79). -/
inductive TileSt | full | empty | poisoned (origin : Byte)
deriving DecidableEq, Repr

structure TileReg where
  val : Tile
  st : TileSt
deriving DecidableEq, Repr

/-- A scalar with its pending and poison flags (R81). -/
structure ScalarReg where
  val : Word
  pending : Bool
  poison : Option Byte
deriving DecidableEq, Repr

/-- A mask with its pending and poison flags (R78, R208). -/
structure MaskReg where
  val : Mask
  pending : Bool
  poison : Option Byte
deriving DecidableEq, Repr

/-- A function: its domain and its coefficients, fp32 bits (R170). -/
structure ChebFn where
  lo : BitVec 32
  hi : BitVec 32
  coeffs : List (BitVec 32)
deriving DecidableEq, Repr

/-- A function register is ready, busy or poisoned (R171). -/
inductive FSt | ready | busy | poisoned (origin : Byte)
deriving DecidableEq, Repr

structure FuncReg where
  fn : ChebFn
  st : FSt
deriving DecidableEq, Repr

/-- What a landing result writes (R89, R90): for a tile, the bits `bits` of `val`. -/
inductive Landing
  | tile (r : Nat) (val bits : Tile)
  | scalar (r : Nat) (v : Word)
  | mask (r : Nat) (v : Mask)
  | param (r : Nat) (v : Word)
  | csr (n : Nat) (v : Word)
  /-- Nothing: what a result that R80 discards leaves behind, its flags still to be ORed in (R87). -/
  | nothing
deriving DecidableEq, Repr

/-- An exposed result in flight: in the shadow result buffer, or a landing register (R90). `flags` are FLAGS[5:0]. -/
structure Flight where
  due : Nat
  dst : Landing
  flags : BitVec 6
deriving DecidableEq, Repr

/-- An entry of the loop stack (R129). -/
structure LoopEnt where
  start : Word
  last : Word
  remaining : Nat
deriving DecidableEq, Repr

/-- The per-context CSRs of R85; STATUS is computed but for its MIG bit. -/
structure Csrs where
  tcause : Word
  tpc : Word
  tslot : Word
  tinfo : Word
  flags : Word
  seed : Word
  chtol : Word
  xv : List (BitVec 32)
  spmax : Word
  splive0 : Word
  splive1 : Word
  prio : Word
  skey : Word
  qnum : Word
  qw : Word
  qb : Word
  cwpos : Word
  dgstamp : Word
  mig : Bool
deriving DecidableEq, Repr

/-! ### Outstanding work of one context -/

/-- Where a load goes: a register, or the lines of a matrix unit's generator that stand in another member's comb (R274). -/
inductive LoadDst | tile (r : Nat) | scalar (r : Nat) | mask (r : Nat) | freg (r : Nat) | lines (gen : Nat)
deriving DecidableEq, Repr

/-- One access of a load: not yet performed, waiting at its granule since an arrival number (R200), or read. -/
inductive PieceSt | issued | waiting (arrival : Nat) | read (v : BitVec 128) (bad : Bool)
deriving DecidableEq, Repr

/-- `len` bytes at offset `off` of the comb of core `core`, for byte `pos` of the destination. -/
structure Piece where
  core : Nat
  off : Nat
  len : Nat
  pos : Nat
  st : PieceSt
deriving DecidableEq, Repr

/-- The entries an LDG has reserved and not yet received (R205). -/
structure GatherLoad where
  base : Word
  pitch : Word
  rows : Nat
  got : Nat
  closed : Bool
deriving DecidableEq, Repr

/-- An outstanding LD-slot load (R199 to R209, R193). `fillBits` are the tile bits set to zero beside the pieces. -/
structure WLoad where
  id : Nat
  dst : LoadDst
  clr : Bool
  wt : Bool
  pieces : List Piece
  fillBits : Tile
  gather : Option GatherLoad
  header : Bool
  poison : Option Byte
deriving DecidableEq, Repr

/-- A page entry: the two words of R319, the module number and the notify target (R387, R389). -/
structure Page where
  w0 : Word
  w1 : Word
  modno : Nat
  notify : Option (Nat × Nat × Nat)
deriving DecidableEq, Repr

/-- An outstanding GLD or GLD.Q (R132, R133): `q` is the quantum a GLD.Q ended; the strand whose buffered writes older than `ord`
it forwards; the page it was translated by as it issued (R332). -/
structure GLoad where
  dst : Nat
  addr : Nat
  size : Nat
  q : Option Nat
  launch : Nat
  key : Word
  ord : Nat
  base : Nat
  page : Page
deriving DecidableEq, Repr

/-- An outstanding digest query (R348). -/
structure DQuery where
  ord : Nat
  dst : Nat
  kind : DKind
  region : Nat
  block : Nat
  count : Nat
  q : Option Nat
  qnum : Nat
deriving DecidableEq, Repr

/-- An operation of the function unit, its results computed from the operands read at issue (R173, R177). -/
structure FOp where
  freg : Option (Nat × ChebFn)
  tile : Option (Nat × Tile × Tile)
  scalar : Option (Nat × Word)
  flags : BitVec 6
deriving DecidableEq, Repr

/-- An access to another member's comb, in issue order (R274). -/
inductive Remote
  | store (core off : Nat) (bytes : List Byte) (fill : Bool)
  | scatter (core granule : Nat) (ops : List (Nat × Nat × Nat × Nat)) (fill : Bool)
  | setState (core granule : Nat) (full : Bool)
  | binc (core bar amount : Nat)
  | load (id piece core granule : Nat)
deriving DecidableEq, Repr

/-- What a reply carries (R366). -/
structure Reply where
  state : Byte
  cause : Byte
  banks : BitVec 16
  rval : BitVec 16
  tile : Tile
deriving DecidableEq, Repr

/-- An outstanding remote call at the caller (R359, R368): `sent` is its dispatch time once dispatched. -/
structure RCall where
  seqNo : Nat
  tn : Nat
  sd : Nat
  target : Nat
  sent : Option Nat
  reply : Option Reply
deriving DecidableEq, Repr

/-- A completed call's status word, whether it is acknowledged, and whether it was reissued (R359, R370). -/
structure DoneCall where
  status : Word
  acked : Bool
  reissued : Bool
deriving DecidableEq, Repr

/-- A call at its target: who called and with what (R359, R361). -/
structure CallMsg where
  caller : Nat
  skey : Word
  seqNo : Nat
  ordered : Bool
  reissue : Bool
  launch : Nat
  qnum : Word
  entry : Word
  payload : List Word
  tile : Tile
deriving DecidableEq, Repr

/-- The call a drone or guest context runs. -/
structure RunCall where
  msg : CallMsg
  started : Nat
  banks : BitVec 16
deriving DecidableEq, Repr

/-! ### Forager channels -/

/-- A recorded copy fault: FCAUSE, FSUB, address (R248, R249). -/
structure CFault where
  cause : Byte
  sub : Byte
  addr : Nat
deriving DecidableEq, Repr

/-- One state of global memory and its translation, as a SNAP copy keeps it (R240). -/
structure Image where
  mem : List Host.Cell
  pages : Tab Page
  bad : List Nat
deriving DecidableEq, Repr

inductive CopyPhase | queued | running | complete | faulted
deriving DecidableEq, Repr

/-- The entries a gathering copy has reserved in a queue and received (R239): none stands for a close mark. -/
structure GatherCopy where
  queue : Nat
  want : Nat
  got : List (Option Nat)
  poisoned : Bool
deriving DecidableEq, Repr

/-- What a decompressing copy has read of its source (R244): the decoded bytes of its good blocks, the fault that ends the stream, if any,
and how far each read went: after so many decoded bytes, up to so many source bytes. -/
structure Decoded where
  bytes : List Byte
  fault : Option CFault
  reads : List (Nat × Nat)
deriving DecidableEq, Repr

/-- A copy that has been issued (R239 to R246). `shadow` holds whole granules by granule number, of a reduce-add its addends; `row`
and `col` are the next row and the next byte of it to write; `held` is the last source granule of the row read, by its address div 16,
whose other bytes a later granule still takes (R202, R325); `moved` are the blocks it has found moved, base and length, `upto` is the Q
of R240. -/
structure Copy where
  id : Nat
  tp : Line
  src : Word
  dst : Word
  snap : Bool
  asof : Option Nat
  gather : Option GatherCopy
  bar : Option Nat
  batch : Nat
  qnum : Nat
  launch : Nat
  phase : CopyPhase
  row : Nat
  col : Nat
  image : Option Image
  stream : Option Decoded
  shadow : Tab (BitVec 128)
  held : Option (Nat × BitVec 128)
  moved : List (Nat × Nat)
  upto : Nat
deriving DecidableEq, Repr

/-- A channel (R233, R247, R248). `closed` are the closed batches not complete; `faultBatches` those a recorded or later
fault fell in since the record was last cleared. -/
structure Channel where
  copies : List Copy
  batch : Nat
  opened : Bool
  closed : List Nat
  fault : Option CFault
  faultBatches : List Nat
  moved : Nat
  movedAddr : Option Nat
deriving DecidableEq, Repr

/-! ### Index queues -/

/-- An item of a queue (R253 to R262). A close mark with a bound reaches only claims numbered below it (R255). -/
inductive QItem | entry (v : Nat) | close (bound : Option Nat) | poison
deriving DecidableEq, Repr

/-- Who waits for entries of a queue, in order. -/
inductive ClaimKind
  | pop (r : Nat) | peek (r off : Nat) | load (id : Nat) | copy (ch id : Nat)
deriving DecidableEq, Repr

structure Claim where
  num : Nat
  kind : ClaimKind
deriving DecidableEq, Repr

/-- A digest scan (R349, R350). -/
structure Scan where
  ord : Nat
  pred : DPred
  region : Nat
  first : Nat
  count : Nat
  next : Nat
  operand : Tile
  value : Word
  push : Bool
  score : Option Nat
  scores : List (BitVec 32)
  sd : Nat
  passed : Nat
  stamp : Option Nat
  qnum : Nat
deriving DecidableEq, Repr

/-- What a producer still has to push (R259 to R265, R350). -/
inductive Work
  | list (es : List Nat) (mask : Option (Nat × Mask)) (hiWord : Nat)
  | bitmap (addr pos len : Nat)
  | runs (addr left : Nat) (start len : Nat)
  | scan (c : Scan)
deriving DecidableEq, Repr

/-- A producer of an index queue (R255). `held` is the comb granule, by window address div 16, that its engine has read (R202). -/
structure Producer where
  work : Work
  held : Option (Nat × BitVec 128)
  keep : Bool
  rate : Nat
  count : Nat
  pushed : Nat
  bound : Option Nat
deriving DecidableEq, Repr

structure IQueue where
  items : List QItem
  claims : List Claim
  prods : List Producer
deriving DecidableEq, Repr

/-! ### A context -/

/-- The identity of a strand (R296, R298, R300). -/
structure Ident where
  launch : Nat
  node : Nat
  depth : Nat
  forks : Nat
  pin : Nat
  mate : Option Nat
  cluster : Option Nat
  parent : Option Word
deriving DecidableEq, Repr

/-- Whether a context is free, runs, stands in a trap, or settles after EXIT (R302, R306). -/
inductive Life | idle | running | trapped | exited
deriving DecidableEq, Repr

/-- A wait-type SY instruction that has arrived (R303, R304, R322): the quantum it ended and, for a cluster round, its number (0
until it has arrived there). `barrier` stands for WAITB, WAITANY and for a wait that has been released. -/
inductive Wait
  | none
  | join (ended : Nat)
  | gbar (ended : Nat)
  | cbar (ended round : Nat)
  | dead (round : Nat)
  | barrier
deriving DecidableEq, Repr

structure Ctx where
  life : Life
  who : Ident
  pc : Word
  count : Nat
  tiles : Tab TileReg
  scalars : Tab ScalarReg
  masks : Tab MaskReg
  params : Tab Word
  fregs : Tab FuncReg
  latches : Tab Tile
  flight : List Flight
  loops : List LoopEnt
  csr : Csrs
  qUnits : Nat
  qBundles : Nat
  qwLim : Nat
  qbLim : Nat
  qFresh : Bool
  wait : Wait
  kids : List (Word × Option Nat)
  rounds : Nat
  stopReq : Bool
  askedBy : Option Word
  leaving : Bool
  yielded : Bool
  skip : Byte
  spCount : Nat
  loads : List WLoad
  gloads : List GLoad
  dqs : List DQuery
  scans : List Scan
  fops : List FOp
  remotes : List Remote
  calls : List RCall
  done : List DoneCall
  nextSeq : Nat
  lnwaits : List Nat
  channels : Tab Channel
  queues : Tab IQueue
  mfsub : Byte
  mfrtn : Byte
  run : Option RunCall
deriving DecidableEq, Repr

/-! ### A core -/

/-- An arrival barrier (R250, R251). `finfo` is the TINFO of the fault whose cause FCAUSE holds, for the wait that observes it (R94). -/
structure Barrier where
  fcause : Byte
  finfo : Word
  flt : Bool
  count : Nat
  target : Nat
  holder : Option Word
deriving DecidableEq, Repr

/-- A generator of the matrix unit (R224 to R226): unset, local, sending or receiving. -/
structure Gen where
  set : Bool
  base : Word
  pitch : Nat
  strides : List Int
  wt : Bool
  mode : Nat
  members : Nat
  source : Nat
deriving DecidableEq, Repr

/-- A matrix call as it was issued (R213). -/
structure MCall where
  h : Nat
  tbase : Nat
  rtn : Nat
  out : Bool
  params : List Word
  xv : List (BitVec 32)
  acc : BitVec 131072
deriving DecidableEq, Repr

/-- An item of a matrix queue: a call, or a routine load that stands in both queues under one number (R221). -/
inductive MItem
  | call (c : MCall)
  | load (id rtn start : Nat) (words : List MicroWord)
deriving DecidableEq, Repr

/-- A loop level's re-read address and cap (R227). -/
structure Reread where
  addr : Word
  cap : Nat
deriving DecidableEq, Repr

/-- A call that runs or is suspended: its micro-word address, working set, loop and generator state; `sent` are the sending
generators whose lines for the step at hand have been delivered (R279); `lines` names the loads of other members' lines for that step, by
generator (R274); `stalled` tells since when each generator of the step waits for multicast, one more than the time (R279); `cancelled`
ends the call at its next micro-word boundary (R220). -/
structure MRun where
  call : MCall
  lo : Bool
  upc : Nat
  acc : BitVec 131072
  cnt : List Nat
  idx : List Nat
  active : List (Nat × Nat)
  reread : Tab Reread
  gens : Tab Gen
  outs : Nat
  steps : Nat
  filled : Bool
  sent : List Nat
  lines : Tab Nat
  stalled : Tab Nat
  cancelled : Bool
deriving DecidableEq, Repr

/-- A stream buffer of operand multicast: the launch of its sender, source member, generator, the lines in order (R279). -/
structure Stream where
  launch : Nat
  source : Nat
  gen : Nat
  lines : List (List Byte)
deriving DecidableEq, Repr

structure MatrixUnit where
  store : Tab MicroWord
  badWords : List Nat
  routines : Tab (Option Nat)
  hi : List MItem
  lo : List MItem
  running : Option MRun
  suspended : Option MRun
  streams : List Stream
  library : Bool
deriving DecidableEq, Repr

/-- What a forked strand or a mate starts with (R83, R298, R299). -/
structure NewStrand where
  who : Ident
  pc : Word
  args : List Word
  skey : Word
  prio : Word
  spmax : Word
  seed : Word
  qnum : Nat
deriving DecidableEq, Repr

structure Core where
  tvec : Word
  tsrc : Word
  tskip : Word
  handling : Bool
  trapQ : List Nat
  issuing : Option Nat
  last : Nat
  comb : List Host.Cell
  empties : List Nat
  badGranules : List Nat
  barriers : Tab Barrier
  waiters : List (Nat × Nat)
  templates : Tab Line
  codeTables : Tab (BitVec 4096)
  mx : MatrixUnit
  deque : List NewStrand
  fenced : Bool
  faulted : Bool
  corrected : List (Nat × Nat)
  testDue : List Nat
deriving DecidableEq, Repr

/-! ### A drone and the ports of remote calls -/

/-- A reply-cache entry (R369): none while the call runs. `others` are reissues attached to it. -/
structure CacheEnt where
  callerDie : Nat
  skey : Word
  seqNo : Nat
  reply : Option Reply
  others : List Nat
deriving DecidableEq, Repr

/-- The calls that wait in the links to a target (R361, R369), its queue, its reply cache. -/
structure Port where
  link : List CallMsg
  queue : List CallMsg
  cache : List CacheEnt
deriving DecidableEq, Repr

/-- A reply delivered or discarded whose acknowledgement is on its way (R369). -/
structure AckMsg where
  target : Nat
  callerDie : Nat
  skey : Word
  seqNo : Nat
deriving DecidableEq, Repr

/-- A level of a loop-nest descriptor (R372). -/
structure Level where
  count : Nat
  vlen : Nat
  pad : Nat
  xstr : Int
  ystr : Int
  ostr : Int
deriving DecidableEq, Repr

/-- The sequencer's run (R373, R375): `idx` are i0 to i4; `phase` is the next column command of an iteration (0 read x, 1 read y,
2 write out) or 3, the write at the end of a level-0 run; `v` is what has been read; `cols` counts column commands since an ordinary
access was seen waiting; `owner` is the call that started it. -/
structure SeqRun where
  owner : Option (Word × Nat)
  x : Word
  y : Word
  out : Word
  a : BitVec 32
  body : Nat
  aw : Nat
  levels : List Level
  idx : List Nat
  phase : Nat
  v : BitVec 512
  flags : BitVec 6
  cols : Option Nat
  suspended : Bool
  cause : Byte
  finished : Bool
deriving DecidableEq, Repr

/-- The BMAC in progress (R377): its operands, and the translation as it was at issue (R357). -/
structure BmacRun where
  owner : Option (Word × Nat)
  sd : Nat
  mat : Word
  out : Word
  v : List (BitVec 32)
  rows : Nat
  pages : Tab Page
deriving DecidableEq, Repr

/-- A posted write: the call that issued it, by key and number, physical address and bytes, and whether its line becomes bad (R376, R377).
-/
structure Posted where
  owner : Option (Word × Nat)
  pa : Nat
  va : Nat
  bytes : List Byte
  bad : Bool
deriving DecidableEq, Repr

/-- An access to a drone's channel that is not the drone's own (R375): of a global load (context, register), of a copy (context, copy), of
the commit step of a launch, of a digest query or scan (context, issue number), of a guest's stores or publish (context), of the operands
of a node (launch, node), of a fetch (context, pc), of the save of a strand (context), of its resumption (launch, slot), of a load of a
saved strand (context, load), of the copy of a promotion (page), of a core's ROM, of messages that apply while no launch runs, of a host
command, or one that an event alone stands for. -/
inductive Access
  | gld (h dst : Nat) | copy (h id : Nat) | step (l : Nat) | digest (h ord : Nat) | guest (h : Nat) | stage (l n : Nat)
  | fetch (h pc : Nat) | save (h : Nat) | resume (l slot : Nat) | load (h id : Nat) | promo (page : Nat) | rom (c : Nat) | msgs | host | other
deriving DecidableEq, Repr

/-- A drone; `ordinary` are the accesses that wait for its channel, in the order of arrival, `serving` those of them that a suspension of
the sequencer serves, `granted` those it has served whose other channels are still to serve them (R375). -/
structure Drone where
  cells : List Host.Cell
  accs : Tab (BitVec 512)
  seqr : Option SeqRun
  lastCause : Byte
  bmac : Option BmacRun
  posted : List Posted
  ordinary : List Access
  serving : List Access
  granted : List Access
deriving DecidableEq, Repr

/-! ### Launches and scheduling -/

/-- A node record with its argument and operand blocks (R284, R285). -/
structure NodeRec where
  entry : Word
  preds : Nat
  succs : List Nat
  kind : Nat
  prio : Nat
  affMode : Nat
  affNo : Nat
  pin : Nat
  cosched : Bool
  tmpl : Nat
  spmax : Nat
  args : List Word
  ops : List (Nat × Nat × Nat)
deriving DecidableEq, Repr

/-- The states of a node (R290); `places` are the contexts its strands will start in. -/
inductive NodeSt | waiting | ready | staging (places : List Nat) | running | completing | done | failed
deriving DecidableEq, Repr

/-- A node as it runs (R288 to R290, R293): the predecessors it waits for, its start and final quantum, its strands, the state its operands
are read from, and its level, entry time and time of boost in the pool it left. -/
structure Node where
  desc : NodeRec
  st : NodeSt
  left : Nat
  start : Nat
  final : Nat
  live : Nat
  staged : Option Image
  place : Nat × Nat × Option Nat
deriving DecidableEq, Repr

/-- What a write unit does at its place in the commit step (R324). -/
inductive UnitKind
  | gst (addr : Nat) (bytes : List Byte)
  | gamo (h dst addr size : Nat) (f : AFunc) (v cmp : Word)
  | publish (copies : List Copy)
  | rcall (h : Nat) (msg : CallMsg) (target : Nat)
deriving DecidableEq, Repr

structure WUnit where
  key : Word
  q : Nat
  ord : Nat
  kind : UnitKind
deriving DecidableEq, Repr

/-- A group of a die: members, and the open round's required and arrived members (R303). -/
structure Group where
  members : List Word
  opened : Bool
  required : List Word
  arrived : List (Word × Nat)
deriving DecidableEq, Repr

/-- What the units of a commit step have written so far: bytes by physical address, the pages (numbers of 64 KiB) they un-elided with
their entries (R331), the bad lines they rewrote whole (R335). -/
structure StepView where
  bytes : Tab Byte
  opened : Tab Page
  cleared : List Nat
deriving DecidableEq, Repr

/-- A write of a commit step as the keepers apply it (R344, R345): the place of its unit in the step's order (R324), whether a call wrote
it to the array at once (R364), address and bytes, none where the write was dropped on a bad line; did it meet a bad line? -/
structure StepWrite where
  place : Nat
  direct : Bool
  va : Nat
  bytes : List Byte
  bad : Bool
deriving DecidableEq, Repr

/-- A call that a commit step dispatched (R363): its unit's place in the order, the context that runs it, its key and number, whether it
has replied. -/
structure CallRef where
  place : Nat
  h : Nat
  key : Word
  seqNo : Nat
  replied : Bool
deriving DecidableEq, Repr

/-- A GAMO applied in the step: context, key, register, the old word or the poison origin, given to it as the step completes. -/
structure AmoDone where
  h : Nat
  key : Word
  dst : Nat
  old : Word
  poison : Option Byte
deriving DecidableEq, Repr

/-- A commit step in progress, held open by remote calls (R363): its quantum, the units to come with their places in the order of R324,
what the applied units wrote, the earlier bytes under the calls' own writes by physical address, its writes in the order of their places,
its GAMOs, its calls. -/
structure Commit where
  q : Nat
  units : List (Nat × WUnit)
  view : StepView
  undo : Tab Byte
  log : List StepWrite
  amos : List AmoDone
  calls : List CallRef
deriving DecidableEq, Repr

/-- How a launch ended (R312, R396). -/
inductive EndSt | success | error (node : Nat) | halt (v : Word) | deadlock | thermal | reset
deriving DecidableEq, Repr

structure Launch where
  ended : Option EndSt
  age : Nat
  margin : Nat
  saveBase : Nat
  saveCnt : Nat
  usedSlots : List Nat
  seedBase : Word
  handler : Word
  nodes : Tab Node
  committed : Nat
  nextOrd : Nat
  units : List WUnit
  groups : Tab Group
  rescans : List (Nat × Nat × Nat × Nat)
  writeLog : List (Nat × Nat × Nat)
  commit : Option Commit
  exits : List (Nat × Nat)
  cbars : List (Nat × Nat × Nat × Nat)
deriving DecidableEq, Repr

/-- A saved strand: its context, the context number it left, its save slot (R309, R310). -/
structure Saved where
  ctx : Ctx
  h : Nat
  slot : Nat
deriving DecidableEq, Repr

/-- What an entry stands for: a ready node, a spilled child with its parent's core (R300), a saved strand. -/
inductive PoolKind
  | node (l n : Nat) | fresh (s : NewStrand) (home : Nat) | saved (s : Saved)
deriving DecidableEq, Repr

/-- An entry of a die's ready pool (R291): its level and the time it entered that level, the time of its boost to 63, the nanoseconds it
has stood first in its level (R294) and its reserved cluster (R294). -/
structure PoolEnt where
  kind : PoolKind
  skey : Word
  level : Nat
  entered : Nat
  boost : Option Nat
  first : Nat
  cluster : Option Nat
deriving DecidableEq, Repr

structure Die where
  pool : List PoolEnt
  late : Nat
  clock : Nat
  hot : Bool
deriving DecidableEq, Repr

/-! ### Digests, promotion, fabric, host -/

structure Region where
  base : Nat
  len : Nat
  bsz : Nat
  efmt : Nat
  rowLen : Nat
  g : Nat
  k1 : Nat
  k2 : Nat
  bpoint : Nat
deriving DecidableEq, Repr

/-- A digest record: its body and header flags (R339); the stamp is the last committed quantum of the reader (R344). -/
structure Rec where
  body : BitVec 1984
  valid : Bool
  poison : Bool
  inv : Bool
  ovf : Bool
  stale : Bool
  tight : Bool
deriving DecidableEq, Repr

/-- An outstanding promotion (R333, R334). -/
structure Promo where
  page : Nat
  frame : Nat
  launch : Nat
  node : Nat
  die : Nat
  copied : Bool
deriving DecidableEq, Repr

/-- A link (R386): the next number expected and the flits accepted; the replay requests sent; the next number to send, the last 1,024
flits sent, those to be replayed; the retired lanes. -/
structure Link where
  expect : Nat
  inbox : List (BitVec 2048)
  requests : List Nat
  nextSeq : Nat
  history : List (Nat × BitVec 2048)
  replay : List Nat
  retired : List Nat
deriving DecidableEq, Repr

/-- A publish message (R388): granules by physical address of the destination, addends by (address, format and mode, value),
notify targets (die, core, barrier) (R389). -/
structure Msg where
  peer : Nat
  seqNo : Nat
  lseq : Nat
  q : Nat
  key : Word
  granules : List (Nat × BitVec 128)
  adds : List (Nat × Nat × Word)
  notify : List (Nat × Nat × Nat)
  sent : Nat
deriving DecidableEq, Repr

/-- The messages of the module: sent and not acknowledged, the next number for each destination; received and not applied, the next
number to apply from each source, the acknowledgements sent (module, number). -/
structure Fabric where
  links : Tab Link
  outbox : List Msg
  outSeq : Tab Nat
  inbox : List Msg
  inSeq : Tab Nat
  acks : List (Nat × Nat)
deriving DecidableEq, Repr

/-- The event codes of R396 and R98. -/
inductive EvCode
  | corrected | uncorrectable | spared | laneRetired | coreFenced | writeDropped | fabricLost | thermal | launchEnd
  | break | svc | trap | coreFault | selfTest | retrain | opDropped | areaRetired
deriving DecidableEq, Repr

structure Event where
  stamp : Nat
  source : Nat
  code : EvCode
  detail : List Word
deriving DecidableEq, Repr

/-- A capture block (R397). -/
structure Capture where
  quantity : Nat
  w : Nat
  origin : Int
  bins : List Nat
  low : Option Int
  high : Option Int
  samples : Nat
deriving DecidableEq, Repr

/-- The firmware's registers and stores; `refused`: the boot found a bad signature (R393); `retired` and the state's `lasting` number units
without the module number (R401). -/
structure HostIf where
  ringBase : Word
  ringSize : Word
  tail : Nat
  head : Nat
  evtBase : Word
  evtSize : Word
  evtTail : Nat
  evtHead : Nat
  evtDrop : Nat
  devState : Nat
  refused : Bool
  mem : List Host.Cell
  pendingEv : List Event
  modno : Nat
  route : Word
  routes : List Byte
  droneLib : List Byte
  m0 : BitVec 256
  m1 : BitVec 256
  m2 : BitVec 256
  retired : List Nat
  captures : Tab Capture
  nextLaunch : Nat
deriving DecidableEq, Repr

/-! ### The bundle that is issuing, and the whole machine -/

/-- A destination that becomes empty, pending or busy when the bundle's reads are over (R99). -/
inductive Mark | tile (r : Nat) | scalar (r : Nat) | mask (r : Nat) | freg (r : Nat)
deriving DecidableEq, Repr

/-- The bundle that is issuing: open while its slots take effect one after another in slot order. `fills` are scalars that an
index queue fills at once (register, value, poison origin); `cells` is a drone's cell store before the bundle's stores (R382). -/
structure Bundle where
  isOpen : Bool
  mode : Mode
  marks : List Mark
  fills : List (Nat × Word × Option Byte)
  target : Option Word
  branch : Bool
  isCall : Bool
  pushed : Option LoopEnt
  skipLoop : Option Word
  endsQ : Bool
  after : Option (Nat × Word)
  exits : Bool
  yields : Bool
  returns : Bool
  halts : Option Word
  reply : Option Reply
  effective : Bool
  draws : Nat
  cells : List Host.Cell
deriving DecidableEq, Repr

structure State where
  now : Nat
  tick : Nat
  turn : Option Turn
  cur : Nat
  bundle : Bundle
  arrivals : Nat
  harts : Tab Ctx
  cores : Tab Core
  drones : Tab Drone
  ports : Tab Port
  acks : List AckMsg
  mem : List Host.Cell
  pages : Tab Page
  badLines : List Nat
  rowTests : List Nat
  rowCorrected : Tab Nat
  areaTests : List Nat
  launches : Tab Launch
  dies : Tab Die
  regions : Tab Region
  records : Tab Rec
  badRecords : List Nat
  deadRecords : List Nat
  promos : List Promo
  freeFrames : List Nat
  fabric : Fabric
  host : HostIf
  lasting : List Nat
  lastingRows : List Nat
deriving DecidableEq, Repr

/-! ### Why a step can stop -/

/-- The reasons the machine stops with a fault. The spec gives every instruction and every event an effect (R26: no pattern
has an undefined effect), so no constructor is needed: nobody raises a fault. -/
inductive Fault
deriving DecidableEq, Repr

/-- The reasons the model refuses. -/
inductive Refusal
  /-- Raised by an arm of `exec` for an instruction that has no meaning yet: safe, nothing is claimed of it. -/
  | notModelled (mnemonic : String)
deriving DecidableEq, Repr

/-! ### The machine right after reset -/

/-- A tile at strand start: full and zero (R83). -/
def TileReg.zero : TileReg := { val := 0, st := .full }
/-- A scalar at strand start (R83). -/
def ScalarReg.zero : ScalarReg := { val := 0, pending := false, poison := none }
/-- A mask at strand start (R83). -/
def MaskReg.zero : MaskReg := { val := 0, pending := false, poison := none }
/-- A function register at strand start: length 0 on [-1, 1] (R170). -/
def FuncReg.zero : FuncReg := { fn := { lo := 0xBF800000, hi := 0x3F800000, coeffs := [] }, st := .ready }

/-- The CSRs at reset (R85). -/
def Csrs.reset : Csrs :=
  { tcause := 0, tpc := 0, tslot := 0, tinfo := 0, flags := 0, seed := 0, chtol := 0x33800000, xv := [0, 0, 0, 0],
    spmax := 0, splive0 := BitVec.allOnes 64, splive1 := BitVec.allOnes 64, prio := 0, skey := 0, qnum := 0, qw := 64,
    qb := 4096, cwpos := 0, dgstamp := 0, mig := false }

def Ident.none : Ident :=
  { launch := 0, node := 0, depth := 0, forks := 0, pin := 0, mate := Option.none, cluster := Option.none,
    parent := Option.none }

/-- A context that nobody occupies, with the registers of R83. -/
def Ctx.reset : Ctx :=
  { life := .idle, who := Ident.none, pc := 0, count := 0, tiles := [], scalars := [], masks := [], params := [], fregs := [],
    latches := [], flight := [], loops := [], csr := Csrs.reset, qUnits := 0, qBundles := 0, qwLim := 64, qbLim := 4096,
    qFresh := true, wait := .none, kids := [], rounds := 0, stopReq := false, askedBy := none, leaving := false, yielded := false, skip := 0, spCount := 0,
    loads := [], gloads := [], dqs := [], scans := [], fops := [], remotes := [], calls := [], done := [], nextSeq := 1,
    lnwaits := [], channels := [], queues := [], mfsub := 0, mfrtn := 0, run := none }

def Channel.reset : Channel :=
  { copies := [], batch := 0, opened := false, closed := [], fault := none, faultBatches := [], moved := 0,
    movedAddr := none }

def IQueue.reset : IQueue := { items := [], claims := [], prods := [] }

def Barrier.reset : Barrier := { fcause := 0, finfo := 0, flt := false, count := 0, target := 0, holder := none }

def Gen.unset : Gen :=
  { set := false, base := 0, pitch := 0, strides := [0, 0, 0], wt := false, mode := 0, members := 0, source := 0 }

def MatrixUnit.reset : MatrixUnit :=
  { store := [], badWords := [], routines := [], hi := [], lo := [], running := none, suspended := none, streams := [],
    library := false }

def StepView.empty : StepView := { bytes := [], opened := [], cleared := [] }

/-- A core after reset: comb zero, every granule full (R197), TVEC not yet written by the firmware (R98). -/
def Core.reset : Core :=
  { tvec := 0, tsrc := 0, tskip := 0, handling := false, trapQ := [], issuing := none, last := 3, comb := [], empties := [],
    badGranules := [], barriers := [], waiters := [], templates := [], codeTables := [], mx := MatrixUnit.reset, deque := [],
    fenced := false, faulted := false, corrected := [], testDue := [] }

def Port.reset : Port := { link := [], queue := [], cache := [] }

/-- A drone after reset: cell store and bank accumulators zero (R356). -/
def Drone.reset : Drone :=
  { cells := [], accs := [], seqr := none, lastCause := 0, bmac := none, posted := [], ordinary := [], serving := [], granted := [] }

def Group.reset : Group := { members := [], opened := false, required := [], arrived := [] }

/-- A die after reset: an empty pool, its clock at 700 MHz (R7). -/
def Die.reset : Die := { pool := [], late := 0, clock := 700, hot := false }

def Link.reset : Link := { expect := 0, inbox := [], requests := [], nextSeq := 0, history := [], replay := [], retired := [] }

def Fabric.reset : Fabric := { links := [], outbox := [], outSeq := [], inbox := [], inSeq := [], acks := [] }

/-- The host interface after reset (R390). -/
def HostIf.reset : HostIf :=
  { ringBase := 0, ringSize := 4, tail := 0, head := 0, evtBase := 0, evtSize := 10, evtTail := 0, evtHead := 0,
    evtDrop := 0, devState := 0, refused := false, mem := [], pendingEv := [], modno := 0, route := 0, routes := [], droneLib := [], m0 := 0, m1 := 0, m2 := 0, retired := [],
    captures := [], nextLaunch := 0 }

/-- No bundle is issuing. -/
def Bundle.closed : Bundle :=
  { isOpen := false, mode := Mode.zero, marks := [], fills := [], target := none, branch := false, isCall := false, pushed := none,
    skipLoop := none, endsQ := false, after := none, exits := false, yields := false, returns := false, halts := none,
    reply := none, effective := false, draws := 0, cells := [] }

/-- The machine right after reset: in reset (DEVSTATE 0), the ROM about to boot it (R393). -/
def State.reset : State :=
  { now := 0, tick := 0, turn := some (.event .powerOn), cur := 0, bundle := Bundle.closed, arrivals := 0, harts := [],
    cores := [], drones := [], ports := [], acks := [], mem := [], pages := [], badLines := [], rowTests := [], rowCorrected := [],
    areaTests := [], launches := [], dies := [], regions := [], records := [], badRecords := [], deadRecords := [], promos := [],
    freeFrames := [], fabric := Fabric.reset, host := HostIf.reset, lasting := [], lastingRows := [] }

end Sys2Proof.Machine
end

