-- ==== Sys2Proof/Machine/Tables.lean ====
section
/-!
DEFINITION. Sparse tables and byte memories in their one canonical form: keys strictly rising, no entry equal to what an
unlisted key reads as. An unlisted byte of any memory reads as zero.
-/
namespace Sys2Proof.Machine

/-- What key `k` holds; `d` where it is not listed. -/
def tget {α : Type} (d : α) : Tab α → Nat → α
  | [], _ => d
  | (j, v) :: t, k => if k = j then v else tget d t k

/-- Put an entry into its place, or replace it. -/
def tput {α : Type} (k : Nat) (v : α) : Tab α → Tab α
  | [] => [(k, v)]
  | (j, w) :: t => if k < j then (k, v) :: (j, w) :: t else if k = j then (k, v) :: t else (j, w) :: tput k v t

/-- Take an entry away. -/
def tdel {α : Type} (k : Nat) : Tab α → Tab α
  | [] => []
  | (j, w) :: t => if k = j then tdel k t else (j, w) :: tdel k t

/-- Write `v` at `k`: writing the value that an unlisted key reads as removes the entry. -/
def tset {α : Type} [DecidableEq α] (d : α) (t : Tab α) (k : Nat) (v : α) : Tab α :=
  if v = d then tdel k t else tput k v t

/-- The canonical form of a table whose unlisted keys read as `d`. -/
def tabWf {α : Type} [DecidableEq α] (d : α) : Tab α → Bool
  | [] => true
  | [(_, v)] => v != d
  | (j, v) :: (k, w) :: t => j < k && v != d && tabWf d ((k, w) :: t)

/-! ### Byte memories -/

/-- The byte at an address; an unlisted address reads as zero (R197, R356; DRAM: notes/assumptions/2.md). -/
def mget (m : List Host.Cell) (a : Nat) : Byte := tget 0 m a

/-- Write one byte. -/
def mset (m : List Host.Cell) (a : Nat) (b : Byte) : List Host.Cell := tset 0 m a b

/-- The canonical form of a memory. -/
def memWf (m : List Host.Cell) : Bool := tabWf 0 m

/-- `n` bytes from `a` upward. -/
def mread (m : List Host.Cell) (a : Nat) : Nat → List Byte
  | 0 => []
  | n + 1 => mget m a :: mread m (a + 1) n

/-- Write bytes from `a` upward. -/
def mwrite (m : List Host.Cell) (a : Nat) : List Byte → List Host.Cell
  | [] => m
  | b :: bs => mwrite (mset m a b) (a + 1) bs

/-- A little-endian number of `n` bytes as its bytes (R5). -/
def natBytes (v : Nat) : Nat → List Byte
  | 0 => []
  | n + 1 => BitVec.ofNat 8 v :: natBytes (v / 256) n

/-- A little-endian number read from memory (R5). -/
def mnum (m : List Host.Cell) (a n : Nat) : Nat := leNat (mread m a n)

/-! ### Plain list helpers -/

/-- 0, 1, … n - 1. -/
def upto : Nat → List Nat
  | 0 => []
  | n + 1 => upto n ++ [n]

/-- The element at a place, or a default. -/
def nth {α : Type} (d : α) : List α → Nat → α
  | [], _ => d
  | x :: _, 0 => x
  | _ :: xs, n + 1 => nth d xs n

/-- Replace the element at a place. -/
def setNth {α : Type} (v : α) : List α → Nat → List α
  | [], _ => []
  | _ :: xs, 0 => v :: xs
  | x :: xs, n + 1 => x :: setNth v xs n

/-- Drop the element at a place. -/
def dropNth {α : Type} : List α → Nat → List α
  | [], _ => []
  | _ :: xs, 0 => xs
  | x :: xs, n + 1 => x :: dropNth xs n

/-- Put a number into a rising list without repeats. -/
def insNat (k : Nat) : List Nat → List Nat
  | [] => [k]
  | j :: t => if k < j then k :: j :: t else if k = j then j :: t else j :: insNat k t

/-- Remove a number from a list. -/
def delNat (k : Nat) (l : List Nat) : List Nat := l.filter (· != k)

/-- Keep list order and group it in pieces of `n`, `k` of them. -/
def chunks {α : Type} (n : Nat) : Nat → List α → List (List α)
  | 0, _ => []
  | k + 1, l => l.take n :: chunks n k (l.drop n)

/-- Put `x` in front of the first element that does not come before it. -/
def insertBy {α : Type} (before : α → α → Bool) (x : α) : List α → List α
  | [] => [x]
  | y :: ys => if before y x then y :: insertBy before x ys else x :: y :: ys

/-- A stable sort by a strict order. -/
def sortBy {α : Type} (before : α → α → Bool) : List α → List α
  | [] => []
  | x :: xs => insertBy before x (sortBy before xs)

/-! ### Bits of tiles, masks and words -/

/-- Bits [lo + n - 1 : lo] of any bit vector, as a number. -/
def bitsOf {w : Nat} (v : BitVec w) (lo n : Nat) : Nat := (v.toNat >>> lo) % 2 ^ n

/-- A word's bits as a number (R5). -/
def wbits (v : Word) (lo n : Nat) : Nat := bitsOf v lo n

/-- The bits [lo + n - 1 : lo] set, the rest clear. -/
def onesAt (w lo n : Nat) : BitVec w := BitVec.ofNat w ((2 ^ n - 1) <<< lo)

/-- Replace the bits of `old` under `bits` by those of `new`. -/
def mergeBits {w : Nat} (old new bits : BitVec w) : BitVec w := (old &&& ~~~bits) ||| (new &&& bits)

/-- A signed value as a 64-bit word. -/
def wordOfInt (i : Int) : Word := BitVec.ofInt 64 i

/-- Sign extension of the low `n` bits to 64 bits (R12). -/
def sextWord (n : Nat) (v : Nat) : Word := (BitVec.ofNat n v).signExtend 64

end Sys2Proof.Machine
end

