-- ==== Sys2Proof/Machine/Ops.lean ====
section
/-!
DEFINITION. The named operations over registers, memory, translation, events, traps and launches that the meanings of the
instructions share. Taking a trap (R96) is one operation, `takeTrap`; the return from it (R97) stands beside it.
-/
namespace Sys2Proof.Machine

/-! ### Contexts, cores, drones -/

/-- Context `h` (hart number: 6 per core, then the drones). -/
def hart (s : State) (h : Nat) : Ctx := tget Ctx.reset s.harts h
def setHart (s : State) (h : Nat) (c : Ctx) : State := { s with harts := tset Ctx.reset s.harts h c }
def modHart (s : State) (h : Nat) (f : Ctx → Ctx) : State := setHart s h (f (hart s h))
def core (s : State) (c : Nat) : Core := tget Core.reset s.cores c
def setCore (s : State) (c : Nat) (k : Core) : State := { s with cores := tset Core.reset s.cores c k }
def modCore (s : State) (c : Nat) (f : Core → Core) : State := setCore s c (f (core s c))
def drone (s : State) (d : Nat) : Drone := tget Drone.reset s.drones d
def setDrone (s : State) (d : Nat) (k : Drone) : State := { s with drones := tset Drone.reset s.drones d k }
def modDrone (s : State) (d : Nat) (f : Drone → Drone) : State := setDrone s d (f (drone s d))
def port (s : State) (h : Nat) : Port := tget Port.reset s.ports h
def setPort (s : State) (h : Nat) (p : Port) : State := { s with ports := tset Port.reset s.ports h p }
def die (s : State) (d : Nat) : Die := tget Die.reset s.dies d
def setDie (s : State) (d : Nat) (k : Die) : State := { s with dies := tset Die.reset s.dies d k }

/-- The drones' contexts are numbered from 1152 (R355). -/
def isDrone (h : Nat) : Bool := Config.droneBase ≤ h && h < Config.droneBase + Config.drones
/-- Drone number of a drone's context. -/
def droneOf (h : Nat) : Nat := h - Config.droneBase
/-- The core of a context; of a strand without a context, the core whose engines it uses. -/
def coreOf (h : Nat) : Nat := h / 6 % 1024
/-- The context number 0 to 5 within its core (R76). -/
def ctxNo (h : Nat) : Nat := h % 6
/-- The strand of a KIND 1 or KIND 2 node occupies no context (R295): its number. -/
def nodeHart (c l n : Nat) : Nat := 6 * (c + 1024 * (1 + n + 2 ^ 20 * l))
/-- The number under which the waiting loads of a saved strand stay queued at their granules (R309). -/
def ghostHart (c l slot : Nat) : Nat := nodeHart c l slot + 1
def isNode (h : Nat) : Bool := 6144 ≤ h && h % 6 == 0
def isGhost (h : Nat) : Bool := 6144 ≤ h && h % 6 == 1
/-- The number under which a core's matrix unit loads lines from other members' combs (R274). -/
def unitHart (c : Nat) : Nat := nodeHart c 0 0 + 2
def isUnit (h : Nat) : Bool := 6144 ≤ h && h % 6 == 2
def isStrand (h : Nat) : Bool := h < Config.droneBase && ctxNo h < 4
def isSup (h : Nat) : Bool := !isDrone h && ctxNo h == 4
def isGuest (h : Nat) : Bool := !isDrone h && ctxNo h == 5
/-- A context that runs a remote call: a drone or a guest context. -/
def isCallee (h : Nat) : Bool := isDrone h || isGuest h
/-- The die of a core (R86: 48 cores to a die). -/
def dieOfCore (c : Nat) : Nat := c / 48
/-- The die of a context; a drone's die by R317, R355. -/
def dieOf (h : Nat) : Nat :=
  if isDrone h then (if droneOf h < 512 then droneOf h / 128 else (droneOf h - 512) / 8) else dieOfCore (coreOf h)
/-- The member number of a core in its cluster (R271). -/
def memberOf (c : Nat) : Nat := c % 8
/-- The first core of a core's cluster (R271). -/
def clusterBase (c : Nat) : Nat := c - c % 8

/-- The context that is issuing. -/
def me (s : State) : Ctx := hart s s.cur
def setMe (s : State) (c : Ctx) : State := setHart s s.cur c
def modMe (s : State) (f : Ctx → Ctx) : State := modHart s s.cur f
def myCore (s : State) : Core := core s (coreOf s.cur)
def modMyCore (s : State) (f : Core → Core) : State := modCore s (coreOf s.cur) f

/-- STATUS (R86). -/
def statusWord (h : Nat) (mig : Bool) : Word :=
  BitVec.ofNat 64 (dieOf h * 2 ^ 22 + (coreOf h % 48) * 2 ^ 16 + mig.toNat * 2 ^ 7 + ctxNo h)

/-! ### Registers -/

def Ctx.tile (c : Ctx) (r : Nat) : TileReg := tget TileReg.zero c.tiles r
def Ctx.setTile (c : Ctx) (r : Nat) (v : TileReg) : Ctx := { c with tiles := tset TileReg.zero c.tiles r v }
/-- s0 reads as zero and is never pending or poisoned (R81). -/
def Ctx.scalar (c : Ctx) (r : Nat) : ScalarReg := if r = 0 then ScalarReg.zero else tget ScalarReg.zero c.scalars r
/-- A write to s0 is discarded (R29). -/
def Ctx.setScalar (c : Ctx) (r : Nat) (v : ScalarReg) : Ctx :=
  if r = 0 then c else { c with scalars := tset ScalarReg.zero c.scalars r v }
/-- m0 reads as all ones (R78). -/
def Ctx.mask (c : Ctx) (r : Nat) : MaskReg :=
  if r = 0 then { val := BitVec.allOnes 1024, pending := false, poison := none } else tget MaskReg.zero c.masks r
/-- A write to m0 is discarded (R29). -/
def Ctx.setMask (c : Ctx) (r : Nat) (v : MaskReg) : Ctx :=
  if r = 0 then c else { c with masks := tset MaskReg.zero c.masks r v }
def Ctx.param (c : Ctx) (r : Nat) : Word := tget 0 c.params r
def Ctx.setParam (c : Ctx) (r : Nat) (v : Word) : Ctx := { c with params := tset 0 c.params r v }
def Ctx.freg (c : Ctx) (r : Nat) : FuncReg := tget FuncReg.zero c.fregs r
def Ctx.setFreg (c : Ctx) (r : Nat) (v : FuncReg) : Ctx := { c with fregs := tset FuncReg.zero c.fregs r v }
def Ctx.chan (c : Ctx) (n : Nat) : Channel := tget Channel.reset c.channels n
def Ctx.setChan (c : Ctx) (n : Nat) (v : Channel) : Ctx := { c with channels := tset Channel.reset c.channels n v }
def Ctx.queue (c : Ctx) (n : Nat) : IQueue := tget IQueue.reset c.queues n
def Ctx.setQueue (c : Ctx) (n : Nat) (v : IQueue) : Ctx := { c with queues := tset IQueue.reset c.queues n v }
/-- A latch (R35), none where it is invalid. -/
def Ctx.latch (c : Ctx) (n : Nat) : Option Tile := (c.latches.find? fun e => e.1 == n).map (·.2)

/-- The value a scalar operand reads (R81, R120). -/
def Ctx.s (c : Ctx) (r : SReg) : Word := (c.scalar r.toNat).val

/-- A completed write of a scalar clears both flags (R81). -/
def Ctx.fillScalar (c : Ctx) (r : Nat) (v : Word) : Ctx := c.setScalar r { val := v, pending := false, poison := none }
/-- A producer that failed poisons its scalar with the origin cause (R81). -/
def Ctx.poisonScalar (c : Ctx) (r : Nat) (o : Byte) : Ctx :=
  c.setScalar r { c.scalar r with pending := false, poison := some o }
def Ctx.fillTile (c : Ctx) (r : Nat) (v : Tile) : Ctx := c.setTile r { val := v, st := .full }
def Ctx.poisonTile (c : Ctx) (r : Nat) (o : Byte) : Ctx := c.setTile r { c.tile r with st := .poisoned o }
def Ctx.fillMask (c : Ctx) (r : Nat) (v : Mask) : Ctx := c.setMask r { val := v, pending := false, poison := none }
def Ctx.poisonMask (c : Ctx) (r : Nat) (o : Byte) : Ctx := c.setMask r { c.mask r with pending := false, poison := some o }
def Ctx.fillFreg (c : Ctx) (r : Nat) (f : ChebFn) : Ctx := c.setFreg r { fn := f, st := .ready }
/-- A failed LDF poisons its register, which keeps its earlier function and with it its slots of the bank (R171, R172; DESIGN CHOICE,
notes/assumptions/72.md). -/
def Ctx.poisonFreg (c : Ctx) (r : Nat) (o : Byte) : Ctx := c.setFreg r { c.freg r with st := .poisoned o }

/-- FLAGS is sticky: flags are ORed in (R87). -/
def Ctx.orFlags (c : Ctx) (f : BitVec 6) : Ctx :=
  { c with csr := { c.csr with flags := c.csr.flags ||| f.setWidth 64 } }

/-! ### CSRs (R84 to R87, R139) -/

/-- Read CSR `n` of a context (R85). -/
def csrGet (h : Nat) (c : Ctx) (n : Nat) : Word :=
  match n with
  | 0x00 => statusWord h c.csr.mig
  | 0x01 => c.csr.tcause
  | 0x02 => c.csr.tpc
  | 0x03 => c.csr.tslot
  | 0x04 => c.csr.tinfo
  | 0x05 => c.csr.flags
  | 0x06 => c.csr.seed
  | 0x07 => c.csr.chtol
  | 0x08 => (nth 0 c.csr.xv 0).setWidth 64
  | 0x09 => (nth 0 c.csr.xv 1).setWidth 64
  | 0x0A => (nth 0 c.csr.xv 2).setWidth 64
  | 0x0B => (nth 0 c.csr.xv 3).setWidth 64
  | 0x0C => c.csr.spmax
  | 0x0D => c.csr.splive0
  | 0x0E => c.csr.splive1
  | 0x0F => c.csr.prio
  | 0x10 => c.csr.skey
  | 0x11 => c.csr.qnum
  | 0x12 => c.csr.qw
  | 0x13 => c.csr.qb
  | 0x14 => c.csr.cwpos
  | 0x15 => c.csr.dgstamp
  | _ => 0

/-- Keep the low `n` bits; reserved bits above read as zero (R10). -/
def low (n : Nat) (v : Word) : Word := (v.setWidth n).setWidth 64

/-- QW and QB store 1 for 0 (R85, R139). -/
def atLeast1 (v : Word) : Word := if v = 0 then 1 else v

/-- The four words of CHXV, word `k` replaced (R85). -/
def putXv (xv : List (BitVec 32)) (k : Nat) (v : Word) : List (BitVec 32) :=
  (List.range 4).map fun j => if j = k then v.setWidth 32 else nth 0 xv j

/-- Write CSR `n`: `ro` writes the fields that R85 marks RO too, as the window does (R84); W1C by R9. A window write to STATUS changes MIG
only: DIE, CORE and CTX say where the context is (DESIGN CHOICE, notes/assumptions/50.md). -/
def csrPut (ro : Bool) (c : Ctx) (n : Nat) (v : Word) : Ctx :=
  let k := c.csr
  match n with
  | 0x00 => { c with csr := { k with mig := k.mig && !v.getLsbD 7 } }
  | 0x01 => if ro then { c with csr := { k with tcause := low 8 v } } else c
  | 0x02 => if ro then { c with csr := { k with tpc := v }, wait := .none } else c
  | 0x03 => if ro then { c with csr := { k with tslot := low 8 v } } else c
  | 0x04 => if ro then { c with csr := { k with tinfo := v } } else c
  | 0x05 => { c with csr := { k with flags := k.flags &&& ~~~v } }
  | 0x06 => { c with csr := { k with seed := v } }
  | 0x07 => { c with csr := { k with chtol := low 32 v } }
  | 0x08 => { c with csr := { k with xv := putXv k.xv 0 v } }
  | 0x09 => { c with csr := { k with xv := putXv k.xv 1 v } }
  | 0x0A => { c with csr := { k with xv := putXv k.xv 2 v } }
  | 0x0B => { c with csr := { k with xv := putXv k.xv 3 v } }
  | 0x0C => if ro then { c with csr := { k with spmax := low 32 v } } else c
  | 0x0D => { c with csr := { k with splive0 := v } }
  | 0x0E => { c with csr := { k with splive1 := v } }
  | 0x0F => if ro then { c with csr := { k with prio := low 6 v } } else c
  | 0x10 => if ro then { c with csr := { k with skey := v } } else c
  | 0x11 => if ro then { c with csr := { k with qnum := v } } else c
  | 0x12 => { c with csr := { k with qw := atLeast1 (low 16 v) } }
  | 0x13 => { c with csr := { k with qb := atLeast1 (low 32 v) } }
  | 0x14 => { c with csr := { k with cwpos := low 3 v } }
  | 0x15 => if ro then { c with csr := { k with dgstamp := v } } else c
  | _ => c

/-- The window number `n` as (context, is a scalar, register): R84. -/
def csrWindow (n : Nat) : Nat × Bool × Nat :=
  let r := n - 0x100
  (r / 0x80, 0x40 ≤ r % 0x80, if 0x40 ≤ r % 0x80 then r % 0x80 - 0x40 else r % 0x80)

/-- A CSR as context `h` reads it (R84, R85). -/
def csrRead (s : State) (h n : Nat) : Word :=
  let c := coreOf h
  if n < 0x40 then csrGet h (hart s h) n
  else if n = 0x40 then (core s c).tvec
  else if n = 0x41 then (core s c).tsrc
  else if n = 0x42 then (core s c).tskip
  else
    let (x, sc, r) := csrWindow n
    if sc then ((hart s (6 * c + x)).scalar r).val else csrGet (6 * c + x) (hart s (6 * c + x)) r

/-- A CSRW as it lands (R84, R85, R139): a window write takes effect only where its context is stopped in a trap. Bits [5:0] of TVEC are
stored as zero, and a window write to a pending scalar completes it (DESIGN CHOICE, notes/assumptions/50.md). -/
def csrWrite (s : State) (h n : Nat) (v : Word) : State :=
  let c := coreOf h
  if n < 0x40 then modHart s h fun x => csrPut false x n v
  else if n = 0x40 then modCore s c fun k => { k with tvec := v &&& ~~~0x3F#64 }
  else if n = 0x41 then s
  else if n = 0x42 then modCore s c fun k => { k with tskip := low 8 v }
  else
    let (x, sc, r) := csrWindow n
    if (hart s (6 * c + x)).life = .trapped then
      modHart s (6 * c + x) fun y => if sc then y.fillScalar r v else csrPut true y r v
    else s

/-! ### Results in flight (R89, R90) -/

/-- One result lands; its flags are ORed in at that moment (R87). -/
def landOne (s : State) (h : Nat) (f : Flight) : State :=
  let s := match f.dst with
    | .tile r v bits => modHart s h fun c => c.fillTile r (mergeBits (c.tile r).val v bits)
    | .scalar r v => modHart s h fun c => c.fillScalar r v
    | .mask r v => modHart s h fun c => c.fillMask r v
    | .param r v => modHart s h fun c => c.setParam r v
    | .csr n v => csrWrite s h n v
    | .nothing => s
  modHart s h fun c => c.orFlags f.flags

/-- Every result due at the bundle that context `h` is about to issue lands, in issue order (R30, R87, R89). -/
def landDue (s : State) (h : Nat) : State :=
  let c := hart s h
  let due := c.flight.filter fun f => f.due ≤ c.count
  let s := due.foldl (fun s f => landOne s h f) s
  modHart s h fun c => { c with flight := c.flight.filter fun f => !(f.due ≤ c.count) }

/-- `land(d, v, k)` of R12: the result becomes visible to bundle b + k of the issuing context. The bundle's own number b is
`count`, which the close of the bundle advances. -/
def land (s : State) (d : Landing) (k : Nat) (flags : BitVec 6) : State :=
  modMe s fun c => { c with flight := c.flight ++ [{ due := c.count + k, dst := d, flags := flags }] }

/-- A write to scalar `sd` that lands after `k` bundles (R120). -/
def landScalar (s : State) (sd : SReg) (v : Word) (k : Nat) (flags : BitVec 6 := 0) : State :=
  land s (.scalar sd.toNat v) k flags

/-- A destination becomes empty, pending or busy once the bundle's reads are over (R99). -/
def markDst (s : State) (m : Mark) : State := { s with bundle := { s.bundle with marks := s.bundle.marks ++ [m] } }

/-- Does a result in flight write the marked register? s0 and m0 are never marked (R81). -/
def flightTo (m : Mark) (f : Flight) : Bool :=
  match m, f.dst with
  | .tile r, .tile r' _ _ => r == r'
  | .scalar r, .scalar r' _ => r == r' && r != 0
  | .mask r, .mask r' _ => r == r' && r != 0
  | _, _ => false

/-- A result in flight after a mark: one to the marked register is discarded (R80). Its instruction still sets its flags (R87, R125), at
the bundle it would have landed at: DEDUCED, notes/assumptions/44.md. -/
def discardTo (m : Mark) (f : Flight) : Option Flight :=
  if flightTo m f then (if f.flags = 0 then none else some { f with dst := .nothing }) else some f

/-- Is an exposed result of the context in flight (R90)? Flags of a discarded one are none. -/
def Ctx.exposed (c : Ctx) : Bool := c.flight.any fun f => f.dst != .nothing

/-- Apply a mark: the register's flag, and the discard of results in flight to it (R79 to R82, R80). -/
def applyMark (c : Ctx) (m : Mark) : Ctx :=
  let c := match m with
    | .tile r => c.setTile r { c.tile r with st := .empty }
    | .scalar r => c.setScalar r { val := (c.scalar r).val, pending := true, poison := none }
    | .mask r => c.setMask r { val := (c.mask r).val, pending := true, poison := none }
    | .freg r => c.setFreg r { c.freg r with st := .busy }
  { c with flight := c.flight.filterMap (discardTo m) }

/-! ### Translation and global memory (R317 to R320, R330, R335) -/

/-- Page entry fields (R319). -/
def Page.present (p : Page) : Bool := p.w0.getLsbD 63
def Page.rd (p : Page) : Bool := p.w0.getLsbD 62
def Page.wr (p : Page) : Bool := p.w0.getLsbD 61
def Page.ex (p : Page) : Bool := p.w0.getLsbD 60
def Page.rep (p : Page) : Nat := wbits p.w0 58 2
def Page.large (p : Page) : Bool := p.w0.getLsbD 57
def Page.loc (p : Page) : Bool := p.w0.getLsbD 56
def Page.frame (p : Page) : Nat := wbits p.w0 16 26
def Page.size (p : Page) : Nat := if p.large then 2 ^ 25 else 2 ^ 16

def Page.absent : Page := { w0 := 0, w1 := 0, modno := 0, notify := none }

/-- The present page that holds a virtual address, with its base: a 64 KiB page, or the 32 MiB page around it. -/
def findPage (pages : Tab Page) (va : Nat) : Option (Nat × Page) :=
  let p := tget Page.absent pages (va / 2 ^ 16)
  if p.present && !p.large then some (va / 2 ^ 16 * 2 ^ 16, p)
  else
    let q := tget Page.absent pages (va / 2 ^ 25 * 2 ^ 9)
    if q.present && q.large then some (va / 2 ^ 25 * 2 ^ 25, q) else none

/-- The physical address of a virtual address within its page (R319). -/
def physOf (base : Nat) (p : Page) (va : Nat) : Nat := p.frame * 2 ^ 16 + (va - base)

/-- The bytes of a virtual address's page as a reader of committed state sees them (R330): none where no page is present. -/
def vbyte (i : Image) (va : Nat) : Option Byte :=
  match findPage i.pages va with
  | none => none
  | some (base, p) =>
    if p.rep = 2 then some (p.w1.extractLsb' (8 * (va % 8)) 8) else some (mget i.mem (physOf base p va))

/-- Bytes from a virtual address upward; an absent page's byte counts as zero (callers check presence first). -/
def vread (i : Image) (va : Nat) (n : Nat) : List Byte := (List.range n).map fun k => (vbyte i (va + k)).getD 0

/-- Does any byte of the access lie in a line marked bad (R335)? -/
def vbad (i : Image) (va n : Nat) : Bool :=
  (List.range n).any fun k =>
    match findPage i.pages (va + k) with
    | some (base, p) => p.rep != 2 && i.bad.contains (physOf base p (va + k) / 64)
    | none => false

/-- The committed state of global memory (R325). -/
def State.image (s : State) : Image := { mem := s.mem, pages := s.pages, bad := s.badLines }

/-- The stack or channel and the drone of a physical address (R317, R318): none outside memory. -/
def droneAt (p : Page) (pa : Nat) : Option Nat :=
  if pa < 2 ^ 39 then
    some (64 * (pa / 2 ^ 36) + (if p.loc then pa / 2 ^ 30 % 64 else pa / 2 ^ 8 % 64))
  else if 2 ^ 41 ≤ pa && pa < 2 ^ 42 then some (512 + pa / 2 ^ 36 % 32)
  else none

/-- Is a page remote (R387)? -/
def State.remotePage (s : State) (p : Page) : Bool := p.modno != s.host.modno

/-! ### The event log (R396, R401) -/

/-- A source number (R396, R401). -/
def sourceNo (s : State) (d kind index : Nat) : Nat := s.host.modno * 2 ^ 28 + d * 2 ^ 25 + kind * 2 ^ 20 + index
/-- A unit's number without that of its module (R401). -/
def unitNo (src : Nat) : Nat := src % 2 ^ 28
/-- The source number of a unit of this module. -/
def unitSrc (s : State) (u : Nat) : Nat := s.host.modno * 2 ^ 28 + u
def srcFirmware (s : State) : Nat := sourceNo s 4 0 0
def srcCore (s : State) (c : Nat) : Nat := sourceNo s (dieOfCore c) 1 (c % 48)
def srcStripe (s : State) (c g : Nat) : Nat := sourceNo s (dieOfCore c) 2 (64 * (c % 48) + g / 4096)
/-- The source number of drone `d` (R401). -/
def srcDrone (s : State) (d : Nat) : Nat :=
  if d < 512 then sourceNo s (d / 128) 9 (d % 128) else sourceNo s ((d - 512) / 8) 9 (128 + (d - 512) % 8)
/-- A register bank of a context; a drone's registers are the drone's. -/
def srcBank (s : State) (h r : Nat) : Nat :=
  if isDrone h then srcDrone s (h - Config.droneBase)
  else sourceNo s (dieOf h) 3 (64 * (coreOf h % 48) + 8 * ctxNo h + r % 8)
def srcDie (s : State) (d : Nat) : Nat := sourceNo s d 0 0
/-- Does a local page with LOC = 1 hold a physical address (R318)? -/
def locAt (s : State) (pa : Nat) : Bool :=
  s.pages.any fun e => e.2.present && !s.remotePage e.2 && e.2.loc && e.2.frame * 2 ^ 16 ≤ pa && pa < e.2.frame * 2 ^ 16 + e.2.size
/-- The memory controller of a physical address (R318, R401). -/
def srcMem (s : State) (pa : Nat) : Nat :=
  if pa < 2 ^ 39 then
    sourceNo s (pa / 2 ^ 37) 4 (64 * (pa / 2 ^ 36 % 2) + (if locAt s pa then pa / 2 ^ 30 % 64 else pa / 2 ^ 8 % 64))
  else sourceNo s (pa / 2 ^ 36 % 32 / 8) 5 (pa / 2 ^ 36 % 8)

/-- Records stand in the order (time stamp, source number). -/
def insEvent (e : Event) : List Event → List Event
  | [] => [e]
  | f :: t => if e.stamp < f.stamp ∨ (e.stamp = f.stamp ∧ e.source < f.source) then e :: f :: t else f :: insEvent e t

/-- Log an event: one source stamps at most one event per ns (R396). -/
def logEv (s : State) (source : Nat) (code : EvCode) (detail : List Word) : State :=
  let last := s.host.pendingEv.foldl (fun m e => if e.source = source then max m (e.stamp + 1) else m) s.now
  let e : Event := { stamp := last, source := source, code := code, detail := detail }
  { s with host := { s.host with pendingEv := insEvent e s.host.pendingEv } }

/-- An uncorrectable error in the line of a physical address was met (R335): it is logged under a source number and a row test falls due. -/
def lineErrorBy (s : State) (src pa : Nat) (detail : List Word) : State :=
  let s := logEv s src .uncorrectable (BitVec.ofNat 64 pa :: detail)
  { s with rowTests := insNat (pa / 1024) s.rowTests }

/-- The same as the line's memory controller logs it (R401). -/
def lineError (s : State) (pa : Nat) (detail : List Word) : State := lineErrorBy s (srcMem s pa) pa detail

/-- The physical address of the first of `n` bytes at a virtual address that lies in a line marked bad. -/
def firstBad (i : Image) (va n : Nat) : Option Nat :=
  (((List.range n).map (va + ·)).find? fun a => vbad i a 1).bind fun a => (findPage i.pages a).map fun e => physOf e.1 e.2 a

/-- An uncorrectable error that a read of `n` bytes at a virtual address met. -/
def readError (s : State) (i : Image) (va n : Nat) : State := match firstBad i va n with
  | some pa => lineError s pa []
  | none => s

/-- The number by which `Config.eventCode` tells the codes apart. -/
def EvCode.index : EvCode → Nat
  | .corrected => 0 | .uncorrectable => 1 | .spared => 2 | .laneRetired => 3 | .coreFenced => 4 | .writeDropped => 5
  | .fabricLost => 6 | .thermal => 7 | .launchEnd => 8 | .break => 9 | .svc => 10 | .trap => 11 | .coreFault => 12
  | .selfTest => 13 | .retrain => 14 | .opDropped => 15 | .areaRetired => 16

/-- Write one record into the host's event ring, or count it as dropped where the ring is full (R390, R396). -/
def writeEvent (h : HostIf) (e : Event) : HostIf :=
  let n := 2 ^ wbits h.evtSize 0 5
  if (h.evtTail + 1) % n = h.evtHead % n then { h with evtDrop := (h.evtDrop + 1) % 2 ^ 32 }
  else
    let rec32 := natBytes e.stamp 8 ++ natBytes e.source 4 ++ natBytes (Config.eventCode e.code.index).toNat 2 ++ [0, 0] ++
      natBytes (Config.eventDetail e.code.index e.detail).toNat 16
    { h with mem := mwrite h.mem (h.evtBase.toNat + 32 * h.evtTail) rec32, evtTail := (h.evtTail + 1) % n }

/-- The records stamped before now go to the ring, in order. -/
def drainEvents (s : State) : State :=
  let old := s.host.pendingEv.filter fun e => e.stamp < s.now
  let h := old.foldl writeEvent s.host
  { s with host := { h with pendingEv := s.host.pendingEv.filter fun e => !(e.stamp < s.now) } }

/-- Reference cycles: seven in every 10 ns (R8). Have `cycles` of them passed since `t`? -/
def refElapsed (s : State) (t cycles : Nat) : Bool := cycles * 10 ≤ (s.now - t) * 7

/-! ### Launches -/

def Launch.none : Launch :=
  { ended := some .success, age := 20, margin := 8, saveBase := 0, saveCnt := 0, usedSlots := [], seedBase := 0, handler := 0,
    nodes := [], committed := 0, nextOrd := 0, units := [], groups := [], rescans := [], writeLog := [], commit := Option.none,
    exits := [], cbars := [] }

def launch (s : State) (l : Nat) : Launch := tget Launch.none s.launches l
def setLaunch (s : State) (l : Nat) (v : Launch) : State := { s with launches := tset Launch.none s.launches l v }
def modLaunch (s : State) (l : Nat) (f : Launch → Launch) : State := setLaunch s l (f (launch s l))
def Launch.running (l : Launch) : Bool := l.ended.isNone
/-- Does any launch run (R392: BUSY)? -/
def anyRunning (s : State) : Bool := s.launches.any fun e => e.2.running

/-- A core's matrix unit forgets the calls of one context, or of every context of a set. -/
def dropCalls (m : MatrixUnit) (gone : Nat → Bool) : MatrixUnit :=
  let keep : MItem → Bool := fun i => match i with
    | .call c => !gone c.h
    | .load .. => true
  let keepRun : Option MRun → Option MRun := fun r => match r with
    | some x => if gone x.call.h then none else some x
    | none => none
  { m with hi := m.hi.filter keep, lo := m.lo.filter keep, running := keepRun m.running, suspended := keepRun m.suspended }

/-- A strand that has executed EXIT keeps its context until its work has settled, and its matrix calls their loads (R277, R302): a launch
that ends with success, its final quanta committed, leaves it that. -/
def settles (s : State) (st : EndSt) (h : Nat) : Bool := st == .success && ((isStrand h && (hart s h).life == .exited) || isUnit h)

/-- The keys of the strands of a launch that stand in contexts or are saved, and that its end stops. -/
def keysOf (s : State) (l : Nat) (st : EndSt) : List Word :=
  ((s.harts.filter fun e => (isStrand e.1 || isNode e.1) && e.2.life != .idle && e.2.who.launch == l && !settles s st e.1).map
    fun e => e.2.csr.skey) ++
  s.dies.flatMap fun e => e.2.pool.filterMap fun p => match p.kind with
    | .saved v => if v.ctx.who.launch = l then some v.ctx.csr.skey else none
    | _ => none

/-- A late promotion is abandoned (R334). -/
def abandon (s : State) (p : Promo) : State := setDie s p.die { die s p.die with late := (die s p.die).late + 1 }

/-- With its launch over, no commit step is left to decide a promotion whose copy has ended: it is abandoned (R334). -/
def abandonCopied (s : State) (l : Nat) : State :=
  let due (p : Promo) : Bool := p.copied && p.launch == l
  let t := (s.promos.filter due).foldl abandon s
  { t with promos := t.promos.filter fun p => !due p }

/-- A launch ends (R312, R305, R96): every strand of it stops but those that only settle (R302), its queued work and the writes of quanta
whose commit step has not begun go, the event is logged by the firmware's source (R396, R401), its streams of multicast are emptied
(R279), its barriers freed (R250), its promotions whose copies have ended abandoned (R334). A commit step in progress is completed (R325:
all of it or nothing; DEDUCED, notes/assumptions/54.md). -/
def endLaunch (s : State) (l : Nat) (st : EndSt) : State :=
  if (launch s l).running then
    let mine : Nat → Bool := fun h =>
      (isStrand h || isNode h || isGhost h || isUnit h) && (hart s h).life != .idle && (hart s h).who.launch == l && !settles s st h
    let keys := keysOf s l st
    let keepNew : NewStrand → Bool := fun n => n.who.launch != l
    let keepPool : PoolEnt → Bool := fun e => match e.kind with
      | .node l' _ => l' != l
      | .fresh n _ => n.who.launch != l
      | .saved v => v.ctx.who.launch != l
    let cores := s.cores.map fun e =>
      let k := e.2
      (e.1, { k with
        deque := k.deque.filter keepNew
        mx := { dropCalls k.mx mine with streams := k.mx.streams.filter fun x => x.launch != l }
        trapQ := k.trapQ.filter fun x => !mine (6 * e.1 + x)
        waiters := k.waiters.filter fun w => !mine (6 * e.1 + w.1)
        barriers := k.barriers.filter fun b => !keys.any fun key => b.2.holder == some key })
    let s := { s with
      cores := cores.filter fun e => e.2 != Core.reset
      dies := (s.dies.map fun e => (e.1, { e.2 with pool := e.2.pool.filter keepPool })).filter fun e => e.2 != Die.reset
      harts := s.harts.filter fun e => !mine e.1 }
    let s := abandonCopied (modLaunch s l fun x => { x with ended := some st, units := [], rescans := [], usedSlots := [] }) l
    logEv s (srcFirmware s) .launchEnd
      (BitVec.ofNat 64 l :: (match st with
        | .success => [0] | .error n => [1, BitVec.ofNat 64 n] | .halt v => [2, v] | .deadlock => [3] | .thermal => [4]
        | .reset => [5]))
  else s

/-- A node fails, and its launch ends with the status (R290, R312). -/
def failNode (s : State) (l n : Nat) (st : EndSt) : State :=
  if (launch s l).running then
    endLaunch (modLaunch s l fun x =>
      { x with nodes := x.nodes.map fun e => (e.1, if e.1 = n then { e.2 with st := .failed } else e.2) }) l st
  else s

/-! ### Traps (R93 to R98) -/

/-- What a trap records: cause, slot mask, detail. -/
structure Trap where
  cause : Nat
  slots : Nat
  info : Word
deriving DecidableEq, Repr

/-- The oldest waiting trap enters the idle supervisor context at TVEC, with TSRC naming its context (R96). -/
def enterHandler (s : State) (c : Nat) : State :=
  match (core s c).trapQ with
  | x :: rest =>
    if (core s c).handling then s
    else
      let s := modCore s c fun k => { k with trapQ := rest, handling := true, tsrc := BitVec.ofNat 64 x }
      modHart s (6 * c + 4) fun y => { y with life := .running, pc := (core s c).tvec &&& ~~~0x3F#64, leaving := false }
  | [] => s

/-- Does a strand with this key still run, or stand saved in a pool, not having executed EXIT? -/
def strandStays (s : State) (key : Word) : Bool :=
  (s.harts.any fun e => (isStrand e.1 || isNode e.1) && e.2.life != .idle && !e.2.leaving && e.2.csr.skey == key) ||
  s.dies.any fun e => e.2.pool.any fun p => match p.kind with
    | .saved v => v.ctx.csr.skey == key
    | _ => false

/-- Is a dispatched call outstanding at its caller (R366, R368)? -/
def outstanding (c : Ctx) (m : CallMsg) : Bool := c.csr.skey == m.skey && c.calls.any fun k => k.seqNo == m.seqNo && k.sent.isSome

/-- A reply goes to the caller of a call: into its outstanding call; for a call that is LOST it is discarded (R368); after EXIT
it is discarded and acknowledged (R302, R369). -/
def sendReply (s : State) (target : Nat) (m : CallMsg) (r : Reply) : State :=
  if outstanding (hart s m.caller) m then
    modHart s m.caller fun c =>
      { c with calls := c.calls.map fun k => if k.seqNo = m.seqNo then { k with reply := some r } else k }
  else if strandStays s m.skey then s
  else { s with acks := s.acks ++ [{ target := target, callerDie := dieOf m.caller, skey := m.skey, seqNo := m.seqNo }] }

/-- The entry of a call in a reply cache (R369). -/
def sameCall (m : CallMsg) (e : CacheEnt) : Bool := e.callerDie == dieOf m.caller && e.skey == m.skey && e.seqNo == m.seqNo

/-- The commit step that dispatched a call knows that it has replied (R363). -/
def markReplied (s : State) (h : Nat) (m : CallMsg) : State :=
  modLaunch s m.launch fun l =>
    { l with commit := l.commit.map fun c =>
        { c with calls := c.calls.map fun x =>
            if x.h = h ∧ x.key = m.skey ∧ x.seqNo = m.seqNo then { x with replied := true } else x } }

/-- A guest's call leaves its core: its matrix calls are dropped, its barriers released, its waits over (R301 as for a strand). -/
def leaveGuest (s : State) (h : Nat) : State :=
  if isDrone h then s
  else
    modCore s (coreOf h) fun k =>
      { k with
        mx := dropCalls k.mx (· == h)
        waiters := k.waiters.filter fun w => w.1 != ctxNo h
        barriers := k.barriers.filter fun b => b.2.holder != some (hart s h).csr.skey }

/-- The call running on a drone or guest context ends with a reply (R361, R365, R367), which a reissue that has attached to it
receives too (R369). A drone keeps its store and its banks; the registers of the call are gone. -/
def endCall (s : State) (h : Nat) (r : Reply) : State :=
  match (hart s h).run with
  | none => s
  | some k =>
    let m := k.msg
    let r := { r with banks := k.banks ||| r.banks }
    let p := port s h
    let more := (p.cache.filter (sameCall m)).flatMap fun e => e.others
    let s := (m.caller :: more).foldl (fun s c => sendReply s h { m with caller := c } r) s
    let s := setPort s h { p with cache := p.cache.map fun e => if sameCall m e then { e with reply := some r, others := [] } else e }
    markReplied (setHart (leaveGuest s h) h Ctx.reset) h m

/-- A FAULT reply (R366, R367). -/
def faultReply (cause : Nat) : Reply :=
  { state := 0x02, cause := BitVec.ofNat 8 cause, banks := 0, rval := 0, tile := 0 }

/-- The nodes, by launch, that a fault of core `c` hits: those with a strand in a context of it, or with one that can run nowhere else
(pinned to it, holding a barrier of it, waiting at its comb, R310), or in a cluster launch of its cluster (R272, R278), or staging for it.
-/
def hitBy (s : State) (c : Nat) : List (Nat × Nat) :=
  let tied (w : Ident) : Bool := w.cluster == some (c / 8)
  let holds (key : Word) : Bool := (core s c).barriers.any fun b => b.2.holder == some key
  let pick (b : Bool) (w : Ident) : Option (Nat × Nat) := if b then some (w.launch, w.node) else none
  (s.harts.filterMap fun e =>
    pick ((isStrand e.1 || isGhost e.1) && e.2.life != .idle && (coreOf e.1 == c || tied e.2.who)) e.2.who) ++
  (s.dies.flatMap fun e => e.2.pool.filterMap fun p => match p.kind with
    | .saved v => pick (tied v.ctx.who || (coreOf v.h == c && (v.ctx.who.pin == 2 || holds v.ctx.csr.skey))) v.ctx.who
    | .fresh n home => pick (tied n.who || (home == c && n.who.pin == 2)) n.who
    | .node .. => none) ++
  (s.cores.flatMap fun e => e.2.deque.filterMap fun n => pick (tied n.who || (e.1 == c && n.who.pin == 2)) n.who) ++
  s.launches.flatMap fun e => e.2.nodes.filterMap fun n => match n.2.st with
    | .staging ps => if ps.any fun h => coreOf h == c then some (e.1, n.1) else none
    | _ => none

/-- A core fault: every context stops, the die scheduler ends the launch with an error status and logs the event (R96): every launch that
the fault hits (DESIGN CHOICE, notes/assumptions/51.md). -/
def coreFault (s : State) (c : Nat) : State :=
  let ls := hitBy s c
  let s := modCore s c fun k => { k with faulted := true, handling := false, trapQ := [], issuing := none }
  let s := logEv s (srcCore s c) .coreFault []
  let s := ls.foldl (fun s l => failNode s l.1 l.2 (.error l.2)) s
  let s := endCall s (6 * c + 5) (faultReply 0x08)
  (upto 6).foldl (fun s x => modHart s (6 * c + x) fun k => { k with life := .idle }) s

/-- TAKE A TRAP on context `h` (R96): the context stops with its results in flight kept (R91); TCAUSE, TPC, TSLOT and TINFO
are written; the trap enters the supervisor context if that is idle, and waits otherwise. A trap in a guest context or on a
drone ends its call with a fault status (R54, R96, R367). A trap in the supervisor context stops the core (R96). -/
def takeTrap (s : State) (h : Nat) (tpc : Word) (t : Trap) : State :=
  let s := { s with bundle := Bundle.closed }
  let s := modHart s h fun c =>
    let k := { c.csr with tcause := BitVec.ofNat 64 t.cause, tpc := tpc, tslot := BitVec.ofNat 64 t.slots, tinfo := t.info }
    { c with csr := k }
  if isCallee h then endCall s h (faultReply t.cause)
  else if isSup h then coreFault s (coreOf h)
  else
    let s := modHart s h fun c => { c with life := .trapped }
    let s := modCore s (coreOf h) fun k => { k with trapQ := k.trapQ ++ [ctxNo h] }
    enterHandler s (coreOf h)

/-- RETURN FROM A TRAP (R97): context TSRC resumes at its TPC (bits [5:0] ignored, R21), its bundle count unchanged, the slots of TSKIP as
NOP in its first bundle, a fresh SPMAX (R307); TSKIP clears; the handler ends and the oldest waiting trap enters. -/
def returnTrap (s : State) (c : Nat) : State :=
  let k := core s c
  let x := 6 * c + k.tsrc.toNat % 8
  let s :=
    if (hart s x).life = .trapped then
      modHart s x fun y =>
        { y with
          life := if y.leaving then .exited else .running
          pc := y.csr.tpc &&& ~~~0x3F#64
          skip := k.tskip.setWidth 8
          spCount := 0 }
    else s
  let s := modCore s c fun k => { k with tskip := 0, handling := false }
  let s := modHart s (6 * c + 4) fun y => { y with life := .idle }
  enterHandler s c

end Sys2Proof.Machine
end

