-- ==== Sys2Proof/Machine/Flags.lean ====
section
/-!
DEFINITION. Number formats, rounding and every flag computation (chapter 04, R100 to R119). An exact value is a sign, a
natural number and a power of two; where an exact value is not of that form (a quotient, a root, 2^x, log2, a cosine), it
is cut after more than 200 bits and its last bit set, so that it stands strictly between the same two rounding candidates.
-/
namespace Sys2Proof.Machine

/-! ### Exact values -/

/-- NaN, an infinity, or (-1)^neg m 2^e; a zero keeps its sign (R101). -/
inductive XR
  | nan
  | inf (neg : Bool)
  | fin (neg : Bool) (m : Nat) (e : Int)
deriving DecidableEq, Repr

def XR.zero (neg : Bool) : XR := .fin neg 0 0
def XR.isNaN : XR → Bool
  | .nan => true
  | _ => false
def XR.isInf : XR → Bool
  | .inf _ => true
  | _ => false
def XR.isZero : XR → Bool
  | .fin _ 0 _ => true
  | _ => false
def XR.sign : XR → Bool
  | .nan => false
  | .inf s => s
  | .fin s _ _ => s
def XR.neg : XR → XR
  | .nan => .nan
  | .inf s => .inf (!s)
  | .fin s m e => .fin (!s) m e
def XR.abs : XR → XR
  | .nan => .nan
  | .inf _ => .inf false
  | .fin _ m e => .fin false m e
/-- An integer as an exact value. -/
def XR.ofInt (i : Int) : XR := .fin (i < 0) i.natAbs 0

/-- m 2^k as a natural number, cut where k is negative. -/
def shiftNat (m : Nat) (k : Int) : Nat := if 0 ≤ k then m <<< k.toNat else m >>> (-k).toNat

/-- A finite value's signed numerator at exponent `e0`, which is at most its own exponent. -/
def numAt (neg : Bool) (m : Nat) (e e0 : Int) : Int :=
  let n : Int := (m <<< (e - e0).toNat : Nat)
  if neg then -n else n

/-- The exact sum; an exact zero sum of unlike signs is -0 under RDN and +0 otherwise, zeros of one sign keep it (R101); infinity minus
infinity is NaN. -/
def XR.add (rdn : Bool) : XR → XR → XR
  | .nan, _ => .nan
  | _, .nan => .nan
  | .inf s, .inf t => if s = t then .inf s else .nan
  | .inf s, .fin .. => .inf s
  | .fin .., .inf t => .inf t
  | .fin s m e, .fin t n f =>
    let e0 := min e f
    let v := numAt s m e e0 + numAt t n f e0
    if v = 0 then (if m = 0 ∧ n = 0 ∧ s = t then .fin s 0 0 else .fin rdn 0 0)
    else .fin (v < 0) v.natAbs e0

/-- The exact product; zero times infinity is NaN. -/
def XR.mul : XR → XR → XR
  | .nan, _ => .nan
  | _, .nan => .nan
  | .inf s, .inf t => .inf (s != t)
  | .inf s, .fin t n _ => if n = 0 then .nan else .inf (s != t)
  | .fin s m _, .inf t => if m = 0 then .nan else .inf (s != t)
  | .fin s m e, .fin t n f => .fin (s != t) (m * n) (e + f)

/-- Is a < b, for values that are no NaN; -0 equals +0. -/
def XR.lt : XR → XR → Bool
  | .nan, _ => false
  | _, .nan => false
  | .inf s, .inf t => s && !t
  | .inf s, .fin .. => s
  | .fin .., .inf t => !t
  | .fin s m e, .fin t n f => numAt s m e (min e f) < numAt t n f (min e f)
def XR.le (a b : XR) : Bool := !a.isNaN && !b.isNaN && !b.lt a
/-- Equal as numbers: a NaN equals nothing, -0 equals +0. -/
def XR.eqv (a b : XR) : Bool := a.le b && b.le a
def XR.scale : XR → Int → XR
  | .fin s m e, k => .fin s m (e + k)
  | x, _ => x

/-- A quotient of naturals, cut after 200 bits with its last bit standing for what was cut. -/
def quotient (neg : Bool) (num den : Nat) (e : Int) : XR :=
  if num = 0 then .fin neg 0 0
  else
    let k := 200 + den.log2 - min num.log2 (199 + den.log2)
    let q := (num <<< k) / den
    let r := (num <<< k) % den
    .fin neg (2 * q + (if r = 0 then 0 else 1)) (e - k - 1)

/-- The exact quotient; 0/0 and infinity/infinity are NaN, x/0 an infinity of the product sign. -/
def XR.div : XR → XR → XR
  | .nan, _ => .nan
  | _, .nan => .nan
  | .inf _, .inf _ => .nan
  | .inf s, .fin t .. => .inf (s != t)
  | .fin s .., .inf t => .fin (s != t) 0 0
  | .fin s m e, .fin t n f =>
    if n = 0 then (if m = 0 then .nan else .inf (s != t)) else quotient (s != t) m n (e - f)

/-! ### Floating formats (R100, R101) -/

/-- A floating format: mantissa bits, bias, total bits, and whether it holds infinities; `maxCode` is its largest finite
code, `nanCode` its canonical NaN. -/
structure Fmt where
  mb : Nat
  bias : Nat
  bits : Nat
  hasInf : Bool
  maxCode : Nat
  nanCode : Nat
deriving DecidableEq, Repr

def Fmt.fp32 : Fmt := { mb := 23, bias := 127, bits := 32, hasInf := true, maxCode := 0x7F7FFFFF, nanCode := 0x7FC00000 }
def Fmt.fp16 : Fmt := { mb := 10, bias := 15, bits := 16, hasInf := true, maxCode := 0x7BFF, nanCode := 0x7E00 }
def Fmt.bf16 : Fmt := { mb := 7, bias := 127, bits := 16, hasInf := true, maxCode := 0x7F7F, nanCode := 0x7FC0 }
def Fmt.e4m3 : Fmt := { mb := 3, bias := 7, bits := 8, hasInf := false, maxCode := 0x7E, nanCode := 0x7F }
def Fmt.e5m2 : Fmt := { mb := 2, bias := 15, bits := 8, hasInf := true, maxCode := 0x7B, nanCode := 0x7E }
/-- The block element E2M1: no infinity, no NaN (R100). -/
def Fmt.e2m1 : Fmt := { mb := 1, bias := 1, bits := 4, hasInf := false, maxCode := 7, nanCode := 0 }

/-- The value of a code (R101). -/
def Fmt.value (f : Fmt) (code : Nat) : XR :=
  let neg := code.testBit (f.bits - 1)
  let c := code % 2 ^ (f.bits - 1)
  let ex := c >>> f.mb
  let man := c % 2 ^ f.mb
  if f.maxCode < c then (if f.hasInf && man == 0 then .inf neg else .nan)
  else if ex = 0 then .fin neg man (1 - (f.bias : Int) - f.mb)
  else .fin neg (2 ^ f.mb + man) (ex - (f.bias : Int) - f.mb)

/-- The floating format of an element type. -/
def fmtOf : EType → Option Fmt
  | .fp32 => some .fp32
  | .fp16 => some .fp16
  | .bf16 => some .bf16
  | .e4m3 => some .e4m3
  | .e5m2 => some .e5m2
  | _ => none

/-! ### Flags (R87, R113) -/

def fNV : BitVec 6 := 1
def fOF : BitVec 6 := 2
def fUF : BitVec 6 := 4
def fNX : BitVec 6 := 8
def fSA : BitVec 6 := 16
def fFT : BitVec 6 := 32

/-- A flag where a condition holds. -/
def flagIf (b : Bool) (f : BitVec 6) : BitVec 6 := if b then f else 0

/-! ### Rounding (R108 to R111) -/

/-- How a result is rounded: the fields of a mode byte, or of a template, without SP. -/
structure RMode where
  rnd : Rnd
  sat : Bool
  ftz : Bool
deriving DecidableEq, Repr

def RMode.rne : RMode := { rnd := .rne, sat := false, ftz := false }
def RMode.up : RMode := { rnd := .rup, sat := false, ftz := false }
def RMode.down : RMode := { rnd := .rdn, sat := false, ftz := false }
def rmodeOf (m : Mode) : RMode := { rnd := m.rnd, sat := m.sat, ftz := m.ftz }

/-- The generator of R109: draw `n` of a bundle that starts with `seed`. -/
def draw (seed : Word) (n : Nat) : Word :=
  let z := seed + BitVec.ofNat 64 (n + 1) * 0x9E3779B97F4A7C15#64
  let z := (z ^^^ (z >>> 30)) * 0xBF58476D1CE4E5B9#64
  let z := (z ^^^ (z >>> 27)) * 0x94D049BB133111EB#64
  z ^^^ (z >>> 31)

/-- Round the magnitude m 2^e, at the grid of step 2^q, to a multiple of the step: the multiple and whether it is exact.
`neg` is the sign, `dr` the draw of a stochastic rounding (R108, R109). -/
def roundGrid (r : Rnd) (neg : Bool) (dr : Word) (m : Nat) (e q : Int) : Nat × Bool :=
  if q ≤ e then (m <<< (e - q).toNat, true)
  else
    let d := (q - e).toNat
    let k := m >>> d
    let rest := m % 2 ^ d
    if rest = 0 then (k, true)
    else
      let half := 2 ^ (d - 1)
      let up : Bool := match r with
        | .rne => half < rest || (rest == half && k % 2 == 1)
        | .rtz => false
        | .rup => !neg
        | .rdn => neg
        | .rna => half ≤ rest
        | .sr => dr.toNat >>> 32 < (rest <<< 32) >>> d
      (if up then k + 1 else k, false)

/-- The code of the largest finite value, with a sign. -/
def Fmt.big (f : Fmt) (neg : Bool) : Nat := f.maxCode + (if neg then 2 ^ (f.bits - 1) else 0)
/-- The code of an infinity; in e4m3, NaN (R110). -/
def Fmt.infCode (f : Fmt) (neg : Bool) : Nat :=
  if f.hasInf then ((2 ^ (f.bits - 1 - f.mb) - 1) <<< f.mb) + (if neg then 2 ^ (f.bits - 1) else 0) else f.nanCode

/-- rnd(x, fmt) of R12 with its flags: R108 to R111, R113. A NaN gives the canonical NaN and no flag. -/
def rnd (md : RMode) (dr : Word) (f : Fmt) (x : XR) : Nat × BitVec 6 :=
  match x with
  | .nan => (f.nanCode, 0)
  | .inf s =>
    if md.sat then (f.big s, fSA ||| fNX)
    else if f.hasInf then (f.infCode s, 0) else (f.nanCode, fNV)
  | .fin s m e =>
    let sbit := if s then 2 ^ (f.bits - 1) else 0
    if m = 0 then (sbit, 0)
    else
      let emin : Int := 1 - (f.bias : Int) - f.mb
      let q := max (e + (m.log2 : Int) - f.mb) emin
      let tooBig := match f.value f.maxCode with
        | .fin _ bm be => XR.lt (.fin false bm be) (.fin false m e)
        | _ => false
      let mode := if md.rnd = .sr && tooBig then Rnd.rne else md.rnd
      let (k, exact) := roundGrid mode s dr m e q
      let code := (q - emin).toNat * 2 ^ f.mb + k
      let tiny := decide ((m.log2 : Int) + e < emin + f.mb)
      if f.maxCode < code then
        let toInf : Bool := match md.rnd with
          | .rtz => false
          | .rup => !s
          | .rdn => s
          | _ => true
        if md.sat then (f.big s, fOF ||| fNX ||| fSA)
        else if toInf then (f.infCode s, fOF ||| fNX)
        else (f.big s, fOF ||| fNX)
      else if md.ftz && code < 2 ^ f.mb then (sbit, fUF ||| fNX)
      else (sbit + code, flagIf (!exact) fNX ||| flagIf (!exact && tiny) fUF)

/-- FTZ on a result that is an operand: selections round nothing (R125, R149, R151). -/
def flushOnly (md : RMode) (f : Fmt) (x : XR) : Nat × BitVec 6 :=
  match x with
  | .nan => (f.nanCode, 0)
  | .inf s => if md.sat then (f.big s, fSA ||| fNX) else (f.infCode s, 0)
  | .fin .. => rnd { rnd := .rne, sat := md.sat, ftz := md.ftz } 0 f x

/-! ### Conversions (R112, R113) -/

/-- The range of an integer type. -/
def intMin (t : EType) : Int := if t.signed then -(2 ^ (t.bits - 1) : Nat) else 0
def intMax (t : EType) : Int := if t.signed then (2 ^ (t.bits - 1) : Nat) - 1 else (2 ^ t.bits : Nat) - 1
/-- The bits of an integer in an n-bit element. -/
def intCode (n : Nat) (i : Int) : Nat := (i % (2 ^ n : Nat)).toNat
/-- The integer that an element's bits stand for (R103). -/
def intVal (t : EType) (c : Nat) : Int :=
  if t.signed && c.testBit (t.bits - 1) then (c : Int) - (2 ^ t.bits : Nat) else c

/-- Narrow an exact integer: clamp under SAT, wrap otherwise; was it out of range (R112)? -/
def narrowInt (sat : Bool) (t : EType) (i : Int) : Nat × Bool :=
  if i < intMin t then (intCode t.bits (if sat then intMin t else i), true)
  else if intMax t < i then (intCode t.bits (if sat then intMax t else i), true)
  else (intCode t.bits i, false)

/-- A floating value to an integer format (R112). Under SR the draw chooses between the neighbouring integers beyond the range too
(DEDUCED, notes/assumptions/64.md). -/
def toIntFmt (md : RMode) (dr : Word) (t : EType) (x : XR) : Nat × BitVec 6 :=
  match x with
  | .nan => (0, fNV)
  | .inf s => (intCode t.bits (if s then intMin t else intMax t), fNV)
  | .fin s m e =>
    let (k, exact) := roundGrid md.rnd s dr m e 0
    let i : Int := if s then -(k : Int) else k
    let (c, out) := narrowInt md.sat t i
    (c, flagIf out (fOF ||| fNX) ||| flagIf (out && md.sat) fSA ||| flagIf (!exact) fNX)

/-- The exact value of an element of an unblocked type. -/
def elemVal (t : EType) (c : Nat) : XR :=
  match fmtOf t with
  | some f => f.value c
  | none => XR.ofInt (intVal t c)

/-- Write an exact value that came from a value of type `u` as an element of type `t` (R108 to R113). -/
def convert (md : RMode) (dr : Word) (u t : EType) (x : XR) : Nat × BitVec 6 :=
  match fmtOf t with
  | some f => rnd md dr f x
  | none =>
    match fmtOf u, x with
    | none, .fin s m e =>
      let i := numAt s m e 0
      let (c, out) := narrowInt md.sat t i
      (c, flagIf out fNX ||| flagIf (out && md.sat) fSA ||| flagIf out fOF)
    | _, _ => toIntFmt md dr t x

/-! ### Arithmetic with its invalid cases (R101, R102, R113, R148) -/

/-- NV where a NaN arises from operands that are no NaN. -/
def invalid (r : XR) (ops : List XR) : BitVec 6 := flagIf (r.isNaN && !ops.any XR.isNaN) fNV

def fpAdd (md : RMode) (dr : Word) (f : Fmt) (x y : XR) : Nat × BitVec 6 :=
  let r := XR.add (md.rnd == .rdn) x y
  let (c, g) := rnd md dr f r
  (c, g ||| invalid r [x, y])

def fpMul (md : RMode) (dr : Word) (f : Fmt) (x y : XR) : Nat × BitVec 6 :=
  let r := XR.mul x y
  let (c, g) := rnd md dr f r
  (c, g ||| invalid r [x, y])

/-- The final sum of a fused multiply-add: an exact zero is -0 under RDN and +0 under every other mode, whatever the signs (R101). -/
def XR.addFused (rdn : Bool) (p z : XR) : XR := match XR.add rdn p z with
  | .fin _ 0 _ => .fin rdn 0 0
  | r => r

/-- x × y + z with one rounding (R125, R373): NV where it makes a NaN of operands none of which is NaN (R113). -/
def fpMulAdd (md : RMode) (dr : Word) (f : Fmt) (x y z : XR) : Nat × BitVec 6 :=
  let r := XR.addFused (md.rnd == .rdn) (XR.mul x y) z
  let (c, g) := rnd md dr f r
  (c, g ||| invalid r [x, y, z])

/-- The fused vector forms: x × y + z with one rounding, in which 0 × infinity sets NV for any z (R148). -/
def fpFma (md : RMode) (dr : Word) (f : Fmt) (x y z : XR) : Nat × BitVec 6 :=
  let p := XR.mul x y
  let r := XR.addFused (md.rnd == .rdn) p z
  let (c, g) := rnd md dr f r
  (c, g ||| invalid p [x, y] ||| invalid r [x, y, z])

/-- The smaller or larger operand (R125, R149): -0 below +0; one NaN gives the other; two give NaN. -/
def fpPick (larger : Bool) (x y : XR) : XR :=
  if x.isNaN then y
  else if y.isNaN then x
  else if x.eqv y then (if x.sign == y.sign then x else if x.sign == larger then y else x)
  else if x.lt y == larger then y else x

/-- The conditions of R126. -/
def fpCond (cc : FCond) (x y : XR) : Bool :=
  match cc with
  | .eq => x.eqv y
  | .ne => !x.eqv y
  | .lt => x.lt y
  | .ge => y.le x
  | .le => x.le y
  | .gt => y.lt x
  | .un => x.isNaN || y.isNaN
  | .or => !x.isNaN && !y.isNaN

/-- The conditions of R123. -/
def intCond (cc : ICond) (a b : Word) : Bool :=
  match cc with
  | .eq => a == b
  | .ne => a != b
  | .lt => a.toInt < b.toInt
  | .ge => b.toInt ≤ a.toInt
  | .ltu => a.toNat < b.toNat
  | .geu => b.toNat ≤ a.toNat
  | .gt => b.toInt < a.toInt
  | .le => a.toInt ≤ b.toInt
  | .gtu => b.toNat < a.toNat
  | .leu => a.toNat ≤ b.toNat

/-! ### Functions of R163, R180 in fixed point -/

/-- Fraction bits of the fixed-point values below. -/
def fixBits : Nat := 320

/-- The integer square root, one bit a step from bit `n` down. -/
def isqrtFrom (v : Nat) : Nat → Nat → Nat
  | 0, r => r
  | n + 1, r => if (r + 2 ^ n) * (r + 2 ^ n) ≤ v then isqrtFrom v n (r + 2 ^ n) else isqrtFrom v n r
def isqrt (v : Nat) : Nat := isqrtFrom v (v.log2 / 2 + 1) 0

/-- Σ of 1 / (k 2^k) for k up to n, in fixed point: ln 2. -/
def ln2Fix : Nat → Nat
  | 0 => 0
  | n + 1 => ln2Fix n + 2 ^ fixBits / ((n + 1) * 2 ^ (n + 1))

/-- The Taylor series of e^x, from term `k` on, for x in fixed point. -/
def expFix (x : Nat) : Nat → Nat → Nat → Nat
  | 0, _, _ => 0
  | n + 1, k, term => term + expFix x n (k + 1) (term * x / (2 ^ fixBits * (k + 1)))

/-- Σ z^(2k+1) / (2k+1), from power `zp` on: the inverse hyperbolic tangent. -/
def atanhFix (z2 : Nat) : Nat → Nat → Nat → Nat
  | 0, _, _ => 0
  | n + 1, k, zp => zp / (2 * k + 1) + atanhFix z2 n (k + 1) (zp * z2 / 2 ^ fixBits)

/-- 2^x of a finite x (R163): exact for an integer, else cut with its last bit set. -/
def exp2X (s : Bool) (m : Nat) (e : Int) : XR :=
  if m = 0 then .fin false 1 0
  else if 12 ≤ e + m.log2 then (if s then .fin false 1 (-5000) else .fin false 1 5000)
  else
    let n : Int := numAt s m (max e (-fixBits)) (-fixBits)
    let n := if e < -fixBits then numAt s (m >>> (-fixBits - e).toNat) (-fixBits) (-fixBits) else n
    let i := n / (2 ^ fixBits : Nat)
    let f := (n % (2 ^ fixBits : Nat)).toNat
    if f = 0 then .fin false 1 i
    else
      let y := expFix (f * ln2Fix 340 / 2 ^ fixBits) 90 0 (2 ^ fixBits)
      .fin false (2 * y + 1) (i - fixBits - 1)

/-- log2 of a positive m 2^e (R163). -/
def log2X (m : Nat) (e : Int) : XR :=
  let l := m.log2
  if m = 2 ^ l then XR.ofInt (e + l)
  else
    let y := (m <<< fixBits) / 2 ^ l
    let one := 2 ^ fixBits
    let z := ((y - one) <<< fixBits) / (y + one)
    let ln := 2 * atanhFix (z * z / one) 110 0 z
    let lg := (ln <<< fixBits) / ln2Fix 340
    let v : Int := (e + l) * (one : Nat) + lg
    .fin (v < 0) (2 * v.natAbs + 1) (-(fixBits : Int) - 1)

/-- 1/√x of a positive m 2^e (R163). -/
def rsqX (m : Nat) (e : Int) : XR :=
  let (m, e) := if e % 2 = 0 then (m, e) else (2 * m, e - 1)
  let k := 240 + m.log2
  let q := isqrt (2 ^ (2 * k) / m)
  let exact := decide (m * q * q = 2 ^ (2 * k))
  .fin false (2 * q + (if exact then 0 else 1)) (-(e / 2) - k - 1)

/-- Σ (-1)^k / ((2k+1) b^(2k+1)) in fixed point: the inverse tangent of 1/b. -/
def atanInv (b : Nat) : Nat → Nat → Int → Int
  | 0, _, _ => 0
  | n + 1, k, p => (if k % 2 = 0 then p / (2 * k + 1 : Nat) else -(p / (2 * k + 1 : Nat))) + atanInv b n (k + 1) (p / (b * b : Nat))

/-- π in fixed point, by 16 atan(1/5) - 4 atan(1/239). -/
def piFix : Int :=
  let one : Int := (2 ^ fixBits : Nat)
  16 * atanInv 5 80 0 (one / 5) - 4 * atanInv 239 30 0 (one / 239)

/-- The Taylor series of a cosine, from term `k` on. -/
def cosFix (x2 : Int) : Nat → Nat → Int → Int
  | 0, _, _ => 0
  | n + 1, k, term =>
    term + cosFix x2 n (k + 1) (-(term * x2 / (2 ^ fixBits : Nat)) / ((2 * k + 1) * (2 * k + 2) : Nat))

/-- cos(π a / b) for b > 0 (R180): exact at multiples of a third and a half, else cut with its last bit set. -/
def cosPi (a b : Nat) : XR :=
  let a := a % (2 * b)
  let a := if b < a then 2 * b - a else a
  let (neg, a) := if b < 2 * a then (true, b - a) else (false, a)
  if a = 0 then .fin neg 1 0
  else if 2 * a = b then .fin false 0 0
  else if 3 * a = b then .fin neg 1 (-1)
  else
    let x := piFix * a / b
    let c := cosFix (x * x / (2 ^ fixBits : Nat)) 70 0 (2 ^ fixBits : Nat)
    .fin neg (2 * c.natAbs + 1) (-(fixBits : Int) - 1)

/-! ### Blocked formats (R104 to R107, R114, R115) -/

/-- The nonnegative values of a k4 type as (twice the value times 8, code): R106, TYPE 0b00 to 0b11, in sixteenths. -/
def k4Val (ty c : Nat) (xv : XR) : XR :=
  match ty with
  | 0 => XR.ofInt (if c < 8 then c else (c : Int) - 16)
  | 1 => if c = 8 then xv else Fmt.e2m1.value c
  | 2 => if c % 8 = 0 then .fin false 0 0 else .fin (8 ≤ c) 1 ((c % 8 : Nat) - 4 : Int)
  | _ =>
    if c < 8 then XR.ofInt c
    else XR.ofInt (let v : Int := nth 0 [8, 12, 16, 24] ((c - 8) / 2); if c % 2 = 1 then -v else v)

/-- The value of a code of a block type with its scale byte (R104, R106, R107). -/
def blockVal (t : EType) (scale code : Nat) (xv : XR) : XR :=
  match t with
  | .mxe2m1 => if scale = 0xFF then .nan else (Fmt.e2m1.value code).scale ((scale : Int) - 127)
  | .mxe4m3 => if scale = 0xFF then .nan else (Fmt.e4m3.value code).scale ((scale : Int) - 127)
  | _ => if scale % 64 = 63 then .nan else (k4Val (scale / 64) code xv).scale ((scale % 64 : Nat) - 32 : Int)

/-- The largest magnitude of a k4 type (R106). -/
def k4Max : Nat → Nat
  | 0 => 7
  | 1 => 6
  | 2 => 8
  | _ => 24

/-- floor(log2) of a nonzero finite magnitude. -/
def XR.floorLog : XR → Int
  | .fin _ m e => e + m.log2
  | _ => 0

/-- The largest magnitude of a list (R114). -/
def maxAbs (vs : List XR) : XR := vs.foldl (fun a v => if a.lt v.abs then v.abs else a) (.fin false 0 0)

/-- The smallest e in [0, 62] with A ≤ M 2^(e - 32) (R115). -/
def k4Exp (a : XR) (big : Nat) : Nat → Nat → Nat
  | 0, e => e
  | n + 1, e => if a.le (.fin false big ((e : Int) - 32)) then e else k4Exp a big n (e + 1)

/-- The scale byte of a block: its type byte for k4 (R114, R115). A NaN or an infinity makes a NaN block. -/
def blockScale (t : EType) (ktype : Nat) (vs : List XR) : Nat × Bool :=
  if vs.any fun v => v.isNaN || v.isInf then (if t = .k4 then ktype * 64 + 63 else 0xFF, true)
  else
    let a := maxAbs vs
    match t with
    | .k4 => (ktype * 64 + (if a.isZero then 0 else k4Exp a (k4Max ktype) 62 0), false)
    | _ =>
      if a.isZero then (0, false)
      else
        let e : Int := if t = .mxe2m1 then 2 else 8
        ((min 254 (max 0 (a.floorLog - e + 127))).toNat, false)

/-- The codes of a k4 type in rising order of value, without the ones a conversion never writes. -/
def k4Codes : Nat → List Nat
  | 0 => [8, 9, 10, 11, 12, 13, 14, 15, 0, 1, 2, 3, 4, 5, 6, 7]
  | 1 => [15, 14, 13, 12, 11, 10, 9, 0, 1, 2, 3, 4, 5, 6, 7]
  | 2 => [15, 14, 13, 12, 11, 10, 9, 0, 1, 2, 3, 4, 5, 6, 7]
  | _ => [15, 13, 11, 9, 0, 1, 2, 3, 4, 5, 6, 7, 8, 10, 12, 14]

/-- The pair of neighbouring codes around x in a rising list of codes. -/
def neighbours (ty : Nat) (x : XR) : List Nat → Option (Nat × Nat)
  | a :: b :: t => if x.lt (k4Val ty b .nan) then some (a, b) else neighbours ty x (b :: t)
  | _ => none

/-- Choose between the neighbouring values lo and hi of x (R108, R109, R115): is it hi? -/
def chooseHi (r : Rnd) (dr : Word) (evenHi awayTie : Bool) (lo hi x : XR) : Bool :=
  let dl := (XR.add false x lo.neg).abs
  let dh := (XR.add false hi x.neg).abs
  match r with
  | .rtz => x.sign
  | .rup => true
  | .rdn => false
  | .rne => if dh.eqv dl then (if awayTie then !x.sign else evenHi) else dh.lt dl
  | .rna => if dh.eqv dl then !x.sign else dh.lt dl
  | .sr =>
    let (near, _) := if x.sign then (hi, lo) else (lo, hi)
    let num := (XR.add false x.abs near.abs.neg).abs
    let den := (XR.add false hi lo.neg).abs
    match num, den with
    | .fin _ m e, .fin _ n f =>
      let e0 := min e f
      let fr := ((m <<< (e - e0).toNat) <<< 32) / (n <<< (f - e0).toNat)
      if dr.toNat >>> 32 < fr then !x.sign else x.sign
    | _, _ => false

/-- One element of a k4 block (R115), its scaled value x: its code and flags. UF is never set: a value set has no smallest normal
(DEDUCED, notes/assumptions/65.md). -/
def k4Code (md : RMode) (dr : Word) (ty : Nat) (x : XR) : Nat × BitVec 6 :=
  let codes := k4Codes ty
  let least := k4Val ty (codes.headD 0) .nan
  let most := k4Val ty (codes.getLastD 0) .nan
  if x.isZero then (0, 0)
  else if x.lt least then (codes.headD 0, fSA ||| fNX)
  else if most.lt x then (codes.getLastD 0, fSA ||| fNX)
  else
    match codes.find? fun c => (k4Val ty c .nan).eqv x with
    | some c => (c, 0)
    | none =>
      match neighbours ty x codes with
      | some (a, b) =>
        let hi := chooseHi md.rnd dr (b % 2 == 0) (2 ≤ ty) (k4Val ty a .nan) (k4Val ty b .nan) x
        (if hi then b else a, fNX)
      | none => (codes.getLastD 0, fNX)

/-- One element of a microscaled block (R114, R115), its scaled value x. -/
def mxCode (md : RMode) (dr : Word) (t : EType) (x : XR) : Nat × BitVec 6 :=
  let f := if t = .mxe2m1 then Fmt.e2m1 else Fmt.e4m3
  if (f.value f.maxCode).lt x.abs then (f.big x.sign, fSA ||| fNX)
  else rnd { rnd := md.rnd, sat := false, ftz := md.ftz && t == .mxe4m3 } dr f x

/-- The code of one element of a block whose scale byte is chosen (R114, R115). -/
def blockCode (md : RMode) (dr : Word) (t : EType) (scale : Nat) (v : XR) : Nat × BitVec 6 :=
  match t with
  | .k4 => k4Code md dr (scale / 64) (v.scale (32 - (scale % 64 : Nat) : Int))
  | _ => mxCode md dr t (v.scale (127 - (scale : Int)))

/-! ### fp32 shorthands -/

/-- The exact value of an fp32 code. -/
def f32 (c : BitVec 32) : XR := Fmt.fp32.value c.toNat
/-- rne(x, fp32) with its flags. -/
def rne32 (x : XR) : BitVec 32 × BitVec 6 :=
  let (c, g) := rnd .rne 0 .fp32 x
  (BitVec.ofNat 32 c, g)
/-- The exact sum of a list, infinities and NaN as IEEE 754 arithmetic has them. -/
def xsum : List XR → XR
  | [] => .fin false 0 0
  | x :: xs => xs.foldl (XR.add false) x

/-! ### Exact sums of digests (R118) -/

def sumMin : Int := -(2 ^ 95 : Nat)
def sumMax : Int := (2 ^ 95 : Nat) - 1
/-- Clamp to the 96-bit range: the value and whether it was clamped. -/
def sumClamp (v : Int) : Int × Bool :=
  if v < sumMin then (sumMin, true) else if sumMax < v then (sumMax, true) else (v, false)
/-- An element's entry value: trunc(v 2^B) clamped; (value, overflow, invalid). -/
def sumEntry (b : Nat) (x : XR) : Int × Bool × Bool :=
  match x with
  | .nan => (0, false, true)
  | .inf s => (if s then sumMin else sumMax, true, false)
  | .fin s m e =>
    let k := shiftNat m (e + b)
    let (v, o) := sumClamp (if s then -(k : Int) else k)
    (v, o, false)

end Sys2Proof.Machine
end

