-- ==== Sys2Proof/Machine/Operands.lean ====
section
/-!
DEFINITION. Operands: the registers each instruction reads and writes (R27, R29, R79 to R82), the tile source fields with their
latches (R34 to R37), and the layout of elements, masks and scalars in tiles (R77, R78, R144).
-/
namespace Sys2Proof.Machine

/-! ### Elements of tiles (R77, R78, R105, R144) -/

/-- `n` elements of `w` bits, the lowest first. -/
def unpack (w : Nat) : Nat → Nat → List Nat
  | 0, _ => []
  | n + 1, v => v % 2 ^ w :: unpack w n (v >>> w)

/-- Elements of `w` bits put together, the first lowest. -/
def pack (w : Nat) : List Nat → Nat
  | [] => 0
  | c :: cs => c % 2 ^ w + pack w cs <<< w

/-- A tile from its elements by linear index (R144). -/
def tileOf (w : Nat) (l : List Nat) : Tile := BitVec.ofNat 32768 (pack w l)
/-- Elements of a tile by linear index. -/
def elemCount (t : EType) : Nat := 16 * t.perRow
/-- The elements of a tile by linear index (R144); the 4-bit layout of R105 included. -/
def tileElems (t : EType) (v : Tile) : List Nat := unpack t.bits (elemCount t) v.toNat
/-- Element `n` by linear index. -/
def tileElem (t : EType) (v : Tile) (n : Nat) : Nat := bitsOf v (n * t.bits) t.bits
/-- The rows of a list of elements. -/
def rowsOf (t : EType) (l : List Nat) : List (List Nat) := chunks t.perRow 16 l

/-- Does the bit that governs element `n` hold (R78)? -/
def govern (t : EType) (m : Mask) (n : Nat) : Bool := m.getLsbD (n * t.bits / 32)
/-- The tile bits of the elements a mask selects. -/
def elemMask (t : EType) (m : Mask) : Tile :=
  tileOf t.bits ((List.range (elemCount t)).map fun n => if govern t m n then 2 ^ t.bits - 1 else 0)

/-- A mask from one condition per element, ANDed with the governing bits of `m` (R150). -/
def maskFrom (t : EType) (m : Mask) (ok : List Bool) : Mask :=
  let perBit := if t.bits = 64 then ok.flatMap fun b => [b, b] else (chunks (32 / t.bits) 1024 ok).map fun g => g.all id
  let gate k := m.getLsbD (if t.bits = 64 then k / 2 * 2 else k)
  BitVec.ofNat 1024 (pack 1 ((perBit.zip (List.range 1024)).map fun p => if p.1 && gate p.2 then 1 else 0))

/-- The mask of 32-bit positions (R263). -/
def maskOf (ok : List Bool) : Mask := BitVec.ofNat 1024 (pack 1 (ok.map fun b => if b then 1 else 0))

/-! ### Tile sources and broadcast scalars (R34 to R36, R40) -/

/-- The latch of source `k` (0 a, 1 b, 2 c) of a vector slot (R35). -/
def latchPos (u : VUnit) (k : Nat) : Nat := match u with
  | .va => k
  | .vb => 3 + k

/-- The value a tile source field reads (R36). -/
def Ctx.src (c : Ctx) (pos : Nat) : TSrc → Tile
  | .reg _ _ r => (c.tile r.toNat).val
  | .latch => (c.latch pos).getD 0

/-- The elements of a tile source. -/
def Ctx.srcElems (c : Ctx) (t : EType) (pos : Nat) (x : TSrc) : List Nat := tileElems t (c.src pos x)

/-- The elements of operand b: a tile's, or a broadcast scalar's low bits (R40). -/
def Ctx.bElems (c : Ctx) (t : EType) (pos : Nat) : BSrc → List Nat
  | .tile x => c.srcElems t pos x
  | .scalar r => List.replicate (elemCount t) ((c.s r).toNat % 2 ^ t.bits)

/-! ### The registers an instruction names -/

/-- What an instruction reads and writes. `tsrc` are tile source fields with their latch positions, `tblk` tiles of seven-bit
fields (R37), `merged` tiles read as masked destinations (R79); d-lists are destinations (R29). -/
structure Use where
  tsrc : List (Nat × TSrc) := []
  tblk : List Nat := []
  scal : List Nat := []
  msk : List Nat := []
  fre : List Nat := []
  merged : List Nat := []
  dT : List Nat := []
  dS : List Nat := []
  dM : List Nat := []
  dF : List Nat := []
  dP : List Nat := []
deriving DecidableEq, Repr

/-- A masked destination (R79). -/
def mergedBy (m : MReg) (td : TReg) : List Nat := if m = 0 then [] else [td.toNat]

/-- The tile sources and scalars of operand b. -/
def bUse (u : VUnit) : BSrc → List (Nat × TSrc) × List Nat
  | .tile x => ([(latchPos u 1, x)], [])
  | .scalar r => ([], [r.toNat])

/-- a and b to a tile under a mask. -/
def useAB (u : VUnit) (td : TReg) (m : MReg) (a : TSrc) (b : BSrc) : Use :=
  { tsrc := (latchPos u 0, a) :: (bUse u b).1, scal := (bUse u b).2, msk := [m.toNat], merged := mergedBy m td, dT := [td.toNat] }
/-- a, b and c to a tile under a mask. -/
def useABC (u : VUnit) (td : TReg) (m : MReg) (a : TSrc) (b : BSrc) (c : TSrc) : Use :=
  { useAB u td m a b with tsrc := (latchPos u 0, a) :: (bUse u b).1 ++ [(latchPos u 2, c)] }
/-- a to a tile under a mask. -/
def useA (u : VUnit) (td : TReg) (m : MReg) (a : TSrc) : Use :=
  { tsrc := [(latchPos u 0, a)], msk := [m.toNat], merged := mergedBy m td, dT := [td.toNat] }
/-- A comparison to a mask. -/
def useCmp (u : VUnit) (md m : MReg) (a : TSrc) (b : BSrc) : Use :=
  { tsrc := (latchPos u 0, a) :: (bUse u b).1, scal := (bUse u b).2, msk := [m.toNat], dM := [md.toNat] }
/-- A rotation or broadcast. -/
def useRot (u : VUnit) (td : TReg) (m : MReg) (a : TSrc) (k : RotAmt) : Use :=
  { useA u td m a with scal := match k with
      | .imm _ => []
      | .scalar r => [r.toNat] }
/-- Scalars to a scalar. -/
def useS (d : SReg) (srcs : List SReg) : Use := { scal := srcs.map (·.toNat), dS := [d.toNat] }
/-- Scalars only. -/
def useR (srcs : List SReg) : Use := { scal := srcs.map (·.toNat) }
/-- A function from functions. -/
def useF (d : FReg) (srcs : List FReg) (scal : List Nat := []) : Use :=
  { fre := srcs.map (·.toNat), scal := scal, dF := [d.toNat] }

/-- The eight payload scalars of a remote call (R46). -/
def payloadRegs (sc : SReg) : List Nat := (List.range 8).map (sc.toNat + ·)

/-- The registers of an instruction of a bundle slot; events and micro-operations name none. -/
def useOf : Instr → Use
  | .add d a b | .sub d a b | .and d a b | .or d a b | .xor d a b | .shl d a b | .shr d a b | .sar d a b | .mul d a b
  | .mulh d a b | .mulhu d a b | .div d a b | .divu d a b | .rem d a b | .remu d a b | .min d a b | .max d a b
  | .minu d a b | .maxu d a b | .cmp _ d a b | .fadd d a b | .fsub d a b | .fmul d a b | .fmin d a b | .fmax d a b
  | .fcmp _ d a b => useS d [a, b]
  | .sel d a b c | .ffma d a b c => useS d [a, b, c]
  | .clz d a | .popc d a | .brev d a | .addi d a _ | .andi d a _ | .ori d a _ | .xori d a _ | .shli d a _ | .shri d a _
  | .sari d a _ | .cmpi _ d a _ | .fcvt _ d a | .callr d a | .ixpeek _ d a => useS d [a]
  | .li d _ | .csrr d _ | .tsc d | .ixpop _ d | .call d _ => useS d []
  | .lih d _ => useS d [d]
  | .jr a | .ret a | .bz a _ | .bnz a _ | .loop a _ | .csrw _ a => useR [a]
  | .bcmp _ a b _ => useR [a, b]
  | .gld _ d base _ | .gldQ _ d base _ => useS d [base]
  | .gst _ d base _ => useR [d, base]
  | .gamo f _ d base _ sv => useS d (if f = .cas then [d, base, sv] else [base, sv])
  | .vadd u td m a b _ | .vsub u td m a b _ | .vmul u td m a b _ | .vmin u td m a b _ | .vmax u td m a b _
  | .viadd u td m a b _ | .visub u td m a b _ | .vimul u td m a b _ | .vimulh u td m a b _ | .vshl u td m a b _
  | .vshr u td m a b _ | .vsar u td m a b _ | .vand u td m a b _ | .vor u td m a b _ | .vxor u td m a b _
  | .vimin u td m a b _ | .vimax u td m a b _ => useAB u td m a b
  | .vfma u td m a b c _ | .vfms u td m a b c _ | .vfnma u td m a b c _ | .vclamp u td m a b c _ => useABC u td m a b c
  | .vabs u td m a _ | .vneg u td m a _ | .vnot u td m a _ | .vpopc u td m a _ | .vclz u td m a _ | .vmov u td m a _
  | .vredr u _ td m a _ | .vredc u _ td m a _ | .vrcp u td m a _ | .vrsq u td m a _ | .vexp2 u td m a _ | .vlog2 u td m a _
  | .vsort u _ _ td m a _ | .vtopk u _ _ td m a _ _ => useA u td m a
  | .vcmp u _ md m a b _ | .vicmp u _ md m a b _ => useCmp u md m a b
  | .vsel u td m a b _ => { useAB u td m a b with merged := [] }
  | .vcvt u td m a t src _ => { useA u td m a with
      merged := if t.perRow > src.perRow then [td.toNat] else mergedBy m td }
  | .vpack u _ td a _ _ _ => { useA u td 0 a with merged := [td.toNat] }
  | .vunpack u td m a b _ _ _ => useAB u td m a (.tile b)
  | .vmovs _ td m sb _ => { scal := [sb.toNat], msk := [m.toNat], merged := mergedBy m td, dT := [td.toNat] }
  | .vmovi _ td m _ _ => { msk := [m.toNat], merged := mergedBy m td, dT := [td.toNat] }
  | .vext u sd a sb _ => { tsrc := [(latchPos u 0, a)], scal := [sb.toNat], dS := [sd.toNat] }
  | .vins u td a sb sc _ => { tsrc := [(latchPos u 0, a)], scal := [sb.toNat, sc.toNat], dT := [td.toNat] }
  | .viota _ td m sb _ =>
    { scal := match sb with
        | some r => [r.toNat]
        | none => []
      msk := [m.toNat], merged := mergedBy m td, dT := [td.toNat] }
  | .vrotr u td m a k _ | .vrotc u td m a k _ | .vbcr u td m a k _ | .vbcc u td m a k _ => useRot u td m a k
  | .vperm u td m a b _ | .vmerge u _ _ _ td m a b _ => useAB u td m a (.tile b)
  | .vbound u td m a b c _ => useABC u td m a (.tile b) c
  | .mand _ md ma mb | .mor _ md ma mb | .mxor _ md ma mb => { msk := [ma.toNat, mb.toNat], dM := [md.toNat] }
  | .mnot _ md ma => { msk := [ma.toNat], dM := [md.toNat] }
  | .mpopc _ sd ma _ | .mfirst _ sd ma _ => { msk := [ma.toNat], dS := [sd.toNat] }
  | .mset _ md (.all _) => { dM := [md.toNat] }
  | .mset _ md (.pre _ sb) | .mset _ md (.rowpre _ sb) => { scal := [sb.toNat], dM := [md.toNat] }
  | .cheval _ td m fa b =>
    { tsrc := (bUse .vb b).1, scal := (bUse .vb b).2, fre := [fa.toNat], msk := [m.toNat], merged := mergedBy m td,
      dT := [td.toNat] }
  | .chfit fd ta sc _ => { tsrc := [(latchPos .vb 0, ta)], scal := [sc.toNat], dF := [fd.toNat] }
  | .chadd fd fa fb | .chsub fd fa fb | .chmul fd fa fb | .chcmp fd fa fb _ => useF fd [fa, fb]
  | .chscl _ fd fa sb => useF fd [fa] [sb.toNat]
  | .chint fd fa | .chdif fd fa => useF fd [fa]
  | .chroot td sb fa _ => { fre := [fa.toNat], merged := [td.toNat], dT := [td.toNat], dS := [sb.toNat] }
  | .chtrn fd fa tol _ => useF fd [fa] (match tol with
      | some r => [r.toNat]
      | none => [])
  | .chdom (.set fd fa sb) => useF fd [fa] [sb.toNat]
  | .chdom (.get sd fa) => { fre := [fa.toNat], dS := [sd.toNat] }
  | .chdom (.pts td fa _) => { fre := [fa.toNat], dT := [td.toNat] }
  | .chmov (.move fd fa) => useF fd [fa]
  | .chmov (.toTile td fa) => { fre := [fa.toNat], dT := [td.toNat] }
  | .chmov (.ofTile fd ta) => { tsrc := [(latchPos .vb 0, ta)], dF := [fd.toNat] }
  | .chfree fd => { dF := [fd.toNat] }
  | .mcall _ acc out tn _ =>
    let four := (List.range 4).map (tn.toNat + ·)
    { tblk := if acc then four else [], dT := if out then four else [tn.toNat] }
  | .msetp p sa => { scal := [sa.toNat], dP := [p.toNat] }
  | .msetpi p _ => { dP := [p.toNat] }
  | .mstat sd _ => useS sd []
  | .mpload _ ta => { tblk := [ta.toNat] }
  | .ldt _ _ td base str rows _ | .ldrw _ _ td base str rows _ =>
    { scal := [base.toNat, str.toNat], merged := if rows = 15 then [] else [td.toNat], dT := [td.toNat] }
  | .ldg _ _ td base sp _ _ _ => { scal := [base.toNat, sp.toNat], dT := [td.toNat] }
  | .ldx _ _ _ td base tx => { scal := [base.toNat], tblk := [tx.toNat], dT := [td.toNat] }
  | .lds _ _ _ sd base _ => useS sd [base]
  | .ldf _ _ fd base _ => { scal := [base.toNat], dF := [fd.toNat] }
  | .ldm _ _ md base _ => { scal := [base.toNat], dM := [md.toNat] }
  | .stt _ ta base str _ _ | .strw _ ta base str _ _ => { tblk := [ta.toNat], scal := [base.toNat, str.toNat] }
  | .stx _ _ ta base tx | .scor _ _ ta base tx | .scadd _ _ ta base tx | .scmax _ _ _ ta base tx | .scmin _ _ _ ta base tx =>
    { tblk := [ta.toNat, tx.toNat], scal := [base.toNat] }
  | .sts _ _ sa base _ => useR [sa, base]
  | .stf _ fa base _ => { fre := [fa.toNat], scal := [base.toNat] }
  | .stm _ ma base _ => { msk := [ma.toNat], scal := [base.toNat] }
  | .sete base str _ _ | .setf base str _ _ => useR [base, str]
  | .copy _ _ sa sb _ asof _ _ => useR (match asof with
      | some sc => [sa, sb, sc]
      | none => [sa, sb])
  | .ctset _ ta | .ctsetCode _ ta => { tblk := [ta.toNat] }
  | .cstat sd _ _ _ => useS sd []
  | .ixscan _ _ _ ta sa sb _ _ => { useS sb [sa] with tblk := [ta.toNat] }
  | .ixbmap _ sa sc sb _ _ | .ixrle _ sa sc sb _ _ => useS sb [sa, sc]
  | .spred _ md ta sa sb _ _ _ => { useS sb [sa] with tblk := [ta.toNat], dM := [md.toNat] }
  | .guard _ ma tu sa sb sc _ _ _ => { useS sc [sa, sb] with tblk := [tu.toNat], msk := [ma.toNat] }
  | .dqry _ td sa sb | .dqryQ _ td sa sb => { useR [sa, sb] with dT := [td.toNat] }
  | .dscan _ pred sa sb sc ta score sd _ _ =>
    { useS sd [sa, sb, sc] with
      tblk := if pred = .znz ∨ pred = .sumgt then [] else [ta.toNat]
      dT := match score with
        | some tr => [tr.toNat]
        | none => [] }
  | .drefr sa sb => useR [sa, sb]
  | .rcallR re nt tn sa sb sc sd | .rcallQ re nt tn sa sb sc sd =>
    { scal := [sa.toNat, sb.toNat] ++ payloadRegs sc ++ (if re then [sd.toNat] else [])
      tblk := if nt then [] else [tn.toNat]
      dT := [tn.toNat], dS := [sd.toNat] }
  | .rstat _ sd sa => useS sd [sa]
  | .promote sa sb sc => useR [sa, sb, sc]
  | .lnseq sa => useR [sa]
  | .lnwait sd => useS sd []
  | .bmac sd sa sb sc _ => useS sd [sa, sb, sc]
  | .rret ta sa => { useR [sa] with tblk := [ta.toNat] }
  | .bset _ _ sa | .halt sa | .prio sa _ => useR [sa]
  | .binc _ sa sb _ => useR [sa, sb]
  | .waitany sd _ => useS sd []
  | .fork sa sb _ | .spawng _ sa sb _ => useR [sa, sb, 3, 4, 5, 6, 7, 8]
  | _ => {}

/-! ### Ranges of register numbers (R27) -/

/-- The number of tiles a context has. -/
def tileLimit (h : Nat) : Nat := if isDrone h then 16 else if ctxNo h < 4 then 128 else 32

/-- The first register of an instruction, in field order with the destination first, that is outside the range of its context: class and
number as encoded in the field (R27, R88; the order is a DESIGN CHOICE, notes/assumptions/46.md). A matrix output names four tiles (R27).
-/
def outOfRange (h : Nat) (i : Instr) : Option (Nat × Nat) :=
  let u := useOf i
  let lim := tileLimit h
  match i with
  | .mcall _ _ _ tn _ => if lim ≤ tn.toNat + 3 then some (0, tn.toNat) else none
  | _ =>
    let tiles := u.dT ++ u.tsrc.filterMap (fun p => match p.2 with
      | .reg _ _ r => some r.toNat
      | .latch => none) ++ u.tblk
    (tiles.find? fun r => lim ≤ r).map fun r => (0, r)

/-- Do two instructions name one destination (R29)? s0 and m0 are none. -/
def clash (a b : Use) : Bool :=
  let common (x y : List Nat) := x.any fun r => y.contains r
  common a.dT b.dT || common (delNat 0 a.dS) b.dS || common (delNat 0 a.dM) b.dM || common a.dF b.dF || common a.dP b.dP

/-! ### Availability (R79 to R82, R171, R208) -/

/-- Does an operand or destination of the instruction block the bundle (R79, R80, R81, R171)? -/
def Use.blocks (c : Ctx) (u : Use) : Bool :=
  let emptyT r := (c.tile r).st == .empty
  u.tsrc.any (fun p => match p.2 with
    | .reg _ e r => !e && emptyT r.toNat
    | .latch => false) ||
  u.tblk.any emptyT || u.merged.any emptyT || u.dT.any emptyT ||
  u.scal.any (fun r => (c.scalar r).pending) || u.dS.any (fun r => (c.scalar r).pending) ||
  u.msk.any (fun r => (c.mask r).pending) || u.dM.any (fun r => (c.mask r).pending) ||
  u.fre.any (fun r => (c.freg r).st == .busy) || u.dF.any (fun r => (c.freg r).st == .busy)

/-- The origin of a poisoned tile. -/
def TileReg.poison (t : TileReg) : Option Byte := match t.st with
  | .poisoned o => some o
  | _ => none
def FuncReg.poison (f : FuncReg) : Option Byte := match f.st with
  | .poisoned o => some o
  | _ => none

/-- TINFO of traps 0x03, 0x04 and 0x05 (R88). -/
def regInfo (origin : Byte) (cls num : Nat) : Word := BitVec.ofNat 64 (origin.toNat * 2 ^ 56 + cls * 2 ^ 8 + num)

/-- The register traps of one instruction once nothing blocks: 0x04 before 0x05 (R79, R81, R95). Of several poisoned registers TINFO names
the first of the tiles (a merged destination first), functions, scalars and masks (DESIGN CHOICE, notes/assumptions/46.md: R88 names no
order). -/
def Use.trap (c : Ctx) (u : Use) : Option (Nat × Word) :=
  match u.tsrc.findSome? fun p => match p.2 with
    | .reg _ true r => if (c.tile r.toNat).st == .empty then some (0x04, regInfo 0 0 r.toNat) else none
    | _ => none with
  | some t => some t
  | none =>
    let tiles := u.merged ++ u.tsrc.filterMap (fun p => match p.2 with
      | .reg _ _ r => some r.toNat
      | .latch => none) ++ u.tblk
    let hits :=
      tiles.filterMap (fun r => (c.tile r).poison.map fun o => regInfo o 0 r) ++
      u.fre.filterMap (fun r => (c.freg r).poison.map fun o => regInfo o 3 r) ++
      u.scal.filterMap (fun r => (c.scalar r).poison.map fun o => regInfo o 1 r) ++
      u.msk.filterMap (fun r => (c.mask r).poison.map fun o => regInfo o 2 r)
    hits.head?.map fun w => (0x05, w)

/-- Reads that each bank serves for an instruction (R92). -/
def Use.reads (u : Use) : List Nat :=
  u.tsrc.filterMap (fun p => match p.2 with
    | .reg _ _ r => some (r.toNat % 8)
    | .latch => none) ++ u.tblk.map (· % 8)

/-- The extra cycles of a bundle whose instructions read banks `bs` (R92). -/
def bankStalls (bs : List Nat) : Nat :=
  (List.range 8).foldl (fun m k => max m ((bs.count k + 1) / 2 - 1)) 0

/-! ### Results of the vector slots -/

/-- A latency on this target: a drone's vector results take 16 times as long (R358). -/
def vecLat (s : State) (k : Nat) : Nat := if isDrone s.cur then 16 * k else k

/-- OR of flags. -/
def orAll (fs : List (BitVec 6)) : BitVec 6 := fs.foldl (· ||| ·) 0

/-- Land a whole tile result under a mask (R146): element codes and flags. -/
def landElems (s : State) (td : TReg) (m : MReg) (t : EType) (k : Nat) (rs : List (Nat × BitVec 6)) : State :=
  land s (.tile td.toNat (tileOf t.bits (rs.map (·.1))) (elemMask t ((me s).mask m.toNat).val)) (vecLat s k) (orAll (rs.map (·.2)))

/-- Land element codes that set no flag. -/
def landCodes (s : State) (td : TReg) (m : MReg) (t : EType) (k : Nat) (cs : List Nat) : State :=
  land s (.tile td.toNat (tileOf t.bits cs) (elemMask t ((me s).mask m.toNat).val)) (vecLat s k) 0

/-- The bundle's mode for rounding (R31, R32). -/
def rmode (s : State) : RMode := rmodeOf s.bundle.mode

/-- Take `n` draws under SR: the state with the draws counted, and draw number `k` of them (R109). -/
def takeDraws (s : State) (n : Nat) : State :=
  if s.bundle.mode.rnd = .sr then { s with bundle := { s.bundle with draws := s.bundle.draws + n } } else s
def drawNo (s : State) (k : Nat) : Word := draw (me s).csr.seed (s.bundle.draws + k)

end Sys2Proof.Machine
end

