-- ==== Sys2Proof/Machine/Comb.lean ====
section
/-!
DEFINITION. The combs and the cluster window: granules with their full/empty state, the checks of window addresses, the pieces of
loads, stores, and accesses to other members (R196 to R210, R271 to R278).
-/
namespace Sys2Proof.Machine

/-! ### Window addresses (R198, R271) -/

/-- Is the strand of context `h` in a co-scheduled cluster launch (R272)? -/
def inCluster (s : State) (h : Nat) : Bool := isStrand h && (hart s h).who.cluster.isSome

/-- Does a transfer of `len` bytes at window address `a` fail its checks (R198)? -/
def windowBad (s : State) (h : Nat) (a : Word) (len align : Nat) : Bool :=
  let n := a.toNat
  2 ^ 25 ≤ n || n % align != 0 || 2 ^ 22 < n % 2 ^ 22 + len ||
    (n / 2 ^ 22 != memberOf (coreOf h) && !inCluster s h)

/-- TINFO of trap 0x09 (R88). -/
def windowInfo (a : Word) : Word := low 25 a

/-- The core a window address names (R271). -/
def memberCore (h : Nat) (a : Nat) : Nat := clusterBase (coreOf h) + a / 2 ^ 22 % 8

/-- The first transfer of a list that fails, as TINFO of trap 0x09. -/
def windowTrap (s : State) (h : Nat) (as : List Word) (len align : Nat) : Option (Nat × Word) :=
  (as.find? fun a => windowBad s h a len align).map fun a => (0x09, windowInfo a)

/-! ### Domains of functions (R170) -/

def finite32 (c : BitVec 32) : Bool := !(f32 c).isNaN && !(f32 c).isInf
/-- a < b, both finite. -/
def domOk (a b : BitVec 32) : Bool := finite32 a && finite32 b && (f32 a).lt (f32 b)

/-! ### Granules (R197, R199, R200, R202) -/

def granule (off : Nat) : Nat := off / 16
def Core.isEmpty (k : Core) (g : Nat) : Bool := k.empties.contains g

/-- Read a piece of one granule: its bytes and whether the granule is bad (R210). -/
def readPiece (k : Core) (off len : Nat) : BitVec 128 × Bool :=
  (BitVec.ofNat 128 (mnum k.comb off len), k.badGranules.contains (granule off))

/-- The waiting pieces at a granule as (arrival, context, load, piece), oldest first (R200, R274). -/
def waitersAt (s : State) (c g : Nat) : List (Nat × Nat × Nat × Nat) :=
  let all := s.harts.flatMap fun e => e.2.loads.flatMap fun l =>
    (l.pieces.zip (List.range l.pieces.length)).filterMap fun p => match p.1.st with
      | .waiting a => if p.1.core = c ∧ granule p.1.off = g then some (a, e.1, l.id, p.2) else none
      | _ => none
  sortBy (fun x y => x.1 < y.1) all

/-- Has the strand a store on its way to a granule of another member (R274)? -/
def onItsWay (s : State) (h c g : Nat) : Bool :=
  (hart s h).remotes.any fun x => match x with
    | .store k off _ _ => k == c && granule off == g
    | .scatter k j _ _ | .setState k j _ => k == c && j == g
    | _ => false

/-- Change one piece of a load. -/
def setPiece (x : Ctx) (id p : Nat) (st : PieceSt) : Ctx :=
  { x with loads := x.loads.map fun l =>
      if l.id = id then { l with pieces := setNth { nth ⟨0, 0, 0, 0, .issued⟩ l.pieces p with st := st } l.pieces p } else l }

def loadOf (x : Ctx) (id : Nat) : Option WLoad := x.loads.find? fun l => l.id = id

/-- An uncorrectable error was met: log it, and a self-test of the stripe falls due (R210). -/
def combError (s : State) (c g : Nat) : State :=
  let s := logEv s (srcStripe s c g) .uncorrectable []
  modCore s c fun k => { k with testDue := insNat (srcStripe s c g) k.testDue }

/-- Cut a transfer at granule borders: (offset, length, position). `n` bounds the number of pieces. -/
def cutGranules : Nat → Nat → Nat → Nat → List (Nat × Nat × Nat)
  | 0, _, _, _ => []
  | n + 1, off, len, pos =>
    if len = 0 then []
    else
      let l := min len (16 - off % 16)
      (off, l, pos) :: cutGranules n (off + l) (len - l) (pos + l)

/-- A number that rises with every access that can wait. -/
def stamp (s : State) : Nat × State := (s.arrivals, { s with arrivals := s.arrivals + 1 })

/-- Has every part of a load been read, or has it been given up? -/
def loadDone (l : WLoad) : Bool :=
  l.poison.isSome ||
    (!l.header && (l.pieces.all fun p => match p.st with
      | .read .. => true
      | _ => false) && l.gather.all fun y => y.closed)

/-- Perform the read of one piece, with its clear under C (R199); an error met is logged (R210). -/
def readAt (s : State) (h id p : Nat) : State :=
  match loadOf (hart s h) id with
  | none => s
  | some l =>
    let q := nth ⟨0, 0, 0, 0, .issued⟩ l.pieces p
    let k := core s q.core
    let g := granule q.off
    let (v, bad) := readPiece k q.off q.len
    let s := if bad then combError s q.core g else s
    let s := if l.clr then modCore s q.core fun k => { k with empties := insNat g k.empties } else s
    modHart s h fun x => setPiece x id p (.read v bad)

/-- A piece reaches its granule: it waits under W while the granule is empty, else it is read (R199, R200). At the own comb its place among
the waiters is that of its load's issue, at another member's that of its arrival there (R200, R274). -/
def waitOrRead (s : State) (h id p : Nat) : State :=
  match loadOf (hart s h) id with
  | none => s
  | some l =>
    let q := nth ⟨0, 0, 0, 0, .issued⟩ l.pieces p
    if l.wt && (core s q.core).isEmpty (granule q.off) then
      let (a, s) := if q.core = coreOf h then (l.id, s) else stamp s
      modHart s h fun x => setPiece x id p (.waiting a)
    else readAt s h id p

def modLoad (x : Ctx) (id : Nat) (f : WLoad → WLoad) : Ctx :=
  { x with loads := x.loads.map fun l => if l.id = id then f l else l }

/-- A piece of a load is sent to its comb: the own one at once, another member's as a remote access (R274). -/
def sendPiece (s : State) (h id : Nat) (p : Piece × Nat) (own : State → State) : State :=
  if p.1.core = coreOf h then own s
  else modHart s h fun x => { x with remotes := x.remotes ++ [.load id p.2 p.1.core (granule p.1.off)] }

/-- A function image's header has been read: its coefficients follow, or the load is poisoned (R193). Coefficients past the
comb's end give 0x09 also where the header is invalid (DEDUCED, notes/assumptions/41.md). -/
def openHeader (s : State) (h id : Nat) : State :=
  match loadOf (hart s h) id with
  | none => s
  | some l =>
    match l.header, l.pieces with
    | true, [q] =>
      (match q.st with
       | .read v bad =>
         let n := bitsOf v 64 8
         let shut (o : Option Byte) := modHart s h fun x => modLoad x id fun l => { l with header := false, poison := o }
         if bad then shut none
         else if 64 < n then shut (some 0x0A)
         else if 2 ^ 22 < q.off + 16 + 4 * n then shut (some 0x09)
         else
           let ps : List Piece := (cutGranules 20 (q.off + 16) (4 * n) 16).map fun p =>
             { core := q.core, off := p.1, len := p.2.1, pos := p.2.2, st := .issued }
           let s := modHart s h fun x => modLoad x id fun l => { l with header := false, pieces := l.pieces ++ ps }
           (ps.zip (List.range ps.length)).foldl (fun s p => sendPiece s h id (p.1, p.2 + 1) fun s => waitOrRead s h id (p.2 + 1)) s
       | _ => s)
    | _, _ => s

/-- The read of one piece; a header brings its coefficients. -/
def performPiece (s : State) (h id p : Nat) : State := openHeader (readAt s h id p) h id

/-- A granule becomes full: the loads waiting on it are served in order, until one empties it (R200). -/
def fillGranule (s : State) (c g : Nat) : State :=
  let s := modCore s c fun k => { k with empties := delNat g k.empties }
  (waitersAt s c g).foldl (fun s w => if (core s c).isEmpty g then s else performPiece s w.2.1 w.2.2.1 w.2.2.2) s

def emptyGranule (s : State) (c g : Nat) : State := modCore s c fun k => { k with empties := insNat g k.empties }

/-- A store that covers a bad granule rewrites it: the error is gone, and a self-test of the stripe falls due (R210). -/
def clearBad (s : State) (c g : Nat) : State :=
  modCore s c fun k => { k with badGranules := delNat g k.badGranules, testDue := insNat (srcStripe s c g) k.testDue }

/-- Write bytes within one granule: a whole write clears an error, a partial write into a bad granule is dropped (R210). -/
def writePiece (s : State) (c off : Nat) (bytes : List Byte) : State :=
  let g := granule off
  if (core s c).badGranules.contains g then
    if bytes.length = 16 then
      modCore (clearBad s c g) c fun k => { k with comb := mwrite k.comb off bytes }
    else combError s c g
  else modCore s c fun k => { k with comb := mwrite k.comb off bytes }

/-- The pieces of one transfer of a load. -/
def piecesFor (c off len pos : Nat) : List Piece :=
  (cutGranules (len / 16 + 2) off len pos).map fun p => { core := c, off := p.1, len := p.2.1, pos := p.2.2, st := .issued }

/-! ### Loads (R199, R201, R209, R274) -/

/-- A piece reaches its granule (R199, R200). -/
def arrivePiece (s : State) (h id p : Nat) : State := openHeader (waitOrRead s h id p) h id

/-- Send the pieces of a load from number `from` on: own-comb pieces at once in order, the others as remote accesses. -/
def sendPieces (s : State) (h id first : Nat) : State :=
  match loadOf (hart s h) id with
  | none => s
  | some l =>
    ((l.pieces.zip (List.range l.pieces.length)).drop first).foldl (fun s p => sendPiece s h id p fun s => arrivePiece s h id p.2) s

/-- Start a load with its pieces. A W load ends the quantum (R200, R322). -/
def startLoad (s : State) (dst : LoadDst) (clr wt : Bool) (pieces : List Piece) (fillBits : Tile) (gather : Option GatherLoad)
    (header : Bool) : State :=
  let (id, s) := stamp s
  let l : WLoad :=
    { id := id, dst := dst, clr := clr, wt := wt, pieces := pieces, fillBits := fillBits, gather := gather, header := header,
      poison := none }
  let s := modMe s fun x => { x with loads := x.loads ++ [l] }
  let s := if wt then { s with bundle := { s.bundle with endsQ := true } } else s
  sendPieces s s.cur id 0

/-- Add pieces to a load that runs, and send them (R193, R205). -/
def addPieces (s : State) (h id : Nat) (ps : List Piece) : State :=
  match loadOf (hart s h) id with
  | none => s
  | some l =>
    let s := modHart s h fun x =>
      { x with loads := x.loads.map fun m => if m.id = id then { m with pieces := m.pieces ++ ps } else m }
    sendPieces s h id l.pieces.length

/-! ### Stores (R199, R201, R274) -/

/-- A store performs at a core: bytes, then the granules full under F. -/
def storeAt (s : State) (c off : Nat) (bytes : List Byte) (fill : Bool) : State :=
  let s := writePiece s c off bytes
  if fill then fillGranule s c (granule off) else s

/-- A store of any length at a core: granule by granule (R202). -/
def storeRange (s : State) (c off : Nat) (bytes : List Byte) (fill : Bool) : State :=
  (cutGranules (bytes.length / 16 + 2) off bytes.length 0).foldl (fun s p => storeAt s c p.1 ((bytes.drop p.2.2).take p.2.1) fill) s

/-- Store bytes at a window address: own comb at once, another member's comb as remote accesses by granule. -/
def storeWindow (s : State) (a : Nat) (bytes : List Byte) (fill : Bool) : State :=
  let h := s.cur
  let c := memberCore h a
  (cutGranules (bytes.length / 16 + 2) (a % 2 ^ 22) bytes.length 0).foldl (fun s p =>
    let part := (bytes.drop p.2.2).take p.2.1
    if c = coreOf h then storeAt s c p.1 part fill
    else modHart s h fun x => { x with remotes := x.remotes ++ [.store c p.1 part fill] }) s

/-- The scatter functions (R206): 0 store, 1 OR, 2 add, 3 max, 4 min, 5 unsigned max, 6 unsigned min. -/
def scatterFn (fn w old v : Nat) : Nat :=
  let sg (x : Nat) : Int := if x.testBit (8 * w - 1) then (x : Int) - 2 ^ (8 * w) else x
  match fn with
  | 0 => v
  | 1 => old ||| v
  | 2 => (old + v) % 2 ^ (8 * w)
  | 3 => if sg old < sg v then v else old
  | 4 => if sg v < sg old then v else old
  | 5 => max old v
  | _ => min old v

/-- One element of a scatter at a core: offset, width, function, value (R206). A bad granule drops it (R210). -/
def scatterOne (s : State) (c : Nat) (op : Nat × Nat × Nat × Nat) : State :=
  let (off, w, fn, v) := op
  if (core s c).badGranules.contains (granule off) then combError s c (granule off)
  else
    let old := mnum (core s c).comb off w
    modCore s c fun k => { k with comb := mwrite k.comb off (natBytes (scatterFn fn w old v) w) }

/-- The elements of one granule at a core, in order; those of an STX that cover it clear an error (R210). -/
def scatterAt (s : State) (c g : Nat) (ops : List (Nat × Nat × Nat × Nat)) : State :=
  let whole := (List.range 16).all fun b => ops.any fun o => o.2.2.1 == 0 && o.1 % 16 ≤ b && b < o.1 % 16 + o.2.1
  let s := if (core s c).badGranules.contains g && whole then clearBad s c g else s
  ops.foldl (fun s op => scatterOne s c op) s

/-- Numbers without repeats, in order of first appearance. -/
def distinct : List Nat → List Nat
  | [] => []
  | x :: xs => x :: (distinct xs).filter (· != x)

/-- The elements of STX and the scatter forms, (window address, value) in order of k: own-comb elements apply at once, the
others travel by granule; the granules become full under F once their elements are written (R206, R274). -/
def scatterWindow (s : State) (w fn : Nat) (fill : Bool) (els : List (Nat × Nat)) : State :=
  let h := s.cur
  let own := coreOf h
  let mine := els.filter fun e => memberCore h e.1 = own
  let other := els.filter fun e => memberCore h e.1 != own
  let gs := distinct (mine.map fun e => granule (e.1 % 2 ^ 22))
  let s := gs.foldl (fun s g =>
    scatterAt s own g ((mine.filter fun e => granule (e.1 % 2 ^ 22) = g).map fun e => (e.1 % 2 ^ 22, w, fn, e.2))) s
  let s := if fill then gs.foldl (fun s g => fillGranule s own g) s else s
  let rem := (distinct (other.map fun e => granule e.1)).map fun g =>
    let part := other.filter fun e => granule e.1 = g
    Remote.scatter (memberCore h (16 * g)) (g % 2 ^ 18) (part.map fun e => (e.1 % 2 ^ 22, w, fn, e.2)) fill
  modHart s h fun x => { x with remotes := x.remotes ++ rem }

/-- SETE and SETF of one granule of the window (R204). -/
def setGranule (s : State) (a : Nat) (full : Bool) : State :=
  let h := s.cur
  let c := memberCore h a
  let g := granule (a % 2 ^ 22)
  if c = coreOf h then (if full then fillGranule s c g else emptyGranule s c g)
  else modHart s h fun x => { x with remotes := x.remotes ++ [.setState c g full] }

/-! ### Barriers (R250) -/

def barrier (s : State) (c k : Nat) : Barrier := tget Barrier.reset (core s c).barriers k
def setBarrier (s : State) (c k : Nat) (b : Barrier) : State :=
  modCore s c fun x => { x with barriers := tset Barrier.reset x.barriers k b }
/-- Ready when TARGET ≠ 0 and COUNT ≥ TARGET. -/
def Barrier.ready (b : Barrier) : Bool := b.target != 0 && b.target ≤ b.count
/-- COUNT rises, saturating; a faulted copy sets FLT, and the first one its cause and the TINFO of R94. -/
def bumpBarrier (s : State) (c k n : Nat) (fault : Option (Byte × Word)) : State :=
  let b := barrier s c k
  let b := { b with count := min (b.count + n) 0xFFFFFFFF }
  let b := match fault with
    | some x => if b.flt then b else { b with fcause := x.1, finfo := x.2, flt := true }
    | none => b
  setBarrier s c k b
/-- The word that CSTAT returns (R250). -/
def Barrier.word (b : Barrier) : Word := BitVec.ofNat 64 (b.fcause.toNat * 2 ^ 56 + b.flt.toNat * 2 ^ 32 + b.count)

/-! ### Accesses to other members (R251, R274, R275) -/

/-- The core and the granule an access goes to; none for BINC. -/
def remotePlace : Remote → Nat × Option Nat
  | .store c off _ _ => (c, some (granule off))
  | .scatter c g _ _ => (c, some g)
  | .setState c g _ => (c, some g)
  | .binc c _ _ => (c, none)
  | .load _ _ c g => (c, some g)

/-- Does DRAIN wait for it (R251)? -/
def drained : Remote → Bool
  | .store .. | .scatter .. | .binc .. => true
  | _ => false

/-- May the `k`-th outstanding access perform: nothing earlier to its granule, and for a BINC no earlier store, scatter or BINC
to its member (R251, R274)? -/
def mayPerform (rs : List Remote) (k : Nat) : Bool :=
  match rs.drop k with
  | [] => false
  | r :: _ =>
    let (c, g) := remotePlace r
    (rs.take k).all fun e =>
      match g with
      | some g => remotePlace e != (c, some g)
      | none => !(drained e && (remotePlace e).1 == c)

/-- One access performs at its member. -/
def performRemote (s : State) (h : Nat) (r : Remote) : State :=
  match r with
  | .store c off bytes fill => storeAt s c off bytes fill
  | .scatter c g ops fill =>
    let s := scatterAt s c g ops
    if fill then fillGranule s c g else s
  | .setState c g full => if full then fillGranule s c g else emptyGranule s c g
  | .binc c b n => bumpBarrier s c b n none
  | .load id p _ _ => arrivePiece s h id p

/-- Has FENCEL nothing to wait for: no access to another member outstanding, loads included (R275)? An LDG whose rows are still to come
may go to another member in a cluster launch. -/
def fenceClear (s : State) (h : Nat) : Bool :=
  (hart s h).remotes.isEmpty && (hart s h).loads.all fun l =>
    (l.pieces.all fun p => p.core == coreOf h) && (!inCluster s h || l.gather.all fun y => y.closed)
/-- Has DRAIN nothing to wait for? -/
def drainClear (s : State) (h : Nat) : Bool := (hart s h).remotes.all fun r => !drained r

/-! ### Row addresses (R204) -/

/-- sext(disp, 64) added to a base (R204). -/
def plusDisp (base : Word) (disp : BitVec 32) : Word := base + disp.signExtend 64

/-- The row pitch P: 256 where the field names s0. -/
def pitchOf (c : Ctx) (str : SReg) : Word := if str = 0 then 256 else c.s str

/-- The window addresses of R rows from A at pitch P. -/
def rowAddrs (a p : Word) (n : Nat) : List Word := (List.range n).map fun i => a + BitVec.ofNat 64 i * p

/-- The traps of a row transfer (R198, R204): P and every row. -/
def rowsTrap (s : State) (h : Nat) (a p : Word) (rows : Nat) : Option (Nat × Word) :=
  if p.toNat % 16 ≠ 0 then some (0x09, windowInfo a) else windowTrap s h (rowAddrs a p rows) 256 16

/-- The bytes of row `i` of a tile (R77). -/
def rowBytes (v : Tile) (i : Nat) : List Byte := natBytes (bitsOf v (2048 * i) 2048) 256

/-- The (element offset, index) pairs of LDX, STX and the scatter forms that are not skipped (R206). -/
def scatterIdx (v : Tile) (d : Bool) : List (Nat × Nat) :=
  let t := if d then EType.uint64 else EType.uint32
  ((tileElems t v).zip (List.range (elemCount t))).filter fun e => e.1 != 2 ^ t.bits - 1

/-- The traps of an element transfer (R198, R206): the lowest-indexed failure. -/
def elemsTrap (s : State) (h : Nat) (base : Word) (v : Tile) (d : Bool) : Option (Nat × Word) :=
  let w := if d then 8 else 4
  windowTrap s h ((scatterIdx v d).map fun e => base + BitVec.ofNat 64 e.1) w w

end Sys2Proof.Machine
end

