-- ==== Sys2Proof/Machine/Queues.lean ====
section
/-!
DEFINITION. The index queues (R253 to R262): entries and close marks, the consumers that wait for them in order, and the
producers that push them; with the rows an LDG reads as its entries arrive (R205).
-/
namespace Sys2Proof.Machine

/-- What a consumer reaches (R254, R262). -/
inductive Got | entry (v : Nat) | closed | poison
deriving DecidableEq, Repr

/-- Close marks at the head that reach only claims numbered below their bound are passed by claim `num` (R255). -/
def dropPassed (num : Nat) : List QItem → List QItem
  | .close (some b) :: t => if b ≤ num then dropPassed num t else .close (some b) :: t
  | l => l

/-- What an IXPEEK at offset `off` reaches (R143). -/
def lookAt (num : Nat) : List QItem → Nat → Option Got
  | [], _ => none
  | .entry v :: t, off => if off = 0 then some (.entry v) else lookAt num t (off - 1)
  | .close none :: _, _ => some .closed
  | .close (some b) :: t, off => if b ≤ num then lookAt num t off else some .closed
  | .poison :: _, _ => some .poison

/-- A poison mark that was reached acts as a close mark from then on (R262). -/
def usePoison : List QItem → List QItem
  | [] => []
  | .poison :: t => .close none :: t
  | x :: t => x :: usePoison t

/-- A consumed head moves the waiting peeks before it one nearer. -/
def nearer (c : Claim) : Claim := match c.kind with
  | .peek r off => { c with kind := .peek r (off - 1) }
  | _ => c

/-- The first claim that can be served, and the queue without it. -/
def nextServe (q : IQueue) : List Claim → List Claim → Option (ClaimKind × Got × IQueue)
  | _, [] => none
  | kept, c :: cs =>
    match c.kind with
    | .peek r off =>
      match lookAt c.num q.items off with
      | some g =>
        some (.peek r off, g, { q with items := if g = .poison then usePoison q.items else q.items, claims := kept ++ cs })
      | none => nextServe q (kept ++ [c]) cs
    | k =>
      match dropPassed c.num q.items with
      | .entry v :: t => some (k, .entry v, { q with items := t, claims := kept.map nearer ++ cs })
      | .close b :: t => some (k, .closed, { q with items := .close b :: t, claims := kept ++ cs })
      | .poison :: t => some (k, .poison, { q with items := .close none :: t, claims := kept ++ cs })
      | [] => none

/-- A scalar that a queue fills: at the close of the bundle that is issuing, at once otherwise (R99, R143). -/
def fillFromQueue (s : State) (h r : Nat) (v : Word) (bad : Option Byte) : State :=
  if s.bundle.isOpen ∧ h = s.cur then { s with bundle := { s.bundle with fills := s.bundle.fills ++ [(r, v, bad)] } }
  else modHart s h fun c => match bad with
    | some o => c.poisonScalar r o
    | none => c.fillScalar r v

/-- The claims of a load or copy that stops are dropped (R205, R239). -/
def dropClaims (s : State) (h q : Nat) (k : ClaimKind) : State :=
  modHart s h fun x => x.setQueue q { x.queue q with claims := (x.queue q).claims.filter fun c => c.kind != k }

/-- An entry reaches an LDG (R205): the row's address is checked and its pieces are sent; a close mark ends the rows. The entries an LDG
has reserved stay its own after a row's address has failed. -/
def gatherRow (s : State) (h q id : Nat) (g : Got) : State :=
  let gone : State := match g with
    | .entry _ => s
    | _ => dropClaims s h q (.load id)
  match loadOf (hart s h) id with
  | none => gone
  | some l =>
    match l.gather with
    | none => gone
    | some y =>
      let stop (s : State) (f : WLoad → WLoad) : State :=
        modHart s h fun x => modLoad x id fun l => f { l with gather := some { y with closed := true } }
      match g with
      | .closed => dropClaims (stop s fun l => l) h q (.load id)
      | .poison => dropClaims (stop s fun l => { l with poison := some 0x14 }) h q (.load id)
      | .entry v =>
        let a := y.base + BitVec.ofNat 64 v * y.pitch
        if y.closed then s
        else if windowBad s h a 256 16 then stop s fun l => { l with poison := some 0x09 }
        else
          let s := modHart s h fun x => modLoad x id fun l =>
            { l with gather := some { y with got := y.got + 1, closed := y.got + 1 == y.rows } }
          addPieces s h id (piecesFor (memberCore h a.toNat) (a.toNat % 2 ^ 22) 256 (256 * y.got))

def modCopy (x : Ctx) (ch id : Nat) (f : Copy → Copy) : Ctx :=
  x.setChan ch { x.chan ch with copies := (x.chan ch).copies.map fun k => if k.id = id then f k else k }

/-- An entry reaches a gathering copy (R239): none stands for the close mark that stops its row loop. -/
def gatherCopy (s : State) (h q ch id : Nat) (g : Got) : State :=
  let s := modHart s h fun x => modCopy x ch id fun k =>
    { k with gather := k.gather.map fun y => match g with
        | .entry v => { y with got := y.got ++ [some v] }
        | .closed => { y with got := y.got ++ [none] }
        | .poison => { y with poisoned := true } }
  match g with
  | .entry _ => s
  | _ => dropClaims s h q (.copy ch id)

/-- Deliver what a claim reached. -/
def deliver (s : State) (h q : Nat) (k : ClaimKind) (g : Got) : State :=
  match k with
  | .pop r | .peek r _ =>
    (match g with
     | .entry v => fillFromQueue s h r (BitVec.ofNat 64 v) none
     | .closed => fillFromQueue s h r (BitVec.allOnes 64) none
     | .poison => fillFromQueue s h r 0 (some 0x14))
  | .load id => gatherRow s h q id g
  | .copy ch id => gatherCopy s h q ch id g

/-- Serve the claims of a queue for as long as one can be served; each round removes a claim. -/
def serveQueue (s : State) (h q : Nat) : Nat → State
  | 0 => s
  | n + 1 =>
    match nextServe ((hart s h).queue q) [] ((hart s h).queue q).claims with
    | none => s
    | some (k, g, y) => serveQueue (deliver (modHart s h fun x => x.setQueue q y) h q k g) h q n

def serve (s : State) (h q : Nat) : State := serveQueue s h q ((hart s h).queue q).claims.length

/-- Add claims, numbered in order, and serve what can be served. -/
def claim (s : State) (h q : Nat) (ks : List ClaimKind) : State :=
  let s := ks.foldl (fun s k =>
    let (n, s) := stamp s
    modHart s h fun x => x.setQueue q { x.queue q with claims := (x.queue q).claims ++ [{ num := n, kind := k }] }) s
  serve s h q

/-- Append an item to a queue, and serve. -/
def pushItem (s : State) (h q : Nat) (it : QItem) : State :=
  serve (modHart s h fun x => x.setQueue q { x.queue q with items := (x.queue q).items ++ [it] }) h q

def isEntry : QItem → Bool
  | .entry _ => true
  | _ => false

/-- Entries that stand in a queue. -/
def IQueue.entries (y : IQueue) : Nat := (y.items.filter isEntry).length

/-- The reserved entries that a gathering copy has received and its row loop has not read (R239, R253). -/
def Copy.unread (k : Copy) (q : Nat) : Nat := match k.gather with
  | some y => if y.queue = q ∧ (k.phase = .queued ∨ k.phase = .running) then
      ((y.got.drop (k.row + if k.col = 0 then 0 else 1)).filter Option.isSome).length else 0
  | none => 0

/-- The entries that occupy queue `q` of a context (R253: at most 1,024). -/
def occupied (x : Ctx) (q : Nat) : Nat :=
  (x.queue q).entries + x.channels.foldl (fun n e => e.2.copies.foldl (fun n k => n + k.unread q) n) 0

/-- Without the close mark at the tail (R255). -/
def dropTail : List QItem → List QItem
  | [] => []
  | [.close none] => []
  | x :: t => x :: dropTail t

/-- A producer issues (R255): the close mark at the tail goes, and those of the producers still running reach earlier claims
only. -/
def startProducer (s : State) (h q : Nat) (p : Producer) : State :=
  let (n, s) := stamp s
  modHart s h fun x =>
    let y := x.queue q
    x.setQueue q { y with
      items := dropTail y.items
      prods := (y.prods.map fun o => if o.bound.isNone then { o with bound := some n } else o) ++ [p] }

/-- The lowest `n` set bits of a mask: the rows an SPRED has pushed. -/
def lowestBits (v : Mask) (n : Nat) : Mask :=
  let ids := (List.range 1024).filter fun k => v.getLsbD k
  maskOf ((List.range 1024).map fun k => (ids.take n).contains k)

/-- A digest scan ends (R350): its scores, then +0, its count and DGSTAMP. -/
def settleScan (s : State) (h : Nat) (c : Scan) (n : Nat) : State :=
  modHart s h fun x =>
    let x := match c.score with
      | some r => x.fillTile r (tileOf 32 (c.scores.map BitVec.toNat))
      | none => x
    let x := match c.stamp with
      | some q => { x with csr := { x.csr with dgstamp := BitVec.ofNat 64 q } }
      | none => x
    x.fillScalar c.sd (BitVec.ofNat 64 n)

/-- A producer finishes: its mask and its count scalar are written (R255, R263, R265). -/
def settleProducer (s : State) (h : Nat) (p : Producer) (stopped : Bool) : State :=
  match p.work with
  | .list _ m hi =>
    let s := match m with
      | some (r, v) => modHart s h fun x => x.fillMask r (if stopped then lowestBits v p.pushed else v)
      | none => s
    modHart s h fun x => x.fillScalar p.count (BitVec.ofNat 64 (p.pushed + (if stopped then 0 else hi * 2 ^ 32)))
  | .scan c => settleScan s h c p.pushed
  | _ => modHart s h fun x => x.fillScalar p.count (BitVec.ofNat 64 p.pushed)

/-- The running producer of a queue finishes and closes the queue unless KEEP (R255). -/
def finishProducer (s : State) (h q : Nat) (p : Producer) : State :=
  let s := modHart s h fun x => x.setQueue q { x.queue q with prods := (x.queue q).prods.drop 1 }
  let s := settleProducer s h p false
  if p.keep then s else pushItem s h q (.close p.bound)

/-- The running producer of a queue changes. -/
def setProducer (s : State) (h q : Nat) (p : Producer) : State :=
  modHart s h fun x => x.setQueue q { x.queue q with prods := p :: (x.queue q).prods.drop 1 }

/-- The running producer pushes an entry. -/
def pushEntry (s : State) (h q : Nat) (p : Producer) (v : Nat) : State :=
  pushItem (setProducer s h q { p with pushed := p.pushed + 1 }) h q (.entry (v % 2 ^ 32))

/-- IXCLR (R261): producers stop, entries and marks that nobody has reserved go, one close mark stands. -/
def clearQueue (s : State) (h q : Nat) : State :=
  let ps := ((hart s h).queue q).prods
  let s := ps.foldl (fun s p => settleProducer s h p true) s
  let s := modHart s h fun x => x.setQueue q { x.queue q with items := [], prods := [] }
  pushItem s h q (.close none)

/-- A producer of a queue meets an uncorrectable error (R262): it stops, a poison mark, its count poisoned. -/
def failProducer (s : State) (h q : Nat) (p : Producer) : State :=
  let s := modHart s h fun x => x.setQueue q { x.queue q with prods := (x.queue q).prods.drop 1 }
  let s := modHart s h fun x => x.poisonScalar p.count 0x14
  pushItem s h q .poison

/-- What an index engine finds at a granule: a store of its own strand still on its way there, an error, or its bytes. -/
inductive Look | wait | bad (c g : Nat) | bytes (v : BitVec 128)
deriving DecidableEq, Repr

/-- An index engine reads the granule of window address `a` once, as a whole (R202), after its strand's earlier stores to it (R260). -/
def lookGranule (s : State) (h : Nat) (held : Option (Nat × BitVec 128)) (a : Nat) : Look :=
  let c := memberCore h a
  let g := granule (a % 2 ^ 22)
  match held.filter fun x => x.1 == a / 16 with
  | some x => .bytes x.2
  | none =>
    if onItsWay s h c g then .wait
    else if (core s c).badGranules.contains g then .bad c g
    else .bytes (BitVec.ofNat 128 (mnum (core s c).comb (16 * g) 16))

/-- The next set bit of a bitmap: none, a reason to wait, an error, or the bit with the granule it stands in. -/
inductive NextBit | none | wait | bad (c g : Nat) | bit (m : Nat) (held : Nat × BitVec 128)
deriving DecidableEq, Repr

/-- The next set bit of the bitmap at window address `a`, from `pos` on, with at most `n` bits looked at (R260). -/
def nextBit (s : State) (h a : Nat) : Nat → Nat → Option (Nat × BitVec 128) → NextBit
  | 0, _, _ => .none
  | n + 1, pos, held =>
    let x := a + pos / 8
    match lookGranule s h held x with
    | .wait => .wait
    | .bad c g => .bad c g
    | .bytes v => if v.getLsbD (8 * (x % 16) + pos % 8) then .bit pos (x / 16, v) else nextBit s h a n (pos + 1) (some (x / 16, v))

/-- IXBMAP's next push (R260); a full queue makes it wait (R253). -/
def stepBitmap (s : State) (h q : Nat) (p : Producer) (a pos len : Nat) (full : Bool) : State :=
  match nextBit s h a (len - pos) pos p.held with
  | .none => finishProducer s h q p
  | .wait => s
  | .bad c g => failProducer (combError s c g) h q p
  | .bit m held => if full then s else pushEntry s h q { p with work := .bitmap a (m + 1) len, held := some held } m

/-- IXRLE's next push: the running pair's next number, or the next pair that has one (R260). -/
def stepRuns (s : State) (h q : Nat) (p : Producer) (a left start len : Nat) (full : Bool) : State :=
  if 0 < len then (if full then s else pushEntry s h q { p with work := .runs a left (start + 1) (len - 1) } start)
  else if left = 0 then finishProducer s h q p
  else
    match lookGranule s h p.held a with
    | .wait => s
    | .bad c g => failProducer (combError s c g) h q p
    | .bytes v =>
      setProducer s h q
        { p with work := .runs (a + 8) (left - 1) (bitsOf v (8 * (a % 16)) 32) (bitsOf v (8 * (a % 16) + 32) 32), held := some (a / 16, v) }

end Sys2Proof.Machine
end

