-- ==== Sys2Proof/Machine/Quanta.lean ====
section
/-!
DEFINITION. Quanta of a strand, its write units, and the waits at which it ends a quantum: groups, cluster rounds, joins (R275,
R276, R298 to R304, R321 to R328).
-/
namespace Sys2Proof.Machine

/-! ### Finding strands by key -/

/-- Change the saved strands with a key. -/
def modSaved (e : PoolEnt) (key : Word) (f : Ctx → Ctx) : PoolEnt := match e.kind with
  | .saved v => if v.ctx.csr.skey = key then { e with kind := .saved { v with ctx := f v.ctx } } else e
  | _ => e

/-- Change the strand with a key, in its context or in the pool where it is saved (R296: keys are distinct). -/
def modByKey (s : State) (key : Word) (f : Ctx → Ctx) : State :=
  let s := (s.harts.filter fun e => isStrand e.1 && e.2.life != .idle && e.2.csr.skey == key).foldl
    (fun s e => modHart s e.1 f) s
  { s with dies := s.dies.map fun e => (e.1, { e.2 with pool := e.2.pool.map fun p => modSaved p key f }) }

/-- The strand whose view a global access of context `h` takes: a handler's is that of TSRC (R137, R328). -/
def actsFor (s : State) (h : Nat) : Nat := if isSup h then 6 * coreOf h + (core s (coreOf h)).tsrc.toNat % 8 else h

/-! ### Quanta (R321 to R328) -/

/-- R326: quantum n begins only once n - 3 has committed. -/
def runAheadBlocked (s : State) (c : Ctx) : Bool := (launch s c.who.launch).committed + 3 < c.csr.qnum.toNat

/-- The strand goes on in the next quantum. -/
def endQuantum (c : Ctx) : Ctx :=
  { c with csr := { c.csr with qnum := c.csr.qnum + 1 }, qUnits := 0, qBundles := 0, qFresh := true }

/-- The strand takes quantum `q` after a wait (R304). -/
def enterQuantum (c : Ctx) (q : Nat) : Ctx :=
  { c with csr := { c.csr with qnum := BitVec.ofNat 64 q }, qUnits := 0, qBundles := 0, qFresh := true }

/-- At the first bundle of a quantum QW and QB are read (R139, R322). -/
def beginQuantum (c : Ctx) : Ctx :=
  if c.qFresh then { c with qwLim := c.csr.qw.toNat, qbLim := c.csr.qb.toNat, qFresh := false } else c

/-- Add a write unit to the current quantum of the strand that context `cur` acts for. A handler's unit does not count toward QW
(R134, R322, R328). -/
def addUnit (s : State) (k : UnitKind) : State :=
  let h := actsFor s s.cur
  let c := hart s h
  let l := c.who.launch
  let u : WUnit := { key := c.csr.skey, q := c.csr.qnum.toNat, ord := (launch s l).nextOrd, kind := k }
  let s := modLaunch s l fun x => { x with units := x.units ++ [u], nextOrd := x.nextOrd + 1 }
  if isStrand s.cur then
    let s := modHart s h fun x => { x with qUnits := x.qUnits + 1 }
    if c.qwLim ≤ c.qUnits + 1 then { s with bundle := { s.bundle with endsQ := true } } else s
  else s

/-- The quantum ends at this bundle (R322). -/
def endsHere (s : State) : State := { s with bundle := { s.bundle with endsQ := true } }

/-! ### Groups (R303) -/

/-- The group `g` of the die of context `h`. -/
def groupKey (h g : Nat) : Nat := 64 * dieOf h + g
def group (s : State) (l k : Nat) : Group := tget Group.reset (launch s l).groups k
def setGroup (s : State) (l k : Nat) (g : Group) : State :=
  modLaunch s l fun x => { x with groups := tset Group.reset x.groups k g }

/-- A strand waiting at GBAR is released to quantum `q` (R304). -/
def releaseGbar (q : Nat) (c : Ctx) : Ctx := match c.wait with
  | .gbar _ => { enterQuantum c q with wait := .barrier }
  | _ => c

/-- The round closes once every strand still required has arrived: every arrived strand is released (R303, R304). -/
def closeRound (s : State) (l k : Nat) : State :=
  let g := group s l k
  if g.opened ∧ g.required.all fun x => g.arrived.any fun a => a.1 == x then
    let q := 1 + g.arrived.foldl (fun m a => max m a.2) 0
    let s := g.arrived.foldl (fun s a => modByKey s a.1 (releaseGbar q)) s
    setGroup s l k { g with opened := false, required := [], arrived := [] }
  else s

/-- A member arrives; the first opens a round and fixes its required set. -/
def arriveGroup (s : State) (l k : Nat) (key : Word) (ended : Nat) : State :=
  let g := group s l k
  let g := if g.opened then g else { g with opened := true, required := g.members }
  closeRound (setGroup s l k { g with arrived := g.arrived ++ [(key, ended)] }) l k

def joinGroup (s : State) (l k : Nat) (key : Word) : State :=
  let g := group s l k
  if g.members.contains key then s else setGroup s l k { g with members := g.members ++ [key] }

def leaveGroup (s : State) (l k : Nat) (key : Word) : State :=
  let g := group s l k
  closeRound (setGroup s l k
    { g with members := g.members.filter (· != key), required := g.required.filter (· != key) }) l k

/-- A strand leaves every group of its launch (R301). -/
def leaveAll (s : State) (l : Nat) (key : Word) : State :=
  ((launch s l).groups.map (·.1)).foldl (fun s k => leaveGroup s l k key) s

/-! ### Cluster rounds (R275, R276): arrivals are (node, member, round, quantum ended) -/

def releaseCbar (node r q : Nat) (l : Nat) (c : Ctx) : Ctx :=
  if c.who.launch = l ∧ c.who.node = node ∧ c.who.mate.isSome then
    match c.wait with
    | .cbar _ r' => if r' = r then { enterQuantum c q with wait := .barrier } else c
    | _ => c
  else c

/-- Change every strand of a launch, in a context or saved. -/
def modStrands (s : State) (l : Nat) (f : Ctx → Ctx) : State :=
  let s := (s.harts.filter fun e => isStrand e.1 && e.2.life != .idle && e.2.who.launch == l).foldl
    (fun s e => modHart s e.1 f) s
  let upd (p : PoolEnt) : PoolEnt := match p.kind with
    | .saved v => if v.ctx.who.launch = l then { p with kind := .saved { v with ctx := f v.ctx } } else p
    | _ => p
  { s with dies := s.dies.map fun e => (e.1, { e.2 with pool := e.2.pool.map upd }) }

/-- Can a round no longer close: every mate that has not arrived has reached EXIT (R276)? -/
def cbarDead (x : Launch) (node r : Nat) : Bool :=
  (List.range 8).all fun m =>
    x.exits.contains (node, m) || x.cbars.any fun a => a.1 == node && a.2.1 == m && a.2.2.1 == r

/-- A strand waiting at a round that can no longer close goes on in quantum `q`, where its CBAR traps. -/
def failCbar (node r q : Nat) (l : Nat) (c : Ctx) : Ctx :=
  if c.who.launch = l ∧ c.who.node = node ∧ c.who.mate.isSome then
    match c.wait with
    | .cbar _ r' => if r' = r then { enterQuantum c q with wait := .dead r } else c
    | _ => c
  else c

/-- The final quanta of the mates of a node that have executed EXIT. -/
def finalQuanta (s : State) (l node : Nat) : List Nat :=
  (s.harts.filter fun e => isStrand e.1 && e.2.leaving && e.2.who.launch == l && e.2.who.node == node && e.2.who.mate.isSome).map
    fun e => e.2.csr.qnum.toNat

/-- The rounds of a node that can no longer close let their waiters go on: R304's quantum, one more than the largest that a waiter or a mate
that has reached EXIT ended (DEDUCED, notes/assumptions/57.md: R304 names the strands released by a round that closes). -/
def failRounds (s : State) (l node : Nat) : State :=
  let x := launch s l
  let here := x.cbars.filter fun a => a.1 == node
  (distinct (here.map fun a => a.2.2.1)).foldl (fun s r =>
    if cbarDead x node r then
      let ended := (here.filter fun a => a.2.2.1 == r).map (·.2.2.2) ++ finalQuanta s l node
      modStrands s l (failCbar node r (1 + ended.foldl max 0) l)
    else s) s

/-- A mate arrives at a round, however often its CBAR is issued again; the eighth mate releases all eight. -/
def arriveCbar (s : State) (l node member r ended : Nat) : State :=
  let s := modLaunch s l fun x =>
    { x with cbars := (x.cbars.filter fun a => !(a.1 == node && a.2.1 == member && a.2.2.1 == r)) ++ [(node, member, r, ended)] }
  let here := (launch s l).cbars.filter fun a => a.1 == node && a.2.2.1 == r
  if 8 ≤ here.length then
    let q := 1 + here.foldl (fun m a => max m a.2.2.2) 0
    modStrands s l (releaseCbar node r q l)
  else failRounds s l node

/-! ### Joining and exiting (R301, R302) -/

/-- A strand waiting at JOIN is released once every child it awaits has executed EXIT (R301, R304). -/
def releaseJoin (c : Ctx) : Ctx :=
  match c.wait with
  | .join e =>
    if c.kids.all fun k => k.2.isSome then
      { enterQuantum c (1 + c.kids.foldl (fun m k => max m (k.2.getD 0)) e) with wait := .barrier }
    else c
  | _ => c

/-- A child of the strand has executed EXIT, ending quantum `q`. -/
def childExited (child : Word) (q : Nat) (c : Ctx) : Ctx :=
  releaseJoin { c with kids := c.kids.map fun k => if k.1 = child then (k.1, some q) else k }

def nodeReset : Node :=
  { desc :=
      { entry := 0, preds := 0, succs := [], kind := 0, prio := 0, affMode := 0, affNo := 0, pin := 0, cosched := false, tmpl := 0,
        spmax := 0, args := [], ops := [] }
    st := .waiting, left := 0, start := 0, final := 0, live := 0, staged := none, place := (0, 0, none) }

def nodeOf (s : State) (l n : Nat) : Node := tget nodeReset (launch s l).nodes n
def modNode (s : State) (l n : Nat) (f : Node → Node) : State :=
  modLaunch s l fun x => { x with nodes := tset nodeReset x.nodes n (f (tget nodeReset x.nodes n)) }

/-- Is a call of a strand among the write units of its quantum `q` still? -/
def callUnit (l : Launch) (key : Word) (q n : Nat) : Bool :=
  l.units.any fun u => u.key == key && u.q == q && match u.kind with
    | .rcall _ m _ => m.seqNo == n
    | _ => false

/-- EXIT ends the strand's final quantum (R302), and with it a request to stop (R306, R308): its producers stop and its queues are closed;
it awaits no reply to an RCALL.Q of that quantum; its parent, its node and its mates learn of it. -/
def strandExits (s : State) (h : Nat) : State :=
  let c := hart s h
  let q := c.csr.qnum.toNat
  let s := [0, 1].foldl (fun s i => if c.queue i = IQueue.reset then s else clearQueue s h i) s
  let l := launch s c.who.launch
  let s := modHart s h fun c => { c with
    calls := c.calls.filter fun k => !callUnit l c.csr.skey q k.seqNo, scans := [], stopReq := false, askedBy := none, yielded := false }
  let s := match c.who.parent with
    | some p => modByKey s p (childExited c.csr.skey q)
    | none => s
  let s := modNode s c.who.launch c.who.node fun n =>
    { n with final := max n.final q, live := n.live - 1, st := if n.live ≤ 1 then .completing else n.st }
  match c.who.mate with
  | some m => failRounds (modLaunch s c.who.launch fun x => { x with exits := x.exits ++ [(c.who.node, m)] }) c.who.launch c.who.node
  | none => s

/-! ### The strands of KIND 1 and KIND 2 nodes (R295) -/

/-- Such a strand ends: its final quantum is the one after its start quantum. -/
def nodeEnds (s : State) (h : Nat) : State :=
  let c := hart s h
  let s := modNode s c.who.launch c.who.node fun n =>
    { n with final := max n.final c.csr.qnum.toNat, live := 0, st := .completing }
  setHart s h Ctx.reset

/-- A node fails (R290): its launch ends with an error status. -/
def nodeFails (s : State) (l n : Nat) : State := failNode s l n (.error n)

/-- The copy of a KIND 2 node has ended: a global destination is published, and the strand ends; a fault makes the node fail. -/
def nodeCopied (s : State) (h : Nat) (good : Bool) (k : Copy) (toComb : Bool) : State :=
  if !isNode h then s
  else
    let c := hart s h
    if !good then nodeFails s c.who.launch c.who.node
    else if toComb then nodeEnds s h
    else
      nodeEnds (modLaunch s c.who.launch fun x =>
        let u : WUnit := { key := c.csr.skey, q := c.csr.qnum.toNat, ord := x.nextOrd, kind := .publish [k] }
        { x with units := x.units ++ [u], nextOrd := x.nextOrd + 1 }) h

/-! ### Waits (R252, R301 to R304, R322, R327) -/

/-- The mask of barriers a wait-type instruction names. -/
def waitMask : Instr → Nat
  | .waitb k => 2 ^ k.toNat
  | .waitany _ m => m.toNat
  | _ => 0

/-- Barriers of a mask. -/
def maskBits (m : Nat) : List Nat := (List.range 8).filter fun k => m.testBit k

/-- Waiters on the barriers of a core before context `x`, in their issue order (R251). -/
def waitersBefore (k : Core) (x : Nat) : List (Nat × Nat) := k.waiters.takeWhile fun w => w.1 != x

/-- Is barrier `b` ready for the context, each earlier waiter of it taking one round? -/
def readyFor (k : Core) (x b : Nat) : Bool :=
  let y := tget Barrier.reset k.barriers b
  let before := ((waitersBefore k x).filter fun w => w.2.testBit b).length
  y.target != 0 && y.target * (before + 1) ≤ y.count

/-- The barrier a wait takes: the first ready one at or after CWPOS (R252). -/
def chosenBarrier (k : Core) (c : Ctx) (x m : Nat) : Option Nat :=
  ((List.range 8).map fun i => (c.csr.cwpos.toNat + i) % 8).find? fun b => m.testBit b && readyFor k x b

/-- Instructions that end their quantum before they wait (R322). -/
def isWait : Instr → Bool
  | .waitb _ | .waitany .. | .join | .gbar _ | .cbar => true
  | _ => false

/-- The bundle's wait-type instruction passes its decode checks for the first time: the quantum ends, the strand joins the waiters
or the round (R276, R303, R304, R322, R327). Other contexts than strands have no quanta and only join the waiters. -/
def arriveWait (s : State) (i : Instr) : State :=
  let h := s.cur
  let c := me s
  let l := c.who.launch
  let q := c.csr.qnum.toNat
  let wait (s : State) : State :=
    modCore s (coreOf h) fun k =>
      if k.waiters.any fun w => w.1 == ctxNo h then k else { k with waiters := k.waiters ++ [(ctxNo h, waitMask i)] }
  if !isStrand h then
    match i with
    | .waitb _ | .waitany .. => wait s
    | _ => s
  else
    match c.wait, i with
    | .none, .waitb _ | .none, .waitany .. => wait (setMe s { endQuantum c with wait := .barrier })
    | .none, .join => setMe s (releaseJoin { c with wait := .join q })
    | .none, .gbar g =>
      let k := groupKey h g.toNat
      if (group s l k).members.contains c.csr.skey then arriveGroup (setMe s { c with wait := .gbar q }) l k c.csr.skey q
      else setMe s { endQuantum c with wait := .barrier }
    | .none, .cbar =>
      match c.who.mate with
      | none => setMe s { endQuantum c with wait := .barrier }
      | some m =>
        if fenceClear s h then
          arriveCbar (setMe s { c with wait := .cbar q (c.rounds + 1) }) l c.who.node m (c.rounds + 1) q
        else setMe s { c with wait := .cbar q 0 }
    | .barrier, .waitb _ | .barrier, .waitany .. => wait s
    | .cbar e 0, .cbar =>
      match c.who.mate with
      | some m =>
        if fenceClear s h then
          arriveCbar (setMe s { c with wait := .cbar e (c.rounds + 1) }) l c.who.node m (c.rounds + 1) e
        else s
      | none => s
    | _, _ => s

/-- Does an arrived wait still block (R301, R303, R304)? -/
def waiting (c : Ctx) : Bool := match c.wait with
  | .join _ | .gbar _ | .cbar .. => true
  | _ => false

end Sys2Proof.Machine
end

