-- ==== Sys2Proof/Machine/Function.lean ====
section
/-!
DEFINITION. Functions as Chebyshev series: evaluation, arithmetic, calculus, roots, images and the coefficient bank (R170 to R194).
The results are those of exact arithmetic rounded where the rules say so; flags are gathered beside them.
-/
namespace Sys2Proof.Machine

/-- An fp32 result with the flags gathered so far. -/
abbrev FR := BitVec 32 × BitVec 6

/-- rne of an exact value that arose from operands, with NV for a NaN made from none (R113, R174). -/
def rneOf (x : XR) (ops : List XR) : FR :=
  let (c, g) := rne32 x
  (c, g ||| invalid x ops)

/-- Results with their flags ORed. -/
def gather (l : List FR) : List (BitVec 32) × BitVec 6 := (l.map (·.1), orAll (l.map (·.2)))

def half (x : XR) : XR := x.scale (-1)
def xsub (x y : XR) : XR := XR.add false x y.neg

/-! ### Domains (R170, R176) -/

/-- A domain in a scalar (R176): a in [31:0], b in [63:32]. -/
def domOf (w : Word) : BitVec 32 × BitVec 32 := (w.extractLsb' 0 32, w.extractLsb' 32 32)

/-! ### Evaluation (R178) -/

/-- Coefficient `k`, 0 where it is missing. -/
def coef (cs : List (BitVec 32)) (k : Nat) : XR := f32 (nth 0 cs k)

/-- The recursion from k down to 1: β(k), β(k+1), flags. -/
def clenshaw (cs : List (BitVec 32)) (t : XR) : Nat → XR → XR → BitVec 6 → XR × XR × BitVec 6
  | 0, b1, b2, g => (b1, b2, g)
  | k + 1, b1, b2, g =>
    let c := coef cs (k + 1)
    let p := XR.mul (t.scale 1) b1
    let x := xsum [p, b2.neg, c]
    let (r, g') := rneOf x [t, b1, b2, c]
    clenshaw cs t k (f32 r) b1 (g ||| g')

/-- The exact sum of a list; an exact zero sum is -0 where `rdn` holds (R101). -/
def xsumIn (rdn : Bool) : List XR → XR
  | [] => .fin false 0 0
  | x :: xs => xs.foldl (XR.add rdn) x

/-- y at a mapped t: exact, with the flags of the steps and the operands of the last one; `rdn` where y is rounded down. -/
def evalAt (rdn : Bool) (cs : List (BitVec 32)) (t : XR) : XR × BitVec 6 :=
  match cs with
  | [] => (.fin false 0 0, 0)
  | c0 :: rest =>
    let (b1, b2, g) := clenshaw cs t rest.length (.fin false 0 0) (.fin false 0 0) 0
    let y := xsumIn rdn [f32 c0, XR.mul t b1, b2.neg]
    (y, g ||| invalid y [f32 c0, t, b1, b2])

/-- t := rne((2x - a - b) / (b - a)). -/
def mapPoint (f : ChebFn) (x : XR) : FR :=
  let a := f32 f.lo
  let b := f32 f.hi
  rneOf (XR.div (xsum [x.scale 1, a.neg, b.neg]) (xsub b a)) [x, a, b]

/-- y at an fp32 value x, exact (R178); a function of length 0 maps no point and raises no flag (DEDUCED, notes/assumptions/71.md). -/
def evalFn (rdn : Bool) (f : ChebFn) (x : XR) : XR × BitVec 6 :=
  if f.coeffs.isEmpty then (.fin false 0 0, 0)
  else
    let (t, g) := mapPoint f x
    let (y, g') := evalAt rdn f.coeffs (f32 t)
    (y, g ||| g')

/-- y rounded RNE. -/
def evalRne (f : ChebFn) (x : XR) : FR :=
  let (y, g) := evalFn false f x
  let (c, g') := rne32 y
  (c, g ||| g')

/-! ### Truncation (R175) -/

/-- A tolerance: NaN and negative values count as 0. -/
def tolOf (t : BitVec 32) : XR :=
  let x := f32 t
  if x.isNaN || x.sign then .fin false 0 0 else x

def dropSmall (lim : XR) : List (BitVec 32) → List (BitVec 32)
  | [] => []
  | c :: cs =>
    let x := f32 c
    if !x.isNaN && !x.isInf && x.abs.le lim then dropSmall lim cs else c :: cs

/-- The truncation rule, without the cap. -/
def truncTol (tol : XR) (ds : List (BitVec 32)) : List (BitVec 32) :=
  let m := maxAbs ((ds.map f32).filter fun x => !x.isNaN)
  let lim := if tol.isZero || m.isZero then .fin false 0 0 else XR.mul tol m
  (dropSmall lim ds.reverse).reverse

/-- The truncation rule with its cap of `cap` coefficients, which sets FT. -/
def truncCap (cap : Nat) (tol : XR) (ds : List (BitVec 32)) : List (BitVec 32) × BitVec 6 :=
  let k := truncTol tol ds
  (k.take cap, flagIf (cap < k.length) fFT)

/-! ### Arithmetic (R180 to R188) -/

/-- C_N(k, j) of R180 with the flags of its rounding. -/
def chebPoint (n k j : Nat) : FR := rne32 (cosPi (k * (2 * j + 1)) (2 * n))

/-- The coefficients of a fit to samples (R180), before truncation. -/
def fit (fs : List (BitVec 32)) : List FR :=
  let n := fs.length
  (List.range n).map fun k =>
    let cs := (List.range n).map fun j => chebPoint n k j
    let ts := (fs.zip cs).map fun p => XR.mul (f32 p.1) (f32 p.2.1)
    let w : XR := XR.ofInt (if k = 0 then 1 else 2)
    let (c, g) := rneOf (XR.div (XR.mul w (xsum ts)) (XR.ofInt n)) (fs.map f32)
    (c, g ||| orAll (cs.map (·.2)))

/-- A finished result: truncated, on a domain. -/
def finish (lo hi : BitVec 32) (tol : XR) (ds : List FR) : ChebFn × BitVec 6 :=
  let (cs, g) := gather ds
  let (k, ft) := truncCap 64 tol cs
  ({ lo := lo, hi := hi, coeffs := k }, g ||| ft)

def addFn (minus : Bool) (tol : XR) (a b : ChebFn) : ChebFn × BitVec 6 :=
  finish a.lo a.hi tol ((List.range (max a.coeffs.length b.coeffs.length)).map fun k =>
    let x := coef a.coeffs k
    let y := coef b.coeffs k
    rneOf (if minus then xsub x y else XR.add false x y) [x, y])

/-- The products of R183 that fall on index i. -/
def mulTerms (a b : List (BitVec 32)) (i : Nat) : List XR :=
  (List.range a.length).flatMap fun j => (List.range b.length).flatMap fun k =>
    let p := half (XR.mul (coef a j) (coef b k))
    (if j + k = i then [p] else []) ++ (if (max j k - min j k) = i then [p] else [])

/-- The coefficients that enter index i. -/
def mulOps (a b : List (BitVec 32)) (i : Nat) : List XR :=
  (List.range a.length).flatMap fun j => (List.range b.length).flatMap fun k =>
    if j + k = i ∨ max j k - min j k = i then [coef a j, coef b k] else []

def mulFn (tol : XR) (a b : ChebFn) : ChebFn × BitVec 6 :=
  if a.coeffs.isEmpty || b.coeffs.isEmpty then ({ a with coeffs := [] }, 0)
  else
    finish a.lo a.hi tol ((List.range (a.coeffs.length + b.coeffs.length - 1)).map fun i =>
      rneOf (xsum (mulTerms a.coeffs b.coeffs i)) (mulOps a.coeffs b.coeffs i))

def sclFn (addv : Bool) (v : BitVec 32) (a : ChebFn) : ChebFn × BitVec 6 :=
  if addv then
    let (c, g) := rneOf (XR.add false (coef a.coeffs 0) (f32 v)) [coef a.coeffs 0, f32 v]
    ({ a with coeffs := c :: a.coeffs.drop 1 }, g)
  else
    let (cs, g) := gather (a.coeffs.map fun c => rneOf (XR.mul (f32 v) (f32 c)) [f32 v, f32 c])
    ({ a with coeffs := cs }, g)

def halfWidth (a : ChebFn) : XR := half (xsub (f32 a.hi) (f32 a.lo))

def difFn (a : ChebFn) : ChebFn × BitVec 6 :=
  let n := a.coeffs.length
  let (cs, g) := gather ((List.range (n - 1)).map fun k =>
    let js := (List.range n).filter fun j => k < j && (j - k) % 2 == 1
    let ts := js.map fun (j : Nat) => XR.mul (XR.ofInt (2 * (j : Int))) (coef a.coeffs j)
    let d := if k = 0 then half (xsum ts) else xsum ts
    rneOf (XR.div d (halfWidth a)) (js.map fun j => coef a.coeffs j))
  ({ a with coeffs := cs }, g)

/-- The indefinite integral (R186). DESIGN CHOICE (notes/assumptions/69.md): an exact sum of +0 gives C_0 = -0 (0x80000000), and a
zero integral of a function of length 1 or more keeps C_0 alone, of length 1. -/
def intFn (tol : XR) (a : ChebFn) : ChebFn × BitVec 6 :=
  if a.coeffs.isEmpty then (a, 0)
  else
    let cs := (List.range a.coeffs.length).map fun i =>
      let k := i + 1
      let y := if k = 1 then half (coef a.coeffs 2) else coef a.coeffs (k + 1)
      let d := XR.mul (halfWidth a) (xsub (coef a.coeffs (k - 1)) y)
      rneOf (if k = 1 then d else XR.div d (XR.ofInt (2 * k))) (if k = 1 then [coef a.coeffs 0, coef a.coeffs 2] else [coef a.coeffs (k - 1), coef a.coeffs (k + 1)])
    let (ds, g) := gather cs
    let (kept, ft) := truncCap 63 tol ds
    let ts := (kept.zip (List.range kept.length)).map fun p => if p.2 % 2 = 0 then (f32 p.1).neg else f32 p.1
    let (c0, g0) := rneOf (xsum ts).neg (kept.map f32)
    ({ a with coeffs := c0 :: kept }, g ||| ft ||| g0)

/-- ρ of R181 lies within the outer domain? -/
def composeOk (a b : ChebFn) : Bool :=
  let c0 := coef b.coeffs 0
  let rho := xsum ((b.coeffs.drop 1).map fun c => (f32 c).abs)
  b.coeffs.all finite32 && (f32 a.lo).le (xsub c0 rho) && (XR.add false c0 rho).le (f32 a.hi)

/-- Clamp to [-1, 1]. -/
def clamp1 (u : XR) : XR :=
  let one : XR := .fin false 1 0
  if u.lt one.neg then one.neg else if one.lt u then one else u

def composeFn (tol : XR) (n : Nat) (a b : ChebFn) : ChebFn × BitVec 6 :=
  let vs := (List.range n).map fun j =>
    let (t, g0) := chebPoint n 1 j
    let (y, g1) := evalAt false b.coeffs (f32 t)
    let (gv, g2) := rne32 y
    let (u, g3) := mapPoint a (f32 gv)
    let (z, g4) := evalAt false a.coeffs (clamp1 (f32 u))
    let (v, g5) := rne32 z
    (v, g0 ||| g1 ||| g2 ||| g3 ||| g4 ||| g5)
  let (fs, g) := gather vs
  let (r, g') := finish b.lo b.hi tol (fit fs)
  (r, g ||| g')

/-- One bracket of CHROOT (R187): bisect `n` more times. -/
def bisect (f : ChebFn) : Nat → BitVec 32 → BitVec 32 → BitVec 6 → FR
  | 0, lo, hi, g =>
    let (m, g') := rneOf (half (XR.add false (f32 lo) (f32 hi))) []
    (m, g ||| g')
  | n + 1, lo, hi, g =>
    let (m, g1) := rneOf (half (XR.add false (f32 lo) (f32 hi))) []
    let (w, g2) := evalRne f (f32 m)
    let (v, g3) := evalRne f (f32 lo)
    let g := g ||| g1 ||| g2 ||| g3
    if (f32 w).isZero then (m, g)
    else if (f32 w).sign == (f32 v).sign then bisect f n m hi g
    else bisect f n lo m g

/-- The roots of a function of length 1 or more, ascending (R187). -/
def rootsOf (f : ChebFn) : List (BitVec 32) × BitVec 6 :=
  let n := 4 * f.coeffs.length + 1
  let a := f32 f.lo
  let w := xsub (f32 f.hi) a
  let xs := (List.range n).map fun (j : Nat) => rneOf (XR.add false a (XR.div (XR.mul w (XR.ofInt j)) (XR.ofInt (n - 1 : Nat)))) []
  let vs := xs.map fun x => evalRne f (f32 x.1)
  let ps := (xs.map (·.1)).zip (vs.map (·.1))
  let exact := (ps.filter fun p => (f32 p.2).isZero).map (·.1)
  let opp (u v : XR) : Bool := !u.isZero && !v.isZero && !u.isNaN && !v.isNaN && u.sign != v.sign
  let br := ((ps.zip (ps.drop 1)).filter fun q => opp (f32 q.1.2) (f32 q.2.2)).map fun q => bisect f 24 q.1.1 q.2.1 0
  let all := exact ++ br.map (·.1)
  (sortBy (fun x y => (f32 x).lt (f32 y)) all, orAll (xs.map (·.2) ++ vs.map (·.2) ++ br.map (·.2)))

/-- The points of R180, each rounded once (R189). -/
def chebPts (f : ChebFn) (n : Nat) : List FR :=
  (List.range n).map fun j =>
    rne32 (XR.add false (half (XR.add false (f32 f.lo) (f32 f.hi))) (XR.mul (halfWidth f) (cosPi (2 * j + 1) (2 * n))))

/-! ### Images (R190, R192, R193) -/

/-- The image of a function in the comb: header, coefficients. -/
def imageOf (f : ChebFn) : List Byte :=
  natBytes f.lo.toNat 4 ++ natBytes f.hi.toNat 4 ++ natBytes f.coeffs.length 8 ++ f.coeffs.flatMap fun c => natBytes c.toNat 4

/-- The image with zero bytes up to the granule boundary (R193). -/
def paddedImage (f : ChebFn) : List Byte :=
  let b := imageOf f
  b ++ List.replicate ((16 - b.length % 16) % 16) 0

/-- The tile layout of `chmov.to` (R190). -/
def tileOfFn (f : ChebFn) : Tile :=
  tileOf 32 ([f.lo.toNat, f.hi.toNat, f.coeffs.length] ++ List.replicate 61 0 ++ f.coeffs.map BitVec.toNat)

/-- The function that `chmov.from` reads; its length as the tile gives it. -/
def fnOfTile (v : Tile) : ChebFn × Nat :=
  let n := bitsOf v 64 32
  ({ lo := BitVec.ofNat 32 (bitsOf v 0 32), hi := BitVec.ofNat 32 (bitsOf v 32 32)
     coeffs := (List.range (min n 64)).map fun k => BitVec.ofNat 32 (bitsOf v (2048 + 32 * k) 32) }, n)

/-! ### The bank (R172) and the traps 0x0A and 0x0B -/

/-- Slots that the function registers other than `fd` occupy. -/
def bankUsed (c : Ctx) (fd : Nat) : Nat :=
  ((List.range 16).filter (· != fd)).foldl (fun n r => n + (c.freg r).fn.coeffs.length) 0

/-- The result bound L of an instruction that writes a function register (R177). -/
def resultBound (c : Ctx) (i : Instr) : Nat :=
  let n (f : FReg) := (c.freg f.toNat).fn.coeffs.length
  match i with
  | .chfit _ _ _ k => k.toNat
  | .chadd _ a b | .chsub _ a b => max (n a) (n b)
  | .chmul _ a b => if n a = 0 ∨ n b = 0 then 0 else min 64 (n a + n b - 1)
  | .chscl addv _ a _ => if addv then max (n a) 1 else n a
  | .chcmp _ _ _ k => if k = 0 then 64 else k.toNat
  | .chint _ a => if n a = 0 then 0 else min 64 (n a + 1)
  | .chdif _ a => n a - 1
  | .chtrn _ a _ k => min k.toNat (n a)
  | .chdom (.set _ a _) => n a
  | .chmov (.move _ a) => n a
  | .chmov (.ofTile _ ta) => (fnOfTile (c.src (latchPos .vb 0) ta)).2
  | _ => 0

/-- The function register a VB instruction writes. -/
def fnDst (i : Instr) : Option FReg :=
  match i with
  | .chfit d .. | .chadd d .. | .chsub d .. | .chmul d .. | .chscl _ d .. | .chcmp d .. | .chint d _ | .chdif d _
  | .chtrn d .. | .chdom (.set d ..) | .chmov (.move d _) | .chmov (.ofTile d _) | .chfree d => some d
  | _ => none

/-- TINFO of trap 0x0A (R176). -/
def fnInfo (reg reason : Nat) : Word := BitVec.ofNat 64 (reason * 16 + reg)

/-- Trap 0x0A of an instruction (R176, R181, R189, R190); of a tile's length and domain the length is reported first (DESIGN CHOICE,
notes/assumptions/70.md). -/
def domTrap (c : Ctx) (i : Instr) : Option (Nat × Word) :=
  let fn (f : FReg) := (c.freg f.toNat).fn
  let given (w : Word) := if domOk (domOf w).1 (domOf w).2 then none else some (0x0A, fnInfo 0 2)
  match i with
  | .chadd _ a b | .chsub _ a b | .chmul _ a b =>
    if (fn a).lo = (fn b).lo ∧ (fn a).hi = (fn b).hi then none else some (0x0A, fnInfo b.toNat 0)
  | .chcmp _ a b _ => if composeOk (fn a) (fn b) then none else some (0x0A, fnInfo b.toNat 1)
  | .chfit _ _ sc _ => given (c.s sc)
  | .chdom (.set _ _ sb) => given (c.s sb)
  | .chmov (.ofTile fd ta) =>
    let (f, n) := fnOfTile (c.src (latchPos .vb 0) ta)
    if 64 < n then some (0x0A, fnInfo fd.toNat 3) else if domOk f.lo f.hi then none else some (0x0A, fnInfo fd.toNat 2)
  | _ => none

/-- Trap 0x0B (R172). -/
def bankTrap (c : Ctx) (i : Instr) : Option (Nat × Word) :=
  match fnDst i with
  | none => none
  | some fd =>
    let l := resultBound c i
    let used := bankUsed c fd.toNat
    if 512 < used + l then some (0x0B, BitVec.ofNat 64 (used * 2 ^ 16 + l)) else none

/-- R173: has the context a function-register write outstanding? -/
def fnWritePending (c : Ctx) : Bool :=
  c.fops.any (fun o => o.freg.isSome) || c.loads.any fun l => match l.dst with
    | .freg _ => true
    | _ => false

end Sys2Proof.Machine
end

