-- ==== Sys2Proof/Machine/Checks.lean ====
section
/-!
DEFINITION. What stops one instruction at issue beside its registers: the decode checks that depend on the context (R26 to R36, R54,
R358), the engines that make its bundle block, and its precise traps (R93 to R95). Each check cites the rule that states it.
-/
namespace Sys2Proof.Machine

/-! ### Decode checks of one slot (R26 to R28, R33, R35, R54) -/

/-- The CSR an instruction names. -/
def csrNamed : Instr → Option Nat
  | .csrr _ n => some n.toNat
  | .csrw n _ => some n.toNat
  | _ => none

/-- Does a drone accept the instruction (R54, R356, R358)? -/
def droneAccepts (i : Instr) : Bool :=
  match i with
  | .nop _ => true
  | .gld .. | .gldQ .. | .gst .. | .gamo .. | .svc _ | .tret | .ixpop .. | .ixpeek .. => false
  | .csrr _ n | .csrw n _ => n == 0x05 || n == 0x06 || n == 0x10 || n == 0x11
  | .vpack .. | .vunpack .. | .vmerge .. | .vsort .. | .vtopk .. | .vbound .. => false
  | .ldt c w .. | .lds c w .. | .ldm c w .. => !c && !w
  | .stt f .. | .sts f .. | .stm f .. => !f
  | .lnseq .. | .lnwait .. | .dfence | .bmac .. | .rret .. => true
  | _ =>
    match slotOf i with
    | some .sc | some .va => true
    | _ => false

/-- Drone instructions raise trap 0x01 on a core (R52). -/
def droneOnly : Instr → Bool
  | .lnseq .. | .lnwait .. | .dfence | .bmac .. | .rret .. => true
  | _ => false

/-- A load with W = 1. -/
def waitsW : Instr → Bool
  | .ldt _ w .. | .ldrw _ w .. | .ldg _ w .. | .ldx _ w .. | .lds _ w .. | .ldf _ w .. | .ldm _ w .. => w
  | _ => false

/-- Is the instruction illegal here whatever its operands (R25, R52, R54, R221, R305, R361)? -/
def illegalHere (h : Nat) (m : Mode) (i : Instr) : Bool :=
  match i with
  | .ill _ => true
  | .yield => !m.sp || isDrone h
  | .mpload rtn _ => isDrone h || rtn.toNat < 64
  | _ => if isDrone h then !droneAccepts i else droneOnly i || (isGuest h && waitsW i)

/-- An invalid latch the instruction reads (R35): of several, the first of a, b, c (notes/assumptions/46.md: the spec names no order). -/
def badLatch (c : Ctx) (i : Instr) : Option Nat :=
  ((useOf i).tsrc.find? fun p => p.2 == .latch && (c.latch p.1).isNone).map (·.1)
def readsLatch (i : Instr) : Bool := (useOf i).tsrc.any fun p => p.2 == .latch

/-- Is the instruction privileged and the context not the supervisor (R26, R84, R97, R221, R297, R333)? -/
def privileged (h : Nat) (i : Instr) : Bool :=
  !isSup h && match i with
    | .tret | .mpload .. | .promote .. | .halt _ => true
    | _ => match csrNamed i with
      | some n => 0x40 ≤ n
      | none => false

/-- The decode faults of one slot: its lowest cause with its TINFO. `others` are the uses of the other slots (R29). Of several numbers out
of range a field check's comes first, then the destination's, then the sources' (notes/assumptions/46.md: the spec names no order). -/
def slotFault (h : Nat) (c : Ctx) (m : Mode) (d : Dec) (raw : Option Instr) (others : List Use) : Option (Nat × Word) :=
  match d, raw with
  | .illegal, _ => some (0x01, 0)
  | _, none => some (0x01, 0)
  | d, some i =>
    if illegalHere h m i then some (0x01, 0)
    else
      match badLatch c i with
      | some k => some (0x01, BitVec.ofNat 64 (256 + k))
      | none =>
        if (m.sp && readsLatch i) || others.any (clash (useOf i)) then some (0x01, 0)
        else if privileged h i then some (0x02, 0)
        else
          match d with
          | .range cls n => some (0x03, regInfo 0 cls n)
          | _ => (outOfRange h i).map fun r => (0x03, regInfo 0 r.1 r.2)

/-! ### Trap 0x08 (R88) -/

/-- TINFO of trap 0x08. -/
def kindInfo (kind : Nat) (v : Word) : Word := BitVec.ofNat 64 (kind * 2 ^ 56) ||| low 56 v
def misuse : Option (Nat × Word) := some (0x08, kindInfo 0x06 0)

/-- Of two faults of one slot the one with the lower cause (R95), the first where the causes are equal. -/
def lowerTrap : Option (Nat × Word) → Option (Nat × Word) → Option (Nat × Word)
  | some a, some b => if b.1 < a.1 then some b else some a
  | some a, none => some a
  | none, b => b
/-- The fault of a slot that has several (R95). -/
def lowestTrap (l : List (Option (Nat × Word))) : Option (Nat × Word) := l.foldl lowerTrap none

/-! ### Global scalar memory (R131) -/

/-- A = s(base) + sext(disp). -/
def globalAddr (c : Ctx) (base : SReg) (disp : BitVec 32) : Word := plusDisp (c.s base) disp

/-- The checks of GLD, GST and GAMO in their order (R131, R387). A guest meets a compressed page as a drone does (R93). -/
def globalTrap (s : State) (h : Nat) (store : Bool) (a : Word) (size : Nat) : Option (Nat × Word) :=
  let v := low 56 a
  if a.toNat / 2 ^ 56 ≠ 0 then some (0x07, v)
  else if a.toNat % 2 ^ size ≠ 0 then some (0x06, v)
  else
    match findPage s.pages a.toNat with
    | none => some (0x07, v)
    | some (_, p) =>
      if s.remotePage p then some (0x08, v)
      else if isGuest h && p.rep == 1 then some (0x0D, v)
      else if store && (!p.wr || p.rep == 1) then some (0x08, v)
      else if !store && !p.rd then some (0x08, v)
      else none

/-- A call that may not write global memory (R362). -/
def readOnlyCall (s : State) (h : Nat) : Bool := match (hart s h).run with
  | some r => !r.msg.ordered
  | none => false

/-! ### Near addresses of a drone (R357) -/

def isCell (a : Word) : Bool := a.toNat / 2 ^ 56 == 2
def cellOff (a : Word) : Nat := a.toNat % 2 ^ 18

/-- The checks of one near byte in global form, in R357's order: page, representation, right, channel. -/
def nearByte (s : State) (h : Nat) (store : Bool) (a : Nat) : Option (Nat × Word) :=
  let v := BitVec.ofNat 64 a
  match findPage s.pages a with
  | none => some (0x07, v)
  | some (b, p) =>
    if p.rep = 1 then some (0x0D, v)
    else if store && (!p.wr || readOnlyCall s h) then some (0x08, v)
    else if s.remotePage p then some (0x08, v)
    else if droneAt p (physOf b p a) ≠ some (droneOf h) then some (0x09, low 25 v)
    else none

/-- The checks of a near transfer of `len` bytes: a byte fails the first check of R357 it fails, and the transfer has the lowest cause
of its bytes and of its alignment (R95; DEDUCED, notes/assumptions/45.md). -/
def nearTrap (s : State) (h : Nat) (store : Bool) (a : Word) (len align : Nat) : Option (Nat × Word) :=
  let k := a.toNat / 2 ^ 56
  let skew : Option (Nat × Word) := if a.toNat % align ≠ 0 then some (0x09, low 25 a) else none
  if k = 2 then
    if a.toNat % 2 ^ 56 / 2 ^ 18 ≠ 0 ∨ 2 ^ 18 < cellOff a + len then some (0x09, low 25 a) else skew
  else if k = 0 then
    let probes := (List.range ((len + 15) / 16)).map (fun i => a.toNat + 16 * i) ++ [a.toNat + len - 1]
    lowestTrap (probes.map (nearByte s h store) ++ [skew])
  else some (0x09, low 25 a)

/-- The trap of a list of transfers. -/
def nearTraps (s : State) (h : Nat) (store : Bool) (as : List Word) (len align : Nat) : Option (Nat × Word) :=
  lowestTrap (as.map fun a => nearTrap s h store a len align)

/-! ### Transfers of the LD and ST slots on either target -/

def rowsCheck (s : State) (h : Nat) (store : Bool) (a p : Word) (rows : Nat) : Option (Nat × Word) :=
  if isDrone h then
    lowestTrap [nearTraps s h store (rowAddrs a p rows) 256 16, if p.toNat % 16 ≠ 0 then some (0x09, low 25 a) else none]
  else rowsTrap s h a p rows
def bytesCheck (s : State) (h : Nat) (store : Bool) (a : Word) (len align : Nat) : Option (Nat × Word) :=
  if isDrone h then nearTrap s h store a len align else windowTrap s h [a] len align

/-! ### Templates and code tables (R235 to R239) -/

/-- Bytes [k, k + n) of a 64-byte record. -/
def rec64 (t : Line) (k n : Nat) : Nat := bitsOf t (8 * k) (8 * n)

def tpXform (t : Line) : Nat := rec64 t 0 1 % 8
def tpScl (t : Line) : Bool := t.getLsbD 3
def tpAdd (t : Line) : Bool := t.getLsbD 4
def tpDec (t : Line) : Bool := t.getLsbD 5
def tpCt (t : Line) : Bool := t.getLsbD 6
def tpSfmt (t : Line) : Nat := rec64 t 1 1 % 16
def tpDfmt (t : Line) : Nat := rec64 t 1 1 / 16
def tpRnd (t : Line) : Nat := rec64 t 2 1 % 8
def tpSat (t : Line) : Bool := t.getLsbD 19
def tpFtz (t : Line) : Bool := t.getLsbD 20
def tpSrcSp (t : Line) : Bool := t.getLsbD 21
def tpDstSp (t : Line) : Bool := t.getLsbD 22
def tpCtab (t : Line) : Nat := rec64 t 3 1 % 4
def tpExp (t : Line) : Nat := rec64 t 4 2
def tpRows (t : Line) : Nat := rec64 t 8 2
def tpRlen (t : Line) : Nat := rec64 t 10 2
def tpStride (t : Line) (k : Nat) : Word := sextWord 32 (rec64 t k 4)
def tpSlen (t : Line) : Nat := rec64 t 24 4
def tpDlen (t : Line) : Nat := rec64 t 28 4

/-- The element type of a code 0 to 11. -/
def typeOf (k : Nat) : EType := (EType.ofCode (BitVec.ofNat 4 k)).getD .uint8
/-- Source and destination element widths in bytes (R236). -/
def tpSw (t : Line) : Nat := if tpXform t = 0 then 1 else (typeOf (tpSfmt t)).bits / 8
def tpDw (t : Line) : Nat := if tpXform t = 0 then 1 else (typeOf (tpDfmt t)).bits / 8

/-- Is a template record valid (R236)? -/
def templateOk (t : Line) : Bool :=
  tpXform t ≤ 2 && 1 ≤ tpRlen t && tpRnd t ≤ 4 &&
  !t.getLsbD 7 && !t.getLsbD 23 && rec64 t 3 1 < 4 && rec64 t 6 2 == 0 && rec64 t 12 4 == 0 && rec64 t 40 24 == 0 &&
  (if tpXform t = 0 then tpSfmt t == 0 && tpDfmt t == 0 && !tpScl t && !tpAdd t && !tpCt t
   else tpSfmt t ≤ 11 && tpDfmt t ≤ 11) &&
  (!tpCt t || (tpSfmt t == 11 && (tpDfmt t == 1 || tpDfmt t == 2 || tpDfmt t == 9))) &&
  (if tpDec t then
     tpRows t == 0 && tpRlen t == 1 && rec64 t 16 4 == 0 && rec64 t 20 4 == 0 && 1 ≤ tpExp t && tpExp t ≤ 4096 &&
       16 ≤ tpSlen t && tpSlen t % 16 == 0 && (tpSlen t * tpExp t * tpDw t + tpSw t - 1) / tpSw t ≤ tpDlen t
   else tpExp t == 0 && tpSlen t == 0 && tpDlen t == 0)

def templateAt (s : State) (c n : Nat) : Line := tget 0 (core s c).templates n

def Copy.pending (k : Copy) : Bool := k.phase == .queued || k.phase == .running

/-- Does an outstanding copy of the core use code table `k` (R237)? The copy of a KIND 2 node that runs on the core is one of them
(R295). -/
def tableBusy (s : State) (c k : Nat) : Bool :=
  s.harts.any fun x => !isDrone x.1 && coreOf x.1 == c && x.2.channels.any fun e =>
    e.2.copies.any fun y => y.pending && tpCt y.tp && tpCtab y.tp == k

/-! ### Batches (R233, R234, R247) -/

/-- Closed batches complete in order, once all their copies are complete. -/
def settleBatches (c : Channel) : Channel :=
  { c with closed := c.closed.dropWhile fun b => c.copies.all fun k => k.batch != b || !k.pending }
/-- The open batch closes if it holds a copy. -/
def closeBatch (c : Channel) : Channel :=
  if c.opened then settleBatches { c with opened := false, closed := c.closed ++ [c.batch], batch := c.batch + 1 } else c
/-- TINFO for an observed copy fault (R88, R247). -/
def faultInfo (f : CFault) : Word := if f.cause = 0x09 then BitVec.ofNat 64 (f.addr % 2 ^ 25) else BitVec.ofNat 64 (f.addr % 2 ^ 56)
/-- The fault a CWAIT observes: the record is set and a completed batch had a fault (R247). -/
def cwaitTrap (c : Channel) : Option (Nat × Word) :=
  let d := closeBatch c
  match d.fault with
  | some f => if d.faultBatches.any fun b => !d.closed.contains b && b < d.batch then some (f.cause.toNat, faultInfo f) else none
  | none => none

/-! ### Digest commands (R347) -/

/-- The kind a predicate reads (R349). -/
def predKind : DPred → Nat
  | .overlap | .ub => 1
  | .znz => 3
  | .sumgt => 2
  | .ham => 4

def regionAt (s : State) (a : Nat) : Option (Nat × Region) :=
  s.regions.find? fun e => e.2.base ≤ a && a < e.2.base + e.2.len

def Region.block (r : Region) : Nat := match r.bsz with
  | 0 => 512
  | 1 => 4096
  | _ => 65536
def Region.rowBytes (r : Region) : Nat := r.rowLen * (typeOf r.efmt).bits / 8
def Region.keeps (r : Region) (k : Nat) : Bool := r.k1 == k || r.k2 == k
def Region.ng (r : Region) : Nat := (r.rowLen + r.g - 1) / r.g

/-- The checks of DQRY, DSCAN and DREFR in their order (R347): `kind` none for DREFR, `unit` the bytes of a unit. -/
def digestTrap (s : State) (a cnt : Word) (kind : Option Nat) (unitRow : Bool) (maxCount : Nat) (noInt : Bool) :
    Option (Nat × Word) :=
  let v := kindInfo 0 a
  if a.toNat / 2 ^ 56 ≠ 0 then some (0x07, v)
  else
    match findPage s.pages a.toNat with
    | none => some (0x07, v)
    | some (_, p) =>
      if s.remotePage p then some (0x08, v)
      else
        match regionAt s a.toNat with
        | none => some (0x08, v)
        | some (_, r) =>
          let u := if unitRow then r.rowBytes else r.block
          let keeps := match kind with
            | some k => r.keeps k
            | none => true
          if !keeps then some (0x08, v)
          else if (a.toNat - r.base) % u ≠ 0 ∨ cnt = 0 ∨ maxCount < cnt.toNat ∨ r.base + r.len < a.toNat + u * cnt.toNat then
            some (0x08, v)
          else if noInt && 5 ≤ r.efmt then some (0x08, v)
          else none

/-! ### Remote calls (R359, R360) -/

/-- The target context of a call (R360). -/
def callTarget (s : State) (a : Word) : Option Nat :=
  if a.toNat / 2 ^ 56 = 0 then
    match findPage s.pages a.toNat with
    | some (b, p) => (droneAt p (physOf b p a.toNat)).map (Config.droneBase + ·)
    | none => none
  else some (6 * (48 * wbits a 28 2 + wbits a 22 6) + 5)

def targetTrap (s : State) (h : Nat) (a : Word) : Option (Nat × Word) :=
  match a.toNat / 2 ^ 56 with
  | 0 =>
    match findPage s.pages a.toNat with
    | none => some (0x07, low 56 a)
    | some (_, p) => if s.remotePage p then some (0x08, kindInfo 0 a) else none
  | 1 =>
    if wbits a 30 26 ≠ 0 ∨ 47 < wbits a 22 6 ∨ wbits a 28 2 = dieOf h then some (0x08, kindInfo 0x09 a) else none
  | _ => some (0x07, low 56 a)

/-- The latest call of a strand with a sequence number. -/
def lastCall (c : Ctx) (q : Nat) : Option DoneCall := c.done.reverse.find? fun d => wbits d.status 0 16 == q

/-- STATE of a status word (R366). -/
def statusState (w : Word) : Nat := wbits w 56 8
def statusSeq (w : Word) : Nat := wbits w 0 16

def rcallTrap (s : State) (h : Nat) (re : Bool) (sa sd : SReg) : Option (Nat × Word) :=
  let c := hart s h
  if !isStrand h then lowerTrap misuse (targetTrap s h (c.s sa))
  else
    match targetTrap s h (c.s sa) with
    | some t => some t
    | none =>
      let q := statusSeq (c.s sd)
      if re && !((lastCall c q).any fun d => statusState d.status == 3 && !d.reissued) then
        some (0x08, kindInfo 0x08 (BitVec.ofNat 64 q))
      else none

/-- The 16 most recently completed calls hold the number? (R370) -/
def doneCall (c : Ctx) (q : Nat) : Option DoneCall := (c.done.drop (c.done.length - 16)).reverse.find? fun d => statusSeq d.status == q

/-! ### Promotion (R333) -/

def promoteTrap (s : State) (sa sb : Word) : Option (Nat × Word) :=
  let v := kindInfo 0 sa
  if sa.toNat / 2 ^ 56 ≠ 0 then some (0x07, v)
  else
    match findPage s.pages sa.toNat with
    | none => some (0x07, v)
    | some (_, p) =>
      if s.remotePage p || p.rep != 0 || p.frame * 2 ^ 16 < 2 ^ 41 then some (0x08, v)
      else if 2 ^ 39 ≤ sb.toNat || 0xF00000000 ≤ sb.toNat % 2 ^ 36 || sb.toNat % p.size != 0 then some (0x08, kindInfo 0 sb)
      else none

/-- Has the page at an address a promotion outstanding (R333)? -/
def promoting (s : State) (a : Nat) : Bool := match findPage s.pages a with
  | some (b, _) => s.promos.any fun p => p.page == b
  | none => false

/-! ### The sequencer and BMAC (R372, R377) -/

def levelOf (m : List Host.Cell) (a : Nat) : Level :=
  { count := mnum m a 2, vlen := mnum m (a + 2) 2, pad := mnum m (a + 4) 1 % 4
    xstr := (sextWord 32 (mnum m (a + 8) 4)).toInt, ystr := (sextWord 32 (mnum m (a + 12) 4)).toInt
    ostr := (sextWord 32 (mnum m (a + 16) 4)).toInt }

/-- Is a level record valid, active or not (R372)? -/
def levelOk (m : List Host.Cell) (a : Nat) (active dot : Bool) : Bool :=
  let l := levelOf m a
  if active then
    mnum m (a + 4) 1 < 4 && mnum m (a + 5) 3 == 0 && mnum m (a + 20) 4 == 0 && 1 ≤ l.count &&
      (if l.pad = 0 then l.vlen == 0 else 1 ≤ l.vlen && l.vlen ≤ l.count) &&
      l.xstr % 64 == 0 && l.ystr % 64 == 0 && (if dot then l.ostr % 4 == 0 else l.ostr % 64 == 0)
  else mnum m a 24 == 0

/-- Is a loop-nest descriptor valid (R372)? -/
def descOk (m : List Host.Cell) (a : Nat) : Bool :=
  let body := mnum m (a + 28) 1
  let n := mnum m (a + 29) 1
  body < 4 && 1 ≤ n && n ≤ 5 && mnum m (a + 30) 1 == 0 && mnum m (a + 31) 1 ≤ 32 && mnum m (a + 152) 8 == 0 &&
    mnum m a 8 % 64 == 0 && mnum m (a + 8) 8 % 64 == 0 && mnum m (a + 16) 8 % 64 == 0 &&
    (body != 3 || mnum m (a + 8) 8 == 0) &&
    (List.range 5).all fun l => levelOk m (a + 32 + 24 * l) (l < n) (body == 2)

def lnseqTrap (s : State) (h : Nat) (a : Word) : Option (Nat × Word) :=
  let m := (drone s (droneOf h)).cells
  let place : Option (Nat × Word) := if !isCell a then some (0x09, low 25 a) else nearTrap s h false a 160 16
  let desc : Option (Nat × Word) := if place.isNone && !descOk m (cellOff a) then some (0x01, 0) else none
  let writes : Option (Nat × Word) := if readOnlyCall s h then some (0x08, kindInfo 0 0) else none
  lowestTrap [desc, writes, place]

/-- The faults of a BMAC (R377), the lowest cause of all (R95). -/
def bmacTrap (s : State) (h : Nat) (mat out v : Word) (n : Nat) : Option (Nat × Word) :=
  let span := 64 * ((n + 255) / 256)
  lowestTrap
    [if readOnlyCall s h then some (0x08, kindInfo 0 0) else none,
     if !isCell v then some (0x09, low 25 v) else nearTrap s h false v 1024 16,
     if mat.toNat % 2 ^ 14 ≠ 0 then some (0x09, low 25 mat) else none,
     nearTraps s h false (rowAddrs mat 1024 n) 1024 16,
     nearTrap s h true out (16 * span) 64]

/-! ### Barriers, groups, forks, rounds -/

/-- The key under which a context holds barriers: a handler acts for the strand TSRC names. -/
def barrierKey (s : State) (h : Nat) : Word :=
  (hart s (if isSup h then 6 * coreOf h + (core s (coreOf h)).tsrc.toNat % 8 else h)).csr.skey

/-- Does a context or a saved strand with this key exist? -/
def liveKey (s : State) (key : Word) : Bool :=
  (s.harts.any fun e => e.2.life != .idle && e.2.csr.skey == key) ||
  s.dies.any fun e => e.2.pool.any fun p => match p.kind with
    | .saved v => v.ctx.csr.skey == key
    | _ => false

/-- BSET of a barrier that another live context holds (R251). -/
def bsetTrap (s : State) (h k : Nat) : Option (Nat × Word) :=
  match (barrier s (coreOf h) k).holder with
  | some key => if key = barrierKey s h || !liveKey s key then none else some (0x08, kindInfo 0x05 (BitVec.ofNat 64 k))
  | none => none

/-- The member a BINC names: the own core for s0 (R251). -/
def bincMember (c : Ctx) (h : Nat) (sb : SReg) : Nat := if sb = 0 then memberOf (coreOf h) else wbits (c.s sb) 0 3

def forkTrap (c : Ctx) : Option (Nat × Word) :=
  if c.who.depth = 5 then some (0x08, kindInfo 0x01 0x01)
  else if c.who.forks = 15 then some (0x08, kindInfo 0x01 0x02)
  else none

def groupFull (s : State) (h g : Nat) (key : Word) : Option (Nat × Word) :=
  let y := group s (hart s h).who.launch (groupKey h g)
  if 4096 ≤ y.members.length && !y.members.contains key then some (0x08, kindInfo 0x04 (BitVec.ofNat 64 g)) else none

def barrierWaitTrap (s : State) (h m : Nat) : Option (Nat × Word) :=
  if (maskBits m).all fun k => (barrier s (coreOf h) k).target == 0 then some (0x08, kindInfo 0x02 (BitVec.ofNat 64 m)) else none

/-- CBAR outside a cluster round, or at a round that can no longer close (R275, R276). -/
def cbarTrap (s : State) (h : Nat) : Option (Nat × Word) :=
  let c := hart s h
  if !isStrand h || c.who.cluster.isNone || c.who.mate.isNone then some (0x08, kindInfo 0x03 0)
  else
    match c.wait with
    | .dead r => some (0x08, kindInfo 0x03 (BitVec.ofNat 64 r))
    | _ => none

/-! ### All precise traps of one instruction at issue -/

/-- Traps that depend on no register value: loop-stack misuse (R130), a COPY's template (R239). -/
def staticTrap (s : State) (h : Nat) (i : Instr) : Option (Nat × Word) :=
  let c := hart s h
  let loopBad (last : BitVec 21) : Option (Nat × Word) :=
    let bad := 2 ≤ c.loops.length || match c.loops.head? with
      | some e => e.last.toNat < (c.pc + BitVec.ofNat 64 (64 * last.toNat)).toNat
      | none => false
    if bad then some (0x01, 0) else none
  match i with
  | .loop _ last | .loopi _ last => loopBad last
  | .copy _ n _ _ _ _ g _ =>
    let t := templateAt s (coreOf h) n.toNat
    if !templateOk t || (g.isSome && (tpXform t == 2 || tpDec t)) then some (0x01, 0) else none
  | _ => none

/-- The header of an MPLOAD (R221): start and length, or none where it is illegal. -/
def mploadHeader (rtn : Nat) (w : MicroWord) : Option (Nat × Nat) :=
  let st := bitsOf w 0 12
  let n := bitsOf w 12 8
  if rtn < 64 ∨ n = 0 ∨ st < 2048 ∨ 4096 < st + n ∨ bitsOf w 20 108 ≠ 0 then none else some (st, n)

/-- Traps that depend on register values. RSTAT's TINFO is the status word (R94, R370) but for bits [63:56], which R88 has zero after
every cause but 0x05 and 0x08 (DEDUCED, notes/assumptions/47.md). EXIT is permitted in a guest context, where it replies (R361; DEDUCED
beside R297, notes/assumptions/48.md). A GAMO or GLD.Q outside contexts 0 to 3 reports kind 0x06 also where the page refuses it (DESIGN
CHOICE, notes/assumptions/67.md). -/
def valueTrap (s : State) (h : Nat) (i : Instr) : Option (Nat × Word) :=
  let c := hart s h
  let strand := isStrand h
  match i with
  | .gld size _ base disp => globalTrap s h false (globalAddr c base disp) size.toNat
  | .gldQ size _ base disp => lowerTrap (if strand then none else misuse) (globalTrap s h false (globalAddr c base disp) size.toNat)
  | .gst size _ base disp =>
    (match globalTrap s h true (globalAddr c base disp) size.toNat with
     | some t => some t
     | none => if isGuest h && readOnlyCall s h then some (0x08, kindInfo 0 (globalAddr c base disp)) else none)
  | .gamo _ size _ base disp _ =>
    lowerTrap (if strand then none else misuse) (globalTrap s h true (globalAddr c base disp) size.toNat)
  | .chadd .. | .chsub .. | .chmul .. | .chcmp .. | .chfit .. | .chdom _ | .chmov _ | .chscl .. | .chint .. | .chdif ..
  | .chtrn .. =>
    (match domTrap c i with
     | some t => some t
     | none => bankTrap c i)
  | .mpload rtn ta =>
    if (mploadHeader rtn.toNat (BitVec.ofNat 128 (bitsOf (c.tile ta.toNat).val 0 128))).isNone then some (0x01, 0) else none
  | .ldt _ _ _ base str rows disp => rowsCheck s h false (plusDisp (c.s base) disp) (pitchOf c str) (rows.toNat + 1)
  | .ldrw _ _ _ base _ rows disp => rowsCheck s h false (plusDisp (c.s base) disp) 256 (rows.toNat + 1)
  | .ldg _ _ _ base sp _ disp _ =>
    let a := c.s base + (disp ++ (0 : BitVec 4)).signExtend 64
    if (pitchOf c sp).toNat % 16 ≠ 0 ∨ 2 ^ 25 ≤ a.toNat ∨ a.toNat % 16 ≠ 0 then some (0x09, windowInfo a) else none
  | .ldx _ _ d _ base tx => elemsTrap s h (c.s base) (c.tile tx.toNat).val d
  | .lds _ _ size _ base disp => bytesCheck s h false (plusDisp (c.s base) disp) (2 ^ size.toNat) (2 ^ size.toNat)
  | .ldf _ _ _ base disp => windowTrap s h [plusDisp (c.s base) disp] 16 16
  | .ldm _ _ _ base disp => bytesCheck s h false (plusDisp (c.s base) disp) 128 16
  | .stt _ _ base str rows disp => rowsCheck s h true (plusDisp (c.s base) disp) (pitchOf c str) (rows.toNat + 1)
  | .strw _ _ base _ rows disp => rowsCheck s h true (plusDisp (c.s base) disp) 256 (rows.toNat + 1)
  | .sete base str rows disp | .setf base str rows disp =>
    rowsCheck s h true (plusDisp (c.s base) disp) (pitchOf c str) (rows.toNat + 1)
  | .stx _ d _ base tx | .scor _ d _ base tx | .scadd _ d _ base tx | .scmax _ _ d _ base tx | .scmin _ _ d _ base tx =>
    elemsTrap s h (c.s base) (c.tile tx.toNat).val d
  | .sts _ size _ base disp => bytesCheck s h true (plusDisp (c.s base) disp) (2 ^ size.toNat) (2 ^ size.toNat)
  | .stf _ fa base disp => windowTrap s h [plusDisp (c.s base) disp] (paddedImage (c.freg fa.toNat).fn).length 16
  | .stm _ _ base disp => bytesCheck s h true (plusDisp (c.s base) disp) 128 16
  | .cwait ch _ => cwaitTrap (c.chan ch.toNat)
  | .publish ch =>
    if isGuest h && readOnlyCall s h && (c.chan ch.toNat).copies.any (fun k => k.phase == .complete) then some (0x08, kindInfo 0 0)
    else none
  | .ctset _ ta => if templateOk (BitVec.ofNat 512 (bitsOf (c.tile ta.toNat).val 0 512)) then none else some (0x01, 0)
  | .ixbmap _ sa sc _ _ _ =>
    let n := ((c.s sc).toNat + 7) / 8
    if (c.s sa).toNat % 16 ≠ 0 ∨ (n ≠ 0 ∧ windowBad s h (c.s sa) n 16) then some (0x09, windowInfo (c.s sa)) else none
  | .ixrle _ sa sc _ _ _ =>
    let n := 8 * (c.s sc).toNat
    if (c.s sa).toNat % 16 ≠ 0 ∨ (n ≠ 0 ∧ windowBad s h (c.s sa) n 16) then some (0x09, windowInfo (c.s sa)) else none
  | .dqry k _ sa sb => digestTrap s (c.s sa) (c.s sb) (some k.code) false 16 false
  | .dqryQ k _ sa sb =>
    (match digestTrap s (c.s sa) (c.s sb) (some k.code) false 16 false with
     | some t => some t
     | none => if strand then none else misuse)
  | .dscan _ p sa sb _ _ _ _ _ _ => digestTrap s (c.s sa) (c.s sb) (some (predKind p)) (p == .ham) 1024 (p == .ub)
  | .drefr sa sb => digestTrap s (c.s sa) (c.s sb) none false 1024 false
  | .rcallR re _ _ sa _ _ sd | .rcallQ re _ _ sa _ _ sd => rcallTrap s h re sa sd
  | .rstat ack _ sa =>
    (match doneCall c (wbits (c.s sa) 0 16) with
     | some d =>
       if !ack && !d.acked && (statusState d.status == 2 || statusState d.status == 3) then
         some (if statusState d.status = 2 then 0x0E else 0x0F, low 56 d.status)
       else none
     | none => none)
  | .promote sa sb _ => promoteTrap s (c.s sa) (c.s sb)
  | .lnseq sa => lnseqTrap s h (c.s sa)
  | .bmac _ sa sb sc n => bmacTrap s h (c.s sa) (c.s sb) (c.s sc) n.toNat
  | .bset _ k _ => bsetTrap s h k.toNat
  | .binc _ _ sb _ =>
    if bincMember c h sb ≠ memberOf (coreOf h) ∧ !inCluster s h then
      some (0x09, BitVec.ofNat 64 (bincMember c h sb * 2 ^ 22))
    else none
  | .waitb k => barrierWaitTrap s h (2 ^ k.toNat)
  | .waitany _ m => barrierWaitTrap s h m.toNat
  | .qend | .join | .yield | .gleave _ => if strand then none else misuse
  | .exit => if strand || isGuest h then none else misuse
  | .fork .. => if strand then forkTrap c else misuse
  | .spawng g .. =>
    if !strand then misuse
    else
      match forkTrap c with
      | some t => some t
      | none => groupFull s h g.toNat 0
  | .gjoin g => if strand then groupFull s h g.toNat c.csr.skey else misuse
  | .gbar g =>
    if !strand then misuse
    else if (group s c.who.launch (groupKey h g.toNat)).members.contains c.csr.skey then none
    else some (0x08, kindInfo 0x04 (BitVec.ofNat 64 g.toNat))
  | .prio sa n =>
    if !strand then misuse
    else if sa ≠ 0 ∧ 63 < (c.s sa).toNat then some (0x08, kindInfo 0x07 (c.s sa))
    else if sa = 0 ∧ 63 < n.toNat then some (0x08, kindInfo 0x07 0)
    else none
  | .cbar => cbarTrap s h
  | _ => none

/-- The registers an instruction names in context `h`: EXIT reads t0 and s1 in a guest context, which replies with them (R361). -/
def useIn (h : Nat) (i : Instr) : Use := match i with
  | .exit => if isGuest h then { tblk := [0], scal := [1] } else {}
  | i => useOf i

/-- The precise trap of one instruction at issue: the lowest cause it has (R95). -/
def issueTrap (s : State) (h : Nat) (i : Instr) : Option (Nat × Word) :=
  match staticTrap s h i with
  | some t => some t
  | none =>
    match (useIn h i).trap (hart s h) with
    | some t => some t
    | none => valueTrap s h i

/-! ### Engines that make a bundle block (R195) -/

def isCall : MItem → Bool
  | .call _ => true
  | .load .. => false

/-- Does an engine or a wait of the instruction block the bundle? A call that has left its queue for the unit holds no entry of it (R213;
DEDUCED, notes/assumptions/77.md). -/
def engineBlocks (s : State) (h : Nat) (i : Instr) : Bool :=
  let c := hart s h
  let k := core s (coreOf h)
  let chan (n : BitVec 3) := c.chan n.toNat
  let closeFull (y : Channel) : Bool := y.opened && 16 ≤ y.closed.length
  let four (q : QNo) : Bool := 4 ≤ (c.queue q.toNat).prods.length
  ((fnDst i).isSome || (match i with
    | .ldf .. => true
    | _ => false)) && fnWritePending c ||
  match i with
  | .mcall lo .. => 8 ≤ ((if lo then k.mx.lo else k.mx.hi).filter isCall).length
  | .copy ch .. => 64 ≤ ((chan ch).copies.filter Copy.pending).length
  | .cbatch ch => closeFull (chan ch)
  | .cwait ch m => closeFull (chan ch) || m.toNat < (closeBatch (chan ch)).closed.length
  | .publish ch => closeFull (chan ch) || (chan ch).copies.any Copy.pending
  | .ctsetCode t _ => tableBusy s (coreOf h) t.toNat
  | .ixscan q .. | .ixbmap q .. | .ixrle q .. | .spred q .. | .guard q .. | .dscan (some q) .. => four q
  | .rcallR .. | .rcallQ .. => 16 ≤ c.calls.length
  | .rstat _ _ sa => c.calls.any fun x => x.seqNo == wbits (c.s sa) 0 16
  | .promote sa .. =>
    16 ≤ (s.promos.filter fun p => p.die == dieOf h).length && !promoting s (c.s sa).toNat
  | .lnseq _ | .bmac .. => (drone s (droneOf h)).seqr.any (fun r => !r.finished) || (drone s (droneOf h)).bmac.isSome
  | .dfence =>
    (drone s (droneOf h)).seqr.any (fun r => !r.finished) || (drone s (droneOf h)).bmac.isSome ||
      !(drone s (droneOf h)).posted.isEmpty
  | .drain => !drainClear s h
  | .fencel => !fenceClear s h
  | .waitb _ | .waitany .. =>
    (barrierWaitTrap s h (waitMask i)).isNone && (chosenBarrier k c (ctxNo h) (waitMask i)).isNone
  | .join | .gbar _ | .cbar => isStrand h && (issueTrap s h i).isNone && waiting c
  | _ => false

end Sys2Proof.Machine
end

