-- ==== Sys2Proof/Machine/Pool.lean ====
section
/-!
DEFINITION. Who may run where: strand keys and seeds (R296, R299), the start of a strand (R83, R298), the order of a die's ready
pool, the cores an entry may use, and the save slots (R288 to R294, R300, R308, R310).
-/
namespace Sys2Proof.Machine

/-! ### Keys, seeds, the start of a strand -/

/-- SKEY (R85): launch sequence number, node, fork path. -/
def skeyOf (launch node path : Nat) : Word := BitVec.ofNat 64 (launch % 2 ^ 24 * 2 ^ 40 + node * 2 ^ 20 + path)

/-- The key of the c-th child of a strand of depth d (R296). -/
def childKey (key : Word) (d c : Nat) : Word := key + BitVec.ofNat 64 (c * 2 ^ (16 - 4 * d))

/-- SEED of a strand (R299). -/
def seedOf (base key : Word) : Word :=
  let z := base ^^^ low 40 key
  let z := (z ^^^ (z >>> 30)) * 0xBF58476D1CE4E5B9#64
  let z := (z ^^^ (z >>> 27)) * 0x94D049BB133111EB#64
  z ^^^ (z >>> 31)

/-- Scalars s1 to s8 from eight words. -/
def argRegs (args : List Word) (c : Ctx) : Ctx :=
  ((args.take 8).zip (List.range 8)).foldl (fun c a => c.setScalar (a.2 + 1) { val := a.1, pending := false, poison := none }) c

/-- A context as a strand starts in it (R83). -/
def startCtx (n : NewStrand) : Ctx :=
  let c := Ctx.reset
  let k := { c.csr with skey := n.skey, prio := n.prio, spmax := n.spmax, seed := n.seed, qnum := BitVec.ofNat 64 n.qnum }
  argRegs n.args { c with life := .running, who := n.who, pc := n.pc, csr := k }

/-! ### The pool (R291) -/

/-- Does a strand hold back quantum `q` of its launch (R321)? -/
def strandLive (c : Ctx) (q : Nat) : Bool := !c.leaving && c.life != .exited && !waiting c && c.csr.qnum.toNat ≤ q

/-- Does an entry's strand hold back the oldest uncommitted quantum? -/
def PoolEnt.boosted (s : State) (e : PoolEnt) : Bool :=
  match e.kind with
  | .node l n => (nodeOf s l n).start ≤ (launch s l).committed + 1
  | .fresh n _ => n.qnum ≤ (launch s n.who.launch).committed + 1
  | .saved v => strandLive v.ctx ((launch s v.ctx.who.launch).committed + 1)

/-- The effective priority of an entry. -/
def PoolEnt.prio (s : State) (e : PoolEnt) : Nat := if e.boosted s then 63 else e.level

/-- When an entry was boosted: none where it is not. -/
def PoolEnt.boostAt (s : State) (e : PoolEnt) : Option Nat := if e.boosted s then some (e.boost.getD s.now) else none

/-- The time at which an entry entered its level: the time of its boost where that has raised it. -/
def PoolEnt.since (s : State) (e : PoolEnt) : Nat := if e.level = 63 then e.entered else (e.boostAt s).getD e.entered

/-- The order of entries: priority, then entry time, then key. -/
def entryBefore (s : State) (a b : PoolEnt) : Bool :=
  a.prio s > b.prio s ||
    (a.prio s == b.prio s && (a.since s < b.since s || (a.since s == b.since s && a.skey.toNat < b.skey.toNat)))

/-- Does a child on a brood deque hold back the oldest uncommitted quantum of its launch? -/
def NewStrand.holds (s : State) (n : NewStrand) : Bool := n.qnum ≤ (launch s n.who.launch).committed + 1

/-- The priority of a child on a brood deque: a holder that is not running is boosted there too (R311). -/
def NewStrand.level (s : State) (n : NewStrand) : Nat := if n.holds s then 63 else n.prio.toNat

/-- The entries of a die in order. -/
def poolOrder (s : State) (d : Nat) : List PoolEnt := sortBy (entryBefore s) (die s d).pool

/-! ### Cores (R288, R294, R300, R310) -/

/-- The cluster of a core, 0 to 23 (R285). -/
def clusterOf (c : Nat) : Nat := c / 8

def usable (s : State) (c : Nat) : Bool := !(core s c).fenced && !(core s c).faulted

/-- Does a reservation keep other work off a core (R294)? -/
def reserved (s : State) (c : Nat) : Bool := (die s (dieOfCore c)).pool.any fun e => e.cluster == some (clusterOf c)

/-- May a forked strand of core `home` run on core `c` (R300)? -/
def childMayRun (w : Ident) (home c : Nat) : Bool :=
  dieOfCore home == dieOfCore c &&
    (match w.pin with
     | 0 => true
     | 1 => clusterOf home == clusterOf c
     | _ => home == c) &&
    (match w.cluster with
     | some k => clusterOf c == k
     | none => true)

/-- Does a strand hold a barrier of a core (R251)? -/
def holdsBarrier (k : Core) (key : Word) : Bool := k.barriers.any fun b => b.2.holder == some key

/-- Has a context a load waiting with W = 1 (R309)? -/
def waitingLoads (c : Ctx) : List WLoad := c.loads.filter fun l => l.wt && l.pieces.any fun p => match p.st with
  | .read .. => false
  | _ => true

/-- May a saved strand resume on core `c` (R310)? -/
def savedMayRun (s : State) (v : Saved) (c : Nat) : Bool :=
  let old := coreOf v.h
  let w := v.ctx.who
  let queued := hart s (ghostHart old w.launch v.slot)
  if holdsBarrier (core s old) v.ctx.csr.skey || !(waitingLoads queued).isEmpty || w.mate.isSome then c == old
  else
    match w.pin with
    | 0 => dieOfCore c == dieOfCore old && (match w.cluster with
      | some k => clusterOf c == k
      | none => true)
    | 1 => clusterOf c == clusterOf old
    | _ => c == old

/-- May a node that is not co-scheduled run on a core (R288)? -/
def nodeMayRun (d : NodeRec) (c : Nat) : Bool := d.affMode != 2 || clusterOf c == d.affNo

/-- D(n) (R288). -/
def nodeDie (d : NodeRec) (n : Nat) : Nat := match d.affMode with
  | 0 => n * 0x9E3779B1 % 2 ^ 32 / 2 ^ 30
  | 1 => d.affNo % 4
  | _ => d.affNo / 6 % 4

/-- The contexts that staging nodes hold. -/
def stagingPlaces (s : State) : List Nat :=
  s.launches.flatMap fun e => e.2.nodes.flatMap fun n => match n.2.st with
    | .staging ps => ps
    | _ => []

/-- The free strand contexts of a core, lowest first. -/
def freeCtxs (s : State) (c : Nat) : List Nat :=
  ((List.range 4).map (6 * c + ·)).filter fun h => (hart s h).life == .idle && !(stagingPlaces s).contains h

def coresOf (cluster : Nat) : List Nat := (List.range 8).map (8 * cluster + ·)
def coresOfDie (d : Nat) : List Nat := (List.range 48).map (48 * d + ·)

/-- The clusters a co-scheduled node may use (R288). -/
def allowedClusters (d : NodeRec) (n : Nat) : List Nat :=
  if d.affMode = 2 then [d.affNo] else (List.range 6).map (6 * nodeDie d n + ·)

/-- Has every core of a cluster a free context? -/
def clusterFree (s : State) (k : Nat) : Bool := (coresOf k).all fun c => usable s c && !(freeCtxs s c).isEmpty

/-- The cluster a co-scheduled entry can be placed on now: the one it has reserved, or the lowest one that nobody has (R294). -/
def clusterFor (s : State) (e : PoolEnt) (l n : Nat) : Option Nat :=
  match e.cluster with
  | some k => if clusterFree s k then some k else none
  | none => (allowedClusters (nodeOf s l n).desc n).find? fun k => clusterFree s k && !reserved s (8 * k)

/-- May an entry of its die's pool run on core `c` (R292, R310)? A co-scheduled node where R294 gives it the core, a mate on the core it
left (R272), free contexts or not. -/
def PoolEnt.mayRun (s : State) (e : PoolEnt) (c : Nat) : Bool :=
  usable s c &&
    match e.kind with
    | .node l n =>
      if (nodeOf s l n).desc.cosched then e.cluster == some (clusterOf c) || clusterFor s e l n == some (clusterOf c)
      else !reserved s c && nodeMayRun (nodeOf s l n).desc c
    | .fresh n home => !reserved s c && childMayRun n.who home c
    | .saved v => if v.ctx.who.mate.isSome then coreOf v.h == c else !reserved s c && savedMayRun s v c

/-- The deques core `c` may take from, its own first, then by R292's order of stealing. -/
def dequeOrder (c : Nat) : List Nat := (List.range 48).map fun i => 48 * dieOfCore c + (c % 48 + i) % 48

/-- Is there a pool or deque entry for core `c` at priority `p` or above (R305)? -/
def workAt (s : State) (c p : Nat) : Bool :=
  (die s (dieOfCore c)).pool.any (fun e => e.mayRun s c && p ≤ e.prio s) ||
  (usable s c && !reserved s c &&
    (dequeOrder c).any fun k => (core s k).deque.any fun n => childMayRun n.who k c && p ≤ n.level s)

/-! ### Save slots (R308) -/

/-- The lowest free save slot of die `d` for a launch. -/
def freeSlot (l : Launch) (d : Nat) : Option Nat :=
  ((List.range (l.usedSlots.length + 1)).map fun i => 4 * i + d).find? fun k => k < l.saveCnt && !l.usedSlots.contains k

/-- Does YIELD save the strand (R305)? -/
def yieldSaves (s : State) (h : Nat) : Bool :=
  workAt s (coreOf h) (hart s h).csr.prio.toNat && (freeSlot (launch s (hart s h).who.launch) (dieOf h)).isSome

end Sys2Proof.Machine
end

