-- ==== Sys2Proof/Machine/Channels.lean ====
section
/-!
DEFINITION. The memory channels as the drones' sequencers share them: which channel an access goes to, and how an access that is not the
drone's own waits while a sequencer runs there (R317, R318, R338, R355, R375).
-/
namespace Sys2Proof.Machine

/-! ### Channels -/

/-- The drones whose channels hold `n` bytes at a global address. -/
def channelsOf (s : State) (a n : Nat) : List Nat :=
  let places := if n = 0 then [] else (List.range ((a + n - 1) / 256 + 1 - a / 256)).map fun i => max a (256 * (a / 256 + i))
  distinct (places.filterMap fun x => match findPage s.pages x with
    | some (b, p) => if s.remotePage p then none else droneAt p (physOf b p x)
    | none => none)

/-- The drones of the channels that hold a page at a virtual address: its first 16 KiB reach them all (R318). -/
def frameChannels (s : State) (base : Nat) : List Nat := channelsOf s base (2 ^ 14)

/-- The drones of the channels that hold a frame under an entry, by its physical address. -/
def physChannels (p : Page) (pa : Nat) : List Nat := distinct ((List.range 64).filterMap fun i => droneAt p (pa + 256 * i))

/-- The key of a record: region, block, kind (R338). -/
def recKey (r n k : Nat) : Nat := (r * 2 ^ 48 + n) * 8 + k

/-- The keeper that holds a record, which is that of the stack with its number (R338). -/
def keeperOf (key : Nat) : Nat := (key / 8 / 2 ^ 48 + key / 8 % 2 ^ 48) % 8

/-- The drone whose channel holds a record: some channel of its keeper's stack (R317; DESIGN CHOICE, notes/assumptions/61.md). -/
def recordDrone (key : Nat) : Nat := 64 * keeperOf key + Config.recordChannel key % 64

/-- The drones whose channels hold the records of the block at an address. -/
def recordDrones (s : State) (a : Nat) : List Nat := match regionAt s a with
  | some (n, r) => ([r.k1, r.k2].filter (· != 0)).map fun k => recordDrone (recKey n ((a - r.base) / r.block) k)
  | none => []

/-- The drones whose channels hold `n` blocks of a region from block `i` on, and their records. -/
def blockChannels (s : State) (r : Region) (i n : Nat) : List Nat :=
  (List.range n).flatMap fun k =>
    let a := r.base + (i + k) * r.block
    channelsOf s a r.block ++ recordDrones s a

/-! ### Messages that may apply (R388) -/

/-- The messages of one module that may apply, in sequence order from number `e` on: each has its predecessors before it. -/
def dueFrom (box : List Msg) (peer : Nat) : Nat → Nat → List Msg
  | 0, _ => []
  | n + 1, e => match box.find? fun m => m.peer == peer && m.seqNo == e with
    | some m => m :: dueFrom box peer n ((e + 1) % 2 ^ 32)
    | none => []

/-- The messages that may apply, in the order in which they apply in one step (R388). -/
def dueMsgs (f : Fabric) : List Msg := (List.range 16).flatMap fun peer => dueFrom f.inbox peer f.inbox.length (tget 0 f.inSeq peer)

/-- The virtual address through which a physical byte is known here, if a local page holds it; a plain page goes before an elided one. -/
def virtOf (s : State) (pa : Nat) : Option Nat :=
  let via (rep : Nat) : Option Nat := s.pages.findSome? fun e =>
    let p := e.2
    if p.present && !s.remotePage p && p.rep == rep && p.frame * 2 ^ 16 ≤ pa && pa < p.frame * 2 ^ 16 + p.size then
      some (e.1 * 2 ^ 16 + (pa - p.frame * 2 ^ 16))
    else none
  match via 0 with
  | some va => some va
  | none => via 2

/-- The drones whose channels hold a physical address that a message names, and the records over it. -/
def msgDrones (s : State) (pa : Nat) : List Nat := match virtOf s pa with
  | some va => channelsOf s va 1 ++ recordDrones s va
  | none => (droneAt Page.absent pa).toList

/-- The same for all the messages that may apply. -/
def msgChannels (s : State) : List Nat :=
  distinct ((dueMsgs s.fabric).flatMap fun m => (m.granules.map (·.1) ++ m.adds.map (·.1)).flatMap (msgDrones s))

/-! ### Accesses that wait (R375) -/

/-- Is any commit step in progress, be it the last of a launch that has ended? -/
def anyStep (s : State) : Bool := s.launches.any fun e => e.2.commit.isSome

/-- The dispatcher's first bundle; the default action starts 64 bytes on. -/
def romEntry : Word := Config.romDispatcher &&& ~~~0x3F#64

/-- Does the supervisor context of a core stand in the ROM? -/
def inRom (s : State) (c : Nat) : Bool := (hart s (6 * c + 4)).pc == romEntry || (hart s (6 * c + 4)).pc == romEntry + 64

/-- The issue numbers of a context's outstanding digest reads (R354). -/
def readOrds (x : Ctx) : List Nat :=
  x.dqs.map (·.ord) ++ x.scans.map (·.ord) ++ x.queues.flatMap fun e => e.2.prods.filterMap fun p => match p.work with
    | .scan c => some c.ord
    | _ => none

/-- Does a command that reads or writes DRAM stand at the head of the command ring, free to run (R332, R392)? -/
def hostWaits (s : State) : Bool :=
  let h := s.host
  let field (o n : Nat) : Nat := leNat (mread h.mem (h.ringBase.toNat + 64 * h.head + o) n)
  h.head != h.tail % 2 ^ wbits h.ringSize 0 5 && match field 0 2 with
    | 0x01 => true
    | 0x04 => field 32 8 != 0 || !anyStep s
    | 0x06 | 0x08 | 0x09 => !anyRunning s && !anyStep s
    | 0x07 => !anyStep s
    | _ => false

/-- Is an access still to be made, so that a suspension waits for it? Fetches and resumptions are served as a suspension begins. -/
def accessWaits (s : State) : Access → Bool
  | .gld h dst => (hart s h).gloads.any fun g => g.dst == dst
  | .copy h id => (hart s h).channels.any fun e => e.2.copies.any fun k => k.id == id && k.pending
  | .step l => (launch s l).commit.isSome
  | .digest h ord => (readOrds (hart s h)).contains ord
  | .guest h => (hart s h).life == .running
  | .stage l n => match (nodeOf s l n).st with
    | .staging _ => true
    | _ => false
  | .fetch .. | .resume .. => false
  | .save h => (hart s h).life == .running && (hart s h).stopReq && (freeSlot (launch s (hart s h).who.launch) (dieOf h)).isSome
  | .load h id => (hart s h).loads.any fun l => l.id == id
  | .promo page => s.promos.any fun p => p.page == page && !p.copied
  | .rom c => inRom s c && (hart s (6 * c + 4)).life == .running
  | .msgs => !anyRunning s && !anyStep s && !(dueMsgs s.fabric).isEmpty
  | .host => hostWaits s
  | .other => false

def Drone.sequencing (k : Drone) : Bool := k.seqr.any fun r => !r.finished

/-- May an access pass a channel: no sequencer runs there, or a suspension has served the access? -/
def Drone.passes (k : Drone) (a : Access) : Bool := !k.sequencing || k.granted.contains a

/-- An access seeks its turn at a channel whose sequencer runs: in a suspension that serves it next it is granted; else it waits in the
order of arrival, and the sequencer starts to count its column commands. -/
def seekAt (a : Access) (s : State) (d : Nat) : State :=
  let k := drone s d
  if k.passes a then s
  else if (k.seqr.any fun r => r.suspended) && (k.serving.filter (accessWaits s)).head? == some a then
    modDrone s d fun k => { k with
      ordinary := k.ordinary.filter (· != a), serving := k.serving.filter (· != a), granted := k.granted ++ [a] }
  else if a != .other && k.ordinary.contains a then s
  else
    modDrone s d fun k => { k with
      ordinary := k.ordinary ++ [a]
      seqr := k.seqr.map fun r => if !r.suspended && r.cols.isNone then { r with cols := some 0 } else r }

/-- An access has taken place. -/
def passedAt (a : Access) (s : State) (d : Nat) : State :=
  if (drone s d).granted.contains a then modDrone s d fun k => { k with granted := k.granted.filter (· != a) } else s

/-- An access seeks its turn at each of several channels: the state after that, and whether it may take place now: every channel lets it
pass, each in its own turn (R375; which accesses wait is DEDUCED, notes/assumptions/61.md). -/
def seekAll (s : State) (ds : List Nat) (a : Access) : State × Bool :=
  let t := ds.foldl (seekAt a) s
  if ds.all fun d => (drone t d).passes a then (ds.foldl (passedAt a) t, true) else (t, false)

/-- An access takes place, or waits. -/
def ordinaryAccess (s : State) (ds : List Nat) (a : Access) (f : State → State) : State :=
  let r := seekAll s ds a
  if r.2 then f r.1 else r.1

/-- Is an access served as a suspension begins, for its core to make when it looks again: a fetch, or the resumption of a strand (DEDUCED,
notes/assumptions/61.md)? -/
def Access.atOnce : Access → Bool
  | .fetch .. | .resume .. => true
  | _ => false

/-- The channels that the fetch of a context's next bundle goes to: a drone's own serves it apart. -/
def fetchChannels (s : State) (h : Nat) : List Nat :=
  (channelsOf s (hart s h).pc.toNat 64).filter fun d => !(isDrone h && d == droneOf h)

/-- The channels that the stores and publishes of a guest's bundle go to; other contexts store nothing at issue (R361, R364). -/
def guestChannels (s : State) (h : Nat) (is : List Instr) : List Nat :=
  if isGuest h then
    distinct (is.flatMap fun i => match i with
      | .gst size _ base disp => channelsOf s (globalAddr (hart s h) base disp).toNat (2 ^ size.toNat)
      | .publish ch => ((hart s h).chan ch.toNat).copies.flatMap fun k =>
          if k.phase == .complete then k.shadow.flatMap fun g => channelsOf s (16 * g.1) 16 else []
      | _ => [])
  else []

end Sys2Proof.Machine
end

