-- ==== Sys2Proof/Machine/Digests.lean ====
section
/-!
DEFINITION. Digest records (chapter 18): how a record is built from its block, how it follows each committed write, rescans, bad
lines, and what a reader is shown (R336 to R345, R351, R353).
-/
namespace Sys2Proof.Machine

/-- The other addresses at which the byte at a virtual address is read too: those of local plain pages over the same frame, and of pages
that a commit step has un-elided (R319, R331). -/
def aliasesOf (s : State) (opened : Tab Page) (va : Nat) : List Nat :=
  match findPage s.pages va with
  | none => []
  | some (base, p) =>
    let pa := physOf base p va
    s.pages.filterMap fun e =>
      let first := e.2.frame * 2 ^ 16
      if e.2.present && !s.remotePage e.2 && e.1 * 2 ^ 16 != base && (e.2.rep == 0 || opened.any fun o => o.1 == e.1) && first ≤ pa &&
          pa < first + e.2.size then
        some (e.1 * 2 ^ 16 + (pa - first))
      else none

/-- A reader of bytes by global virtual address. -/
abbrev Reader := Nat → Byte

/-- Memory as it stood before the calls of steps in progress wrote (R364). -/
def beforeSteps (s : State) : List Host.Cell :=
  s.launches.foldl (fun m e => match e.2.commit with
    | some c => c.undo.foldl (fun m u => mset m u.1 u.2) m
    | none => m) s.mem

/-- The state after the last completed commit step: SNAP copies take it (R240, R293), and the records reflect it (R344). -/
def snapImage (s : State) : Image := { s.image with mem := beforeSteps s }

/-- The entry of a key, if it is listed. -/
def tfind {α : Type} : Tab α → Nat → Option α
  | [], _ => none
  | (j, v) :: t, k => if k = j then some v else tfind t k

/-- Bytes of a table, keyed by address, from an address on. -/
def putBytes (o : Tab Byte) (a : Nat) (bytes : List Byte) : Tab Byte :=
  (bytes.zip (List.range bytes.length)).foldl (fun o b => tput (a + b.2) b.1 o) o
def dropBytes (o : Tab Byte) (a n : Nat) : Tab Byte := (List.range n).foldl (fun o k => tdel (a + k) o) o
/-- Bytes keyed by virtual address over a reader's. -/
def overReader (rd : Reader) (o : Tab Byte) : Reader := fun va => (tfind o va).getD (rd va)

/-! ### Blocks and elements (R338) -/

def Region.width (r : Region) : Nat := (typeOf r.efmt).bits / 8
/-- Elements of a block. -/
def Region.elems (r : Region) : Nat := r.block / r.width
/-- Rows of a block: RPB. -/
def Region.rpb (r : Region) : Nat := r.block / r.rowBytes
/-- The group of an element. -/
def Region.groupOf (r : Region) (e : Nat) : Nat := e % r.rowLen / r.g
/-- The code of element `e` of the block at `base`. -/
def Region.code (r : Region) (rd : Reader) (base e : Nat) : Nat :=
  leNat ((List.range r.width).map fun k => rd (base + e * r.width + k))
def Region.val (r : Region) (c : Nat) : XR := elemVal (typeOf r.efmt) c
def Region.floats (r : Region) : Bool := r.efmt ≤ 4
/-- Not ±0; a NaN counts as nonzero (R341). -/
def nonzero (x : XR) : Bool := !x.isZero

/-! ### Bodies -/

def getBits (b : BitVec 1984) (lo n : Nat) : Nat := bitsOf b lo n
def putBits (b : BitVec 1984) (lo n v : Nat) : BitVec 1984 :=
  mergeBits b (BitVec.ofNat 1984 ((v % 2 ^ n) <<< lo)) (onesAt 1984 lo n)

def Rec.blank : Rec :=
  { body := 0, valid := true, poison := false, inv := false, ovf := false, stale := false, tight := true }

/-! ### BOUNDS (R340) -/

/-- Width of a bound in bits. -/
def Region.bw (r : Region) : Nat := if r.floats then 32 else 64
/-- The type of the bounds of an integer format. -/
def Region.bt (r : Region) : EType := if (typeOf r.efmt).signed then .int64 else .uint64

/-- A bound's code: a zero is +0, an infinity of an integer format the end of its range. -/
def Region.boundCode (r : Region) (x : XR) : Nat :=
  if r.floats then
    match x with
    | .fin _ 0 _ => 0
    | x => (rne32 x).1.toNat
  else
    match x with
    | .inf true => intCode 64 (intMin r.bt)
    | .inf false => intCode 64 (intMax r.bt)
    | .fin s m e => intCode 64 (numAt s m e 0)
    | .nan => 0
def Region.boundVal (r : Region) (c : Nat) : XR := if r.floats then Fmt.fp32.value c else elemVal r.bt c

def Region.loPos (r : Region) (g : Nat) : Nat := 2 * r.bw * g
def Region.lo (r : Region) (x : Rec) (g : Nat) : XR := r.boundVal (getBits x.body (r.loPos g) r.bw)
def Region.hi (r : Region) (x : Rec) (g : Nat) : XR := r.boundVal (getBits x.body (r.loPos g + r.bw) r.bw)
def Region.setBounds (r : Region) (x : Rec) (g : Nat) (lo hi : XR) : Rec :=
  { x with body := putBits (putBits x.body (r.loPos g) r.bw (r.boundCode lo)) (r.loPos g + r.bw) r.bw (r.boundCode hi) }

def minX (a b : XR) : XR := if b.lt a then b else a
def maxX (a b : XR) : XR := if a.lt b then b else a

/-- An element changes from old to new. -/
def Region.boundsStep (r : Region) (x : Rec) (e : Nat) (old new : XR) : Rec :=
  let g := r.groupOf e
  let lo := r.lo x g
  let hi := r.hi x g
  let loose := old.isNaN || old.eqv lo || old.eqv hi
  let x := if new.isNaN then r.setBounds x g (.inf true) (.inf false) else r.setBounds x g (minX lo new) (maxX hi new)
  { x with tight := x.tight && !loose }

/-- The exact bounds of a block. A group of nothing but NaN has (+∞, −∞) (R340's last sentence; DEDUCED, notes/assumptions/58.md). -/
def Region.buildBounds (r : Region) (rd : Reader) (base : Nat) (x : Rec) : Rec :=
  let vs := (List.range r.elems).map fun e => (r.groupOf e, r.val (r.code rd base e))
  let x := { x with body := 0, tight := !vs.any fun v => v.2.isNaN }
  (List.range r.ng).foldl (fun x g =>
    let here := (vs.filter fun v => v.1 == g).map (·.2)
    if here.any XR.isNaN && !here.all XR.isNaN then r.setBounds x g (.inf true) (.inf false)
    else if here.all XR.isNaN then r.setBounds x g (.inf false) (.inf true)
    else r.setBounds x g (here.foldl minX (.inf false)) (here.foldl maxX (.inf true))) x

/-! ### SUM (R118, R341) -/

def sumOf (x : Rec) : Int := (x.body.extractLsb' 0 96).toInt
def countOf (x : Rec) : Nat := getBits x.body 128 64
def setSum (x : Rec) (v : Int) (n : Nat) : Rec :=
  { x with body := putBits (putBits x.body 0 96 (intCode 96 v)) 128 64 n }

/-- Add or subtract one entry value, clamped. -/
def addEntry (x : Rec) (v : Int) : Rec :=
  let (s, o) := sumClamp (sumOf x + v)
  { setSum x s (countOf x) with ovf := x.ovf || o }

/-- An element changes from old to new. -/
def Region.sumStep (r : Region) (x : Rec) (old new : XR) : Rec :=
  let (o, oo, oi) := sumEntry r.bpoint old
  let (n, no, ni) := sumEntry r.bpoint new
  let x := addEntry (addEntry x (-o)) n
  let x := { x with ovf := x.ovf || oo || no, inv := x.inv || oi || ni }
  setSum x (sumOf x) (countOf x - (nonzero old).toNat + (nonzero new).toNat)

def Region.buildSum (r : Region) (rd : Reader) (base : Nat) (x : Rec) : Rec :=
  (List.range r.elems).foldl (fun x e =>
    let v := r.val (r.code rd base e)
    let (n, o, i) := sumEntry r.bpoint v
    let x := addEntry x n
    let x := { x with ovf := x.ovf || o, inv := x.inv || i }
    setSum x (sumOf x) (countOf x + (nonzero v).toNat)) { x with body := 0, ovf := false, inv := false }

/-! ### ZMAP (R342) -/

/-- Bit `j`: is any of elements 8j to 8j + 7 nonzero? -/
def Region.zmapBit (r : Region) (rd : Reader) (base j : Nat) : Bool :=
  (List.range 8).any fun k => 8 * j + k < r.elems && nonzero (r.val (r.code rd base (8 * j + k)))
def Region.setZmap (r : Region) (rd : Reader) (base : Nat) (x : Rec) (j : Nat) : Rec :=
  { x with body := putBits x.body j 1 (r.zmapBit rd base j).toNat }
def Region.buildZmap (r : Region) (rd : Reader) (base : Nat) (x : Rec) : Rec :=
  (List.range ((r.elems + 7) / 8)).foldl (r.setZmap rd base) { x with body := 0 }

/-! ### SKETCH (R343) -/

/-- A row's element as it enters the sketch: NaN counts 0, an infinity ±2^128. -/
def sketchVal : XR → XR
  | .nan => .fin false 0 0
  | .inf s => .fin s 1 128
  | x => x

/-- The sketch of a row. -/
def sketchOf (xs : List XR) : Nat :=
  let vs := (xs.map sketchVal).zip ((List.range xs.length).map fun c => draw 0 c)
  pack 1 ((List.range 64).map fun p =>
    match xsum (vs.map fun v => if v.2.getLsbD p then v.1.neg else v.1) with
    | .fin false (_ + 1) _ => 1
    | _ => 0)

def Region.rowVals (r : Region) (rd : Reader) (base k : Nat) : List XR :=
  (List.range r.rowLen).map fun c => r.val (r.code rd base (k * r.rowLen + c))
def staleRow (x : Rec) (k : Nat) : Bool := x.body.getLsbD (1920 + k)
def setStale (x : Rec) (k : Nat) (b : Bool) : Rec :=
  let y := { x with body := putBits x.body (1920 + k) 1 b.toNat }
  { y with stale := getBits y.body 1920 64 != 0 }
/-- Recompute a row's sketch and clear its stale bit. -/
def Region.sketchRow (r : Region) (rd : Reader) (base : Nat) (x : Rec) (k : Nat) : Rec :=
  setStale { x with body := putBits x.body (64 * k) 64 (sketchOf (r.rowVals rd base k)) } k false
def Region.buildSketch (r : Region) (rd : Reader) (base : Nat) (x : Rec) : Rec :=
  (List.range r.rpb).foldl (r.sketchRow rd base) { x with body := 0, stale := false }

/-! ### Bad lines (R345) -/

/-- Elements of a block that overlap `n` bytes at offset `o` of it. -/
def Region.touched (r : Region) (o n : Nat) : List Nat :=
  ((List.range (n / r.width + 2)).map (o / r.width + ·)).filter fun e =>
    e < r.elems && o < (e + 1) * r.width && e * r.width < o + n

/-- A record whose block holds a bad line at offset `o` of the block. -/
def Region.spoil (r : Region) (k o : Nat) (x : Rec) : Rec :=
  let x := { x with poison := true }
  let es := r.touched o 64
  match k with
  | 1 => { es.foldl (fun x e => r.setBounds x (r.groupOf e) (.inf true) (.inf false)) x with tight := false }
  | 2 => { x with inv := true }
  | 3 => es.foldl (fun x e => { x with body := putBits x.body (e / 8) 1 1 }) x
  | 4 => es.foldl (fun x e => setStale x (e / r.rowLen) true) x
  | _ => x

/-- The offsets of the bad lines of a block. -/
def Region.badOffs (r : Region) (bad : Nat → Bool) (base : Nat) : List Nat :=
  ((List.range (r.block / 64)).map (64 * ·)).filter fun o => bad (base + o)

/-- A record built exactly from its block (R339). -/
def Region.build (r : Region) (rd : Reader) (bad : Nat → Bool) (k base : Nat) : Rec :=
  let x := match k with
    | 1 => r.buildBounds rd base Rec.blank
    | 2 => r.buildSum rd base Rec.blank
    | 3 => r.buildZmap rd base Rec.blank
    | _ => r.buildSketch rd base Rec.blank
  (r.badOffs bad base).foldl (fun x o => r.spoil k o x) x

/-- A rescan of a record (R351): ZMAP is always exact; POISON goes only when no line of the block is bad. -/
def Region.rescan (r : Region) (rd : Reader) (bad : Nat → Bool) (k base : Nat) (x : Rec) : Rec :=
  let y := match k with
    | 1 => r.buildBounds rd base { x with poison := false }
    | 2 => r.buildSum rd base { x with poison := false }
    | 3 => { x with poison := false }
    | _ => (List.range r.rpb).foldl (fun x i => if staleRow x i then r.sketchRow rd base x i else x)
        { x with poison := false }
  (r.badOffs bad base).foldl (fun x o => r.spoil k o x) y

/-! ### Records in the state -/

def record (s : State) (key : Nat) : Rec := tget Rec.blank s.records key
def setRecord (s : State) (key : Nat) (x : Rec) : State := { s with records := tset Rec.blank s.records key x }
def Region.kinds (r : Region) : List Nat := [r.k1, r.k2].filter (· != 0)

/-- The reader of a state as every party sees it (R330). -/
def readerOf (i : Image) : Reader := fun va => (vbyte i va).getD 0
def badOf (i : Image) : Nat → Bool := fun va => vbad i va 1

/-- A committed write of `bytes` at `va`, within one block; `rd` reads the state before it (R340 to R342). SKETCH follows when
the step ends (`sketchEnd`). -/
def digestWrite (s : State) (rd : Reader) (va : Nat) (bytes : List Byte) : State :=
  match regionAt s va with
  | none => s
  | some (n, r) =>
    let b := (va - r.base) / r.block
    let base := r.base + b * r.block
    let rd' : Reader := fun a => if va ≤ a ∧ a < va + bytes.length then nth 0 bytes (a - va) else rd a
    let es := r.touched (va - base) bytes.length
    let changed := (es.map fun e => (e, r.code rd base e, r.code rd' base e)).filter fun c => c.2.1 != c.2.2
    r.kinds.foldl (fun s k =>
      let key := recKey n b k
      let x := record s key
      let x := match k with
        | 1 => changed.foldl (fun x c => r.boundsStep x c.1 (r.val c.2.1) (r.val c.2.2)) x
        | 2 => changed.foldl (fun x c => r.sumStep x (r.val c.2.1) (r.val c.2.2)) x
        | 3 => changed.foldl (fun x c => r.setZmap rd' base x (c.1 / 8)) x
        | _ => x
      setRecord s key x) s

/-- A committed write or a keeper's read meets the bad line that holds `va` (R345). -/
def digestSpoil (s : State) (va : Nat) : State :=
  match regionAt s va with
  | none => s
  | some (n, r) =>
    let b := (va - r.base) / r.block
    let o := (va - r.base) % r.block / 64 * 64
    r.kinds.foldl (fun s k => setRecord s (recKey n b k) (r.spoil k o (record s (recKey n b k)))) s

/-- The rows of a sketched region that `n` bytes at `va` lie in, by their addresses. -/
def sketchedRows (s : State) (va n : Nat) : List Nat :=
  match regionAt s va with
  | none => []
  | some (_, r) =>
    if r.keeps 4 && n != 0 then
      let first := (va - r.base) / r.rowBytes
      (List.range ((va + n - 1 - r.base) / r.rowBytes + 1 - first)).map fun i => r.base + (first + i) * r.rowBytes
    else []

/-- Did a write of a row's bytes meet a bad line (R345)? -/
def rowSpoiled (log : List StepWrite) (a n : Nat) : Bool :=
  log.any fun w => w.bad && a < w.va / 64 * 64 + 64 && w.va / 64 * 64 < a + n

/-- The first addresses in each line marked bad among `n` bytes. -/
def badLinesUnder (i : Image) (va n : Nat) : List Nat :=
  ((List.range ((va + n - 1) / 64 + 1 - va / 64)).map fun k => max va ((va / 64 + k) * 64)).filter fun a => vbad i a 1

/-- A keeper's read of `n` bytes meets the lines marked bad among them (R335): the events of a commit step carry the quantum agent's source,
those of a command the firmware's (R401). -/
def keeperReads (s : State) (src va n : Nat) : State :=
  (badLinesUnder s.image va n).foldl (fun s a => match firstBad s.image a 1 with
    | some pa => lineErrorBy s src pa []
    | none => s) s

/-- A row that the writes of a step touched, `old` reading the state before it (R343): one all of whose elements changed is sketched anew,
and so is one of which none did, which its keeper reads again, lines marked bad and all (R345); a row of which some changed, or of which a
write met a bad line, becomes stale. -/
def sketchEndRow (old : Reader) (log : List StepWrite) (s : State) (row : Nat) : State :=
  let rd := readerOf (snapImage s)
  match regionAt s row with
  | none => s
  | some (n, r) =>
    let b := (row - r.base) / r.block
    let base := r.base + b * r.block
    let k := (row - base) / r.rowBytes
    let same := (List.range r.rowLen).filter fun c => r.code old row c == r.code rd row c
    let key := recKey n b 4
    let stale := setRecord s key (setStale (record s key) k true)
    if rowSpoiled log row r.rowBytes then stale
    else if same.isEmpty then setRecord s key (r.sketchRow rd base (record s key) k)
    else if same.length = r.rowLen then
      match badLinesUnder s.image row r.rowBytes with
      | [] => setRecord s key (r.sketchRow rd base (record s key) k)
      | as => as.foldl digestSpoil (keeperReads s (srcDie s 0) row r.rowBytes)
    else stale

/-- The rows that the writes of a step touched follow it. -/
def sketchEnd (s : State) (old : Reader) (log : List StepWrite) : State :=
  (distinct (log.flatMap fun w => sketchedRows s w.va w.bytes.length)).foldl (sketchEndRow old log) s

/-- The keepers apply one write: its bytes, then the bad line it met (R340 to R342, R345). The table holds the bytes applied so far. -/
def keepWrite (rd : Reader) (p : State × Tab Byte) (w : StepWrite) : State × Tab Byte :=
  if (regionAt p.1 w.va).isNone then p
  else
    let s := digestWrite p.1 (overReader rd p.2) w.va w.bytes
    (if w.bad then digestSpoil s w.va else s, putBytes p.2 w.va w.bytes)

/-- The keepers follow the writes of a step, in order, from the state that `old` reads to the state as it now is (R343, R344). -/
def keepStep (s : State) (old : Reader) (log : List StepWrite) : State :=
  let now := readerOf (snapImage s)
  let end_ : List StepWrite := log.map fun w => { w with bytes := (List.range w.bytes.length).map fun k => now (w.va + k), bad := false }
  sketchEnd ((log ++ end_).foldl (keepWrite old) (s, [])).1 old log

/-- Build every record of the blocks that `n` bytes at `va` touch, for a command (R339, R345). -/
def rebuildRange (s : State) (va n : Nat) : State :=
  let rd := readerOf (snapImage s)
  let bad := badOf s.image
  s.regions.foldl (fun s e =>
    let r := e.2
    let bs := (List.range (r.len / r.block)).filter fun b =>
      va < r.base + (b + 1) * r.block && r.base + b * r.block < va + n
    bs.foldl (fun s b =>
      let base := r.base + b * r.block
      let s := keeperReads s (srcFirmware s) base r.block
      r.kinds.foldl (fun s k => setRecord s (recKey e.1 b k) (r.build rd bad k base)) s) s) s

/-- Rebuild one record from its block (R353). -/
def rebuildKey (s : State) (key : Nat) : State :=
  let n := key / 8 / 2 ^ 48
  let b := key / 8 % 2 ^ 48
  match s.regions.find? fun e => e.1 == n with
  | none => s
  | some (_, r) => setRecord s key (r.build (readerOf (snapImage s)) (badOf s.image) (key % 8) (r.base + b * r.block))

/-- DREFR's rescan of blocks (R351). -/
def rescanBlocks (s : State) (n first count : Nat) : State :=
  match s.regions.find? fun e => e.1 == n with
  | none => s
  | some (_, r) =>
    (List.range count).foldl (fun s i =>
      let base := r.base + (first + i) * r.block
      let s := keeperReads s (srcDie s 0) base r.block
      r.kinds.foldl (fun s k =>
        let key := recKey n (first + i) k
        setRecord s key (r.rescan (readerOf (snapImage s)) (badOf s.image) k base (record s key))) s) s

/-- A record as a reader sees it: a record under an error in the digest area, or in a retired part of it, is not vouched for (R353). -/
def readRecord (s : State) (key : Nat) : Rec :=
  let x := record s key
  { x with valid := x.valid && !s.badRecords.contains key && !s.deadRecords.contains key }

/-- The records under an error are rebuilt from their blocks (R353). -/
def rebuildBad (s : State) : State :=
  let s' := s.badRecords.foldl rebuildKey s
  { s' with badRecords := [] }

/-- The 2,048 bits of a record with its header and stamp (R339). -/
def Rec.bits (x : Rec) (k : Nat) (stamp : Nat) : BitVec 2048 :=
  let hdr : BitVec 64 := BitVec.ofNat 64
    (stamp % 2 ^ 32 * 2 ^ 32 + x.valid.toNat * 2 ^ 13 + x.poison.toNat * 2 ^ 12 + x.inv.toNat * 2 ^ 11 + x.ovf.toNat * 2 ^ 10 +
      x.stale.toNat * 2 ^ 9 + x.tight.toNat * 2 ^ 8 + k)
  hdr ++ x.body

end Sys2Proof.Machine
end

