-- ==== Sys2Proof/Machine/Memory.lean ====
section
/-!
DEFINITION. Writes of global memory as they perform: the write units of a commit step (R324, R325, R331, R332, R335), held in the
step's view until it completes, and the direct writes of drones, guests and the host (R345, R357, R364).
-/
namespace Sys2Proof.Machine

/-! ### What a step's units and its calls see -/

/-- Does a page that the step un-elides hold a physical byte? As the step lands, its frame takes the pattern. -/
def StepView.fills (v : StepView) (pa : Nat) : Bool :=
  v.opened.any fun e => e.2.frame * 2 ^ 16 ≤ pa && pa < e.2.frame * 2 ^ 16 + e.2.size

/-- The view after bytes, by offset, that a call of the step has written at once from a physical address on: they stand in memory, and in
the view where the pattern will come over memory (R331, R364). -/
def StepView.direct (v : StepView) (pa : Nat) (bytes : List (Nat × Byte)) : StepView :=
  { v with bytes := bytes.foldl (fun t b => if v.fills (pa + b.1) then tput (pa + b.1) b.2 t else tdel (pa + b.1) t) v.bytes }

/-- Bytes with their offsets. -/
def offsets (bytes : List Byte) : List (Nat × Byte) := (List.range bytes.length).zip bytes

/-- The byte of memory under the bytes of a view: the pattern where a page of the frame has been un-elided, the last such page first. -/
def under (m : List Host.Cell) (v : StepView) (pa : Nat) : Byte :=
  match v.opened.reverse.find? fun e => e.2.frame * 2 ^ 16 ≤ pa && pa < e.2.frame * 2 ^ 16 + e.2.size with
  | some e => e.2.w1.extractLsb' (8 * (pa % 8)) 8
  | none => mget m pa

/-- The byte of a virtual address with the writes of a step over committed memory (R330, R331). -/
def viewByte (i : Image) (v : StepView) (va : Nat) : Option Byte :=
  match findPage i.pages va with
  | none => none
  | some (base, p) =>
    let pa := physOf base p va
    if p.rep = 2 && (tfind v.opened (base / 2 ^ 16)).isNone then some (p.w1.extractLsb' (8 * (va % 8)) 8)
    else some ((tfind v.bytes pa).getD (under i.mem v pa))

def viewReader (i : Image) (v : StepView) : Reader := fun va => (viewByte i v va).getD 0

/-- Has a view rewritten a line, alone or with the frame of a page it un-elided? -/
def StepView.rewrites (v : StepView) (line : Nat) : Bool :=
  v.cleared.contains line || v.fills (64 * line)

/-- The bad lines as a view has them: without those it rewrote. -/
def viewBad (i : Image) (v : StepView) (va n : Nat) : Bool := vbad { i with bad := i.bad.filter fun k => !v.rewrites k } va n

/-- The commit step in progress of a launch, or one with nothing in it. -/
def emptyStep (q : Nat) : Commit := { q := q, units := [], view := StepView.empty, undo := [], log := [], amos := [], calls := [] }
def stepOf (s : State) (l : Nat) : Commit := ((launch s l).commit).getD (emptyStep 0)
def modStep (s : State) (l : Nat) (f : Commit → Commit) : State :=
  modLaunch s l fun x => { x with commit := x.commit.map f }

/-- The image a step's units see. -/
def stepReader (s : State) (l : Nat) : Reader := viewReader s.image (stepOf s l).view

/-- The writes of a step stand in the order of their places, those of one place in the order in which they came. -/
def insWrite (w : StepWrite) : List StepWrite → List StepWrite
  | [] => [w]
  | x :: t => if w.place < x.place then w :: x :: t else x :: insWrite w t

/-- Writes join the log of the step of launch `l`, and the list of what its quanta wrote (R240). -/
def logWrites (s : State) (l : Nat) (ws : List StepWrite) : State :=
  let s := modStep s l fun c => { c with log := ws.foldl (fun t w => insWrite w t) c.log }
  let q := (stepOf s l).q
  modLaunch s l fun x => { x with
    writeLog := x.writeLog ++ (ws.filter fun w => !w.bytes.isEmpty).map fun w => (q, w.va, w.bytes.length) }

/-- A write through every address at which its bytes are read (R344). -/
def throughAliases (s : State) (opened : Tab Page) (w : StepWrite) : List StepWrite :=
  w :: (aliasesOf s opened w.va).map fun va => { w with va := va }

/-! ### Un-eliding (R331) -/

/-- A frame of `n` bytes takes a pattern of 8 bytes. -/
def fillPattern (m : List Host.Cell) (a : Nat) (w : Word) (n : Nat) : List Host.Cell :=
  (List.range n).foldl (fun m k => mset m (a + k) (w.extractLsb' (8 * (k % 8)) 8)) m

/-- A page entry with REP 0. -/
def Page.plain (p : Page) : Page := { p with w0 := p.w0 &&& ~~~(3 <<< 58 : Word), w1 := 0 }

/-- What un-eliding a page changes at the other addresses of its frame: the pattern, in pieces that lie in one block of a digest each. -/
def fillWrites (s : State) (opened : Tab Page) (place : Nat) (direct : Bool) (base : Nat) (p : Page) : List StepWrite :=
  let piece : List Byte := (List.range 512).map fun k => p.w1.extractLsb' (8 * (k % 8)) 8
  (List.range (p.size / 2 ^ 16)).flatMap fun u => (aliasesOf s opened (base + 2 ^ 16 * u)).flatMap fun va =>
    (List.range 128).map fun i => { place := place, direct := direct, va := va + 512 * i, bytes := piece, bad := false }

/-- A page is un-elided in memory: its frame takes the pattern and its lines are sound; its entry is plain, for accesses that have issued
too, since un-eliding is no change of the translation; the steps that have it un-elided in their views have it so in memory now. -/
def landPage (s : State) (base : Nat) (p : Page) : State :=
  let n := base / 2 ^ 16
  let first := p.frame * 2 ^ 16
  let inFrame (pa : Nat) : Bool := first ≤ pa && pa < first + p.size
  let s := s.launches.foldl (fun s e => modStep s e.1 fun c =>
    { c with view := { c.view with opened := c.view.opened.filter fun o => o.1 != n }, undo := c.undo.filter fun u => !inFrame u.1 }) s
  { s with
    mem := fillPattern s.mem first p.w1 p.size
    pages := if (tget Page.absent s.pages n).rep = 2 then tset Page.absent s.pages n (tget Page.absent s.pages n).plain else s.pages
    badLines := s.badLines.filter fun l => !inFrame (64 * l)
    harts := s.harts.map fun h => (h.1, { h.2 with gloads := h.2.gloads.map load })
    drones := s.drones.map fun d => (d.1, { d.2 with bmac := d.2.bmac.map run }) }
where
  /-- A load that was translated by the page. -/
  load (g : GLoad) : GLoad := if g.base = base ∧ g.page = p then { g with page := p.plain } else g
  /-- A BMAC that was. -/
  run (r : BmacRun) : BmacRun :=
    let n := base / 2 ^ 16
    if tget Page.absent r.pages n = p then { r with pages := tset Page.absent r.pages n p.plain } else r

/-- Does a unit at a later place write the byte at a physical address in the step's order (R324)? -/
def writtenLater (s : State) (log : List StepWrite) (place pa : Nat) : Bool :=
  log.any fun w => place < w.place && !w.direct && match findPage s.pages w.va with
    | some (b, p) => physOf b p w.va ≤ pa && pa < physOf b p w.va + w.bytes.length
    | none => false

/-- The call at a place of launch `l`'s step un-elides a page: what earlier units wrote into its frame is under the pattern, which joins the
log, unless an earlier unit has un-elided the page. `v` is the step's view before. -/
def noteUnelide (s : State) (l place : Nat) (v : StepView) (base : Nat) (p : Page) : State :=
  let first := p.frame * 2 ^ 16
  let stays (c : Commit) (e : Nat × Byte) : Bool := !(first ≤ e.1 && e.1 < first + p.size) || writtenLater s c.log place e.1
  if (tfind v.opened (base / 2 ^ 16)).isSome then s
  else
    logWrites (modStep s l fun c => { c with view := { c.view with bytes := c.view.bytes.filter (stays c) } }) l
      (fillWrites s v.opened place true base p)

/-- A constant-elided page is un-elided at once, before a write that performs at once; `ls` are the steps, each with its place, of the call
that writes. The keepers learn of it through those steps' logs, or at once. -/
def unelide (s : State) (ls : List (Nat × Nat)) (va : Nat) : State :=
  match findPage s.pages va with
  | some (base, p) =>
    if p.rep = 2 then
      let t := landPage s base p
      if ls.isEmpty then keepStep t (readerOf (snapImage s)) (fillWrites s [] 0 false base p)
      else ls.foldl (fun t l => noteUnelide t l.1 l.2 (stepOf s l.1).view base p) t
    else s
  | none => s

/-- A unit of a step writes a constant-elided page: in the step's view the frame takes the pattern, over whatever earlier units wrote
into it. -/
def openPage (v : StepView) (base : Nat) (p : Page) : StepView :=
  let first := p.frame * 2 ^ 16
  if p.rep = 2 && (tfind v.opened (base / 2 ^ 16)).isNone then
    { v with
      bytes := v.bytes.filter fun e => !(first ≤ e.1 && e.1 < first + p.size)
      opened := v.opened ++ [(base / 2 ^ 16, p)] }
  else v

/-! ### Write units in their step -/

/-- What became of a piece of a unit. -/
inductive Landed | done | dropped (origin : Byte)
deriving DecidableEq, Repr

/-- Does a line count as bad at this place of the step? -/
def lineBad (s : State) (l pa : Nat) : Bool := s.badLines.contains (pa / 64) && !(stepOf s l).view.rewrites (pa / 64)

/-- Bytes of a unit at a physical address within one line, at their place in the step; `whole` says that the unit covers the line. A part
of a bad line is dropped, the whole of one rewrites it (R335); the event is the quantum agent's (R401). -/
def stepPut (s : State) (l : Nat) (key : Word) (pa : Nat) (bytes : List Byte) (whole : Bool) : State × Landed :=
  let bad := lineBad s l pa
  if bad && !whole then (lineErrorBy s (srcDie s 0) pa [key], .dropped 0x14)
  else
    (modStep s l fun c =>
      { c with view := { c.view with
          bytes := putBytes c.view.bytes pa bytes
          cleared := if bad then c.view.cleared ++ [pa / 64] else c.view.cleared } }, .done)

/-- WRITE_DROPPED (R332). -/
def dropWrite (s : State) (key : Word) (va : Nat) (o : Byte) : State × Landed :=
  (logEv s (srcDie s 0) .writeDropped [key, BitVec.ofNat 64 va], .dropped o)

/-- The page of a unit's bytes is un-elided in the step's view if it was constant-elided. -/
def stepOpen (s : State) (l place base : Nat) (p : Page) : State :=
  let v := (stepOf s l).view
  if p.rep = 2 && (tfind v.opened (base / 2 ^ 16)).isNone then
    logWrites (modStep s l fun c => { c with view := openPage c.view base p }) l (fillWrites s v.opened place false base p)
  else s

/-- A unit's bytes within one 64-byte line at their place in the step. A page that is absent or compressed drops them (R332); so does one
that has become remote since the issue (R387; DEDUCED, notes/assumptions/59.md). -/
def stepWrite (s : State) (l place : Nat) (key : Word) (va : Nat) (bytes : List Byte) (whole : Bool) : State × Landed :=
  match findPage s.pages va with
  | none => dropWrite s key va 0x07
  | some (base, p) =>
    if p.rep = 1 then dropWrite s key va 0x0D
    else if s.remotePage p then dropWrite s key va 0x07
    else
      let s := stepOpen s l place base p
      let pa := physOf base p va
      let met := lineBad s l pa
      let r := stepPut s l key pa bytes whole
      let wrote : List Byte := match r.2 with
        | .done => bytes
        | .dropped _ => []
      let w : StepWrite := { place := place, direct := false, va := va, bytes := wrote, bad := met }
      (logWrites r.1 l (throughAliases s (stepOf s l).view.opened w), r.2)

/-! ### Direct writes -/

/-- The steps in progress that dispatched the call with a key and number which context `h` runs or ran, each with the call's place. -/
def stepsOfCall (s : State) (h : Nat) (o : Option (Word × Nat)) : List (Nat × Nat) :=
  s.launches.filterMap fun e => (e.2.commit.bind fun c => c.calls.find? fun x => x.h == h && o == some (x.key, x.seqNo)).map fun x =>
    (e.1, x.place)

/-- Bytes reach the array at once: the steps in `ls` note what stood there, any other step's note of it is void. -/
def arrayWrite (s : State) (ls : List Nat) (pa : Nat) (bytes : List Byte) : State :=
  let idx := List.range bytes.length
  let old := s.mem
  let s := s.launches.foldl (fun s e => modStep s e.1 fun c =>
    { c with undo :=
        if ls.contains e.1 then
          idx.foldl (fun u k => if (tfind u (pa + k)).isSome then u else tput (pa + k) (mget old (pa + k)) u) c.undo
        else dropBytes c.undo pa bytes.length }) s
  { s with mem := mwrite s.mem pa bytes }

/-- A direct write of the call at a place of launch `l`'s step joins its log, over what earlier units wrote there. -/
def noteCallWrite (s : State) (l pa : Nat) (ws : List StepWrite) : State :=
  match ws with
  | [] => s
  | w :: _ =>
    let s := modStep s l fun c =>
      { c with view := c.view.direct pa ((offsets w.bytes).filter fun b => !writtenLater s c.log w.place (pa + b.1)) }
    logWrites s l ws

/-- A write of a call reaches the keepers: through the logs of the steps that hold the call, or at once, `old` reading the state before. -/
def noteWrite (s : State) (old : Reader) (ls : List (Nat × Nat)) (pa : Nat) (w : StepWrite) : State :=
  let ws := throughAliases s (ls.flatMap fun l => (stepOf s l.1).view.opened) w
  if ls.isEmpty then keepStep s old ws
  else ls.foldl (fun s l => noteCallWrite s l.1 pa (ws.map fun w => { w with place := l.2 })) s

/-- Bytes within one line perform in the array for the call `o` of context `h` (R364). A part of a bad line is dropped, the whole of one
rewrites it (R335). -/
def callWrite (s : State) (h : Nat) (o : Option (Word × Nat)) (pa va : Nat) (bytes : List Byte) : State :=
  let ls := stepsOfCall s h o
  let known := ls.any fun l => (stepOf s l.1).view.rewrites (pa / 64)
  let met := s.badLines.contains (pa / 64) && !known
  let whole := bytes.length = 64
  let w : StepWrite := { place := 0, direct := true, va := va, bytes := if met && !whole then [] else bytes, bad := met }
  let old := readerOf (snapImage s)
  let s := if met && !whole then lineError s pa [] else s
  let s := if whole then { s with badLines := delNat (pa / 64) s.badLines } else s
  noteWrite (arrayWrite s (ls.map (·.1)) pa w.bytes) old ls pa w

/-- Cut bytes at 64-byte lines: (offset, bytes). -/
def cutLines : Nat → Nat → List Byte → List (Nat × List Byte)
  | 0, _, _ => []
  | n + 1, a, bs =>
    if bs.isEmpty then []
    else
      let k := 64 - a % 64
      (a, bs.take k) :: cutLines n (a + k) (bs.drop k)

/-- The call that runs on a context, by key and number. -/
def callId (s : State) (h : Nat) : Option (Word × Nat) := (hart s h).run.map fun r => (r.msg.skey, r.msg.seqNo)

/-- A store of a call to global memory at a virtual address (R357, R364). -/
def callStore (s : State) (h va : Nat) (bytes : List Byte) : State :=
  (cutLines (bytes.length / 64 + 2) va bytes).foldl (fun s c =>
    let s := unelide s (stepsOfCall s h (callId s h)) c.1
    match findPage s.pages c.1 with
    | some (base, p) => callWrite s h (callId s h) (physOf base p c.1) c.1 c.2
    | none => s) s

/-- The records of `n` bytes at a virtual address, and at every other address where those bytes are read, are built anew (R345). -/
def rebuildAll (s : State) (va n : Nat) : State :=
  let pieces := (List.range ((va % 2 ^ 16 + n + 2 ^ 16 - 1) / 2 ^ 16)).map fun i =>
    (max va ((va / 2 ^ 16 + i) * 2 ^ 16), min (va + n) ((va / 2 ^ 16 + i + 1) * 2 ^ 16))
  pieces.foldl (fun s p => (aliasesOf s [] p.1).foldl (fun s a => rebuildRange s a (p.2 - p.1)) s) (rebuildRange s va n)

/-- Bytes written by the firmware or the scheduler into global memory at a virtual address, line by line (R331, R345). They are no write
unit: on a part of a line marked bad they are written too, and the line stays bad (R335, R402; DESIGN CHOICE, notes/assumptions/73.md). On a
remote page there is no local frame, and they are dropped (R387; DEDUCED, notes/assumptions/59.md). -/
def deviceWrite (s : State) (va : Nat) (bytes : List Byte) : State :=
  let s := (cutLines (bytes.length / 64 + 2) va bytes).foldl (fun s c =>
    match findPage s.pages c.1 with
    | some (b, p) =>
      if s.remotePage p then s
      else
        let pa := physOf b p c.1
        let s := unelide s [] c.1
        let s :=
          if !s.badLines.contains (pa / 64) then s
          else if c.2.length < 64 then lineErrorBy s (srcFirmware s) pa []
          else { s with badLines := delNat (pa / 64) s.badLines }
        arrayWrite s [] pa c.2
    | none => s) s
  rebuildAll s va bytes.length

/-- The bad lines under `n` bytes that the firmware reads at a virtual address are logged, and their rows' tests fall due (R335). -/
def firmwareMeets (s : State) (i : Image) (va n : Nat) : State :=
  if i.bad.isEmpty then s
  else (badLinesUnder i va n).foldl (fun s a => match firstBad i a 1 with
    | some pa => lineErrorBy s (srcFirmware s) pa []
    | none => s) s

/-- `n` bytes as the firmware reads them: what a line marked bad holds is a free value (DESIGN CHOICE, notes/assumptions/73.md). -/
def firmwareReads (s : State) (i : Image) (va n : Nat) : List Byte :=
  if i.bad.isEmpty then vread i va n
  else (List.range n).map fun k => match firstBad i (va + k) 1 with
    | some pa => Config.badByte s.tick pa
    | none => (vbyte i (va + k)).getD 0

/-! ### What a call sees (R361 to R363) -/

/-- The view of a step's writes, in their order: a unit's over what stood there, a call's in memory. -/
def replayWrite (pages : Tab Page) (v : StepView) (w : StepWrite) : StepView :=
  match findPage pages w.va with
  | none => v
  | some (base, p) =>
    let pa := physOf base p w.va
    if w.direct then v.direct pa (offsets w.bytes)
    else if w.bytes.isEmpty then v
    else
      let v := openPage v base p
      { v with bytes := putBytes v.bytes pa w.bytes, cleared := if w.bad then v.cleared ++ [pa / 64] else v.cleared }

/-- What the units before a place of a step wrote, as the call at that place sees it with its own writes over it. -/
def viewBefore (s : State) (c : Commit) (place : Nat) : StepView :=
  (c.log.filter fun w => w.place < place || (w.direct && w.place == place)).foldl (replayWrite s.pages) StepView.empty

/-- What the units before a call of context `h` wrote in the step that holds it, by the call's key and number. -/
def stepViewOf (s : State) (h : Nat) (key : Word) (n : Nat) : StepView :=
  match (stepsOfCall s h (some (key, n))).head? with
  | some l => viewBefore s (stepOf s l.1) l.2
  | none => StepView.empty

/-- What the call that runs on a context sees beside committed memory: for an ordered call the bytes of earlier units of its step. -/
def callView (s : State) (h : Nat) : StepView :=
  match (hart s h).run with
  | none => StepView.empty
  | some r => if r.msg.ordered then stepViewOf s h r.msg.skey r.msg.seqNo else StepView.empty
def callReader (s : State) (h : Nat) : Reader := viewReader s.image (callView s h)

/-- Does a step in progress hold back reads of a block's records (R344)? -/
def recordHeld (s : State) (a n : Nat) : Bool :=
  s.launches.any fun e => match e.2.commit with
    | some c => c.log.any fun w => w.va / 64 * 64 < a + n && a < max (w.va / 64 * 64 + 64) (w.va + w.bytes.length)
    | none => false

end Sys2Proof.Machine
end

