-- ==== Sys2Proof/Machine/Issue.lean ====
section
/-!
DEFINITION. The issue of one bundle: fetch (R22), landing (R89), the decode checks (R28), waits, blocking (R195), the precise
traps (R95), then the slots in slot order on the state before the bundle, and what happens as the bundle ends (R99, R128 to
R130, R305, R322). Every result and every mark of a slot is deferred, so that no slot reads what another slot of its bundle writes.
-/
namespace Sys2Proof.Machine

/-! ### Fetch and decode -/

/-- One slot as it was decoded: `raw` is its layout where its field values are at fault, `sp` the SP bit of its bundle's mode byte,
which an illegal byte has too (R31). -/
structure SlotIn where
  slot : Slot
  sp : Bool
  dec : Dec
  raw : Option Instr
deriving DecidableEq, Repr

/-- A slot that holds NOP. -/
def SlotIn.nop (t : Slot) : SlotIn := { slot := t, sp := false, dec := .ok (.nop t), raw := some (.nop t) }

/-- One instruction as a decoded slot. -/
def SlotIn.one (sp : Bool) (i : Instr) : SlotIn :=
  let dec := if i.wf then (match fieldRange i (encodeSlot i) with | some (c, n) => Dec.range c n | none => .ok i) else .illegal
  { slot := (slotOf i).getD .sc, sp := sp, dec := dec, raw := some i }

def decodeBundle (b : Line) : List SlotIn :=
  Slot.all.map fun t => { slot := t, sp := b.getLsbD 455, dec := decodeSlot t (slotWord b t), raw := rawSlot t (slotWord b t) }

/-- The mode byte of a bundle: the low byte of its SY slot (R18, R31). -/
def modeByte (b : Line) : Byte := b.extractLsb' 448 8

/-- A trap before any slot was decoded. -/
def earlyTrap (cause : Nat) (info : Word) : Trap := { cause := cause, slots := 0, info := info }

/-- Fetch the bundle at `pc` of context `h` in R22's order. -/
def fetch (s : State) (h : Nat) : Except Trap Line :=
  let pc := (hart s h).pc
  let at56 := low 56 pc
  if pc.toNat / 2 ^ 56 ≠ 0 then .error (earlyTrap 0x07 at56)
  else
    match findPage s.pages pc.toNat with
    | none => .error (earlyTrap 0x07 at56)
    | some (_, p) =>
      if !p.ex || s.remotePage p then .error (earlyTrap 0x08 at56)
      else if p.rep = 1 then .error (earlyTrap 0x0D at56)
      else if vbad s.image pc.toNat 64 then .error (earlyTrap 0x14 at56)
      else .ok (BitVec.ofNat 512 (leNat (vread s.image pc.toNat 64)))

/-! ### Faults of a bundle -/

/-- A fault of one slot: slot index, cause, TINFO. -/
abbrev SlotFlt := Nat × Nat × Word

def fltBefore (a b : SlotFlt) : Bool := a.1 < b.1 || (a.1 == b.1 && a.2.1 < b.2.1)

/-- The mask of every faulting slot, with the lowest cause of the lowest one (R95). -/
def trapOf (fs : List SlotFlt) : Option Trap :=
  match sortBy fltBefore fs with
  | [] => none
  | f :: _ => some { cause := f.2.1, slots := fs.foldl (fun m x => m ||| 2 ^ x.1) 0, info := f.2.2 }

/-- The registers a decoded slot names, for R29. DEDUCED (notes/assumptions/38.md): an illegal slot names none. -/
def SlotIn.use (h : Nat) (m : Mode) (x : SlotIn) : Use := match x.dec, x.raw with
  | .illegal, _ => {}
  | _, some i => if illegalHere h m i then {} else useOf i
  | _, none => {}

/-- The mode a slot's checks are made under. -/
def SlotIn.mode (m : Option Mode) (x : SlotIn) : Mode := { m.getD .zero with sp := x.sp }

/-- The decode faults of a bundle (R26 to R29, R31, R33, R35). -/
def decodeFaults (h : Nat) (c : Ctx) (m : Option Mode) (l : List SlotIn) : List SlotFlt :=
  l.filterMap (fun x =>
    (slotFault h c (x.mode m) x.dec x.raw ((l.filter fun y => y.slot != x.slot).map (SlotIn.use h (x.mode m)))).map fun t =>
      (x.slot.index, t)) ++
  (if m.isNone then [(7, 0x01, 0)] else [])

/-- The instructions of a bundle whose slots decode, in slot order. -/
def instrsOf (l : List SlotIn) : List Instr := l.filterMap fun x => match x.dec with
  | .ok i => some i
  | _ => none

/-! ### Barrier waits as they are served (R251, R252) -/

/-- The barrier that the bundle's WAITB or WAITANY takes. -/
def served (s : State) (i : Instr) : Option Nat :=
  match i with
  | .waitb _ | .waitany .. => chosenBarrier (core s (coreOf s.cur)) (me s) (ctxNo s.cur) (waitMask i)
  | _ => none

/-- One round of barrier `b` is consumed. -/
def consumeRound (s : State) (b : Nat) : State :=
  let y := barrier s (coreOf s.cur) b
  setBarrier s (coreOf s.cur) b { y with count := y.count - y.target }

/-- WAITANY moves CWPOS past the barrier it took. -/
def moveCwpos (s : State) (b : Nat) : State :=
  modMe s fun c => { c with csr := { c.csr with cwpos := BitVec.ofNat 64 ((b + 1) % 8) } }

/-- A served wait whose barrier has FLT traps after it has consumed the round (R252), with the TINFO that the fault recorded (R94). -/
def faultedWait (s : State) (i : Instr) : Option (State × SlotFlt) :=
  match served s i with
  | none => none
  | some b =>
    let y := barrier s (coreOf s.cur) b
    if y.flt then
      let t := consumeRound s b
      let t := match i with
        | .waitany sd _ => modMe (moveCwpos t b) fun c => c.fillScalar sd.toNat (BitVec.ofNat 64 b)
        | _ => t
      some (t, (7, y.fcause.toNat, y.finfo))
    else none

/-- The context no longer waits at a barrier of its core. -/
def dropWaiter (s : State) (h : Nat) : State :=
  if isDrone h then s else modCore s (coreOf h) fun k => { k with waiters := k.waiters.filter fun w => w.1 != ctxNo h }

/-! ### The verdict on a bundle -/

inductive Verdict
  | go | block | trap (t : Trap)
deriving DecidableEq, Repr

/-- What is known before the bundle is fetched and decoded (R306, R307): SPMAX goes before a fetch fault of the same bundle (DESIGN CHOICE,
notes/assumptions/74.md). -/
def early (s : State) (h : Nat) : Option Verdict :=
  let c := hart s h
  if !isStrand h then none
  else if c.stopReq && c.yielded then some .block
  else if c.csr.spmax.toNat ≤ c.spCount then some (.trap (earlyTrap 0x10 0))
  else none

/-- Is the bundle an effective safe point (R33)? -/
def effectiveSP (c : Ctx) (m : Mode) : Bool := m.sp && !c.exposed

/-- A bundle that may go: a guest's stores first wait for their channels (R375). -/
def passChannels (s : State) (h : Nat) (is : List Instr) : State × Verdict :=
  let r := seekAll s (guestChannels s h is) (.guest h)
  (r.1, if r.2 then .go else .block)

/-- The verdict on a decoded bundle: a decode fault comes before anything that blocks (R28), the limit of R326 before its waits. Its waits
arrive, and a served wait with FLT consumes its round, in the state returned: also where a lower-numbered slot of the bundle traps (DESIGN
CHOICE, notes/assumptions/49.md: R95 and R252 do not say). -/
def judge (s : State) (h : Nat) (m : Option Mode) (l : List SlotIn) : State × Verdict :=
  match trapOf (decodeFaults h (hart s h) m l) with
  | some t => (s, .trap t)
  | none =>
    if (hart s h).stopReq && effectiveSP (hart s h) (m.getD Mode.zero) then (s, .block)
    else if isStrand h && runAheadBlocked s (hart s h) then (s, .block)
    else
      let is := instrsOf l
      let s := (is.filter isWait).foldl arriveWait s
      let c := hart s h
      if isStrand h && runAheadBlocked s c then (s, .block)
      else if is.any fun i => (useIn h i).blocks c || engineBlocks s h i then (s, .block)
      else
        let fs := l.filterMap fun x => match x.dec with
          | .ok i => (issueTrap s h i).map fun t => (x.slot.index, t)
          | _ => none
        let (s, fs) := match is.findSome? (faultedWait s) with
          | some (t, f) => (t, fs ++ [f])
          | none => (s, fs)
        match trapOf fs with
        | some t => (s, .trap t)
        | none => passChannels s h is

/-- A bundle of context `h` that is examined: the state, the verdict, the mode, the instructions. -/
structure Exam where
  state : State
  verdict : Verdict
  mode : Mode
  instrs : List Instr
deriving DecidableEq, Repr

/-- Slots that TSKIP marks execute as NOP (R97). -/
def skipSlots (c : Ctx) (l : List SlotIn) : List SlotIn := l.map fun x => if c.skip.getLsbD x.slot.index then SlotIn.nop x.slot else x

/-- Examine a bundle with its mode and slots. -/
def examineSlots (s : State) (h : Nat) (m : Option Mode) (l : List SlotIn) : Exam :=
  let l := skipSlots (hart s h) l
  let (t, v) := judge s h m l
  { state := t, verdict := v, mode := m.getD Mode.zero, instrs := instrsOf l }

/-- The results due land as the bundle is at issue (R89). -/
def beforeIssue (s : State) (h : Nat) : State := landDue { s with cur := h } h

/-- A bundle without its slots. -/
def Exam.bare (s : State) (v : Verdict) : Exam := { state := s, verdict := v, mode := Mode.zero, instrs := [] }

/-- What is read of the line at the pc goes on, once the channels serve the fetch (R375); the fetch stays served while the bundle blocks. -/
def afterFetch (s : State) (h : Nat) (f : State → Exam) : Exam :=
  let ds := fetchChannels s h
  let a : Access := .fetch h (hart s h).pc.toNat
  let t := ds.foldl (seekAt a) s
  if ds.all fun d => (drone t d).passes a then
    let x := f t
    if x.verdict = .block then x else { x with state := ds.foldl (passedAt a) x.state }
  else .bare t .block

/-- Examine the bundle that context `h` would issue next. A strand that has reached SPMAX traps before its bundle is fetched (DESIGN CHOICE,
notes/assumptions/74.md). -/
def examine (s : State) (h : Nat) : Exam :=
  match early s h with
  | some v => .bare { s with cur := h } v
  | none =>
    let s := beforeIssue s h
    match fetch s h with
    | .error t =>
      if t.cause = 0x14 then afterFetch s h fun s => .bare (readError s s.image (hart s h).pc.toNat 64) (.trap t) else .bare s (.trap t)
    | .ok b => afterFetch s h fun s => examineSlots s h (decodeMode (modeByte b)) (decodeBundle b)

/-- Examine instruction `i` as the one instruction of a bundle with the mode that stands in the state. -/
def examineAlone (s : State) (i : Instr) : Exam :=
  let h := s.cur
  match early s h with
  | some v => { state := s, verdict := v, mode := s.bundle.mode, instrs := [] }
  | none => examineSlots (beforeIssue s h) h (some s.bundle.mode) [SlotIn.one s.bundle.mode.sp i]

/-! ### Opening a bundle -/

/-- Sources read with H = 1 are latched at their positions (R35). -/
def latchReads (c : Ctx) (is : List Instr) : Ctx :=
  (is.flatMap fun i => (useOf i).tsrc).foldl (fun c p => match p.2 with
    | .reg true _ r => { c with latches := tput p.1 (c.tile r.toNat).val c.latches }
    | _ => c) c

/-- The bundle of the current context issues: quantum limits (R139), SPMAX's count (R307), latches (R33, R35). -/
def openBundle (s : State) (m : Mode) (is : List Instr) : State :=
  let c := me s
  let eff := effectiveSP c m
  let c := if isStrand s.cur then beginQuantum c else c
  let c := { c with
    spCount := (if eff then 0 else c.spCount) + 1 + bankStalls (is.flatMap fun i => (useOf i).reads)
    latches := if m.sp then [] else c.latches }
  { setMe s (latchReads c is) with bundle := { Bundle.closed with
    isOpen := true, mode := m, effective := eff, cells := if isDrone s.cur then (drone s (droneOf s.cur)).cells else [] } }

/-! ### Closing a bundle -/

/-- The loop stack after a taken branch (R130): entries the target lies outside of go, with every entry inside them. -/
def popOutside (t : Word) : List LoopEnt → List LoopEnt
  | [] => []
  | e :: es =>
    let rest := popOutside t es
    let out := decide (t.toNat < e.start.toNat ∨ e.last.toNat < t.toNat)
    if out || rest.length < es.length then rest else e :: es

/-- The loop-back at the end of a bundle that took no branch (R130). -/
def loopBack (pc : Word) : List LoopEnt → Word × List LoopEnt
  | [] => (pc + 64, [])
  | e :: es =>
    if e.last = pc then
      if 1 < e.remaining then (e.start, { e with remaining := e.remaining - 1 } :: es) else loopBack pc es
    else (pc + 64, e :: es)

/-- The next pc and loop stack (R21, R128 to R130). -/
def nextPc (c : Ctx) (b : Bundle) : Word × List LoopEnt :=
  match b.target with
  | some t => (t, if b.branch then popOutside t c.loops else c.loops)
  | none =>
    match b.pushed with
    | some e => (c.pc + 64, e :: c.loops)
    | none =>
      match b.skipLoop with
      | some a => (a, c.loops)
      | none => loopBack c.pc c.loops

/-- A scalar that a queue filled within the bundle. -/
def applyFill (c : Ctx) (f : Nat × Word × Option Byte) : Ctx := match f.2.2 with
  | some o => c.poisonScalar f.1 o
  | none => c.fillScalar f.1 f.2.1

/-- SEED moves by the draws of the bundle (R109). -/
def seedAfter (seed : Word) (n : Nat) : Word := seed + BitVec.ofNat 64 n * 0x9E3779B97F4A7C15#64

/-- The context after its bundle: marks, fills, next pc, counts. -/
def afterBundle (c : Ctx) (b : Bundle) : Ctx :=
  let c := b.fills.foldl applyFill (b.marks.foldl applyMark c)
  let n := nextPc c b
  { c with
    pc := n.1
    loops := n.2
    count := c.count + 1
    qBundles := c.qBundles + 1
    skip := 0
    wait := .none
    csr := { c.csr with seed := seedAfter c.csr.seed b.draws } }

/-- The quantum ends with the bundle (R322); EXIT ends the final one, which the strand keeps. -/
def quantumAfter (c : Ctx) (b : Bundle) : Ctx :=
  if !b.exits && (b.endsQ || c.qbLim ≤ c.qBundles) then endQuantum c else c

/-- The choice of context after a bundle (R195): the core keeps issuing from it while it runs. The rotation of the strands starts after
the strand context that last issued, whatever the supervisor and the guest issued since (DEDUCED, notes/assumptions/74.md). -/
def keepIssuing (s : State) (h : Nat) (leave : Bool) : State :=
  if isDrone h then s
  else
    modCore s (coreOf h) fun k =>
      { k with
        issuing := if leave || (hart s h).life != .running then none else some (ctxNo h)
        last := if ctxNo h < 4 then ctxNo h else k.last }

/-- HALT (R305, R98): the launch of the strand that TSRC names ends, its node failed (R290), and with it the handler. -/
def haltLaunch (s : State) (h : Nat) (v : Word) : State :=
  let w := (hart s (actsFor s h)).who
  let s := failNode s w.launch w.node (.halt v)
  let s := modCore s (coreOf h) fun k => { k with handling := false }
  enterHandler (modHart s h fun y => { y with life := .idle }) (coreOf h)

/-- What the bundle's instructions of consequence do once it is over: EXIT, RRET, TRET, HALT, SVC and BRK, YIELD. A strand that a YIELD
saves while results of its bundle are in flight is saved at its next effective safe point (R89, R91; DEDUCED, notes/assumptions/55.md). -/
def afterEffects (s : State) (h : Nat) (b : Bundle) : State :=
  let s := if b.exits && isStrand h then strandExits (modHart s h fun c => { c with life := .exited, leaving := true }) h else s
  let s := match b.after with
    | some (cause, info) => takeTrap s h (hart s h).pc { cause := cause, slots := 1, info := info }
    | none => s
  let s := match b.reply with
    | some r => endCall s h r
    | none => s
  let s := match b.halts with
    | some v => haltLaunch s h v
    | none => if b.returns then returnTrap s (coreOf h) else s
  if b.yields && b.effective && yieldSaves s h then modHart s h fun c => { c with stopReq := true, yielded := !c.exposed } else s

/-- The bundle of the current context is over. -/
def closeBundle (s : State) : State :=
  let h := s.cur
  let b := s.bundle
  let c := afterBundle (me s) b
  let c := if isStrand h then quantumAfter c b else c
  let s := { setMe s c with bundle := Bundle.closed }
  let s := dropWaiter s h
  let s := afterEffects s h b
  keepIssuing s h (b.yields || b.returns || b.halts.isSome)

/-! ### One instruction as the machine runs it -/

/-- A strand whose CBAR traps has left the round; an arrival at a round that can still close stands. -/
def leaveRound (s : State) (h : Nat) : State :=
  modHart s h fun c => match c.wait with
    | .dead _ => { c with wait := .none }
    | _ => c

/-- A bundle that traps: its waits leave the queue of waiters, the trap is taken, the core looks for another context. -/
def trapBundle (s : State) (h : Nat) (t : Trap) : State :=
  keepIssuing (takeTrap (leaveRound (dropWaiter s h) h) h (hart s h).pc t) h true

/-- A bundle that blocks: nothing but its waits happens, and the core looks for another context. -/
def blockBundle (s : State) (h : Nat) : State :=
  if isDrone h then s else modCore s (coreOf h) fun k => { k with issuing := none }

/-- The outcome of one instruction. -/
abbrev Out := Host.Outcome State Fault Refusal

/-- An instruction with effect `eff`: one slot of the bundle that is open, or, where none is open, a whole bundle of its own. -/
def issue (i : Instr) (eff : State → State) (s : State) : Out :=
  if s.bundle.isOpen then .next (eff s)
  else
    let x := examineAlone s i
    match x.verdict with
    | .block => .next (blockBundle x.state s.cur)
    | .trap t => .next (trapBundle x.state s.cur t)
    | .go =>
      if x.instrs.contains i then .next (closeBundle (eff (openBundle x.state x.mode x.instrs)))
      else .next (closeBundle (openBundle x.state x.mode x.instrs))

end Sys2Proof.Machine
end

