-- ==== Sys2Proof/Machine/Scalar.lean ====
section
/-!
DEFINITION. Scalar integer, immediate and floating-point instructions of the SC slot (R120 to R127).
-/
namespace Sys2Proof.Machine

/-! ### Shared operations -/

/-- A result of two scalars that lands after `k` bundles (R120, R121). -/
def alu2 (s : State) (sd sa sb : SReg) (k : Nat) (f : Word → Word → Word) : State :=
  landScalar s sd (f ((me s).s sa) ((me s).s sb)) k

/-- A result of one scalar that lands after one bundle. -/
def alu1 (s : State) (sd sa : SReg) (f : Word → Word) : State := landScalar s sd (f ((me s).s sa)) 1

/-- High half of a product (R121). -/
def mulHigh (a b : Int) : Word := BitVec.ofInt 64 (a * b / 2 ^ 64)

/-- Signed and unsigned division and remainder with the cases of R122; the quotient is rounded toward zero. -/
def divS (a b : Word) : Word := if b = 0 then BitVec.allOnes 64 else BitVec.ofInt 64 (a.toInt.tdiv b.toInt)
def divU (a b : Word) : Word := if b = 0 then BitVec.allOnes 64 else BitVec.ofNat 64 (a.toNat / b.toNat)
def remS (a b : Word) : Word := if b = 0 then a else BitVec.ofInt 64 (a.toInt.tmod b.toInt)
def remU (a b : Word) : Word := if b = 0 then a else BitVec.ofNat 64 (a.toNat % b.toNat)

/-- Leading zero bits of a number of `n` bits. -/
def clzNat (n v : Nat) : Nat := if v = 0 then n else n - 1 - v.log2
/-- One bits of the low `n` bits. -/
def popNat : Nat → Nat → Nat
  | 0, _ => 0
  | n + 1, v => v % 2 + popNat n (v / 2)
/-- The low `n` bits reversed. -/
def revNat : Nat → Nat → Nat
  | 0, _ => 0
  | n + 1, v => v % 2 * 2 ^ n + revNat n (v / 2)

/-- A truth value as a scalar. -/
def boolWord (b : Bool) : Word := if b then 1 else 0

/-- An fp32 value in bits [31:0] of a scalar (R125). -/
def f32Of (w : Word) : XR := Fmt.fp32.value (w.toNat % 2 ^ 32)

/-- A rounded fp32 result: one draw under SR, latency 4, flags as it lands (R125). -/
def fpResult (s : State) (sd : SReg) (r : Nat × BitVec 6) : State :=
  takeDraws (landScalar s sd (BitVec.ofNat 64 r.1) 4 r.2) 1

/-- The smaller or larger of two fp32 operands; nothing is rounded and no draw is taken (R125). -/
def fpMinMax (s : State) (sd sa sb : SReg) (larger : Bool) : State :=
  let r := flushOnly (rmode s) .fp32 (fpPick larger (f32Of ((me s).s sa)) (f32Of ((me s).s sb)))
  landScalar s sd (BitVec.ofNat 64 r.1) 4 r.2

/-- A float to integer conversion of FCVT (R112, R127): the code extended to 64 bits by the type's sign. -/
def cvtToInt (md : RMode) (dr : Word) (t : EType) (w : Word) : Word × BitVec 6 :=
  let (c, g) := toIntFmt md dr t (f32Of w)
  (BitVec.ofInt 64 (intVal t c), g)

/-- The result of a conversion of R127 with its flags. -/
def fcvtResult (md : RMode) (dr : Word) (k : FCvt) (w : Word) : Word × BitVec 6 :=
  let fp (f : Fmt) (x : XR) : Word × BitVec 6 := let (c, g) := rnd md dr f x; (BitVec.ofNat 64 c, g)
  match k with
  | .fp16Fp32 => fp .fp16 (f32Of w)
  | .fp32Fp16 => fp .fp32 (Fmt.fp16.value (w.toNat % 2 ^ 16))
  | .bf16Fp32 => fp .bf16 (f32Of w)
  | .fp32Bf16 => fp .fp32 (Fmt.bf16.value (w.toNat % 2 ^ 16))
  | .int32Fp32 => cvtToInt md dr .int32 w
  | .uint32Fp32 => cvtToInt md dr .uint32 w
  | .int64Fp32 => cvtToInt md dr .int64 w
  | .uint64Fp32 => cvtToInt md dr .uint64 w
  | .fp32Int32 => fp .fp32 (XR.ofInt (intVal .int32 (w.toNat % 2 ^ 32)))
  | .fp32Uint32 => fp .fp32 (XR.ofInt (w.toNat % 2 ^ 32 : Nat))
  | .fp32Int64 => fp .fp32 (XR.ofInt w.toInt)
  | .fp32Uint64 => fp .fp32 (XR.ofInt w.toNat)

/-! ### NOP and ILL (R24, R25) -/

/-- NOP does nothing (R24). -/
def execNop (slot : Slot) (s : State) : Out := issue (.nop slot) (fun s => s) s

/-- ILL raises trap 0x01 at its bundle's decode checks (R25). Within a bundle that is open, where no check is left to make,
it takes the trap at once. -/
def execIll (slot : Slot) (s : State) : Out :=
  issue (.ill slot) (fun s => takeTrap s s.cur (me s).pc { cause := 0x01, slots := 2 ^ slot.index, info := 0 }) s

/-- ADD (R121). -/
def execAdd (sd sa sb : SReg) (s : State) : Out :=
  issue (.add sd sa sb) (fun s => alu2 s sd sa sb 1 (· + ·)) s

/-- SUB (R121). -/
def execSub (sd sa sb : SReg) (s : State) : Out :=
  issue (.sub sd sa sb) (fun s => alu2 s sd sa sb 1 (· - ·)) s

/-- AND (R121). -/
def execAnd (sd sa sb : SReg) (s : State) : Out :=
  issue (.and sd sa sb) (fun s => alu2 s sd sa sb 1 (· &&& ·)) s

/-- OR (R121). -/
def execOr (sd sa sb : SReg) (s : State) : Out :=
  issue (.or sd sa sb) (fun s => alu2 s sd sa sb 1 (· ||| ·)) s

/-- XOR (R121). -/
def execXor (sd sa sb : SReg) (s : State) : Out :=
  issue (.xor sd sa sb) (fun s => alu2 s sd sa sb 1 (· ^^^ ·)) s

/-- SHL by sb[5:0] (R121). -/
def execShl (sd sa sb : SReg) (s : State) : Out :=
  issue (.shl sd sa sb) (fun s => alu2 s sd sa sb 1 fun a b => a <<< wbits b 0 6) s

/-- SHR by sb[5:0] (R121). -/
def execShr (sd sa sb : SReg) (s : State) : Out :=
  issue (.shr sd sa sb) (fun s => alu2 s sd sa sb 1 fun a b => a >>> wbits b 0 6) s

/-- SAR by sb[5:0] (R121). -/
def execSar (sd sa sb : SReg) (s : State) : Out :=
  issue (.sar sd sa sb) (fun s => alu2 s sd sa sb 1 fun a b => a.sshiftRight (wbits b 0 6)) s

/-- MUL, the low half of the product (R121). -/
def execMul (sd sa sb : SReg) (s : State) : Out :=
  issue (.mul sd sa sb) (fun s => alu2 s sd sa sb 3 (· * ·)) s

/-- MULH, bits [127:64] of the signed product (R121). -/
def execMulh (sd sa sb : SReg) (s : State) : Out :=
  issue (.mulh sd sa sb) (fun s => alu2 s sd sa sb 3 fun a b => mulHigh a.toInt b.toInt) s

/-- MULHU, bits [127:64] of the unsigned product (R121). -/
def execMulhu (sd sa sb : SReg) (s : State) : Out :=
  issue (.mulhu sd sa sb) (fun s => alu2 s sd sa sb 3 fun a b => mulHigh a.toNat b.toNat) s

/-- DIV (R121, R122). -/
def execDiv (sd sa sb : SReg) (s : State) : Out :=
  issue (.div sd sa sb) (fun s => alu2 s sd sa sb 18 divS) s

/-- DIVU (R121, R122). -/
def execDivu (sd sa sb : SReg) (s : State) : Out :=
  issue (.divu sd sa sb) (fun s => alu2 s sd sa sb 18 divU) s

/-- REM (R121, R122). -/
def execRem (sd sa sb : SReg) (s : State) : Out :=
  issue (.rem sd sa sb) (fun s => alu2 s sd sa sb 18 remS) s

/-- REMU (R121, R122). -/
def execRemu (sd sa sb : SReg) (s : State) : Out :=
  issue (.remu sd sa sb) (fun s => alu2 s sd sa sb 18 remU) s

/-- MIN, signed (R121). -/
def execMin (sd sa sb : SReg) (s : State) : Out :=
  issue (.min sd sa sb) (fun s => alu2 s sd sa sb 1 fun a b => if a.toInt ≤ b.toInt then a else b) s

/-- MAX, signed (R121). -/
def execMax (sd sa sb : SReg) (s : State) : Out :=
  issue (.max sd sa sb) (fun s => alu2 s sd sa sb 1 fun a b => if a.toInt ≤ b.toInt then b else a) s

/-- MINU (R121). -/
def execMinu (sd sa sb : SReg) (s : State) : Out :=
  issue (.minu sd sa sb) (fun s => alu2 s sd sa sb 1 fun a b => if a.toNat ≤ b.toNat then a else b) s

/-- MAXU (R121). -/
def execMaxu (sd sa sb : SReg) (s : State) : Out :=
  issue (.maxu sd sa sb) (fun s => alu2 s sd sa sb 1 fun a b => if a.toNat ≤ b.toNat then b else a) s

/-- SEL: sa where sc ≠ 0, else sb (R121). -/
def execSel (sd sa sb sc : SReg) (s : State) : Out :=
  issue (.sel sd sa sb sc) (fun s => alu2 s sd sa sb 1 fun a b => if (me s).s sc = 0 then b else a) s

/-- CMP (R121, R123). -/
def execCmp (cc : ICond) (sd sa sb : SReg) (s : State) : Out :=
  issue (.cmp cc sd sa sb) (fun s => alu2 s sd sa sb 1 fun a b => boolWord (intCond cc a b)) s

/-- CLZ (R121). -/
def execClz (sd sa : SReg) (s : State) : Out :=
  issue (.clz sd sa) (fun s => alu1 s sd sa fun a => BitVec.ofNat 64 (clzNat 64 a.toNat)) s

/-- POPC (R121). -/
def execPopc (sd sa : SReg) (s : State) : Out :=
  issue (.popc sd sa) (fun s => alu1 s sd sa fun a => BitVec.ofNat 64 (popNat 64 a.toNat)) s

/-- BREV (R121). -/
def execBrev (sd sa : SReg) (s : State) : Out :=
  issue (.brev sd sa) (fun s => alu1 s sd sa fun a => BitVec.ofNat 64 (revNat 64 a.toNat)) s

/-- ADDI with sext(imm32, 64) (R124). -/
def execAddi (sd sa : SReg) (imm : BitVec 32) (s : State) : Out :=
  issue (.addi sd sa imm) (fun s => alu1 s sd sa fun a => a + imm.signExtend 64) s

/-- ANDI with sext(imm32, 64) (R124). -/
def execAndi (sd sa : SReg) (imm : BitVec 32) (s : State) : Out :=
  issue (.andi sd sa imm) (fun s => alu1 s sd sa fun a => a &&& imm.signExtend 64) s

/-- ORI with sext(imm32, 64) (R124). -/
def execOri (sd sa : SReg) (imm : BitVec 32) (s : State) : Out :=
  issue (.ori sd sa imm) (fun s => alu1 s sd sa fun a => a ||| imm.signExtend 64) s

/-- XORI with sext(imm32, 64) (R124). -/
def execXori (sd sa : SReg) (imm : BitVec 32) (s : State) : Out :=
  issue (.xori sd sa imm) (fun s => alu1 s sd sa fun a => a ^^^ imm.signExtend 64) s

/-- SHLI (R124). -/
def execShli (sd sa : SReg) (amt : BitVec 6) (s : State) : Out :=
  issue (.shli sd sa amt) (fun s => alu1 s sd sa fun a => a <<< amt.toNat) s

/-- SHRI (R124). -/
def execShri (sd sa : SReg) (amt : BitVec 6) (s : State) : Out :=
  issue (.shri sd sa amt) (fun s => alu1 s sd sa fun a => a >>> amt.toNat) s

/-- SARI (R124). -/
def execSari (sd sa : SReg) (amt : BitVec 6) (s : State) : Out :=
  issue (.sari sd sa amt) (fun s => alu1 s sd sa fun a => a.sshiftRight amt.toNat) s

/-- LI (R124). -/
def execLi (sd : SReg) (imm : BitVec 32) (s : State) : Out :=
  issue (.li sd imm) (fun s => landScalar s sd (imm.signExtend 64) 1) s

/-- LIH: imm32 above the low half of sd, which is read (R124). -/
def execLih (sd : SReg) (imm : BitVec 32) (s : State) : Out :=
  issue (.lih sd imm) (fun s => alu1 s sd sd fun a => imm ++ a.setWidth 32) s

/-- CMPI with the signed 28-bit immediate (R124, R123). -/
def execCmpi (cc : ICond) (sd sa : SReg) (imm : BitVec 28) (s : State) : Out :=
  issue (.cmpi cc sd sa imm) (fun s => alu1 s sd sa fun a => boolWord (intCond cc a (imm.signExtend 64))) s

/-- FADD (R125). -/
def execFadd (sd sa sb : SReg) (s : State) : Out :=
  issue (.fadd sd sa sb) (fun s => fpResult s sd (fpAdd (rmode s) (drawNo s 0) .fp32 (f32Of ((me s).s sa)) (f32Of ((me s).s sb)))) s

/-- FSUB (R125). -/
def execFsub (sd sa sb : SReg) (s : State) : Out :=
  issue (.fsub sd sa sb) (fun s => fpResult s sd (fpAdd (rmode s) (drawNo s 0) .fp32 (f32Of ((me s).s sa)) (f32Of ((me s).s sb)).neg)) s

/-- FMUL (R125). -/
def execFmul (sd sa sb : SReg) (s : State) : Out :=
  issue (.fmul sd sa sb) (fun s => fpResult s sd (fpMul (rmode s) (drawNo s 0) .fp32 (f32Of ((me s).s sa)) (f32Of ((me s).s sb)))) s

/-- FFMA, one rounding (R125). -/
def execFfma (sd sa sb sc : SReg) (s : State) : Out :=
  issue (.ffma sd sa sb sc) (fun s => fpResult s sd (fpMulAdd (rmode s) (drawNo s 0) .fp32 (f32Of ((me s).s sa)) (f32Of ((me s).s sb)) (f32Of ((me s).s sc)))) s

/-- FMIN (R125). -/
def execFmin (sd sa sb : SReg) (s : State) : Out :=
  issue (.fmin sd sa sb) (fun s => fpMinMax s sd sa sb false) s

/-- FMAX (R125). -/
def execFmax (sd sa sb : SReg) (s : State) : Out :=
  issue (.fmax sd sa sb) (fun s => fpMinMax s sd sa sb true) s

/-- FCMP, latency 4, no flag (R120, R126). -/
def execFcmp (cc : FCond) (sd sa sb : SReg) (s : State) : Out :=
  issue (.fcmp cc sd sa sb) (fun s => alu2 s sd sa sb 4 fun a b => boolWord (fpCond cc (f32Of a) (f32Of b))) s

/-- FCVT: one draw under SR (R125, R127). -/
def execFcvt (k : FCvt) (sd sa : SReg) (s : State) : Out :=
  issue (.fcvt k sd sa) (fun s => let r := fcvtResult (rmode s) (drawNo s 0) k ((me s).s sa); takeDraws (landScalar s sd r.1 4 r.2) 1) s

end Sys2Proof.Machine
end

