-- ==== Sys2Proof/Machine/LoadStore.lean ====
section
/-!
DEFINITION. The LD and ST slots on a core and on a drone, the completion of loads and the accesses to other members (R193, R199 to R210,
R274, R357, R358).
-/
namespace Sys2Proof.Machine

/-! ### Near accesses of a drone (R357) -/

/-- `n` bytes at a near address as the call sees them, with whether they lie in a bad line. -/
def nearRead (s : State) (h : Nat) (a : Word) (n : Nat) : List Byte × Bool :=
  if isCell a then (mread (drone s (droneOf h)).cells (cellOff a) n, false)
  else ((List.range n).map fun k => callReader s h (a.toNat + k), viewBad s.image (callView s h) a.toNat n)

/-- A store at a near address performs at once (R357, R364). -/
def nearStore (s : State) (h : Nat) (a : Word) (bytes : List Byte) : State :=
  if isCell a then modDrone s (droneOf h) fun d => { d with cells := mwrite d.cells (cellOff a) bytes }
  else callStore s h a.toNat bytes

/-- The physical address of a near address in global form. -/
def nearPhys (s : State) (a : Word) : Nat := match findPage s.pages a.toNat with
  | some (b, p) => physOf b p a.toNat
  | none => 0

/-- The pieces of a drone's transfer of `n` bytes for byte `pos` of its destination; `off` is the physical address. -/
def nearPieces (s : State) (h : Nat) (a : Word) (n pos : Nat) : List Piece :=
  (cutGranules (n / 16 + 2) (a.toNat % 16) n 0).map fun p =>
    let x := a + BitVec.ofNat 64 p.2.2
    let (b, bad) := nearRead s h x p.2.1
    { core := 0, off := nearPhys s x, len := p.2.1, pos := pos + p.2.2, st := .read (BitVec.ofNat 128 (leNat b)) bad }

/-! ### Transfers on either target -/

/-- The pieces of `n` bytes at an address of the LD slot. -/
def ldPieces (s : State) (a : Word) (n pos : Nat) : List Piece :=
  if isDrone s.cur then nearPieces s s.cur a n pos else piecesFor (memberCore s.cur a.toNat) (a.toNat % 2 ^ 22) n pos

/-- A drone's load has read its bytes as it issues; a core's sends its pieces. -/
def beginLoad (s : State) (dst : LoadDst) (clr wt : Bool) (ps : List Piece) (hdr : Bool) : State :=
  if isDrone s.cur then
    let (id, s) := stamp s
    modMe s fun x => { x with loads := x.loads ++
      [{ id := id, dst := dst, clr := false, wt := false, pieces := ps, fillBits := 0, gather := none, header := false, poison := none }] }
  else startLoad s dst clr wt ps 0 none hdr

/-- A store of bytes at an address of the ST slot. -/
def stBytes (s : State) (a : Word) (bytes : List Byte) (fill : Bool) : State :=
  if isDrone s.cur then nearStore s s.cur a bytes else storeWindow s a.toNat bytes fill

/-- Row `i` of a transfer whose first row is `row0` (R204). -/
def rowNo (row0 i : Nat) : Nat := (row0 + i) % 16

/-! ### Rows (R204) -/

/-- Load `n` rows from `a` at pitch `p` into the rows from `row0` on. -/
def loadRows (s : State) (clr wt : Bool) (td : TReg) (a p : Word) (n row0 : Nat) : State :=
  let ps := (rowAddrs a p n).zip (List.range n)
  let s := beginLoad s (.tile td.toNat) clr wt (ps.flatMap fun x => ldPieces s x.1 256 (256 * rowNo row0 x.2)) false
  markDst s (.tile td.toNat)

/-- Store `n` rows of a tile. -/
def storeRows (s : State) (fill : Bool) (ta : TReg) (a p : Word) (n row0 : Nat) : State :=
  let v := ((me s).tile ta.toNat).val
  ((rowAddrs a p n).zip (List.range n)).foldl (fun s x => stBytes s x.1 (rowBytes v (rowNo row0 x.2)) fill) s

/-- row0 := s(stride)[3:0]. -/
def rowOrigin (s : State) (srow : SReg) : Nat := wbits ((me s).s srow) 0 4

/-- LDT (R204). -/
def execLdt (clr wt : Bool) (td : TReg) (base stride : SReg) (rows : BitVec 4) (disp : BitVec 32) (s : State) : Out :=
  issue (.ldt clr wt td base stride rows disp)
    (fun s => loadRows s clr wt td (plusDisp ((me s).s base) disp) (pitchOf (me s) stride) (rows.toNat + 1) 0) s

/-- LDRW (R204). -/
def execLdrw (clr wt : Bool) (td : TReg) (base srow : SReg) (rows : BitVec 4) (disp : BitVec 32) (s : State) : Out :=
  issue (.ldrw clr wt td base srow rows disp)
    (fun s => loadRows s clr wt td (plusDisp ((me s).s base) disp) 256 (rows.toNat + 1) (rowOrigin s srow)) s

/-- STT (R204). -/
def execStt (fill : Bool) (ta : TReg) (base stride : SReg) (rows : BitVec 4) (disp : BitVec 32) (s : State) : Out :=
  issue (.stt fill ta base stride rows disp)
    (fun s => storeRows s fill ta (plusDisp ((me s).s base) disp) (pitchOf (me s) stride) (rows.toNat + 1) 0) s

/-- STRW (R204). -/
def execStrw (fill : Bool) (ta : TReg) (base srow : SReg) (rows : BitVec 4) (disp : BitVec 32) (s : State) : Out :=
  issue (.strw fill ta base srow rows disp)
    (fun s => storeRows s fill ta (plusDisp ((me s).s base) disp) 256 (rows.toNat + 1) (rowOrigin s srow)) s

/-- The state of the 16 granules of each row (R204). -/
def setRows (s : State) (base stride : SReg) (rows : BitVec 4) (disp : BitVec 32) (full : Bool) : State :=
  let as := rowAddrs (plusDisp ((me s).s base) disp) (pitchOf (me s) stride) (rows.toNat + 1)
  as.foldl (fun s a => (List.range 16).foldl (fun s k => setGranule s (a.toNat + 16 * k) full) s) s

/-- SETE (R204). -/
def execSete (base stride : SReg) (rows : BitVec 4) (disp : BitVec 32) (s : State) : Out :=
  issue (.sete base stride rows disp) (fun s => setRows s base stride rows disp false) s
/-- SETF (R204). -/
def execSetf (base stride : SReg) (rows : BitVec 4) (disp : BitVec 32) (s : State) : Out :=
  issue (.setf base stride rows disp) (fun s => setRows s base stride rows disp true) s

/-! ### LDG (R205) -/

/-- Reserve the entries of the rows; they are read as they arrive. -/
def startGather (s : State) (clr wt : Bool) (td : TReg) (a p : Word) (rows : Nat) (q : QNo) : State :=
  let id := s.arrivals
  let y : GatherLoad := { base := a, pitch := p, rows := rows, got := 0, closed := false }
  let s := startLoad s (.tile td.toNat) clr wt [] 0 (some y) false
  markDst (claim s s.cur q.toNat (List.replicate rows (.load id))) (.tile td.toNat)

/-- LDG (R205). -/
def execLdg (clr wt : Bool) (td : TReg) (base sp : SReg) (rows : BitVec 4) (disp : BitVec 28) (q : QNo) (s : State) : Out :=
  issue (.ldg clr wt td base sp rows disp q)
    (fun s =>
      startGather s clr wt td ((me s).s base + (disp ++ (0 : BitVec 4)).signExtend 64) (pitchOf (me s) sp) (rows.toNat + 1) q) s

/-! ### Element gathers and scatters (R206) -/

def widthOf (d : Bool) : Nat := if d then 8 else 4

/-- LDX: one piece for each element that is not skipped, each a read of its granule of its own, also where several elements lie in one
(DEDUCED, notes/assumptions/76.md: R199, R206). -/
def startElems (s : State) (clr wt d : Bool) (td : TReg) (base : SReg) (tx : TReg) : State :=
  let w := widthOf d
  let b := (me s).s base
  let ps := (scatterIdx ((me s).tile tx.toNat).val d).flatMap fun e => ldPieces s (b + BitVec.ofNat 64 e.1) w (w * e.2)
  markDst (beginLoad s (.tile td.toNat) clr wt ps false) (.tile td.toNat)

/-- LDX (R206). -/
def execLdx (clr wt d : Bool) (td : TReg) (base : SReg) (tx : TReg) (s : State) : Out :=
  issue (.ldx clr wt d td base tx) (fun s => startElems s clr wt d td base tx) s

/-- STX and the scatter forms with function `fn` (R206). -/
def scatterEff (s : State) (fn : Nat) (fill d : Bool) (ta : TReg) (base : SReg) (tx : TReg) : State :=
  let t := if d then EType.uint64 else EType.uint32
  let v := ((me s).tile ta.toNat).val
  let b := (me s).s base
  scatterWindow s (widthOf d) fn fill
    ((scatterIdx ((me s).tile tx.toNat).val d).map fun e => ((b + BitVec.ofNat 64 e.1).toNat, tileElem t v e.2))

/-- STX (R206). -/
def execStx (fill d : Bool) (ta : TReg) (base : SReg) (tx : TReg) (s : State) : Out :=
  issue (.stx fill d ta base tx) (fun s => scatterEff s 0 fill d ta base tx) s
/-- SCOR (R206). -/
def execScor (fill d : Bool) (ta : TReg) (base : SReg) (tx : TReg) (s : State) : Out :=
  issue (.scor fill d ta base tx) (fun s => scatterEff s 1 fill d ta base tx) s
/-- SCADD (R206). -/
def execScadd (fill d : Bool) (ta : TReg) (base : SReg) (tx : TReg) (s : State) : Out :=
  issue (.scadd fill d ta base tx) (fun s => scatterEff s 2 fill d ta base tx) s
/-- SCMAX (R206). -/
def execScmax (fill uns d : Bool) (ta : TReg) (base : SReg) (tx : TReg) (s : State) : Out :=
  issue (.scmax fill uns d ta base tx) (fun s => scatterEff s (if uns then 5 else 3) fill d ta base tx) s
/-- SCMIN (R206). -/
def execScmin (fill uns d : Bool) (ta : TReg) (base : SReg) (tx : TReg) (s : State) : Out :=
  issue (.scmin fill uns d ta base tx) (fun s => scatterEff s (if uns then 6 else 4) fill d ta base tx) s

/-! ### Scalars, masks, functions (R193, R207, R208) -/

/-- LDS (R207). -/
def execLds (clr wt : Bool) (size : BitVec 2) (sd base : SReg) (disp : BitVec 32) (s : State) : Out :=
  issue (.lds clr wt size sd base disp)
    (fun s =>
      let ps := ldPieces s (plusDisp ((me s).s base) disp) (2 ^ size.toNat) 0
      markDst (beginLoad s (.scalar sd.toNat) clr wt ps false) (.scalar sd.toNat)) s

/-- STS (R207). -/
def execSts (fill : Bool) (size : BitVec 2) (sa base : SReg) (disp : BitVec 32) (s : State) : Out :=
  issue (.sts fill size sa base disp)
    (fun s => stBytes s (plusDisp ((me s).s base) disp) (natBytes ((me s).s sa).toNat (2 ^ size.toNat)) fill) s

/-- LDF: the header first (R193). -/
def execLdf (clr wt : Bool) (fd : FReg) (base : SReg) (disp : BitVec 32) (s : State) : Out :=
  issue (.ldf clr wt fd base disp)
    (fun s =>
      markDst (beginLoad s (.freg fd.toNat) clr wt (ldPieces s (plusDisp ((me s).s base) disp) 16 0) true) (.freg fd.toNat)) s

/-- STF: the image with zero bytes up to the granule boundary (R193). -/
def execStf (fill : Bool) (fa : FReg) (base : SReg) (disp : BitVec 32) (s : State) : Out :=
  issue (.stf fill fa base disp)
    (fun s => stBytes s (plusDisp ((me s).s base) disp) (paddedImage ((me s).freg fa.toNat).fn) fill) s

/-- LDM (R208). -/
def execLdm (clr wt : Bool) (md : MReg) (base : SReg) (disp : BitVec 32) (s : State) : Out :=
  issue (.ldm clr wt md base disp)
    (fun s => markDst (beginLoad s (.mask md.toNat) clr wt (ldPieces s (plusDisp ((me s).s base) disp) 128 0) false) (.mask md.toNat)) s

/-- STM (R208). -/
def execStm (fill : Bool) (ma : MReg) (base : SReg) (disp : BitVec 32) (s : State) : Out :=
  issue (.stm fill ma base disp)
    (fun s => stBytes s (plusDisp ((me s).s base) disp) (natBytes ((me s).mask ma.toNat).val.toNat 128) fill) s

/-! ### Completion (R209) -/

/-- The bytes of a load's pieces at their places, as a number, and the bits they cover. -/
def piecesValue (ps : List Piece) : Nat × Nat :=
  ps.foldl (fun v p => match p.st with
    | .read x _ => (v.1 ||| (x.toNat % 2 ^ (8 * p.len)) <<< (8 * p.pos), v.2 ||| (2 ^ (8 * p.len) - 1) <<< (8 * p.pos))
    | _ => v) (0, 0)

/-- The origin with which a load poisons its destination, if it does (R205, R210). -/
def loadPoison (l : WLoad) : Option Byte :=
  match l.poison with
  | some o => some o
  | none =>
    if l.pieces.any fun p => match p.st with
      | .read _ bad => bad
      | _ => false then some 0x14 else none

/-- The function of an LDF's pieces (R192). -/
def imageFn (v : Nat) : ChebFn :=
  { lo := BitVec.ofNat 32 v, hi := BitVec.ofNat 32 (v >>> 32)
    coeffs := (List.range (bitsOf (BitVec.ofNat 72 v) 64 8)).map fun k => BitVec.ofNat 32 (v >>> (128 + 32 * k)) }

/-- The rows of an LDG that received no entry become zero (R205). -/
def gatherZero (l : WLoad) : Tile := match l.gather with
  | some y => BitVec.ofNat 32768 (2 ^ 32768 - 2 ^ (2048 * y.got))
  | none => 0

/-- A load's destination is written or poisoned. -/
def finishLoad (l : WLoad) (c : Ctx) : Ctx :=
  let (v, bits) := piecesValue l.pieces
  match loadPoison l, l.dst with
  | some o, .tile r => c.poisonTile r o
  | some o, .scalar r => c.poisonScalar r o
  | some o, .mask r => c.poisonMask r o
  | some o, .freg r => c.poisonFreg r o
  | _, .lines _ => c
  | none, .tile r =>
    c.fillTile r (mergeBits (c.tile r).val (BitVec.ofNat 32768 v) (BitVec.ofNat 32768 bits ||| l.fillBits ||| gatherZero l))
  | none, .scalar r => c.fillScalar r (BitVec.ofNat 64 v)
  | none, .mask r => c.fillMask r (BitVec.ofNat 1024 v)
  | none, .freg r =>
    let f := imageFn v
    if !domOk f.lo f.hi || v >>> 72 % 2 ^ 56 != 0 then c.poisonFreg r 0x0A
    else if 512 < bankUsed c r + f.coeffs.length then c.poisonFreg r 0x0B
    else c.fillFreg r f

/-- The errors in DRAM lines that a drone's load met (R335). -/
def nearErrors (s : State) (l : WLoad) : State :=
  l.pieces.foldl (fun s p => match p.st with
    | .read _ true => lineError s p.off []
    | _ => s) s

/-! ### Waiting loads of a saved strand (R309) -/

/-- The state of a tile in a save slot. -/
def tileState (t : TileReg) : Byte := match t.st with
  | .full => 0x00
  | .empty => 0xFF
  | .poisoned o => o

/-- Is a tile among those that a save slot holds? -/
def tileLive (c : Ctx) (n : Nat) : Bool := if n < 64 then c.csr.splive0.getLsbD n else c.csr.splive1.getLsbD (n - 64)

/-- The place of a destination in a save slot, and its bytes; a dead tile has none. -/
def slotPlace : LoadDst → Nat
  | .tile r => 4096 * r
  | .scalar r => 0x80000 + 8 * r
  | .mask r => 0x80200 + 128 * r
  | .freg r => 0x81000 + 0x110 * r
  | .lines _ => 0
def slotBytes (c : Ctx) : LoadDst → List Byte
  | .tile r => if tileLive c r then natBytes (c.tile r).val.toNat 4096 else []
  | .scalar r => natBytes (c.scalar r).val.toNat 8
  | .mask r => natBytes (c.mask r).val.toNat 128
  | .freg r => paddedImage (c.freg r).fn
  | .lines _ => []
/-- The state byte of a destination, with its place. -/
def slotState (c : Ctx) : LoadDst → List (Nat × List Byte)
  | .tile r => [(0x80120 + r, [tileState (c.tile r)])]
  | .scalar r => [(0x80100 + r, [((c.scalar r).poison).getD 0])]
  | _ => []

/-- The saved strand whose waiting loads stand under a number. -/
def savedOf (s : State) (h : Nat) : Option Saved :=
  s.dies.findSome? fun e => e.2.pool.findSome? fun p => match p.kind with
    | .saved v => if ghostHart (coreOf v.h) v.ctx.who.launch v.slot = h then some v else none
    | _ => none

/-- Where a save slot of a launch starts (R308), and that of a saved strand. -/
def saveBase (s : State) (l slot : Nat) : Nat := (launch s l).saveBase + 2 ^ 20 * slot
def slotBase (s : State) (v : Saved) : Nat := saveBase s v.ctx.who.launch v.slot

/-- Writes into the save slot of a strand, once the channels serve them (R375); `f` is what else happens. -/
def slotWrites (s : State) (a : Access) (v : Saved) (ws : List (Nat × List Byte)) (f : State → State) : State :=
  ordinaryAccess s (distinct (ws.flatMap fun w => channelsOf s (slotBase s v + w.1) w.2.length)) a fun s =>
    ws.foldl (fun s w => deviceWrite s (slotBase s v + w.1) w.2) (f s)

/-- The bytes that a load has read, at their places in the save slot. -/
def readBytes (v : Saved) (l : WLoad) : List (Nat × List Byte) :=
  if (slotBytes v.ctx l.dst).isEmpty then []
  else l.pieces.filterMap fun p => match p.st with
    | .read x false => some (slotPlace l.dst + p.pos, natBytes x.toNat p.len)
    | _ => none

/-- A load of a saved strand (R309): what it has read goes into the slot's image, and, once it is complete, its destination and the state
byte of it. -/
def savedLoad (s : State) (h k : Nat) (l : WLoad) : State :=
  match savedOf s h with
  | none => s
  | some v =>
    if !loadDone l then slotWrites s (.load h l.id) v (readBytes v l) id
    else
      let c := finishLoad l v.ctx
      let upd (p : PoolEnt) : PoolEnt := if p.kind = .saved v then { p with kind := .saved { v with ctx := c } } else p
      slotWrites s (.load h l.id) v ((slotPlace l.dst, slotBytes c l.dst) :: slotState c l.dst) fun s =>
        let s := modHart s h fun x => { x with loads := dropNth x.loads k }
        { s with dies := s.dies.map fun e => (e.1, { e.2 with pool := e.2.pool.map upd }) }

/-- Must an LDF wait for the function write of its bundle's VB slot, which goes before it (R173)? -/
def afterVb (c : Ctx) : LoadDst → Bool
  | .freg _ => c.fops.any fun o => o.freg.isSome
  | _ => false

/-- LOAD_COMPLETE (R209); the lines of a matrix unit have no register to go to. In a call, a load that met an uncorrectable error ends the
call (R357). -/
def execLoadComplete (h k : Nat) (s : State) : Out :=
  match (hart s h).loads.drop k with
  | [] => .next s
  | l :: _ =>
    if isUnit h then .next s
    else if isGhost h then .next (savedLoad s h k l)
    else if !loadDone l || afterVb (hart s h) l.dst then .next s
    else
      let s := modHart s h fun c => { c with loads := dropNth c.loads k }
      if isCallee h && loadPoison l == some 0x14 then
        .next (endCall (if isDrone h then nearErrors s l else s) h (faultReply 0x14))
      else .next (modHart s h (finishLoad l))

/-- REMOTE_ACCESS_PERFORM (R274). None completes at a core that stopped on a core fault (R278). -/
def execRemoteAccessPerform (h k : Nat) (s : State) : Out :=
  match (hart s h).remotes.drop k with
  | [] => .next s
  | r :: _ =>
    if mayPerform (hart s h).remotes k && !(core s (remotePlace r).1).faulted then
      .next (performRemote (modHart s h fun c => { c with remotes := dropNth c.remotes k }) h r)
    else .next s

end Sys2Proof.Machine
end

