-- ==== Sys2Proof/Machine/Vector.lean ====
section
/-!
DEFINITION. The instructions of the VA and VB slots but for the function registers (chapter 06, R144 to R169).
-/
namespace Sys2Proof.Machine

/-! ### Element-wise operations (R144, R146) -/

/-- A function of up to three elements and their linear index, over whole tiles, landing under a mask. -/
def vecMap (s : State) (td : TReg) (m : MReg) (t : EType) (k : Nat) (xs ys zs : List Nat)
    (f : Nat → Nat → Nat → Nat → Nat × BitVec 6) : State :=
  landElems s td m t k
    (((xs.zip (ys.zip zs)).zip (List.range xs.length)).map fun p => f p.2 p.1.1 p.1.2.1 p.1.2.2)

/-- The elements of sources a, b and c. -/
def elemsA (s : State) (u : VUnit) (t : EType) (a : TSrc) : List Nat := (me s).srcElems t (latchPos u 0) a
def elemsB (s : State) (u : VUnit) (t : EType) (b : BSrc) : List Nat := (me s).bElems t (latchPos u 1) b
def elemsC (s : State) (u : VUnit) (t : EType) (c : TSrc) : List Nat := (me s).srcElems t (latchPos u 2) c
/-- Elements in place of an operand that is not there. -/
def noElems (t : EType) : List Nat := List.replicate (elemCount t) 0

/-- The format of a floating type. -/
def vfmt (t : EType) : Fmt := (fmtOf t).getD .fp32

/-- A rounded operation on two or three floating operands: one draw for each position under SR (R109, R148). -/
def vecRound (s : State) (td : TReg) (m : MReg) (t : EType) (k : Nat) (xs ys zs : List Nat)
    (f : RMode → Word → Fmt → XR → XR → XR → Nat × BitVec 6) : State :=
  let g := vfmt t
  takeDraws (vecMap s td m t k xs ys zs fun n x y z => f (rmode s) (drawNo s n) g (g.value x) (g.value y) (g.value z))
    (elemCount t)

/-- A floating selection, which only FTZ changes (R149, R151). -/
def vecPick (s : State) (td : TReg) (m : MReg) (t : EType) (k : Nat) (xs ys zs : List Nat) (f : XR → XR → XR → XR) : State :=
  let g := vfmt t
  vecMap s td m t k xs ys zs fun _ x y z => flushOnly { rmode s with sat := false } g (f (g.value x) (g.value y) (g.value z))

/-- An integer operation whose exact result wraps, or is clamped under SAT (R153). -/
def vecInt (s : State) (td : TReg) (m : MReg) (t : EType) (xs ys : List Nat) (f : Int → Int → Int) : State :=
  vecMap s td m t 2 xs ys (noElems t) fun _ x y _ =>
    let (c, out) := narrowInt (rmode s).sat t (f (intVal t x) (intVal t y))
    (c, flagIf (out && (rmode s).sat) fSA)

/-- An operation on the bits of two elements. -/
def vecBits (s : State) (td : TReg) (m : MReg) (t : EType) (xs ys : List Nat) (f : Nat → Nat → Nat) : State :=
  vecMap s td m t 2 xs ys (noElems t) fun _ x y _ => (f x y % 2 ^ t.bits, 0)

/-- A comparison to a mask (R150, R154). -/
def vecCmp (s : State) (md m : MReg) (t : EType) (xs ys : List Nat) (f : Nat → Nat → Bool) : State :=
  land s (.mask md.toNat (maskFrom t ((me s).mask m.toNat).val ((xs.zip ys).map fun p => f p.1 p.2))) (vecLat s 2) 0

/-- The conditions of R154. -/
def viCond (cc : VICond) (x y : Int) : Bool :=
  match cc with
  | .eq => x == y
  | .ne => x != y
  | .lt => x < y
  | .ge => y ≤ x
  | .le => x ≤ y
  | .gt => y < x

/-- Land a whole tile by its bits under a mask. -/
def landTile (s : State) (td : TReg) (m : MReg) (t : EType) (k : Nat) (v : Tile) : State :=
  land s (.tile td.toNat v (elemMask t ((me s).mask m.toNat).val)) (vecLat s k) 0

/-! ### Conversion, packing (R155 to R157) -/

/-- VCVT's element results by destination position: none where the position keeps its value (R155). -/
def cvtElems (md : RMode) (dr : Nat → Word) (t u : EType) (p : Nat) (xs : List Nat) : List (Option (Nat × BitVec 6)) :=
  let ed := t.perRow
  let es := u.perRow
  (List.range (16 * ed)).map fun n =>
    let i := n / ed
    let j := n % ed
    let src := if es < ed then (if p * es ≤ j ∧ j < (p + 1) * es then some (i * es + (j - p * es)) else none)
      else some (i * es + (p * ed + j))
    src.map fun k => convert md (dr n) u t (elemVal u (nth 0 xs k))

def vcvtEff (s : State) (un : VUnit) (td : TReg) (m : MReg) (a : TSrc) (t u : EType) (p : Nat) : State :=
  let rs := cvtElems (rmode s) (drawNo s) t u p (elemsA s un u a)
  let bits := tileOf t.bits (rs.map fun r => if r.isSome then 2 ^ t.bits - 1 else 0)
  let val := tileOf t.bits (rs.map fun r => (r.getD (0, 0)).1)
  let s := land s (.tile td.toNat val (bits &&& elemMask t ((me s).mask m.toNat).val)) (vecLat s 3)
    (orAll (rs.map fun r => (r.getD (0, 0)).2))
  takeDraws s (elemCount t)

/-- The 32 fp32 values of block `h` of row `i`. -/
def blockVals (xs : List Nat) (i h : Nat) : List XR := ((xs.drop (64 * i + 32 * h)).take 32).map fun c => Fmt.fp32.value c

/-- VPACK's data form (R156): (linear index, code, flags). -/
def packCodes (md : RMode) (dr : Nat → Word) (t : EType) (kt q : Nat) (xs : List Nat) : List (Nat × Nat × BitVec 6) :=
  (List.range 16).flatMap fun i => (List.range 2).flatMap fun h =>
    let vs := blockVals xs i h
    let (sc, bad) := blockScale t kt vs
    (vs.zip (List.range 32)).map fun p =>
      let n := i * t.perRow + 64 * q + 32 * h + p.2
      if bad then (n, 0, fNV) else
        let (c, g) := blockCode md (dr n) t sc p.1
        (n, c, g)

/-- Codes at linear indices as a tile. -/
def placeCodes (w : Nat) (l : List (Nat × Nat)) : Tile := BitVec.ofNat 32768 (l.foldl (fun v p => v ||| (p.2 <<< (p.1 * w))) 0)

/-- VPACK (R156). -/
def vpackEff (s : State) (u : VUnit) (scale : Bool) (td : TReg) (a : TSrc) (t : EType) (kt q : Nat) : State :=
  let xs := elemsA s u .fp32 a
  if scale then
    let sc := (List.range 16).flatMap fun i => (List.range 2).map fun h => (256 * i + 2 * q + h, blockScale t kt (blockVals xs i h))
    let from8 := if t.bits = 4 then 16 else 8
    let clear := (List.range 16).flatMap fun i => (List.range (256 - from8)).map fun k => (256 * i + from8 + k, 255)
    let val := placeCodes 8 (sc.map fun p => (p.1, p.2.1))
    let bits := placeCodes 8 (sc.map fun p => (p.1, 255)) ||| placeCodes 8 clear
    land s (.tile td.toNat val bits) (vecLat s 3) (orAll (sc.map fun p => flagIf p.2.2 fNV))
  else
    let cs := packCodes (rmode s) (drawNo s) t kt q xs
    let val := placeCodes t.bits (cs.map fun p => (p.1, p.2.1))
    let bits := placeCodes t.bits (cs.map fun p => (p.1, 2 ^ t.bits - 1))
    takeDraws (land s (.tile td.toNat val bits) (vecLat s 3) (orAll (cs.map fun p => p.2.2))) (elemCount t)

/-- VUNPACK (R157). Its mask has the granularity of the fp32 destination (DEDUCED, notes/assumptions/68.md). -/
def vunpackEff (s : State) (u : VUnit) (td : TReg) (m : MReg) (a b : TSrc) (t : EType) (xv q : Nat) : State :=
  let codes := elemsA s u t a
  let scales := (me s).srcElems .uint8 (latchPos u 1) b
  let x := f32 (nth 0 (me s).csr.xv xv)
  let rs := (List.range 1024).map fun n =>
    let i := n / 64
    let e := 64 * q + n % 64
    rnd (rmode s) (drawNo s n) .fp32 (blockVal t (nth 0 scales (256 * i + e / 32)) (nth 0 codes (t.perRow * i + e)) x)
  takeDraws (landElems s td m .fp32 3 rs) 1024

/-! ### Moves along and across rows (R160, R161) -/

/-- The amount of a rotation or broadcast. -/
def rotAmount (s : State) : RotAmt → Nat
  | .imm k => k.toNat
  | .scalar r => ((me s).s r).toNat

/-- Land the elements that `src` chooses for each row and column. -/
def moveElems (s : State) (td : TReg) (m : MReg) (t : EType) (k : Nat) (xs : List Nat) (src : Nat → Nat → Nat × Nat) : State :=
  let rows := rowsOf t xs
  landCodes s td m t k ((List.range 16).flatMap fun i => (List.range t.perRow).map fun j =>
    nth 0 (nth [] rows (src i j).1) (src i j).2)

/-! ### Reductions (R116, R162) -/

/-- One level of the tree from draw `k` on. -/
def treeLevel (step : Nat → Nat → Nat → Nat × BitVec 6) : Nat → List Nat → List Nat × BitVec 6 × Nat
  | k, x :: y :: l =>
    let (r, g) := step k x y
    let (rs, g', k') := treeLevel step (k + 1) l
    (r :: rs, g ||| g', k')
  | k, l => (l, 0, k)

/-- The pairwise tree: the value, the flags, the next draw. The first argument bounds the levels. -/
def treeSum (step : Nat → Nat → Nat → Nat × BitVec 6) : Nat → Nat → List Nat → BitVec 6 → Nat × BitVec 6 × Nat
  | 0, k, l, g => (l.headD 0, g, k)
  | n + 1, k, l, g =>
    match l with
    | _ :: _ :: _ =>
      let (l', g', k') := treeLevel step k l
      treeSum step n k' l' (g ||| g')
    | _ => (l.headD 0, g, k)

/-- A step of a reduction at draw `k`. -/
def redStep (s : State) (op : RedOp) (t : EType) (k x y : Nat) : Nat × BitVec 6 :=
  let f := vfmt t
  let fl := t.isF
  match op with
  | .add => if fl then fpAdd (rmode s) (drawNo s k) f (f.value x) (f.value y) else ((x + y) % 2 ^ t.bits, 0)
  | .max => if fl then flushOnly { rmode s with sat := false } f (fpPick true (f.value x) (f.value y))
      else (if intVal t x < intVal t y then y else x, 0)
  | .min => if fl then flushOnly { rmode s with sat := false } f (fpPick false (f.value x) (f.value y))
      else (if intVal t y < intVal t x then y else x, 0)
  | .and => (x &&& y, 0)
  | .or => (x ||| y, 0)
  | .xor => (x ^^^ y, 0)

/-- Reduce lists one after another. -/
def reduceAll (step : Nat → Nat → Nat → Nat × BitVec 6) : Nat → List (List Nat) → List Nat × BitVec 6 × Nat
  | k, [] => ([], 0, k)
  | k, l :: ls =>
    let (v, g, k') := treeSum step 8 k l 0
    let (vs, g', k'') := reduceAll step k' ls
    (v :: vs, g ||| g', k'')

/-- The columns of rows. -/
def columns (e : Nat) (rows : List (List Nat)) : List (List Nat) := (List.range e).map fun j => rows.map fun r => nth 0 r j

/-- VREDR and VREDC: only the floating add takes draws (R162). -/
def vecReduce (s : State) (byRow : Bool) (op : RedOp) (td : TReg) (m : MReg) (t : EType) (k : Nat) (xs : List Nat) : State :=
  let rows := rowsOf t xs
  let (vs, g, n) := reduceAll (redStep s op t) 0 (if byRow then rows else columns t.perRow rows)
  let out := if byRow then vs.flatMap fun v => List.replicate t.perRow v else (List.range 16).flatMap fun _ => vs
  let s' := land s (.tile td.toNat (tileOf t.bits out) (elemMask t ((me s).mask m.toNat).val)) (vecLat s k) g
  if op = .add ∧ t.isF then takeDraws s' n else s'

/-! ### Special functions (R163) -/

def rcpFn (x : XR) : XR × BitVec 6 := (XR.div (.fin false 1 0) x, 0)
def rsqFn : XR → XR × BitVec 6
  | .nan => (.nan, 0)
  | .inf s => if s then (.nan, fNV) else (.fin false 0 0, 0)
  | .fin s m e => if m = 0 then (.inf s, 0) else if s then (.nan, fNV) else (rsqX m e, 0)
def exp2Fn : XR → XR × BitVec 6
  | .nan => (.nan, 0)
  | .inf s => if s then (.fin false 0 0, 0) else (.inf false, 0)
  | .fin s m e => (exp2X s m e, 0)
def log2Fn : XR → XR × BitVec 6
  | .nan => (.nan, 0)
  | .inf s => if s then (.nan, fNV) else (.inf false, 0)
  | .fin s m e => if m = 0 then (.inf true, 0) else if s then (.nan, fNV) else (log2X m e, 0)

def vecSpecial (s : State) (u : VUnit) (td : TReg) (m : MReg) (a : TSrc) (t : EType) (f : XR → XR × BitVec 6) : State :=
  vecRound s td m t 12 (elemsA s u t a) (noElems t) (noElems t) fun md dr g x _ _ =>
    let (y, nv) := f x
    let (c, fl) := rnd md dr g y
    (c, fl ||| nv)

/-! ### Sorted streams (R164 to R167) -/

/-- The key of an element in rising order: fp32 by the total order, integers by value. -/
def sortKey (t : EType) (c : Nat) : Int :=
  if t = .fp32 then
    let mag : Nat := c % 2 ^ 31
    if 0x7F800000 < mag then (2147483648 : Int) else if c.testBit 31 then -(mag : Int) - 1 else (mag : Int)
  else intVal t c

/-- A NaN written as a value is canonical; VMERGE, VSORT and VTOPK otherwise write the codes as they are, neither FTZ nor SAT acting on them
(DEDUCED, notes/assumptions/29.md: R146 is general, R164 to R167 round nothing). -/
def canonElem (t : EType) (c : Nat) : Nat := if t = .fp32 ∧ 0x7F800000 < c % 2 ^ 31 then 0x7FC00000 else c

/-- x comes strictly before y in the order in force. -/
def comesBefore (desc : Bool) (t : EType) (x y : Nat) : Bool :=
  if desc then sortKey t y < sortKey t x else sortKey t x < sortKey t y

/-- Merge two rows of (value, position): equal elements from the first (R165). The first argument bounds the length. -/
def mergeRows (bef : Nat → Nat → Bool) : Nat → List (Nat × Nat) → List (Nat × Nat) → List (Nat × Nat)
  | 0, _, _ => []
  | _ + 1, xs, [] => xs
  | _ + 1, [], ys => ys
  | n + 1, x :: xs, y :: ys =>
    if bef y.1 x.1 then y :: mergeRows bef n (x :: xs) ys else x :: mergeRows bef n xs (y :: ys)

/-- A row with its positions from `p` on. -/
def withPos (p : Nat) (row : List Nat) : List (Nat × Nat) := row.zip ((List.range row.length).map (p + ·))
/-- What is written: the position under idx, else the value. -/
def outElem (t : EType) (idx : Bool) (e : Nat × Nat) : Nat := if idx then e.2 % 2 ^ t.bits else canonElem t e.1

def vmergeEff (s : State) (u : VUnit) (desc idx hi : Bool) (td : TReg) (m : MReg) (a b : TSrc) (t : EType) : State :=
  let e := t.perRow
  let ra := rowsOf t (elemsA s u t a)
  let rb := rowsOf t ((me s).srcElems t (latchPos u 1) b)
  landCodes s td m t 10 ((ra.zip rb).flatMap fun p =>
    let l := mergeRows (comesBefore desc t) (2 * e) (withPos 0 p.1) (withPos e p.2)
    ((if hi then l.drop e else l.take e).map (outElem t idx)))

/-- A row in the order in force, stable (R166). -/
def sortRow (desc : Bool) (t : EType) (row : List Nat) : List (Nat × Nat) :=
  sortBy (fun x y => comesBefore desc t x.1 y.1) (withPos 0 row)

def vsortEff (s : State) (u : VUnit) (desc idx : Bool) (td : TReg) (m : MReg) (a : TSrc) (t : EType) : State :=
  landCodes s td m t 14 ((rowsOf t (elemsA s u t a)).flatMap fun r => (sortRow desc t r).map (outElem t idx))

def vtopkEff (s : State) (u : VUnit) (least idx : Bool) (td : TReg) (m : MReg) (a : TSrc) (k : Nat) (t : EType) : State :=
  landCodes s td m t 12 ((rowsOf t (elemsA s u t a)).flatMap fun r =>
    ((sortRow (!least) t r).take k).map (outElem t idx) ++ List.replicate (t.perRow - k) 0)

/-! ### VBOUND (R168) -/

/-- Add up group `g` of a row: the sum so far, a NaN met, the flags. Where up() overflows below, or down() above, directed rounding gives
the largest finite magnitude, with OF (DEDUCED, notes/assumptions/75.md: R110 beside "An overflow gives +∞" of R168). -/
def boundStep (row b : List Nat) (acc : XR × Bool × BitVec 6) (g : Nat) : XR × Bool × BitVec 6 :=
  let fv (l : List Nat) (k : Nat) := Fmt.fp32.value (nth 0 l k)
  let val (r : Nat × BitVec 6) := Fmt.fp32.value r.1
  let h := fpMul .up 0 .fp32 (fv row (2 * g + 1)) (fv b g)
  let l := fpMul .down 0 .fp32 (fv row (2 * g)) (fv b (32 + g))
  let d := fpAdd .up 0 .fp32 (val h) (val l).neg
  let z := fpAdd .up 0 .fp32 acc.1 (val d)
  let nan := (val h).isNaN || (val l).isNaN || (val d).isNaN || (val z).isNaN
  (val z, acc.2.1 || nan, acc.2.2 ||| h.2 ||| l.2 ||| d.2 ||| z.2)

/-- One row's bound: its code and flags. -/
def boundRow (a b c : List Nat) (g : Nat) : Nat × BitVec 6 :=
  let s0 := Fmt.fp32.value (nth 0 c 0)
  let (v, nan, fl) := (List.range g).foldl (boundStep a b) (s0, s0.isNaN, 0)
  if nan then (0x7F800000, fNV) else ((rnd .up 0 .fp32 (fpPick true (.fin false 0 0) v)).1, fl)

def vboundEff (s : State) (u : VUnit) (td : TReg) (m : MReg) (a b c : TSrc) (g : Nat) : State :=
  let ra := rowsOf .fp32 (elemsA s u .fp32 a)
  let rc := rowsOf .fp32 (elemsC s u .fp32 c)
  let rb := (me s).srcElems .fp32 (latchPos u 1) b
  landElems s td m .fp32 6 ((ra.zip rc).flatMap fun p => boundRow p.1 rb p.2 g :: List.replicate 63 (0, 0))

/-! ### Masks (R169) -/

/-- A mask result of latency 1. -/
def landMask (s : State) (md : MReg) (v : Mask) : State := land s (.mask md.toNat v) (vecLat s 1) 0
def maskVal (s : State) (m : MReg) : Mask := ((me s).mask m.toNat).val

/-- The positions of a type whose governing bit is 1, rising. -/
def maskPositions (t : EType) (m : Mask) : List Nat := (List.range (elemCount t)).filter fun n => govern t m n

/-- The value MSET writes. -/
def msetVal (s : State) : MSetKind → Mask
  | .all v => if v then BitVec.allOnes 1024 else 0
  | .pre t sb => maskFrom t (BitVec.allOnes 1024) ((List.range (elemCount t)).map fun n => n < ((me s).s sb).toNat)
  | .rowpre t sb => maskFrom t (BitVec.allOnes 1024) ((List.range (elemCount t)).map fun n => n % t.perRow < ((me s).s sb).toNat)

/-! ### The instructions -/

/-- VADD (R148). -/
def execVadd (u : VUnit) (td : TReg) (m : MReg) (a : TSrc) (b : BSrc) (t : EType) (s : State) : Out :=
  issue (.vadd u td m a b t)
    (fun s => vecRound s td m t 4 (elemsA s u t a) (elemsB s u t b) (noElems t) fun md dr g x y _ => fpAdd md dr g x y) s

/-- VSUB (R148). -/
def execVsub (u : VUnit) (td : TReg) (m : MReg) (a : TSrc) (b : BSrc) (t : EType) (s : State) : Out :=
  issue (.vsub u td m a b t)
    (fun s => vecRound s td m t 4 (elemsA s u t a) (elemsB s u t b) (noElems t) fun md dr g x y _ => fpAdd md dr g x y.neg) s

/-- VMUL (R148). -/
def execVmul (u : VUnit) (td : TReg) (m : MReg) (a : TSrc) (b : BSrc) (t : EType) (s : State) : Out :=
  issue (.vmul u td m a b t)
    (fun s => vecRound s td m t 4 (elemsA s u t a) (elemsB s u t b) (noElems t) fun md dr g x y _ => fpMul md dr g x y) s

/-- VFMA (R148). -/
def execVfma (u : VUnit) (td : TReg) (m : MReg) (a : TSrc) (b : BSrc) (c : TSrc) (t : EType) (s : State) : Out :=
  issue (.vfma u td m a b c t)
    (fun s => vecRound s td m t 4 (elemsA s u t a) (elemsB s u t b) (elemsC s u t c) fun md dr g x y z => fpFma md dr g x y z) s

/-- VFMS (R148). -/
def execVfms (u : VUnit) (td : TReg) (m : MReg) (a : TSrc) (b : BSrc) (c : TSrc) (t : EType) (s : State) : Out :=
  issue (.vfms u td m a b c t)
    (fun s => vecRound s td m t 4 (elemsA s u t a) (elemsB s u t b) (elemsC s u t c) fun md dr g x y z => fpFma md dr g x y z.neg) s

/-- VFNMA (R148). -/
def execVfnma (u : VUnit) (td : TReg) (m : MReg) (a : TSrc) (b : BSrc) (c : TSrc) (t : EType) (s : State) : Out :=
  issue (.vfnma u td m a b c t)
    (fun s => vecRound s td m t 4 (elemsA s u t a) (elemsB s u t b) (elemsC s u t c) fun md dr g x y z => fpFma md dr g x.neg y z) s

/-- VMIN (R149). -/
def execVmin (u : VUnit) (td : TReg) (m : MReg) (a : TSrc) (b : BSrc) (t : EType) (s : State) : Out :=
  issue (.vmin u td m a b t)
    (fun s => vecPick s td m t 4 (elemsA s u t a) (elemsB s u t b) (noElems t) fun x y _ => fpPick false x y) s

/-- VMAX (R149). -/
def execVmax (u : VUnit) (td : TReg) (m : MReg) (a : TSrc) (b : BSrc) (t : EType) (s : State) : Out :=
  issue (.vmax u td m a b t)
    (fun s => vecPick s td m t 4 (elemsA s u t a) (elemsB s u t b) (noElems t) fun x y _ => fpPick true x y) s

/-- VABS (R149). -/
def execVabs (u : VUnit) (td : TReg) (m : MReg) (a : TSrc) (t : EType) (s : State) : Out :=
  issue (.vabs u td m a t)
    (fun s => vecPick s td m t 4 (elemsA s u t a) (noElems t) (noElems t) fun x _ _ => x.abs) s

/-- VNEG (R149). -/
def execVneg (u : VUnit) (td : TReg) (m : MReg) (a : TSrc) (t : EType) (s : State) : Out :=
  issue (.vneg u td m a t)
    (fun s => vecPick s td m t 4 (elemsA s u t a) (noElems t) (noElems t) fun x _ _ => x.neg) s

/-- VCMP (R150). -/
def execVcmp (u : VUnit) (cc : FCond) (md m : MReg) (a : TSrc) (b : BSrc) (t : EType) (s : State) : Out :=
  issue (.vcmp u cc md m a b t)
    (fun s => vecCmp s md m t (elemsA s u t a) (elemsB s u t b) fun x y => fpCond cc ((vfmt t).value x) ((vfmt t).value y)) s

/-- VSEL: the mask selects, nothing merges (R152). -/
def execVsel (u : VUnit) (td : TReg) (m : MReg) (a : TSrc) (b : BSrc) (t : EType) (s : State) : Out :=
  issue (.vsel u td m a b t)
    (fun s => let k := maskVal s m
      landCodes s td 0 t 2 (((elemsA s u t a).zip (elemsB s u t b)).zip (List.range (elemCount t)) |>.map fun p => if govern t k p.2 then p.1.1 else p.1.2)) s

/-- VCLAMP (R151). -/
def execVclamp (u : VUnit) (td : TReg) (m : MReg) (a : TSrc) (b : BSrc) (c : TSrc) (t : EType) (s : State) : Out :=
  issue (.vclamp u td m a b c t)
    (fun s => if t.isF then vecPick s td m t 4 (elemsA s u t a) (elemsB s u t b) (elemsC s u t c) fun x y z => fpPick false (fpPick true x y) z
      else vecMap s td m t 2 (elemsA s u t a) (elemsB s u t b) (elemsC s u t c) fun _ x y z =>
        let v := if intVal t x < intVal t y then y else x
        (if intVal t z < intVal t v then z else v, 0)) s

/-- VIADD (R153). -/
def execViadd (u : VUnit) (td : TReg) (m : MReg) (a : TSrc) (b : BSrc) (t : EType) (s : State) : Out :=
  issue (.viadd u td m a b t)
    (fun s => vecInt s td m t (elemsA s u t a) (elemsB s u t b) (· + ·)) s

/-- VISUB (R153). -/
def execVisub (u : VUnit) (td : TReg) (m : MReg) (a : TSrc) (b : BSrc) (t : EType) (s : State) : Out :=
  issue (.visub u td m a b t)
    (fun s => vecInt s td m t (elemsA s u t a) (elemsB s u t b) (· - ·)) s

/-- VIMUL (R153). -/
def execVimul (u : VUnit) (td : TReg) (m : MReg) (a : TSrc) (b : BSrc) (t : EType) (s : State) : Out :=
  issue (.vimul u td m a b t)
    (fun s => vecInt s td m t (elemsA s u t a) (elemsB s u t b) (· * ·)) s

/-- VIMULH (R153). -/
def execVimulh (u : VUnit) (td : TReg) (m : MReg) (a : TSrc) (b : BSrc) (t : EType) (s : State) : Out :=
  issue (.vimulh u td m a b t)
    (fun s => vecMap s td m t 2 (elemsA s u t a) (elemsB s u t b) (noElems t) fun _ x y _ => (intCode t.bits (intVal t x * intVal t y / 2 ^ t.bits), 0)) s

/-- VSHL (R153). -/
def execVshl (u : VUnit) (td : TReg) (m : MReg) (a : TSrc) (b : BSrc) (t : EType) (s : State) : Out :=
  issue (.vshl u td m a b t)
    (fun s => vecBits s td m t (elemsA s u t a) (elemsB s u t b) fun x y => x <<< (y % t.bits)) s

/-- VSHR (R153). -/
def execVshr (u : VUnit) (td : TReg) (m : MReg) (a : TSrc) (b : BSrc) (t : EType) (s : State) : Out :=
  issue (.vshr u td m a b t)
    (fun s => vecBits s td m t (elemsA s u t a) (elemsB s u t b) fun x y => x >>> (y % t.bits)) s

/-- VSAR (R153). DEDUCED (notes/assumptions/39.md): x has the signedness of T (R144), so an unsigned T brings in zeros. -/
def execVsar (u : VUnit) (td : TReg) (m : MReg) (a : TSrc) (b : BSrc) (t : EType) (s : State) : Out :=
  issue (.vsar u td m a b t)
    (fun s => vecBits s td m t (elemsA s u t a) (elemsB s u t b) fun x y => intCode t.bits (intVal t x / 2 ^ (y % t.bits))) s

/-- VAND (R153). -/
def execVand (u : VUnit) (td : TReg) (m : MReg) (a : TSrc) (b : BSrc) (t : EType) (s : State) : Out :=
  issue (.vand u td m a b t)
    (fun s => vecBits s td m t (elemsA s u t a) (elemsB s u t b) fun x y => x &&& y) s

/-- VOR (R153). -/
def execVor (u : VUnit) (td : TReg) (m : MReg) (a : TSrc) (b : BSrc) (t : EType) (s : State) : Out :=
  issue (.vor u td m a b t)
    (fun s => vecBits s td m t (elemsA s u t a) (elemsB s u t b) fun x y => x ||| y) s

/-- VXOR (R153). -/
def execVxor (u : VUnit) (td : TReg) (m : MReg) (a : TSrc) (b : BSrc) (t : EType) (s : State) : Out :=
  issue (.vxor u td m a b t)
    (fun s => vecBits s td m t (elemsA s u t a) (elemsB s u t b) fun x y => x ^^^ y) s

/-- VIMIN (R153). -/
def execVimin (u : VUnit) (td : TReg) (m : MReg) (a : TSrc) (b : BSrc) (t : EType) (s : State) : Out :=
  issue (.vimin u td m a b t)
    (fun s => vecBits s td m t (elemsA s u t a) (elemsB s u t b) fun x y => if intVal t y < intVal t x then y else x) s

/-- VIMAX (R153). -/
def execVimax (u : VUnit) (td : TReg) (m : MReg) (a : TSrc) (b : BSrc) (t : EType) (s : State) : Out :=
  issue (.vimax u td m a b t)
    (fun s => vecBits s td m t (elemsA s u t a) (elemsB s u t b) fun x y => if intVal t x < intVal t y then y else x) s

/-- VNOT (R153). -/
def execVnot (u : VUnit) (td : TReg) (m : MReg) (a : TSrc) (t : EType) (s : State) : Out :=
  issue (.vnot u td m a t)
    (fun s => vecBits s td m t (elemsA s u t a) (noElems t) fun x _ => 2 ^ t.bits - 1 - x) s

/-- VPOPC (R153). -/
def execVpopc (u : VUnit) (td : TReg) (m : MReg) (a : TSrc) (t : EType) (s : State) : Out :=
  issue (.vpopc u td m a t)
    (fun s => vecBits s td m t (elemsA s u t a) (noElems t) fun x _ => popNat t.bits x) s

/-- VCLZ (R153). -/
def execVclz (u : VUnit) (td : TReg) (m : MReg) (a : TSrc) (t : EType) (s : State) : Out :=
  issue (.vclz u td m a t)
    (fun s => vecBits s td m t (elemsA s u t a) (noElems t) fun x _ => clzNat t.bits x) s

/-- VICMP (R154). -/
def execVicmp (u : VUnit) (cc : VICond) (md m : MReg) (a : TSrc) (b : BSrc) (t : EType) (s : State) : Out :=
  issue (.vicmp u cc md m a b t)
    (fun s => vecCmp s md m t (elemsA s u t a) (elemsB s u t b) fun x y => viCond cc (intVal t x) (intVal t y)) s

/-- VCVT (R155). -/
def execVcvt (u : VUnit) (td : TReg) (m : MReg) (a : TSrc) (t src : EType) (part : BitVec 3) (s : State) : Out :=
  issue (.vcvt u td m a t src part)
    (fun s => vcvtEff s u td m a t src part.toNat) s

/-- VPACK (R156). -/
def execVpack (u : VUnit) (scale : Bool) (td : TReg) (a : TSrc) (t : EType) (ktype : BitVec 2) (q : BitVec 3) (s : State) : Out :=
  issue (.vpack u scale td a t ktype q)
    (fun s => vpackEff s u scale td a t ktype.toNat q.toNat) s

/-- VUNPACK (R157). -/
def execVunpack (u : VUnit) (td : TReg) (m : MReg) (a b : TSrc) (t : EType) (xv : BitVec 2) (q : BitVec 3) (s : State) : Out :=
  issue (.vunpack u td m a b t xv q)
    (fun s => vunpackEff s u td m a b t xv.toNat q.toNat) s

/-- VMOV (R158). -/
def execVmov (u : VUnit) (td : TReg) (m : MReg) (a : TSrc) (t : EType) (s : State) : Out :=
  issue (.vmov u td m a t)
    (fun s => landTile s td m t 2 ((me s).src (latchPos u 0) a)) s

/-- VMOVS (R158). -/
def execVmovs (u : VUnit) (td : TReg) (m : MReg) (sb : SReg) (t : EType) (s : State) : Out :=
  issue (.vmovs u td m sb t)
    (fun s => landCodes s td m t 2 (List.replicate (elemCount t) (((me s).s sb).toNat % 2 ^ t.bits))) s

/-- VMOVI (R158): sext(imm32, 64) for int64, zext for uint64, the low bits for narrower types. -/
def execVmovi (u : VUnit) (td : TReg) (m : MReg) (imm : BitVec 32) (t : EType) (s : State) : Out :=
  issue (.vmovi u td m imm t)
    (fun s => let v : Nat := if t = .int64 then (imm.signExtend 64).toNat else imm.toNat % 2 ^ t.bits
      landCodes s td m t 2 (List.replicate (elemCount t) v)) s

/-- VEXT (R159). -/
def execVext (u : VUnit) (sd : SReg) (a : TSrc) (sb : SReg) (t : EType) (s : State) : Out :=
  issue (.vext u sd a sb t)
    (fun s => let n := ((me s).s sb).toNat % elemCount t
      landScalar s sd (BitVec.ofInt 64 (intVal t (tileElem t ((me s).src (latchPos u 0) a) n))) (vecLat s 2)) s

/-- VINS (R159). -/
def execVins (u : VUnit) (td : TReg) (a : TSrc) (sb sc : SReg) (t : EType) (s : State) : Out :=
  issue (.vins u td a sb sc t)
    (fun s => let n := ((me s).s sc).toNat % elemCount t
      let v := (me s).src (latchPos u 0) a
      landTile s td 0 t 2 (mergeBits v (BitVec.ofNat 32768 ((((me s).s sb).toNat % 2 ^ t.bits) <<< (n * t.bits))) (onesAt 32768 (n * t.bits) t.bits))) s

/-- VIOTA (R159). -/
def execViota (u : VUnit) (td : TReg) (m : MReg) (sb : Option SReg) (t : EType) (s : State) : Out :=
  issue (.viota u td m sb t)
    (fun s => let base := match sb with
        | some r => ((me s).s r).toNat
        | none => 0
      landCodes s td m t 2 ((List.range (elemCount t)).map fun n => (base + n) % 2 ^ t.bits)) s

/-- VROTR (R160). -/
def execVrotr (u : VUnit) (td : TReg) (m : MReg) (a : TSrc) (k : RotAmt) (t : EType) (s : State) : Out :=
  issue (.vrotr u td m a k t)
    (fun s => let n := rotAmount s k
      moveElems s td m t 2 (elemsA s u t a) fun i j => (i, (j + (t.perRow - n % t.perRow)) % t.perRow)) s

/-- VROTC (R160). -/
def execVrotc (u : VUnit) (td : TReg) (m : MReg) (a : TSrc) (k : RotAmt) (t : EType) (s : State) : Out :=
  issue (.vrotc u td m a k t)
    (fun s => let n := rotAmount s k
      moveElems s td m t 5 (elemsA s u t a) fun i j => ((i + (16 - n % 16)) % 16, j)) s

/-- VBCR (R160). -/
def execVbcr (u : VUnit) (td : TReg) (m : MReg) (a : TSrc) (k : RotAmt) (t : EType) (s : State) : Out :=
  issue (.vbcr u td m a k t)
    (fun s => let n := rotAmount s k
      moveElems s td m t 2 (elemsA s u t a) fun i _ => (i, n % t.perRow)) s

/-- VBCC (R160). -/
def execVbcc (u : VUnit) (td : TReg) (m : MReg) (a : TSrc) (k : RotAmt) (t : EType) (s : State) : Out :=
  issue (.vbcc u td m a k t)
    (fun s => let n := rotAmount s k
      moveElems s td m t 5 (elemsA s u t a) fun _ j => (n % 16, j)) s

/-- VREDR (R162). -/
def execVredr (u : VUnit) (op : RedOp) (td : TReg) (m : MReg) (a : TSrc) (t : EType) (s : State) : Out :=
  issue (.vredr u op td m a t)
    (fun s => vecReduce s true op td m t 5 (elemsA s u t a)) s

/-- VREDC (R162). -/
def execVredc (u : VUnit) (op : RedOp) (td : TReg) (m : MReg) (a : TSrc) (t : EType) (s : State) : Out :=
  issue (.vredc u op td m a t)
    (fun s => vecReduce s false op td m t 9 (elemsA s u t a)) s

/-- VPERM (R161). -/
def execVperm (u : VUnit) (td : TReg) (m : MReg) (a b : TSrc) (t : EType) (s : State) : Out :=
  issue (.vperm u td m a b t)
    (fun s => let rows := rowsOf t (elemsA s u t a)
      let idx := rowsOf t ((me s).srcElems t (latchPos u 1) b)
      landCodes s td m t 4 ((rows.zip idx).flatMap fun p => p.2.map fun x => if x < t.perRow then nth 0 p.1 x else 0)) s

/-- VRCP (R163). -/
def execVrcp (u : VUnit) (td : TReg) (m : MReg) (a : TSrc) (t : EType) (s : State) : Out :=
  issue (.vrcp u td m a t)
    (fun s => vecSpecial s u td m a t rcpFn) s

/-- VRSQ (R163). -/
def execVrsq (u : VUnit) (td : TReg) (m : MReg) (a : TSrc) (t : EType) (s : State) : Out :=
  issue (.vrsq u td m a t)
    (fun s => vecSpecial s u td m a t rsqFn) s

/-- VEXP2 (R163). -/
def execVexp2 (u : VUnit) (td : TReg) (m : MReg) (a : TSrc) (t : EType) (s : State) : Out :=
  issue (.vexp2 u td m a t)
    (fun s => vecSpecial s u td m a t exp2Fn) s

/-- VLOG2 (R163). -/
def execVlog2 (u : VUnit) (td : TReg) (m : MReg) (a : TSrc) (t : EType) (s : State) : Out :=
  issue (.vlog2 u td m a t)
    (fun s => vecSpecial s u td m a t log2Fn) s

/-- VMERGE (R165). -/
def execVmerge (u : VUnit) (desc idx hi : Bool) (td : TReg) (m : MReg) (a b : TSrc) (t : EType) (s : State) : Out :=
  issue (.vmerge u desc idx hi td m a b t)
    (fun s => vmergeEff s u desc idx hi td m a b t) s

/-- VSORT (R166). -/
def execVsort (u : VUnit) (desc idx : Bool) (td : TReg) (m : MReg) (a : TSrc) (t : EType) (s : State) : Out :=
  issue (.vsort u desc idx td m a t)
    (fun s => vsortEff s u desc idx td m a t) s

/-- VTOPK (R167). -/
def execVtopk (u : VUnit) (least idx : Bool) (td : TReg) (m : MReg) (a : TSrc) (k : BitVec 8) (t : EType) (s : State) : Out :=
  issue (.vtopk u least idx td m a k t)
    (fun s => vtopkEff s u least idx td m a k.toNat t) s

/-- VBOUND (R168). -/
def execVbound (u : VUnit) (td : TReg) (m : MReg) (a b c : TSrc) (g : BitVec 8) (s : State) : Out :=
  issue (.vbound u td m a b c g)
    (fun s => vboundEff s u td m a b c g.toNat) s

/-- MAND (R169). -/
def execMand (u : VUnit) (md ma mb : MReg) (s : State) : Out :=
  issue (.mand u md ma mb)
    (fun s => landMask s md (maskVal s ma &&& maskVal s mb)) s

/-- MOR (R169). -/
def execMor (u : VUnit) (md ma mb : MReg) (s : State) : Out :=
  issue (.mor u md ma mb)
    (fun s => landMask s md (maskVal s ma ||| maskVal s mb)) s

/-- MXOR (R169). -/
def execMxor (u : VUnit) (md ma mb : MReg) (s : State) : Out :=
  issue (.mxor u md ma mb)
    (fun s => landMask s md (maskVal s ma ^^^ maskVal s mb)) s

/-- MNOT (R169). -/
def execMnot (u : VUnit) (md ma : MReg) (s : State) : Out :=
  issue (.mnot u md ma)
    (fun s => landMask s md (~~~maskVal s ma)) s

/-- MPOPC (R169). -/
def execMpopc (u : VUnit) (sd : SReg) (ma : MReg) (t : EType) (s : State) : Out :=
  issue (.mpopc u sd ma t)
    (fun s => landScalar s sd (BitVec.ofNat 64 (maskPositions t (maskVal s ma)).length) (vecLat s 1)) s

/-- MFIRST (R169). -/
def execMfirst (u : VUnit) (sd : SReg) (ma : MReg) (t : EType) (s : State) : Out :=
  issue (.mfirst u sd ma t)
    (fun s => landScalar s sd (match maskPositions t (maskVal s ma) with
        | n :: _ => BitVec.ofNat 64 n
        | [] => BitVec.allOnes 64) (vecLat s 1)) s

/-- MSET (R169). -/
def execMset (u : VUnit) (md : MReg) (k : MSetKind) (s : State) : Out :=
  issue (.mset u md k)
    (fun s => landMask s md (msetVal s k)) s

end Sys2Proof.Machine
end

