-- ==== Sys2Proof/Machine/Drones.lean ====
section
/-!
DEFINITION. The drones: the loop-nest sequencer, BMAC, posted writes, LNWAIT, DFENCE and RRET (R365, R372 to R377).
-/
namespace Sys2Proof.Machine

def droneHart (d : Nat) : Nat := Config.droneBase + d

/-- Does the call that started an engine still run? -/
def ownerRuns (s : State) (h : Nat) (o : Option (Word × Nat)) : Bool := o.isSome && callId s h == o

/-- What an engine of a drone sees beside committed memory: what the call that started it sees (R363, R373). -/
def engineView (s : State) (h : Nat) (o : Option (Word × Nat)) : StepView := match o with
  | some (key, n) => stepViewOf s h key n
  | none => StepView.empty

/-! ### Posted writes (R376) -/

/-- A write of at most one line at a near address, for a call: one in global form is posted, an elided page being un-elided first (R357);
the cell store takes it at once. -/
def post (s : State) (d : Nat) (o : Option (Word × Nat)) (pages : Tab Page) (a : Word) (bytes : List Byte) (bad : Bool) : State :=
  if isCell a then modDrone s d fun k => { k with cells := mwrite k.cells (cellOff a) bytes }
  else
    let s := unelide s (stepsOfCall s (droneHart d) o) a.toNat
    match findPage pages a.toNat with
    | none => s
    | some (b, p) =>
      modDrone s d fun k => { k with posted := k.posted ++ [{ owner := o, pa := physOf b p a.toNat, va := a.toNat, bytes := bytes, bad := bad }] }

/-- POSTED_WRITE_DRAIN: the oldest posted write performs in the array; the keepers see it then (R364, R376). A bank that failed leaves
its lines bad (R377). -/
def execPostedWriteDrain (d : Nat) (s : State) : Out :=
  match (drone s d).posted with
  | [] => .next s
  | p :: ps =>
    let s := modDrone s d fun k => { k with posted := ps }
    let h := droneHart d
    let s := callWrite s h p.owner p.pa p.va p.bytes
    if p.bad then
      .next (noteWrite { s with badLines := insNat (p.pa / 64) s.badLines } (readerOf (snapImage s)) (stepsOfCall s h p.owner) p.pa
        { place := 0, direct := true, va := p.va, bytes := [], bad := true })
    else .next s

/-! ### The sequencer (R372 to R375) -/

/-- The levels of a run: inactive ones count 1 (R372). -/
def runLevels (m : List Host.Cell) (a n : Nat) : List Level :=
  (List.range 5).map fun l => if l < n then levelOf m (a + 32 + 24 * l) else { count := 1, vlen := 0, pad := 0, xstr := 0, ystr := 0, ostr := 0 }

/-- Sixteen fp32 codes as a line. -/
def lineOf (l : List Nat) : BitVec 512 := BitVec.ofNat 512 (pack 32 l)
def laneCodes (v : BitVec 512) : List Nat := unpack 32 16 v.toNat

/-- The start value of a bank accumulator (R373); SCALE-ADD uses none. -/
def accStart (body : Nat) : BitVec 512 := if body = 3 then lineOf (List.replicate 16 0xFF800000) else 0

/-- Every bank accumulator takes its start value. -/
def clearAccs (body : Nat) (k : Drone) : Drone :=
  if body = 1 then k else { k with accs := (List.range 16).foldl (fun t b => tset 0 t b (accStart body)) k.accs }

/-- LNSEQ (R372). -/
def execLnseq (sa : SReg) (s : State) : Out :=
  issue (.lnseq sa)
    (fun s =>
      let d := droneOf s.cur
      let m := s.bundle.cells
      let a := cellOff ((me s).s sa)
      let body := mnum m (a + 28) 1
      let aw := mnum m (a + 31) 1
      let r : SeqRun :=
        { owner := callId s s.cur, x := BitVec.ofNat 64 (mnum m a 8), y := BitVec.ofNat 64 (mnum m (a + 8) 8)
          out := BitVec.ofNat 64 (mnum m (a + 16) 8), a := BitVec.ofNat 32 (mnum m (a + 24) 4), body := body
          aw := if aw = 0 then 16 else aw, levels := runLevels m a (mnum m (a + 29) 1), idx := [0, 0, 0, 0, 0], phase := 0, v := 0
          flags := 0, cols := none, suspended := false, cause := 0, finished := false }
      modDrone s d fun k => clearAccs body { k with seqr := some r, ordinary := [], serving := [], granted := [] }) s

/-- i_l with its level. -/
def SeqRun.indexed (r : SeqRun) : List (Nat × Level) := r.idx.zip r.levels
/-- The address base + Σ i_l · stride_l. -/
def sumAddr (base : Word) (l : List (Nat × Int)) : Word := l.foldl (fun a p => a + wordOfInt (p.1 * p.2)) base
/-- Does some level of kind `pad` stand beyond its valid positions? -/
def SeqRun.beyond (r : SeqRun) (pad : Nat) : Bool := r.indexed.any fun p => p.2.pad == pad && p.2.vlen ≤ p.1
def SeqRun.xAddr (r : SeqRun) : Word :=
  sumAddr r.x (r.indexed.map fun p => (if p.2.pad = 2 then min p.1 (p.2.vlen - 1) else p.1, p.2.xstr))
def SeqRun.yAddr (r : SeqRun) : Word := sumAddr r.y (r.indexed.map fun p => (p.1, p.2.ystr))
def SeqRun.outAddr (r : SeqRun) : Word := sumAddr r.out (r.indexed.map fun p => (p.1, p.2.ostr))
/-- o0: the outer levels only. -/
def SeqRun.runOut (r : SeqRun) : Word := sumAddr r.out ((r.indexed.drop 1).map fun p => (p.1, p.2.ostr))

/-- The bank of a physical address (R355): of its offset in the pseudo-channel of a LOC = 1 page, or in the LPDDR-6 channel. -/
def bankOf (pa : Nat) : Nat := (if pa < 2 ^ 39 then pa % 2 ^ 30 else pa % 2 ^ 36) / 1024 % 16

/-- The next indices of levels 1 to 4; none after the last. -/
def nextOuter : List Nat → List Level → Option (List Nat)
  | i :: is, l :: ls => if i + 1 < l.count then some ((i + 1) :: is) else (nextOuter is ls).map fun r => 0 :: r
  | _, _ => none

/-- Has every iteration been performed? -/
def SeqRun.over (r : SeqRun) : Bool := r.idx.isEmpty

/-- After the last iteration of a level-0 run. -/
def SeqRun.nextRun (r : SeqRun) : SeqRun :=
  match nextOuter (r.idx.drop 1) (r.levels.drop 1) with
  | some is => { r with idx := 0 :: is, phase := 0 }
  | none => { r with idx := [], phase := 0 }

/-- After one i0. -/
def SeqRun.nextI0 (r : SeqRun) : SeqRun :=
  let i := r.idx.headD 0 + 1
  let n := (r.levels.head?.map (·.count)).getD 1
  if i < n then { r with idx := i :: r.idx.drop 1, phase := 0 }
  else if r.body = 1 then r.nextRun
  else { r with phase := 3 }

/-- A column command's checks on a near address (R357): the recorded cause. The call that issued the LNSEQ may write (R372). -/
def seqCheck (s : State) (h : Nat) (store : Bool) (a : Word) (n : Nat) : Option Byte :=
  (nearTrap (modHart s h fun c => { c with run := none }) h store a n n).map fun t => BitVec.ofNat 8 t.1

/-- The sequencer's state is replaced. -/
def setSeq (s : State) (d : Nat) (r : SeqRun) : State := modDrone s d fun k => { k with seqr := some r }

/-- One command has been counted toward the arbitration window. -/
def SeqRun.counted (r : SeqRun) : SeqRun := { r with cols := r.cols.map (· + 1) }

/-- Read 64 bytes, or stop on a failed check or an uncorrectable error (R373). -/
def seqRead (s : State) (d : Nat) (r : SeqRun) (a : Word) : State × (SeqRun ⊕ BitVec 512) :=
  let h := droneHart d
  match seqCheck s h false a 64 with
  | some c => (s, .inl { r with cause := c })
  | none =>
    let v := engineView s h r.owner
    if isCell a then (s, .inr (BitVec.ofNat 512 (leNat (mread (drone s d).cells (cellOff a) 64))))
    else if viewBad s.image v a.toNat 64 then (lineError s (nearPhys s a) [], .inl { r with cause := 0x14 })
    else (s, .inr (BitVec.ofNat 512 (leNat ((List.range 64).map fun k => viewReader s.image v (a.toNat + k)))))

def fp (c : Nat) : XR := Fmt.fp32.value c

/-- Lane by lane: codes and flags. -/
def lanes (f : XR → XR → XR → Nat × BitVec 6) (x y z : BitVec 512) : BitVec 512 × BitVec 6 :=
  let rs := ((laneCodes x).zip ((laneCodes y).zip (laneCodes z))).map fun p => f (fp p.1) (fp p.2.1) (fp p.2.2)
  (lineOf (rs.map (·.1)), orAll (rs.map (·.2)))

/-- A pairwise fp32 sum under RNE (R116), a power of two of codes. -/
def pairSum (l : List Nat) : Nat × BitVec 6 :=
  let t := treeSum (fun _ a b => fpAdd RMode.rne 0 .fp32 (fp a) (fp b)) 16 0 l 0
  (t.1, t.2.1)

/-- The bank whose accumulator the level-0 run uses: that of o0 (R373). -/
def runBank (s : State) (r : SeqRun) : Nat := bankOf (nearPhys s r.runOut)

/-- The x operand is at hand in `r.v`: MAX takes it, the others read y next. -/
def seqTakeX (s : State) (d : Nat) (r : SeqRun) : State :=
  if r.body = 3 then
    let k := runBank s r
    let acc := tget 0 (drone s d).accs k
    let (v, _) := lanes (fun x a _ => ((flushOnly RMode.rne .fp32 (fpPick true a x)).1, 0)) r.v acc 0
    setSeq (modDrone s d fun x => { x with accs := tset 0 x.accs k v }) d r.nextI0
  else setSeq s d { r with phase := 1 }

/-- The y operand `w` completes the iteration's arithmetic. -/
def seqTakeY (s : State) (d : Nat) (r : SeqRun) (w : BitVec 512) : State :=
  if r.body = 1 then
    let (v, g) := lanes (fun x y _ => fpMulAdd RMode.rne 0 .fp32 (f32 r.a) x y) r.v w 0
    setSeq s d { r with v := v, flags := r.flags ||| g, phase := 2 }
  else
    let k := runBank s r
    let (v, g) := lanes (fun x y a => fpMulAdd RMode.rne 0 .fp32 x y a) r.v w (tget 0 (drone s d).accs k)
    setSeq (modDrone s d fun x => { x with accs := tset 0 x.accs k v }) d ({ r with flags := r.flags ||| g }).nextI0

/-- Post an out write of the sequencer, whose address is in global form (R372), or stop on a failed check. -/
def seqOut (s : State) (d : Nat) (r next : SeqRun) (a : Word) (bytes : List Byte) : State :=
  match (if isCell a then some 0x09 else seqCheck s (droneHart d) true a bytes.length) with
  | some c => setSeq s d { r with cause := c }
  | none => setSeq (post s d r.owner s.pages a bytes false) d next

/-- The write at the end of a level-0 run, and the accumulator's reset. -/
def seqEndRun (s : State) (d : Nat) (r : SeqRun) : State :=
  let k := runBank s r
  let acc := tget 0 (drone s d).accs k
  let (v, g) := pairSum (laneCodes acc)
  let r' := if r.body = 2 then { r with flags := r.flags ||| g } else r
  let s := modDrone s d fun x => { x with accs := tset 0 x.accs k (accStart r.body) }
  seqOut s d r' r'.nextRun r.runOut (if r.body = 2 then natBytes v 4 else natBytes acc.toNat 64)

/-- Must the sequencer suspend before its next command (R375, R381)? Commands have been counted since an access arrived or since the last
suspension, and they are AW or have reached the end of a level-0 run. -/
def SeqRun.mustSuspend (r : SeqRun) : Bool :=
  match r.cols with
  | some n => 1 ≤ n && (r.aw ≤ n || (r.phase == 0 && r.idx.headD 0 == 0)) && !r.over
  | none => false

/-- The sequencer's next column command, or an iteration's step that needs none. -/
def seqCommand (s : State) (d : Nat) : State :=
  match (drone s d).seqr with
  | none => s
  | some r =>
    if r.finished || r.suspended || r.cause != 0 || r.over || r.mustSuspend then s
    else
      match r.phase with
      | 0 =>
        if r.beyond 3 then setSeq s d r.nextI0
        else if r.beyond 1 then seqTakeX s d { r with v := 0 }
        else
          let r := r.counted
          (match seqRead s d r r.xAddr with
           | (s, .inl r) => setSeq s d r
           | (s, .inr v) => seqTakeX s d { r with v := v })
      | 1 =>
        let r := r.counted
        (match seqRead s d r r.yAddr with
         | (s, .inl r) => setSeq s d r
         | (s, .inr w) => seqTakeY s d r w)
      | 2 => let r := r.counted; seqOut s d r r.nextI0 r.outAddr (natBytes r.v.toNat 64)
      | _ => seqEndRun s d r.counted

/-- The LNWAITs of the drone's context receive the outcome of a run (R374). -/
def releaseLnwaits (s : State) (h : Nat) (v : Byte) : State :=
  modHart s h fun c => { c.lnwaits.foldl (fun c r => c.fillScalar r (v.setWidth 64)) c with lnwaits := [] }

/-- SEQUENCER_COMPLETE: every iteration has been performed; its flags are ORed into FLAGS (R373). -/
def execSequencerComplete (d : Nat) (s : State) : Out :=
  match (drone s d).seqr with
  | none => .next s
  | some r =>
    if r.finished || r.cause != 0 || !r.over then .next s
    else
      let h := droneHart d
      let s := modDrone s d fun k => { k with seqr := some { r with finished := true }, lastCause := 0, ordinary := [], serving := [], granted := [] }
      let s := if ownerRuns s h r.owner then modHart s h fun c => c.orFlags r.flags else s
      .next (releaseLnwaits s h 0)

/-- SEQUENCER_STOP: a recorded cause stops the run, and traps the drone at that moment (R374). -/
def execSequencerStop (d : Nat) (s : State) : Out :=
  match (drone s d).seqr with
  | none => .next s
  | some r =>
    if r.finished || r.cause == 0 then .next s
    else
      let h := droneHart d
      let s := modDrone s d fun k => { k with seqr := some { r with finished := true }, lastCause := r.cause, ordinary := [], serving := [], granted := [] }
      let s := releaseLnwaits s h r.cause
      if ownerRuns s h r.owner then .next (takeTrap s h (hart s h).pc { cause := r.cause.toNat, slots := 0, info := 0 }) else .next s

/-- ORDINARY_ACCESS_ARRIVAL: an access that no other event stands for arrives; it waits while the sequencer runs (R375). -/
def execOrdinaryAccessArrival (d : Nat) (s : State) : Out := .next (seekAt .other s d)

/-- SEQUENCER_SUSPEND: the accesses waiting now will be served, the fetches among them at once (R375). -/
def execSequencerSuspend (d : Nat) (s : State) : Out :=
  match (drone s d).seqr with
  | none => .next s
  | some r =>
    if r.finished || r.suspended || !r.mustSuspend then .next s
    else .next (modDrone s d fun k => { k with
      seqr := some { r with suspended := true }, serving := k.ordinary, granted := k.granted ++ k.ordinary.filter Access.atOnce })

/-- Are the accesses that a suspension serves all served? -/
def allServed (s : State) (d : Nat) : Bool := ((drone s d).serving.filter (accessWaits s)).isEmpty

/-- SEQUENCER_RESUME: once those accesses have been served; accesses that came during the service are counted for from here on (R375). -/
def execSequencerResume (d : Nat) (s : State) : Out :=
  match (drone s d).seqr with
  | none => .next s
  | some r =>
    if r.finished || !r.suspended || !allServed s d then .next s
    else
      .next (modDrone s d fun k =>
        let left := k.serving.foldl List.erase k.ordinary
        { k with
          seqr := some { r with suspended := false, cols := if left.isEmpty then none else some 0 }
          ordinary := left
          serving := [] })

/-- LNWAIT: sd is pending until the sequencer has no run in progress (R374). -/
def execLnwait (sd : SReg) (s : State) : Out :=
  issue (.lnwait sd)
    (fun s =>
      let k := drone s (droneOf s.cur)
      let s := markDst s (.scalar sd.toNat)
      if k.seqr.any fun r => !r.finished then modMe s fun c => { c with lnwaits := c.lnwaits ++ [sd.toNat] }
      else fillFromQueue s s.cur sd.toNat (k.lastCause.setWidth 64) none) s

/-- DFENCE: its bundle has blocked until every write of the drone performed (R376). -/
def execDfence (s : State) : Out := issue .dfence id s

/-! ### BMAC (R377) -/

/-- BMAC: sd is pending until every bank has finished. -/
def execBmac (sd sa sb sc : SReg) (n : BitVec 16) (s : State) : Out :=
  issue (.bmac sd sa sb sc n)
    (fun s =>
      let d := droneOf s.cur
      let c := me s
      let v := (List.range 256).map fun i => BitVec.ofNat 32 (mnum s.bundle.cells (cellOff (c.s sc) + 4 * i) 4)
      let r : BmacRun :=
        { owner := callId s s.cur, sd := sd.toNat, mat := c.s sa, out := c.s sb, v := v, rows := n.toNat, pages := s.pages }
      markDst (modDrone s d fun k => { k with bmac := some r }) (.scalar sd.toNat)) s

/-- Row `m` of the matrix, in the cell store or under the translation of the issue: its words, and its first bad line. -/
def bmacRow (s : State) (h : Nat) (r : BmacRun) (m : Nat) : List Nat × Option Nat :=
  let a := r.mat + BitVec.ofNat 64 (1024 * m)
  if isCell a then ((List.range 256).map fun j => mnum (drone s (droneOf h)).cells (cellOff a + 4 * j) 4, none)
  else
    let im : Image := { s.image with pages := r.pages }
    let v := engineView s h r.owner
    let bad := (List.range 16).find? fun k => viewBad im v (a.toNat + 64 * k) 64
    ((List.range 256).map fun j => leNat ((List.range 4).map fun k => viewReader im v (a.toNat + 4 * j + k)), bad.map fun k => a.toNat + 64 * k)

/-- v · row: products rounded, then the pairwise sum. -/
def bmacDot (v : List (BitVec 32)) (row : List Nat) : Nat :=
  (pairSum ((v.zip row).map fun p => (fpMul RMode.rne 0 .fp32 (f32 p.1) (fp p.2)).1)).1

/-- The output region of bank `k`, and the virtual address of the bad line that stopped it. -/
def bmacBank (s : State) (h : Nat) (r : BmacRun) (k : Nat) : List Byte × Option Nat :=
  let span := 64 * ((r.rows + 255) / 256)
  let rows := (List.range (r.rows / 16)).map fun i => bmacRow s h r (16 * i + k)
  match rows.findSome? (·.2) with
  | some a => (List.replicate span 0xFF, some a)
  | none => ((rows.flatMap fun x => natBytes (bmacDot r.v x.1) 4) ++ List.replicate (span - r.rows / 4) 0, none)

/-- Post a bank's region, line by line. -/
def postBank (s : State) (d : Nat) (r : BmacRun) (k : Nat) (b : List Byte × Option Nat) : State :=
  let base := r.out + BitVec.ofNat 64 (k * b.1.length)
  let s := match b.2 with
    | some a => (match findPage r.pages a with
      | some (o, p) => lineError s (physOf o p a) []
      | none => s)
    | none => s
  (List.range (b.1.length / 64)).foldl (fun s i =>
    post s d r.owner r.pages (base + BitVec.ofNat 64 (64 * i)) ((b.1.drop (64 * i)).take 64) b.2.isSome) s

/-- BMAC_COMPLETE: every bank has finished; the mask of failing banks is written and ORed into BANKS. -/
def execBmacComplete (d : Nat) (s : State) : Out :=
  match (drone s d).bmac with
  | none => .next s
  | some r =>
    let h := droneHart d
    let bs := (List.range 16).map (bmacBank s h r)
    let mask : BitVec 16 := BitVec.ofNat 16 (pack 1 (bs.map fun b => b.2.isSome.toNat))
    let s := (bs.zip (List.range 16)).foldl (fun s b => postBank s d r b.2 b.1) s
    let s := modDrone s d fun k => { k with bmac := none }
    if ownerRuns s h r.owner then
      .next (modHart s h fun c =>
        { c.fillScalar r.sd (mask.setWidth 64) with run := c.run.map fun x => { x with banks := x.banks ||| mask } })
    else .next s

/-! ### RRET (R365) -/

/-- RRET: the reply leaves as the bundle closes. -/
def execRret (ta : TReg) (sa : SReg) (s : State) : Out :=
  issue (.rret ta sa)
    (fun s =>
      let r : Reply :=
        { state := 0x01, cause := 0, banks := 0, rval := ((me s).s sa).setWidth 16, tile := ((me s).tile ta.toNat).val }
      { s with bundle := { s.bundle with reply := some r } }) s

end Sys2Proof.Machine
end

