-- ==== Sys2Proof/Machine/Global.lean ====
section
/-!
DEFINITION. Global scalar memory: GLD, GLD.Q, GST, GAMO of the SC slot and the completion of their loads (R131 to R138, R328).
-/
namespace Sys2Proof.Machine

/-- The bytes of a unit that are forwarded at an address (R132): a GST's. A GAMO has no word to forward before its commit (DESIGN CHOICE,
notes/assumptions/66.md). -/
def unitByte (u : WUnit) (a : Nat) : Option Byte := match u.kind with
  | .gst b bytes => if b ≤ a ∧ a < b + bytes.length then some (nth 0 bytes (a - b)) else none
  | _ => none

/-- The newest of a strand's buffered bytes at a virtual address, written before `ord` (R132, R133), through that same address (DESIGN
CHOICE, notes/assumptions/66.md). -/
def forwarded (s : State) (g : GLoad) (a : Nat) : Option Byte :=
  ((launch s g.launch).units.filter fun u => u.key == g.key && u.ord < g.ord).reverse.findSome? fun u => unitByte u a

/-- A global address as a load of context `h` starts to read it. -/
def startGld (s : State) (q : Option Nat) (size : BitVec 2) (sd base : SReg) (disp : BitVec 32) : State :=
  let h := s.cur
  let a := (globalAddr (me s) base disp).toNat
  let o := hart s (actsFor s h)
  let (b, p) := (findPage s.pages a).getD (0, Page.absent)
  let g : GLoad :=
    { dst := sd.toNat, addr := a, size := 2 ^ size.toNat, q := q, launch := o.who.launch, key := o.csr.skey,
      ord := (launch s o.who.launch).nextOrd, base := b, page := p }
  let s := modMe s fun c => { c with gloads := c.gloads ++ [g] }
  markDst s (.scalar sd.toNat)

/-- GLD (R132). -/
def execGld (size : BitVec 2) (sd base : SReg) (disp : BitVec 32) (s : State) : Out :=
  issue (.gld size sd base disp) (fun s => startGld s none size sd base disp) s

/-- GLD.Q: ends the quantum (R133). -/
def execGldQ (size : BitVec 2) (sd base : SReg) (disp : BitVec 32) (s : State) : Out :=
  issue (.gldQ size sd base disp) (fun s => endsHere (startGld s (some (me s).csr.qnum.toNat) size sd base disp)) s

/-- The low `n` bytes of a word. -/
def lowBytes (v : Word) (n : Nat) : List Byte := natBytes v.toNat n

/-- GST: a write unit of the strand (R134, R328), or, in a call, a store that performs at once (R361, R364). -/
def execGst (size : BitVec 2) (sd base : SReg) (disp : BitVec 32) (s : State) : Out :=
  issue (.gst size sd base disp)
    (fun s =>
      let a := (globalAddr (me s) base disp).toNat
      let bytes := lowBytes ((me s).s sd) (2 ^ size.toNat)
      if isGuest s.cur then callStore s s.cur a bytes else addUnit s (.gst a bytes)) s

/-- GAMO: a write unit that ends the quantum; its operation applies at the commit (R135). -/
def execGamo (f : AFunc) (size : BitVec 2) (sd base : SReg) (disp : BitVec 32) (sv : SReg) (s : State) : Out :=
  issue (.gamo f size sd base disp sv)
    (fun s =>
      let c := me s
      let n := 2 ^ size.toNat
      let u : UnitKind := .gamo s.cur sd.toNat (globalAddr c base disp).toNat n f (low (8 * n) (c.s sv)) (low (8 * n) (c.s sd))
      markDst (endsHere (addUnit s u)) (.scalar sd.toNat)) s

/-- The new word of a GAMO (R135), `n` bytes wide. -/
def amoResult (f : AFunc) (n : Nat) (old v cmp : Word) : Word :=
  let sg (x : Word) : Int := intVal (if n = 4 then .int32 else .int64) (x.toNat % 2 ^ (8 * n))
  match f with
  | .add => low (8 * n) (old + v)
  | .or => old ||| v
  | .and => old &&& v
  | .xor => old ^^^ v
  | .min => if sg v < sg old then v else old
  | .max => if sg old < sg v then v else old
  | .swap => v
  | .cas => if old = cmp then v else old

/-! ### Completion of a load -/

/-- May an outstanding load read memory now? A GLD.Q of quantum q waits for the commit of q - 1 (R133). -/
def gloadReady (s : State) (g : GLoad) : Bool := match g.q with
  | some q => q ≤ (launch s g.launch).committed + 1
  | none => true

/-- The image a load reads: committed memory under the page it was translated by, which an un-eliding has changed with it (`landPage`) and,
for a GLD.Q, the commit that it waited for (`aimGloads`) (R133, R331, R332). -/
def gloadImage (s : State) (g : GLoad) : Image := { s.image with pages := [(g.base / 2 ^ 16, g.page)] }

/-- The result of a load of context `h`: its word, or the origin of its poison (R136). -/
def gloadResult (s : State) (h : Nat) (g : GLoad) : Word × Option Byte :=
  let im := gloadImage s g
  let view : Reader := if isGuest h then viewReader im (callView s h) else readerOf im
  match findPage im.pages g.addr with
  | some (_, p) =>
    if p.rep = 1 then (0, some 0x0D)
    else if viewBad im (if isGuest h then callView s h else StepView.empty) g.addr g.size then (0, some 0x14)
    else
      let bytes := (List.range g.size).map fun k =>
        if isGuest h then view (g.addr + k) else (forwarded s g (g.addr + k)).getD (view (g.addr + k))
      (BitVec.ofNat 64 (leNat bytes), none)
  | none => (0, some 0x07)

/-- The `k`-th outstanding load of context `h` has its result. An uncorrectable error ends a guest's call (R357) and poisons a strand's
scalar (R136). -/
def finishGload (s : State) (h k : Nat) (g : GLoad) : State :=
  let r := gloadResult s h g
  let s := modHart s h fun c => { c with gloads := dropNth c.gloads k }
  let s := if r.2 = some 0x14 then lineError s (physOf g.base g.page g.addr) [] else s
  match r.2 with
  | none => modHart s h fun c => c.fillScalar g.dst r.1
  | some o =>
    if isCallee h && o == 0x14 then endCall s h (faultReply 0x14)
    else modHart s h fun c => c.poisonScalar g.dst o

/-- GLOBAL_LOAD_COMPLETE: the load reads, once the channel serves it (R375). -/
def execGlobalLoadComplete (h k : Nat) (s : State) : Out :=
  match (hart s h).gloads.drop k with
  | [] => .next s
  | g :: _ =>
    if gloadReady s g then
      .next (ordinaryAccess s (channelsOf { s with pages := (gloadImage s g).pages } g.addr g.size) (.gld h g.dst) fun s => finishGload s h k g)
    else .next s

end Sys2Proof.Machine
end

