-- ==== Sys2Proof/Machine/Forager.lean ====
section
/-!
DEFINITION. The forager: copies and their transforms, compressed streams, batches, publishing, templates and status (chapter 10, R233
to R249).
-/
namespace Sys2Proof.Machine

/-! ### Compressed streams (R244, R245) -/

/-- Tokens of method 1; none where they do not end with the payload. -/
def decodeRuns : Nat → List Byte → Option (List Byte)
  | _, [] => some []
  | 0, _ => none
  | n + 1, t :: rest =>
    let k := t.toNat % 128 + 1
    if t.toNat < 128 then
      if rest.length < k then none else (decodeRuns n (rest.drop k)).map fun r => rest.take k ++ r
    else (decodeRuns n rest).map fun r => List.replicate (16 * k) 0 ++ r

/-- A varint of at most `n` bytes: its value and the rest. -/
def varint : Nat → List Byte → Option (Nat × List Byte)
  | 0, _ => none
  | _, [] => none
  | n + 1, b :: rest =>
    if b.toNat < 128 then some (b.toNat, rest) else (varint n rest).map fun r => (b.toNat % 128 + 128 * r.1, r.2)

/-- The values of method 2 after the first two: `n` varints that end with the payload. -/
def decodeDeltas : Nat → Word → Word → List Byte → Option (List Byte)
  | 0, _, _, l => if l.isEmpty then some [] else none
  | n + 1, v, d, l =>
    match varint 10 l with
    | none => none
    | some (z, rest) =>
      let z : Word := BitVec.ofNat 64 z
      let dd := (z >>> 1) ^^^ (0 - (z &&& 1))
      let d := d + dd
      let v := v + d
      (decodeDeltas n v d rest).map fun r => natBytes v.toNat 8 ++ r

def decodeDod (ulen : Nat) (l : List Byte) : Option (List Byte) :=
  let n := ulen / 8
  if ulen % 8 ≠ 0 ∨ l.length < 8 * min n 2 then none
  else if n = 0 then (if l.isEmpty then some [] else none)
  else if n = 1 then (if l.length = 8 then some l else none)
  else
    let v0 : Word := BitVec.ofNat 64 (leNat (l.take 8))
    let d : Word := BitVec.ofNat 64 (leNat ((l.drop 8).take 8))
    (decodeDeltas (n - 2) (v0 + d) d (l.drop 16)).map fun r => natBytes v0.toNat 8 ++ natBytes (v0 + d).toNat 8 ++ r

def decodeFor (ulen : Nat) (l : List Byte) : Option (List Byte) :=
  let base := leNat (l.take 8)
  let bw := (nth 0 l 8).toNat
  let sh := (nth 0 l 9).toNat
  let w := 2 ^ sh
  let n := ulen / w
  if l.length < 16 ∨ 64 < bw ∨ (sh ≠ 2 ∧ sh ≠ 3) ∨ ((l.drop 10).take 6).any (fun b => b ≠ 0) ∨ ulen % w ≠ 0 ∨
      l.length ≠ 16 + (n * bw + 7) / 8 then none
  else
    let ps := unpack bw n (leNat (l.drop 16))
    some (ps.flatMap fun p => natBytes ((base + p) % 2 ^ (8 * w)) w)

/-- A block's payload decoded to exactly `ulen` bytes (R245). -/
def decodeBlock (method ulen : Nat) (l : List Byte) : Option (List Byte) :=
  let r := match method with
    | 0 => some l
    | 1 => decodeRuns l.length l
    | 2 => decodeDod ulen l
    | _ => decodeFor ulen l
  match r with
  | some b => if b.length = ulen then some b else none
  | none => none

/-! ### Addresses of a copy (R239 to R241, R249) -/

def cfault (sub cause addr : Nat) : CFault := { cause := BitVec.ofNat 8 cause, sub := BitVec.ofNat 8 sub, addr := addr }

/-- The state a copy of context `h` reads global memory from. -/
def copyImage (s : State) (c : Copy) : Image := c.image.getD s.image
def copyReader (s : State) (h : Nat) (c : Copy) : Reader :=
  if isGuest h && c.image.isNone then callReader s h else readerOf (copyImage s c)

/-- Why `n` source bytes of global memory at `a` cannot be read (R249). -/
def globalSource (s : State) (c : Copy) (a n : Nat) : Option CFault :=
  let im := copyImage s c
  let one (x : Nat) : Option CFault := match findPage im.pages x with
    | none => some (cfault 0x01 0x07 x)
    | some (_, p) =>
      if s.remotePage p || !p.rd then some (cfault 0x01 0x08 x)
      else if p.rep = 1 && !tpDec c.tp then some (cfault 0x05 0x0D x)
      else none
  if 2 ^ 56 ≤ a + n - 1 then some (cfault 0x01 0x07 (a % 2 ^ 56))
  else
    match (((List.range ((n - 1) / 2 ^ 16 + 1)).map fun i => a + 2 ^ 16 * i) ++ [a + n - 1]).findSome? one with
    | some f => some f
    | none => if vbad im a n then some (cfault 0x08 0x14 a) else none

/-- The first bad granule under `n` window bytes at `a`. -/
def badGranule (s : State) (h : Nat) (a n : Nat) : Option Nat :=
  let off := a % 2 ^ 22
  ((List.range ((off + n - 1) / 16 + 1 - off / 16)).map (off / 16 + ·)).find? fun g =>
    (core s (memberCore h a)).badGranules.contains g

/-- Those of `n` source bytes at `a` that the granule read last still gives (R202). -/
def heldPart (c : Copy) (a n : Nat) : List Byte := match c.held with
  | some (g, v) => if g = a / 16 then ((natBytes v.toNat 16).drop (a % 16)).take n else []
  | none => []

/-- Why `n` source bytes at `a` cannot be read; the granule read last is not read again. -/
def sourceFault (s : State) (h : Nat) (c : Copy) (a : Word) (n : Nat) : Option CFault :=
  let k := (heldPart c a.toNat n).length
  if tpSrcSp c.tp then
    if windowBad s h a n 1 then some (cfault 0x03 0x09 (a.toNat % 2 ^ 25))
    else if k < n && (badGranule s h (a.toNat + k) (n - k)).isSome then some (cfault 0x08 0x14 (a.toNat % 2 ^ 25))
    else none
  else if k < n then globalSource s c (a.toNat + k) (n - k)
  else none

/-- `n` source bytes at `a` as they are now. -/
def liveBytes (s : State) (h : Nat) (c : Copy) (a n : Nat) : List Byte :=
  if tpSrcSp c.tp then mread (core s (memberCore h a)).comb (a % 2 ^ 22) n
  else (List.range n).map fun k => copyReader s h c (a + k)

/-- `n` source bytes at `a`, each granule as it was when it was first read for its row (R202). -/
def sourceBytes (s : State) (h : Nat) (c : Copy) (a : Word) (n : Nat) : List Byte :=
  let old := heldPart c a.toNat n
  old ++ liveBytes s h c (a.toNat + old.length) (n - old.length)

/-- The granule that holds the last of `n` source bytes read at `a`. -/
def nextHeld (s : State) (h : Nat) (c : Copy) (a n : Nat) : Option (Nat × BitVec 128) :=
  let g := (a + n - 1) / 16
  if (heldPart c a n).length = n then c.held else some (g, BitVec.ofNat 128 (leNat (liveBytes s h c (16 * g) 16)))

/-- Bytes of the shadows of copies. -/
def shadowOf (ks : List Copy) : Nat := ks.foldl (fun n k => n + 16 * k.shadow.length) 0

/-- Bytes of the unpublished shadows of the strand of context `h` (R241): those of its channels, and those of a PUBLISH that has not
committed (R246). -/
def shadowBytes (s : State) (h : Nat) : Nat :=
  let x := hart s h
  let l := launch s x.who.launch
  x.channels.foldl (fun n e => n + shadowOf e.2.copies) 0 +
    l.units.foldl (fun n u => match u.kind with
      | .publish ks => if u.key = x.csr.skey then n + shadowOf ks else n
      | _ => n) 0

/-- Why a granule at `a` cannot be written: by the translation of the moment, under SNAP by that of the dispatch (R332). -/
def destFault (s : State) (h : Nat) (c : Copy) (a : Word) : Option CFault :=
  if tpDstSp c.tp then
    if windowBad s h a 16 16 then some (cfault 0x03 0x09 (a.toNat % 2 ^ 25)) else none
  else if a.toNat / 2 ^ 56 ≠ 0 then some (cfault 0x02 0x07 (a.toNat % 2 ^ 56))
  else
    match findPage (copyImage s c).pages a.toNat with
    | none => some (cfault 0x02 0x07 a.toNat)
    | some (_, p) =>
      if s.remotePage p && (c.snap || c.asof.isSome) then some (cfault 0x01 0x08 a.toNat)
      else if !p.wr then some (cfault 0x02 0x08 a.toNat)
      else if p.rep = 1 then some (cfault 0x05 0x0D a.toNat)
      else if 2 ^ 26 < shadowBytes s h + (if (c.shadow.any fun e => e.1 == a.toNat / 16) then 0 else 16) then
        some (cfault 0x06 0x08 a.toNat)
      else none

/-! ### The stream of a decompressing copy (R244) -/

/-- The address of a copy's source as its fault record holds it: a window address in 25 bits (R248). -/
def faultSource (c : Copy) (a : Word) : Nat := a.toNat % 2 ^ (if tpSrcSp c.tp then 25 else 56)

/-- Decode blocks from stream position `pos` on, `out` bytes having been decoded before. -/
def decodeStream (s : State) (h : Nat) (c : Copy) : Nat → Nat → Nat → Decoded
  | 0, _, _ => { bytes := [], fault := none, reads := [] }
  | n + 1, pos, out =>
    let slen := tpSlen c.tp
    let sw := tpSw c.tp
    let a := c.src + BitVec.ofNat 64 pos
    let stop (f : Option CFault) (n : Nat) : Decoded := { bytes := [], fault := f, reads := [(out, pos + n)] }
    let bad := stop (some (cfault 0x04 0x0C (faultSource c a)))
    if pos = slen then (if out % sw = 0 then stop none 0 else bad 0)
    else
      match sourceFault s h c a 16 with
      | some f => stop (some f) 0
      | none =>
        let hd := leNat (sourceBytes s h c a 8)
        let clen := hd / 2 ^ 8 % 2 ^ 24
        let ulen := hd / 2 ^ 32 % 2 ^ 24
        let b := (8 + clen + 15) / 16 * 16
        if hd / 2 ^ 56 ≠ 0 ∨ hd / 16 % 16 ≠ 0 ∨ 3 < hd % 16 ∨ slen < pos + b ∨ tpExp c.tp * b < ulen then bad 16
        else
          match sourceFault s h c a b with
          | some f => stop (some f) 16
          | none =>
            match decodeBlock (hd % 16) ulen (sourceBytes s h c (a + 8) clen) with
            | none => bad b
            | some bs =>
              if tpDlen c.tp < (out + ulen) / sw * tpDw c.tp then bad b
              else
                let r := decodeStream s h c n (pos + b) (out + ulen)
                { bytes := bs ++ r.bytes, fault := r.fault, reads := (out + ulen, pos + b) :: r.reads }

/-! ### Transforms (R242, R243) -/

/-- The template's rounding, which takes no draw. -/
def tpMode (t : Line) : RMode :=
  { rnd := (Rnd.ofCode (BitVec.ofNat 3 (tpRnd t))).getD .rne, sat := tpSat t, ftz := tpFtz t }

/-- An exact value written as an element of type `t`: rnd, or the conversion of R112. -/
def toElem (md : RMode) (t : EType) (x : XR) : Nat := match fmtOf t with
  | some f => (rnd md 0 f x).1
  | none => (toIntFmt md 0 t x).1

/-- SCALE and BIAS of a template. -/
def tpScale (t : Line) : XR := Fmt.fp32.value (rec64 t 32 4)
def tpBias (t : Line) : XR := Fmt.fp32.value (rec64 t 36 4)

/-- The exact value of a source code after table, scale and bias (R242). -/
def transformed (k : Core) (t : Line) (code : Nat) : XR :=
  let d := typeOf (tpDfmt t)
  let x := if tpCt t then elemVal d (bitsOf (tget 0 k.codeTables (tpCtab t)) (16 * code) 16) else elemVal (typeOf (tpSfmt t)) code
  let x := if tpScl t then XR.mul x (tpScale t) else x
  if tpAdd t then XR.add (tpRnd t == 3) x (tpBias t) else x

/-- The 16 destination bytes of `src`, the source bytes of one granule, which at the end of a stream may be too few: the elements that are
missing then count as +0 (R244); `old` are the bytes there under a reduce-add into a comb. -/
def granuleOf (k : Core) (t : Line) (src : List Byte) (old : Option (List Byte)) : List Byte :=
  if tpXform t = 0 then src ++ List.replicate (16 - src.length) 0
  else
    let d := typeOf (tpDfmt t)
    let w := tpDw t
    let n := src.length / tpSw t
    let xs := (unpack (8 * tpSw t) n (leNat src)).map (transformed k t) ++ List.replicate (16 / w - n) (XR.zero false)
    let ys := match old with
      | some b => (xs.zip (unpack (8 * w) (16 / w) (leNat b))).map fun (p : XR × Nat) => XR.add (tpRnd t == 3) p.1 (elemVal d p.2)
      | none => xs
    natBytes (pack (8 * w) (ys.map (toElem (tpMode t) d))) 16

/-! ### The next granule of a copy -/

/-- What a copy does next: write a granule made from source bytes (with their address, none for a stream), end, fault, or wait. -/
inductive CopyNext
  | write (dst : Word) (src : List Byte) (srcAddr : Option Nat) (len : Nat)
  | done
  | fault (f : CFault)
  | wait
deriving DecidableEq, Repr

/-- The faults of a copy that do not depend on its rows (R239, R240): misalignment, a stamp not below QNUM. -/
def copyShape (c : Copy) : Option CFault :=
  let t := c.tp
  let lim := if tpDstSp t then 2 ^ 25 else 2 ^ 56
  if c.asof.any fun q => c.qnum ≤ q then some (cfault 0x07 0x08 (faultSource c c.src))
  else if c.dst.toNat % 16 ≠ 0 ∨ (tpStride t 20).toNat % 16 ≠ 0 ∨ (!tpDec t ∧ tpRlen t * tpDw t % 16 ≠ 0) then
    some (cfault 0x03 0x09 (c.dst.toNat % lim))
  else none

/-- The source address of row `c.row` (R239), or what the copy does where no entry gives it one. -/
def rowSource (c : Copy) : CopyNext ⊕ Word :=
  match c.gather with
  | none => .inr (c.src + BitVec.ofNat 64 c.row * tpStride c.tp 16)
  | some y =>
    match y.got.drop c.row with
    | some e :: _ => .inr (c.src + BitVec.ofNat 64 e * tpStride c.tp 16)
    | none :: _ => .inl .done
    | [] => .inl (if y.poisoned then .fault (cfault 0x08 0x14 (faultSource c c.src)) else .wait)

/-- The next granule of a row copy. -/
def rowNext (s : State) (h : Nat) (c : Copy) : CopyNext :=
  let t := c.tp
  if tpRows t < c.row then .done
  else
    match rowSource c with
    | .inl x => x
    | .inr row =>
      let n := 16 / tpDw t * tpSw t
      let a := row + BitVec.ofNat 64 (c.col / tpDw t * tpSw t)
      let d := c.dst + BitVec.ofNat 64 c.row * tpStride t 20 + BitVec.ofNat 64 c.col
      if row.toNat % tpSw t ≠ 0 then .fault (cfault 0x03 0x09 (faultSource c row))
      else
        match sourceFault s h c a n, destFault s h c d with
        | some f, _ => .fault f
        | none, some f => .fault f
        | none, none => .write d (sourceBytes s h c a n) (some a.toNat) n

/-- The decoded bytes that the next granule of a decompressing copy takes, and the position of the first. -/
def streamTake (c : Copy) : Nat := 16 / tpDw c.tp * tpSw c.tp
def streamPos (c : Copy) : Nat := c.col / tpDw c.tp * tpSw c.tp

/-- How many bytes of its source a decompressing copy reads in all, and until `out` bytes of the stream are decoded. -/
def Decoded.length (x : Decoded) : Nat := x.reads.foldl (fun n r => max n r.2) 0
def Decoded.lengthFor (x : Decoded) (out : Nat) : Nat := match x.reads.find? fun r => out ≤ r.1 with
  | some r => r.2
  | none => x.length

/-- The next granule of a decompressing copy: its last one padded with zero bytes (R244). -/
def streamNext (s : State) (h : Nat) (c : Copy) : CopyNext :=
  match c.stream with
  | none => .wait
  | some x =>
    let n := streamTake c
    let part := (x.bytes.drop (streamPos c)).take n
    let d := c.dst + BitVec.ofNat 64 c.col
    match x.fault with
    | some f => if part.length < n then .fault f else write d part n
    | none => if part.isEmpty then .done else write d part n
where
  /-- A granule of the stream, if its destination can be written. -/
  write (d : Word) (part : List Byte) (n : Nat) : CopyNext :=
    match destFault s h c d with
    | some f => .fault f
    | none => .write d part none n

/-- What the copy does next. -/
def copyNext (s : State) (h : Nat) (c : Copy) : CopyNext :=
  match copyShape c with
  | some f => .fault f
  | none => if tpDec c.tp then streamNext s h c else rowNext s h c

/-! ### Dispatch (R234, R240) -/

/-- The copies of a channel. -/
def copiesOf (s : State) (h ch : Nat) : List Copy := ((hart s h).chan ch).copies

/-- May a queued copy start: it is next in its channel, and its stamp has committed? -/
def mayStart (s : State) (cs : List Copy) (k : Nat) (c : Copy) : Bool :=
  (cs.take k).all (fun x => x.phase != .queued) &&
    (c.asof.all fun q => c.qnum ≤ q || q ≤ (launch s c.launch).committed)

/-- A copy as it starts: under SNAP it keeps the state it reads and the translation (R240, R332); it decodes its stream. -/
def dispatch (s : State) (h : Nat) (c : Copy) : Copy :=
  let c := { c with
    phase := .running, image := if c.snap then some (snapImage s) else none, upto := (launch s c.launch).committed }
  if tpDec c.tp then { c with stream := some (decodeStream s h c (tpSlen c.tp / 16 + 1) 0 0) } else c

/-- The `k`-th copy of a channel, running: none where it may not start. -/
def runningCopy (s : State) (h ch k : Nat) : Option Copy :=
  match (copiesOf s h ch).drop k with
  | [] => none
  | c :: _ =>
    match c.phase with
    | .running => some c
    | .queued => if mayStart s (copiesOf s h ch) k c then some (dispatch s h c) else none
    | _ => none

def modChan (s : State) (h ch : Nat) (f : Channel → Channel) : State := modHart s h fun x => x.setChan ch (f (x.chan ch))
def putCopy (s : State) (h ch k : Nat) (c : Copy) : State := modChan s h ch fun y => { y with copies := setNth c y.copies k }

/-! ### Writing a granule (R241, R242) -/

/-- The block of an address for ASOF (R240), its base and length: its digest block, or the aligned 4 KiB. -/
def movedBlock (s : State) (a : Nat) : Nat × Nat := match regionAt s a with
  | some (_, r) => (r.base + (a - r.base) / r.block * r.block, r.block)
  | none => (a / 4096 * 4096, 4096)

/-- The blocks that hold the bytes from `a` up to `e`, found in at most `n` pieces of 512 bytes, the smallest block. -/
def blocksUnder (s : State) : Nat → Nat → Nat → List (Nat × Nat)
  | 0, _, _ => []
  | n + 1, a, e =>
    let b := movedBlock s a
    let next := (a / 512 + 1) * 512
    b :: if next < e then (blocksUnder s n next e).filter (· != b) else []

/-- Blocks under a read of `n` bytes that quanta after the stamp, up to the Q of the copy, wrote (R240, R352). -/
def newlyMoved (s : State) (c : Copy) (a n : Nat) : List (Nat × Nat) :=
  match c.asof with
  | none => []
  | some q =>
    (blocksUnder s (n / 512 + 2) a (a + n)).filter fun b =>
      !c.moved.contains b &&
        (launch s c.launch).writeLog.any fun w => q < w.1 && w.1 ≤ c.upto && w.2.1 < b.1 + b.2 && b.1 < w.2.1 + w.2.2

/-- The blocks that a decompressing copy newly finds moved once it has read so much of its stream (R240). -/
def streamMoved (s : State) (c : Copy) (read : Decoded → Nat) : List (Nat × Nat) :=
  match c.stream.map read with
  | some (n + 1) => if tpDec c.tp && !tpSrcSp c.tp then newlyMoved s c c.src.toNat (n + 1) else []
  | _ => []

/-- The blocks that a copy newly finds moved as it ends, or as the fault of its stream stops it: those of the rest that it read. A fault met
before anything is read, and one of the destination, finds none. -/
def restMoved (s : State) (c : Copy) (f : Option CFault) : List (Nat × Nat) :=
  if (copyShape c).isNone && c.stream.any (·.fault == f) then streamMoved s c Decoded.length else []

/-- The channel notes blocks found moved (R248). -/
def noteMoved (s : State) (h ch : Nat) (bs : List (Nat × Nat)) : State :=
  if bs.isEmpty then s
  else modChan s h ch fun y =>
    { y with moved := min (y.moved + bs.length) 0xFFFF, movedAddr := match y.movedAddr with
        | some a => some a
        | none => bs.head?.map (·.1) }

/-- The copy after a granule. -/
def advance (c : Copy) : Copy :=
  if tpDec c.tp || c.col + 16 < tpRlen c.tp * tpDw c.tp then { c with col := c.col + 16 } else { c with row := c.row + 1, col := 0, held := none }

/-- Write one granule of a running copy. -/
def writeGranule (s : State) (h ch k : Nat) (c : Copy) (d : Word) (src : List Byte) : State :=
  let t := c.tp
  let me := core s (coreOf h)
  if tpDstSp t then
    let m := memberCore h d.toNat
    let off := d.toNat % 2 ^ 22
    let s := putCopy s h ch k (advance c)
    if tpXform t = 2 then
      if (core s m).badGranules.contains (granule off) then fillGranule (combError s m (granule off)) m (granule off)
      else storeAt s m off (granuleOf me t src (some (mread (core s m).comb off 16))) true
    else storeAt s m off (granuleOf me t src none) true
  else
    let g := BitVec.ofNat 128 (leNat (granuleOf me t src none))
    putCopy s h ch k { advance c with shadow := tput (d.toNat / 16) g c.shadow }

/-- The drones whose channels the next read of a copy goes to. -/
def copyChannels (s : State) (c : Copy) (a : Option Nat) (n : Nat) : List Nat :=
  if tpSrcSp c.tp then []
  else match a with
    | some x => let k := (heldPart c x n).length; channelsOf s (x + k) (n - k)
    | none => if c.col = 0 then channelsOf s c.src.toNat (tpSlen c.tp) else []

/-- FORAGER_GRANULE_WRITE: a copy starts or goes on by one granule (R234, R239 to R242), once the channel serves its read (R375). -/
def execForagerGranuleWrite (h ch k : Nat) (s : State) : Out :=
  match runningCopy s h ch k with
  | none => .next s
  | some c =>
    match copyNext s h c with
    | .write d src a n =>
      let bs := match a with
        | some x => if tpSrcSp c.tp then [] else newlyMoved s c x n
        | none => streamMoved s c (·.lengthFor (streamPos c + streamTake c))
      let held := a.bind fun x => nextHeld s h c x n
      .next (ordinaryAccess (putCopy s h ch k c) (copyChannels s c a n) (.copy h c.id) fun s =>
        noteMoved (writeGranule s h ch k { c with moved := c.moved ++ bs, held := held } d src) h ch bs)
    | _ => .next (putCopy s h ch k c)

/-! ### Completion and faults (R234, R247, R249) -/

/-- The barrier a copy increments: on the member whose comb it writes, else on its own core (R250): the
member bits of the destination's first address name it, also where that address fails R198 or the rows span members (DEDUCED,
notes/assumptions/78.md). -/
def copyBarrier (s : State) (h : Nat) (c : Copy) (fault : Option CFault) : State := match c.bar with
  | some b =>
    bumpBarrier s (if tpDstSp c.tp then memberCore h c.dst.toNat else coreOf h) b 1 (fault.map fun f => (f.cause, faultInfo f))
  | none => s

/-- COPY_COMPLETE: every granule has been written. A copy to global memory keeps its shadow for a PUBLISH. -/
def execCopyComplete (h ch k : Nat) (s : State) : Out :=
  match runningCopy s h ch k with
  | none => .next s
  | some c =>
    match copyNext s h c with
    | .done =>
      let s := noteMoved s h ch (restMoved s c none)
      let s := modChan s h ch fun y =>
        settleBatches
          { y with copies := if tpDstSp c.tp then dropNth y.copies k
              else setNth { c with phase := .complete, image := none, stream := none } y.copies k }
      .next (nodeCopied (copyBarrier s h c none) h true { c with phase := .complete, image := none, stream := none } (tpDstSp c.tp))
    | _ => .next s

/-- Does the poison mark of a queue stop the copy's row loop (R262)? -/
def rowPoisoned (c : Copy) : Bool := match rowSource c with
  | .inl (.fault _) => true
  | _ => false

/-- The error in source data is logged where it was met, at or after the address the failed read began at, and its self-test falls due
(R210, R335); a poison mark was logged as its producer met the error (R262). -/
def sourceError (s : State) (h : Nat) (c : Copy) (f : CFault) : State :=
  let n := if tpDec c.tp then tpSlen c.tp else streamTake c
  if f.sub ≠ 0x08 || rowPoisoned c then s
  else if tpSrcSp c.tp then
    match badGranule s h f.addr n with
    | some g => combError s (memberCore h f.addr) g
    | none => s
  else readError s (copyImage s c) f.addr n

/-- COPY_FAULT: the copy stops, its shadow goes, the channel records the first fault (R249). The entries that it reserved stay its own
(R205, R239). -/
def execCopyFault (h ch k : Nat) (s : State) : Out :=
  match runningCopy s h ch k with
  | none => .next s
  | some c =>
    match copyNext s h c with
    | .fault f =>
      let s := sourceError (noteMoved s h ch (restMoved s c (some f))) h c f
      let s := modChan s h ch fun y =>
        settleBatches
          { y with
            copies := dropNth y.copies k
            fault := match y.fault with
              | some g => some g
              | none => some f
            faultBatches := y.faultBatches ++ [c.batch] }
      .next (nodeCopied (copyBarrier s h c (some f)) h false c false)
    | _ => .next s

/-! ### The CP slot (R237 to R239, R246 to R248) -/

/-- The launch and the quantum in whose name a context copies: a handler's is the strand TSRC names, a guest's its call's. -/
def copyLaunch (s : State) (h : Nat) : Nat × Nat :=
  match (hart s h).run with
  | some r => (r.msg.launch, r.msg.qnum.toNat)
  | none => let c := hart s (actsFor s h); (c.who.launch, c.csr.qnum.toNat)

/-- A copy joins the open batch of its channel (R233, R239). -/
def startCopy (s : State) (ch n : Nat) (sa sb : SReg) (snap : Bool) (asof : Option SReg) (gather : Option QNo)
    (bar : Option BNo) : State :=
  let h := s.cur
  let c := me s
  let tp := templateAt s (coreOf h) n
  let (id, s) := stamp s
  let (l, q) := copyLaunch s h
  let y := c.chan ch
  let k : Copy :=
    { id := id, tp := tp, src := c.s sa, dst := c.s sb, snap := snap || asof.isSome, asof := asof.map fun r => (c.s r).toNat
      gather := gather.map fun g => { queue := g.toNat, want := tpRows tp + 1, got := [], poisoned := false }
      bar := bar.map (·.toNat), batch := y.batch, qnum := q, launch := l, phase := .queued, row := 0, col := 0, image := none
      stream := none, shadow := [], held := none, moved := [], upto := 0 }
  let s := modMe s fun x => x.setChan ch { y with copies := y.copies ++ [k], opened := true }
  match gather with
  | some g => claim s h g.toNat (List.replicate (tpRows tp + 1) (.copy ch id))
  | none => s

/-- COPY (R239). -/
def execCopy (ch : BitVec 3) (n : BitVec 6) (sa sb : SReg) (snap : Bool) (asof : Option SReg) (gather : Option QNo)
    (bar : Option BNo) (s : State) : Out :=
  issue (.copy ch n sa sb snap asof gather bar) (fun s => startCopy s ch.toNat n.toNat sa sb snap asof gather bar) s

/-- CBATCH (R247). -/
def execCbatch (ch : BitVec 3) (s : State) : Out :=
  issue (.cbatch ch) (fun s => modChan s s.cur ch.toNat closeBatch) s

/-- CWAIT: the wait itself is over as its bundle issues (R247). -/
def execCwait (ch : BitVec 3) (m : BitVec 4) (s : State) : Out :=
  issue (.cwait ch m) (fun s => modChan s s.cur ch.toNat closeBatch) s

/-- The copies a PUBLISH covers: complete, to global memory. -/
def published (y : Channel) : List Copy := y.copies.filter fun k => k.phase == .complete

/-- The granules of a copy that stay on this module. -/
def ownGranules (s : State) (k : Copy) : Tab (BitVec 128) :=
  k.shadow.filter fun g => match findPage s.pages (16 * g.1) with
    | some (_, p) => !s.remotePage p
    | none => true

/-! ### Messages to other modules (R387 to R389) -/

/-- How an addend of a message names its type and rounding: DFMT, RND, SAT, FTZ. -/
def addMode (t : Line) : Nat := tpDfmt t + 16 * tpRnd t + 128 * (tpSat t).toNat + 256 * (tpFtz t).toNat

/-- The granules of a copy on pages of module `peer`, by physical address there, with the notify targets of those pages. -/
def remoteGranules (s : State) (peer : Nat) (k : Copy) : List (Nat × BitVec 128 × Option (Nat × Nat × Nat)) :=
  k.shadow.filterMap fun g => match findPage s.pages (16 * g.1) with
    | some (b, p) => if s.remotePage p && p.modno == peer then some (physOf b p (16 * g.1), g.2, p.notify) else none
    | none => none

/-- The message of one publish to a module, built up copy by copy. -/
def addToMsg (m : Msg) (k : Copy) (gs : List (Nat × BitVec 128 × Option (Nat × Nat × Nat))) : Msg :=
  let ns : List (Nat × Nat × Nat) := gs.filterMap fun g => g.2.2
  let m := { m with notify := distinct3 (m.notify ++ ns) }
  if tpXform k.tp = 2 then
    let w := tpDw k.tp
    let adds : List (Nat × Nat × Word) := gs.flatMap fun g =>
      ((unpack (8 * w) (16 / w) g.2.1.toNat).zip (List.range (16 / w))).map fun e => (g.1 + w * e.2, addMode k.tp, BitVec.ofNat 64 e.1)
    { m with adds := m.adds ++ adds }
  else
    let places : List Nat := gs.map fun g => g.1
    let new : List (Nat × BitVec 128) := gs.map fun g => (g.1, g.2.1)
    let old : List (Nat × BitVec 128) := m.granules.filter fun g => !places.contains g.1
    let adds : List (Nat × Nat × Word) := m.adds.filter fun a => !places.contains (a.1 / 16 * 16)
    { m with granules := old ++ new, adds := adds }
where
  distinct3 : List (Nat × Nat × Nat) → List (Nat × Nat × Nat)
    | [] => []
    | x :: xs => x :: (distinct3 xs).filter (· != x)

/-- A link of the module's 16 (R1, R385). -/
def linkOf (s : State) (n : Nat) : Link := if n < 16 then tget Link.reset s.fabric.links n else Link.reset
def setLink (s : State) (n : Nat) (k : Link) : State :=
  if n < 16 then { s with fabric := { s.fabric with links := tset Link.reset s.fabric.links n k } } else s

/-- The link to a module under the route table in force: the first that it gives of those with 4 working lanes (R385, R386). -/
def routeLink (s : State) (peer : Nat) : Option Nat :=
  (Config.routeLinks s.host.routes peer).find? fun n => n < 16 && (linkOf s n).retired.length ≤ 4

/-- The flits of a message go out on a link, which keeps the last 1,024 (R386). -/
def sendFlits (k : Link) : List (BitVec 2048) → Link
  | [] => k
  | f :: fs =>
    let h := k.history ++ [(k.nextSeq, f)]
    sendFlits { k with nextSeq := (k.nextSeq + 1) % 4096, history := h.drop (h.length - 1024) } fs

/-- A message leaves, or, where no route remains, FABRIC_LOST ends the launch with an error status (R388). -/
def sendMsg (s : State) (l : Nat) (m : Msg) : State :=
  match routeLink s m.peer with
  | none => endLaunch (logEv s (srcDie s 0) .fabricLost [BitVec.ofNat 64 m.peer]) l (.error (wbits m.key 20 20))
  | some link =>
    let n := tget 0 s.fabric.outSeq m.peer
    let m := { m with seqNo := n, sent := s.now }
    let s := setLink s link (sendFlits (linkOf s link) (Config.messageFlits m.peer n))
    { s with fabric := { s.fabric with
        outbox := s.fabric.outbox ++ [m], outSeq := tset 0 s.fabric.outSeq m.peer ((n + 1) % 2 ^ 32) } }

/-- One message for each destination module of a publish. -/
def publishRemote (s : State) (l q : Nat) (key : Word) (ks : List Copy) : State :=
  (List.range 16).foldl (fun s peer =>
    let parts := ks.map fun k => (k, remoteGranules s peer k)
    if parts.all fun p => p.2.isEmpty then s
    else
      let m : Msg :=
        { peer := peer, seqNo := 0, lseq := l % 2 ^ 24, q := q, key := key, granules := [], adds := [], notify := [], sent := 0 }
      sendMsg s l (parts.foldl (fun m p => addToMsg m p.1 p.2) m)) s

/-! ### PUBLISH (R246) -/

/-- A guest's publish performs as its call's stores do (R361, R364): raw granules, or elements added under the template; granules on
remote pages leave as a message (R387, R388). -/
def publishNow (s : State) (h : Nat) (k : Copy) : State :=
  (ownGranules s k).foldl (fun s g =>
    let a := 16 * g.1
    let t := k.tp
    let bytes := natBytes g.2.toNat 16
    if tpXform t = 2 then
      let d := typeOf (tpDfmt t)
      let old := leNat ((List.range 16).map fun i => callReader s h (a + i))
      let w := tpDw t
      let sum := (unpack (8 * w) (16 / w) old).zip (unpack (8 * w) (16 / w) g.2.toNat)
      callStore s h a
        (natBytes (pack (8 * w) (sum.map fun p => toElem (tpMode t) d (XR.add (tpRnd t == 3) (elemVal d p.1) (elemVal d p.2)))) 16)
    else callStore s h a bytes) s

/-- PUBLISH: a write unit with the copies it covers (R246). -/
def publishEff (s : State) (ch : Nat) : State :=
  let ks := published ((me s).chan ch)
  let s := modChan s s.cur ch fun y =>
    closeBatch { y with copies := y.copies.filter fun k => k.phase != .complete }
  if isGuest s.cur then
    let s := ks.foldl (fun s k => publishNow s s.cur k) s
    match (me s).run with
    | some r => publishRemote s r.msg.launch r.msg.qnum.toNat r.msg.skey ks
    | none => s
  else addUnit s (.publish ks)

/-- PUBLISH (R246). -/
def execPublish (ch : BitVec 3) (s : State) : Out := issue (.publish ch) (fun s => publishEff s ch.toNat) s

/-- CTSET (R237). -/
def execCtset (n : BitVec 6) (ta : TReg) (s : State) : Out :=
  issue (.ctset n ta)
    (fun s =>
      let v : Line := BitVec.ofNat 512 (bitsOf ((me s).tile ta.toNat).val 0 512)
      modMyCore s fun k => { k with templates := tset 0 k.templates n.toNat v }) s

/-- CTSET.CODE: rows 0 and 1 of ta (R237). -/
def execCtsetCode (k : BitVec 2) (ta : TReg) (s : State) : Out :=
  issue (.ctsetCode k ta)
    (fun s =>
      let v : BitVec 4096 := BitVec.ofNat 4096 (bitsOf ((me s).tile ta.toNat).val 0 4096)
      modMyCore s fun c => { c with codeTables := tset 0 c.codeTables k.toNat v }) s

/-- The status word of a channel (R248). -/
def chanWord (y : Channel) : Word :=
  BitVec.ofNat 64
    ((match y.fault with
      | some f => f.cause.toNat * 2 ^ 56 + f.sub.toNat * 2 ^ 48
      | none => 0) +
      y.moved * 2 ^ 32 + (y.copies.filter Copy.pending).length * 2 ^ 16 + y.closed.length * 2 ^ 8 + y.opened.toNat)

/-- What CSTAT reads (R248): a handler's, the channel of the strand that TSRC names (R247; DEDUCED, notes/assumptions/56.md). -/
def cstatWord (s : State) (ch sel : Nat) : Word :=
  let y := (hart s (actsFor s s.cur)).chan ch
  match sel with
  | 0 => chanWord y
  | 1 => BitVec.ofNat 64 ((y.fault.map fun f => f.addr).getD 0)
  | 2 => BitVec.ofNat 64 (y.movedAddr.getD 0)
  | _ => (barrier s (coreOf s.cur) ch).word

/-- CSTAT: exposed; CLR clears the record and the MOVED state after reading (R248). -/
def execCstat (sd : SReg) (ch : BitVec 3) (sel : BitVec 2) (clr : Bool) (s : State) : Out :=
  issue (.cstat sd ch sel clr)
    (fun s =>
      let s' := landScalar s sd (cstatWord s ch.toNat sel.toNat) 1
      if clr then modChan s' (actsFor s s.cur) ch.toNat fun y => { y with fault := none, faultBatches := [], moved := 0, movedAddr := none }
      else s') s

end Sys2Proof.Machine
end

