-- ==== Sys2Proof/Machine/Remote.lean ====
section
/-!
DEFINITION. Remote calls: RCALL, the link, queue and reply cache of a target, the start and the limits of a call, its reply, RSTAT, and
PROMOTE (R333, R359 to R371).
-/
namespace Sys2Proof.Machine

/-! ### Arrival at a target (R361, R369) -/

def cached (p : Port) (m : CallMsg) : Option CacheEnt := p.cache.find? (sameCall m)

/-- Is there room for a call: at most 8 wait at a guest context, at most 256 entries for each caller die? A call that needs no new
entry takes none. -/
def admits (t : Nat) (p : Port) (m : CallMsg) : Bool :=
  (isDrone t || p.queue.length < 8) &&
    (!m.ordered || (m.reissue && (cached p m).isSome) || (p.cache.filter fun e => e.callerDie == dieOf m.caller).length < 256)

/-- A reply sent at once, without a run. -/
def replyNow (s : State) (t : Nat) (m : CallMsg) (r : Reply) : State := markReplied (sendReply s t m r) t m

/-- A call arrives: a reissue is matched against the cache (R369), a fenced core refuses (R360), any other call enters the queue, with
a cache entry where it is ordered. -/
def acceptCall (s : State) (t : Nat) (m : CallMsg) : State :=
  let p := port s t
  if isGuest t && !usable s (coreOf t) then replyNow s t m (faultReply 0x08)
  else
    match if m.reissue && m.ordered then cached p m else none with
    | some e =>
      (match e.reply with
       | some r => replyNow s t m (if r.state = 0x01 then { r with state := 0x04 } else r)
       | none =>
         setPort s t { p with cache := p.cache.map fun x => if sameCall m x then { x with others := x.others ++ [m.caller] } else x })
    | none =>
      let e : CacheEnt := { callerDie := dieOf m.caller, skey := m.skey, seqNo := m.seqNo, reply := none, others := [] }
      setPort s t { p with queue := p.queue ++ [m], cache := if m.ordered then p.cache ++ [e] else p.cache }

/-- The first call waiting in the links that may arrive: the calls of one die stay in order. -/
def nextAdmitted (t : Nat) (p : Port) : List CallMsg → List Nat → Option (CallMsg × List CallMsg)
  | [], _ => none
  | m :: ms, dies =>
    if !dies.contains (dieOf m.caller) && admits t p m then some (m, ms)
    else (nextAdmitted t p ms (dieOf m.caller :: dies)).map fun r => (r.1, m :: r.2)

/-- The calls in the links arrive for as long as there is room. -/
def pumpLinks (s : State) (t : Nat) : Nat → State
  | 0 => s
  | n + 1 =>
    let p := port s t
    match nextAdmitted t p p.link [] with
    | none => s
    | some (m, rest) => pumpLinks (acceptCall (setPort s t { p with link := rest }) t m) t n

/-- A call is dispatched to its target (R362, R363). -/
def dispatchCall (s : State) (t : Nat) (m : CallMsg) : State :=
  let p := port s t
  pumpLinks (setPort s t { p with link := p.link ++ [m] }) t (p.link.length + 1)

/-- A call of context `h` has been dispatched now: its timeout runs (R368). -/
def markSent (s : State) (h : Nat) (key : Word) (n : Nat) : State :=
  if (hart s h).csr.skey = key then
    modHart s h fun c => { c with calls := c.calls.map fun k => if k.seqNo = n then { k with sent := some s.now } else k }
  else s

/-! ### RCALL (R359) -/

/-- Sequence numbers run 1, 2, … modulo 2^16 and skip 0. -/
def seqAfter (n : Nat) : Nat := if n = 65535 then 1 else n + 1

/-- The latest call with number `n` has been reissued. -/
def markReissued (n : Nat) : List DoneCall → List DoneCall
  | l => (go n l.reverse).reverse
where
  go (n : Nat) : List DoneCall → List DoneCall
    | [] => []
    | d :: ds => if statusSeq d.status = n then { d with reissued := true } :: ds else d :: go n ds

/-- Drop the entry bits that are ignored (R359). -/
def entryOf (v : Word) : Word := v &&& ~~~0x3F#64

/-- RCALL in both forms: `ordered` for RCALL.Q. -/
def rcallEff (s : State) (ordered re nt : Bool) (tn : TReg) (sa sb sc sd : SReg) : State :=
  let h := s.cur
  let c := me s
  match callTarget s (c.s sa) with
  | none => s
  | some t =>
    let n := if re then statusSeq (c.s sd) else c.nextSeq
    let m : CallMsg :=
      { caller := h, skey := c.csr.skey, seqNo := n, ordered := ordered, reissue := re, launch := c.who.launch, qnum := c.csr.qnum
        entry := entryOf (c.s sb), payload := (payloadRegs sc).map fun r => (c.scalar r).val
        tile := if nt then 0 else (c.tile tn.toNat).val }
    let k : RCall := { seqNo := n, tn := tn.toNat, sd := sd.toNat, target := t, sent := none, reply := none }
    let s := modMe s fun c =>
      { c with
        calls := c.calls ++ [k]
        nextSeq := if re then c.nextSeq else seqAfter c.nextSeq
        done := if re then markReissued n c.done else c.done }
    let s := markDst (markDst s (.tile tn.toNat)) (.scalar sd.toNat)
    if ordered then endsHere (addUnit s (.rcall h m t)) else dispatchCall (markSent s h c.csr.skey n) t m

/-- RCALL.R: dispatched as it issues (R362). -/
def execRcallR (re nt : Bool) (tn : TReg) (sa sb sc sd : SReg) (s : State) : Out :=
  issue (.rcallR re nt tn sa sb sc sd) (fun s => rcallEff s false re nt tn sa sb sc sd) s
/-- RCALL.Q: a write unit that ends the quantum, dispatched in its commit step (R363). -/
def execRcallQ (re nt : Bool) (tn : TReg) (sa sb sc sd : SReg) (s : State) : Out :=
  issue (.rcallQ re nt tn sa sb sc sd) (fun s => rcallEff s true re nt tn sa sb sc sd) s

/-! ### Running a call (R356, R361) -/

/-- A context as a call starts in it. -/
def callCtx (m : CallMsg) (now : Nat) : Ctx :=
  let n : NewStrand :=
    { who := { Ident.none with launch := m.launch }, pc := m.entry, args := m.payload, skey := m.skey, prio := 0, spmax := 0, seed := 0
      qnum := m.qnum.toNat }
  { (startCtx n).fillTile 0 m.tile with run := some { msg := m, started := now, banks := 0 } }

/-- The call that has waited longest at a free target starts (R361). -/
def startCall (s : State) (h : Nat) : State :=
  if isCallee h && (hart s h).life == .idle && (hart s h).run.isNone then
    match (port s h).queue with
    | [] => s
    | m :: ms =>
      let s := setPort s h { port s h with queue := ms }
      if isGuest h && !usable s (coreOf h) then replyNow s h m (faultReply 0x08)
      else pumpLinks (setHart s h (callCtx m s.now)) h (port s h).link.length
  else s

/-- REMOTE_CALL_START (R361). -/
def execRemoteCallStart (h : Nat) (s : State) : Out := .next (startCall s h)

/-- CALL_RUN_LIMIT: 2^32 reference cycles (R8, R361). -/
def execCallRunLimit (h : Nat) (s : State) : Out :=
  match (hart s h).run with
  | some k => if refElapsed s k.started (2 ^ 32) then .next (endCall s h (faultReply 0x10)) else .next s
  | none => .next s

/-! ### The reply at the caller (R366 to R369) -/

/-- The status word (R366). -/
def statusWordOf (state cause : Byte) (banks rval : BitVec 16) (n : Nat) : Word :=
  state ++ cause ++ banks ++ rval ++ BitVec.ofNat 16 n

/-- A call ends at its caller: its status, and its tile filled, or poisoned with an origin. -/
def settleCall (c : Ctx) (i : Nat) (k : RCall) (w : Word) (tile : Except Byte Tile) : Ctx :=
  let c := { c with calls := dropNth c.calls i, done := c.done ++ [({ status := w, acked := false, reissued := false } : DoneCall)] }
  let c := match tile with
    | .ok v => c.fillTile k.tn v
    | .error o => c.poisonTile k.tn o
  c.fillScalar k.sd w

/-- What follows for a node whose call has ended. -/
def afterReply (s : State) (h : Nat) (good : Bool) : State :=
  if isNode h then
    if good then nodeEnds s h else nodeFails s (hart s h).who.launch (hart s h).who.node
  else s

/-- REPLY_ARRIVAL: the caller's die acknowledges what it delivers (R366, R367, R369). -/
def execReplyArrival (h k : Nat) (s : State) : Out :=
  match (hart s h).calls.drop k with
  | [] => .next s
  | x :: _ =>
    match x.reply with
    | none => .next s
    | some r =>
      let fault := r.state == 0x02
      let w := statusWordOf r.state r.cause r.banks r.rval x.seqNo
      let key := (hart s h).csr.skey
      let s := modHart s h fun c => settleCall c k x w (if fault then .error 0x0E else .ok r.tile)
      let s := { s with acks := s.acks ++ [{ target := x.target, callerDie := dieOf h, skey := key, seqNo := x.seqNo }] }
      .next (afterReply s h !fault)

/-- REPLY_TIMEOUT: no reply within 2^30 reference cycles of the dispatch (R8, R368). -/
def execReplyTimeout (h k : Nat) (s : State) : Out :=
  match (hart s h).calls.drop k with
  | [] => .next s
  | x :: _ =>
    match x.sent with
    | none => .next s
    | some t =>
      if refElapsed s t (2 ^ 30) then
        let w := statusWordOf 0x03 0x0F 0 0 x.seqNo
        .next (afterReply (modHart s h fun c => settleCall c k x w (.error 0x0F)) h false)
      else .next s

/-- REPLY_ACKNOWLEDGEMENT: the `k`-th acknowledgement on its way to target `h` arrives; the entry is freed, and a call that waits in
the link may arrive (R369). -/
def execReplyAcknowledgement (h k : Nat) (s : State) : Out :=
  match (s.acks.filter fun a => a.target == h).drop k with
  | [] => .next s
  | a :: _ =>
    let p := port s h
    let keep (e : CacheEnt) : Bool := !(e.callerDie == a.callerDie && e.skey == a.skey && e.seqNo == a.seqNo)
    let s := { setPort s h { p with cache := p.cache.filter keep } with acks := s.acks.erase a }
    .next (pumpLinks s h p.link.length)

/-! ### RSTAT (R370) -/

/-- The latest call with number `n` is acknowledged. -/
def markAcked (n : Nat) : List DoneCall → List DoneCall
  | l => (go n l.reverse).reverse
where
  go (n : Nat) : List DoneCall → List DoneCall
    | [] => []
    | d :: ds => if statusSeq d.status = n then { d with acked := true } :: ds else d :: go n ds

/-- RSTAT: the status word, 0 for a number that names no call (R370). -/
def execRstat (ack : Bool) (sd sa : SReg) (s : State) : Out :=
  issue (.rstat ack sd sa)
    (fun s =>
      let n := wbits ((me s).s sa) 0 16
      let w := ((doneCall (me s) n).map fun d => d.status).getD 0
      let s := if ack then modMe s fun c => { c with done := markAcked n c.done } else s
      landScalar s sd w 1) s

/-! ### PROMOTE (R333) -/

/-- PROMOTE: the copy of the page begins; a page that has a promotion outstanding stays as it is. -/
def execPromote (sa sb sc : SReg) (s : State) : Out :=
  issue (.promote sa sb sc)
    (fun s =>
      let c := me s
      match findPage s.pages (c.s sa).toNat with
      | none => s
      | some (base, _) =>
        if promoting s (c.s sa).toNat then s
        else
          let p : Promo :=
            { page := base, frame := (c.s sb).toNat / 2 ^ 16, launch := wbits (c.s sc) 40 24, node := wbits (c.s sc) 20 20
              die := dieOf s.cur, copied := false }
          { s with promos := s.promos ++ [p] }) s

end Sys2Proof.Machine
end

