-- ==== Sys2Proof/Machine/Sched.lean ====
section
/-!
DEFINITION. The die scheduler: nodes becoming ready and starting, a free context taking work, staging, aging, reservation, pre-emption,
saving, resuming and ending strands (R272, R277, R288 to R295, R300 to R302, R306 to R312).
-/
namespace Sys2Proof.Machine

/-! ### Nodes (R285, R288 to R290, R295) -/

/-- A new strand of a node; `mate` for a co-scheduled one (R272, R296). -/
def nodeStrand (s : State) (l n : Nat) (mate : Option Nat) (core : Nat) : NewStrand :=
  let x := nodeOf s l n
  let key := skeyOf l n (match mate with
    | some m => (m + 1) * 2 ^ 16
    | none => 0)
  { who :=
      { launch := l, node := n, depth := if mate.isSome then 1 else 0, forks := 0, pin := x.desc.pin, mate := mate
        cluster := mate.map fun _ => clusterOf core, parent := none }
    pc := x.desc.entry
    args := x.desc.args
    skey := key
    prio := BitVec.ofNat 64 x.desc.prio
    spmax := BitVec.ofNat 64 x.desc.spmax
    seed := seedOf (launch s l).seedBase key
    qnum := x.start }

/-- A node's strands start in their contexts (R272, R290). -/
def startNode (s : State) (l n : Nat) (places : List Nat) : State :=
  let co := (nodeOf s l n).desc.cosched
  let s := places.foldl (fun s h =>
    setHart s h (startCtx (nodeStrand s l n (if co then some (memberOf (coreOf h)) else none) (coreOf h)))) s
  modNode s l n fun x => { x with st := .running, live := places.length, staged := none }

/-- A KIND 1 node: an RCALL.Q in the start quantum (R295). -/
def startCallNode (s : State) (l n : Nat) : State :=
  let x := nodeOf s l n
  let a := nth 0 x.desc.args 0
  let h := nodeHart (48 * nodeDie x.desc n) l n
  match targetTrap s h a, callTarget s a with
  | none, some t =>
    let w := nodeStrand s l n none 0
    let m : CallMsg :=
      { caller := h, skey := w.skey, seqNo := 1, ordered := true, reissue := false, launch := l, qnum := BitVec.ofNat 64 x.start
        entry := entryOf x.desc.entry, payload := x.desc.args, tile := 0 }
    let k : RCall := { seqNo := 1, tn := 0, sd := 1, target := t, sent := none, reply := none }
    let s := setHart s h { startCtx { w with qnum := x.start + 1 } with calls := [k] }
    let s := modLaunch s l fun y =>
      let u : WUnit := { key := w.skey, q := x.start, ord := y.nextOrd, kind := .rcall h m t }
      { y with units := y.units ++ [u], nextOrd := y.nextOrd + 1 }
    modNode s l n fun x => { x with st := .running, live := 1 }
  | _, _ => nodeFails s l n

/-- A KIND 2 node: a copy with its template on the lowest core that may run it (R295). -/
def startCopyNode (s : State) (l n : Nat) : State :=
  let x := nodeOf s l n
  let d := nodeDie x.desc n
  match ((List.range 48).map (48 * d + ·)).find? fun c => usable s c && nodeMayRun x.desc c with
  | none => s
  | some c =>
    let tp := templateAt s c x.desc.tmpl
    if !templateOk tp then nodeFails s l n
    else
      let (id, s) := stamp s
      let h := nodeHart c l n
      let k : Copy :=
        { id := id, tp := tp, src := nth 0 x.desc.args 0, dst := nth 0 x.desc.args 1, snap := false, asof := none, gather := none
          bar := none, batch := 0, qnum := x.start, launch := l, phase := .queued, row := 0, col := 0, image := none, stream := none
          shadow := [], held := none, moved := [], upto := 0 }
      let w := nodeStrand s l n none c
      let s := setHart s h ((startCtx { w with qnum := x.start + 1 }).setChan 0 { Channel.reset with copies := [k], opened := true })
      modNode s l n fun x => { x with st := .running, live := 1 }

/-- A node of KIND 0 enters its die's pool at a level, an entry time and a time of boost. -/
def poolNode (s : State) (l n : Nat) (place : Nat × Nat × Option Nat) : State :=
  let e : PoolEnt :=
    { kind := .node l n, skey := skeyOf l n 0, level := place.1, entered := place.2.1, boost := place.2.2, first := 0, cluster := none }
  let d := nodeDie (nodeOf s l n).desc n
  setDie s d { die s d with pool := (die s d).pool ++ [e] }

/-- A node becomes ready with its start quantum: it enters its die's pool, or, where it takes no context, runs (R289 to R291, R295). -/
def readyNode (s : State) (l n start : Nat) : State :=
  let s := modNode s l n fun x => { x with st := .ready, start := start }
  let x := nodeOf s l n
  match x.desc.kind with
  | 0 =>
    poolNode s l n (x.desc.prio, s.now, none)
  | 1 => startCallNode s l n
  | _ => startCopyNode s l n

/-- Does a mate of a launch that has executed EXIT still hold its context, its work not settled (R277)? -/
def matesSettling (s : State) (l : Nat) : Bool :=
  s.harts.any fun e => isStrand e.1 && e.2.life == .exited && e.2.who.launch == l && e.2.who.mate.isSome

/-- The launch is over once every node is Done, and no mate has an access outstanding (R277, Question 14); it is deadlocked where nothing
can become ready any more (R312). -/
def checkEnd (s : State) (l : Nat) : State :=
  let x := launch s l
  let waits := x.nodes.any fun e => e.2.st == .waiting
  let moves := x.nodes.any fun e => match e.2.st with
    | .ready | .staging _ | .running | .completing => true
    | _ => false
  let saved := s.dies.any fun e => e.2.pool.any fun p => match p.kind with
    | .saved v => v.ctx.who.launch == l
    | _ => false
  if !x.running then s
  else if x.nodes.all fun e => e.2.st == .done then (if matesSettling s l then s else endLaunch s l .success)
  else if waits && !moves && !saved then endLaunch s l .deadlock
  else s

/-! ### Contexts that are free and what they may take (R292, R294) -/

/-- The saved mates of a node. -/
def savedMates (s : State) (l n : Nat) : List Saved :=
  s.dies.flatMap fun e => e.2.pool.filterMap fun p => match p.kind with
    | .saved v => if v.ctx.who.launch = l ∧ v.ctx.who.node = n ∧ v.ctx.who.mate.isSome then some v else none
    | _ => none

/-- May the saved mates of a node resume: none is still stopping, and each finds a free context on the core it left (R272, R310)? -/
def matesReady (s : State) (l n : Nat) : Bool :=
  (s.harts.all fun e => !(isStrand e.1 && e.2.life != .idle && e.2.who.launch == l && e.2.who.node == n && e.2.who.mate.isSome &&
    e.2.stopReq)) &&
  (savedMates s l n).all fun v => usable s (coreOf v.h) && !(freeCtxs s (coreOf v.h)).isEmpty

/-- May a free context of core `c` take an entry of its die's pool now? -/
def takes (s : State) (c : Nat) (e : PoolEnt) : Bool :=
  usable s c &&
    match e.kind with
    | .node l n =>
      if (nodeOf s l n).desc.cosched then clusterFor s e l n == some (clusterOf c)
      else !reserved s c && nodeMayRun (nodeOf s l n).desc c
    | .fresh n home => !reserved s c && childMayRun n.who home c
    | .saved v =>
      if v.ctx.who.mate.isSome then coreOf v.h == c && matesReady s v.ctx.who.launch v.ctx.who.node
      else !reserved s c && savedMayRun s v c

/-- What a free context of a core takes: an entry of the pool, the bottom of its own deque, or the top-most entry of another
core's that it may run. -/
inductive Source
  | pool (e : PoolEnt) | own (n : NewStrand) | steal (k : Nat) (n : NewStrand)
deriving DecidableEq, Repr

/-- The nearest core that holds an entry core `c` may run, and that entry. -/
def stealFrom (s : State) (c : Nat) : Option Source :=
  ((dequeOrder c).drop 1).findSome? fun k => ((core s k).deque.find? fun n => childMayRun n.who k c).map fun n => .steal k n

/-- The order of R292. -/
def sourceFor (s : State) (c : Nat) : Option Source :=
  if !usable s c || (freeCtxs s c).isEmpty then none
  else
    let bottom := if reserved s c then none else (core s c).deque.getLast?
    let first := (poolOrder s (dieOfCore c)).find? fun e => takes s c e
    match first, bottom with
    | some e, none => some (.pool e)
    | some e, some b => if b.level s < e.prio s then some (.pool e) else some (.own b)
    | none, some b => some (.own b)
    | none, none => if reserved s c then none else stealFrom s c

/-- Does core `j` come before core `c` for the same entry (R292)? -/
def ahead (s : State) (x : Source) (c j : Nat) : Bool :=
  match x, sourceFor s j with
  | .pool e, some (.pool f) => e == f && j < c
  | .steal k n, some (.steal k' m) => k == k' && n == m && (k + 48 - j % 48) % 48 < (k + 48 - c % 48) % 48
  | .steal k n, some (.own m) => j == k && n == m
  | _, _ => false

/-- What context `h` takes: it is its core's lowest free one, and no other core comes first. -/
def chosenFor (s : State) (h : Nat) : Option Source :=
  let c := coreOf h
  if !isStrand h || (freeCtxs s c).head? != some h then none
  else
    match sourceFor s c with
    | some x => if (coresOfDie (dieOfCore c)).any fun j => j != c && ahead s x c j then none else some x
    | none => none

def dropEntry (s : State) (d : Nat) (e : PoolEnt) : State := setDie s d { die s d with pool := (die s d).pool.erase e }
def dropChild (s : State) (k : Nat) (n : NewStrand) : State := modCore s k fun x => { x with deque := x.deque.erase n }

/-- A node leaves its place in the pool, an entry, for its contexts: with operands it is staged first (R290, R293). -/
def placeNode (s : State) (e : PoolEnt) (l n : Nat) (places : List Nat) : State :=
  if (nodeOf s l n).desc.ops.isEmpty then startNode s l n places
  else modNode s l n fun x => { x with st := .staging places, staged := some (snapImage s), place := (e.level, e.entered, e.boostAt s) }

/-- CONTEXT_TAKE_WORK (R292). -/
def execContextTakeWork (h : Nat) (s : State) : Out :=
  match chosenFor s h with
  | some (.pool e) =>
    (match e.kind with
     | .node l n =>
       let places := if (nodeOf s l n).desc.cosched then (coresOf (clusterOf (coreOf h))).filterMap fun c => (freeCtxs s c).head? else [h]
       .next (placeNode (dropEntry s (dieOf h) e) e l n places)
     | .fresh n _ => .next (setHart (dropEntry s (dieOf h) e) h (startCtx n))
     | .saved _ => .next s)
  | some (.own n) => .next (setHart (dropChild s (coreOf h) n) h (startCtx n))
  | some (.steal k n) => .next (setHart (dropChild s k n) h (startCtx n))
  | none => .next s

/-! ### Staging (R293) -/

/-- Can the granule at `a` be copied from the staging image (R249)? -/
def stageable (s : State) (im : Image) (a : Nat) : Bool :=
  match findPage im.pages a with
  | some (_, p) => p.rd && p.rep != 1 && !s.remotePage p && !vbad im a 16
  | none => false

/-- The granules of a node's operands: (source, comb offset). -/
def operandGranules (d : NodeRec) : List (Nat × Nat) :=
  d.ops.flatMap fun o => (List.range (o.2.1 / 16)).map fun i => (o.1 + 16 * i, o.2.2 + 16 * i)

/-- STAGING_COMPLETE: every operand copy is complete, its channels having served it (R375), and the strands start; a copy that faults makes
the node fail. -/
def execStagingComplete (l n : Nat) (s : State) : Out :=
  let x := nodeOf s l n
  match x.st with
  | .staging places =>
    let im := x.staged.getD s.image
    let gs := operandGranules x.desc
    match gs.find? fun g => !stageable s im g.1 with
    | none =>
      let ds := distinct (x.desc.ops.flatMap fun o => channelsOf { s with pages := im.pages } o.1 o.2.1)
      .next (ordinaryAccess s ds (.stage l n) fun s =>
        startNode ((places.map coreOf).foldl (fun s c => gs.foldl (fun s g => storeAt s c g.2 (vread im g.1 16) true) s) s) l n places)
    | some g => .next (nodeFails (if stageable s { im with bad := [] } g.1 then readError s im g.1 16 else s) l n)
  | _ => .next s

/-! ### Aging and reservation (R291, R294) -/

/-- The launch of an entry. -/
def PoolEnt.launchOf (e : PoolEnt) : Nat := match e.kind with
  | .node l _ => l
  | .fresh n _ => n.who.launch
  | .saved v => v.ctx.who.launch

/-- An entry that has spent 2^AGE reference cycles at an effective priority below 62 rises. -/
def PoolEnt.aged (s : State) (e : PoolEnt) : PoolEnt :=
  if e.prio s < 62 && refElapsed s e.entered (2 ^ (launch s e.launchOf).age) then { e with level := e.level + 1, entered := s.now } else e

/-- AGING_TICK (R291). -/
def execAgingTick (d : Nat) (s : State) : Out := .next (setDie s d { die s d with pool := (die s d).pool.map (PoolEnt.aged s) })

/-- Is an entry the first of its level? -/
def firstOfLevel (s : State) (d : Nat) (e : PoolEnt) : Bool := (((poolOrder s d).filter fun f => f.prio s == e.prio s).head?) == some e

/-- Time passes for the entries of the pools: each knows since when it is boosted (R291) and counts how long it has stood first in its
level (R294). -/
def countFirst (s : State) (ns : Nat) : State :=
  { s with dies := s.dies.map fun p =>
      (p.1, { p.2 with pool := p.2.pool.map fun e =>
        { e with boost := e.boostAt s, first := if firstOfLevel s p.1 e then e.first + ns else 0 } }) }

/-- The cluster that an entry reserves now, if it does: the lowest allowed one whose cores all work. -/
def reserves (s : State) (d : Nat) (e : PoolEnt) : Option Nat :=
  match e.kind with
  | .node l n =>
    let x := (nodeOf s l n).desc
    if x.cosched && e.cluster.isNone && firstOfLevel s d e && 2 ^ (launch s l).age * 10 ≤ e.first * 7 && (clusterFor s e l n).isNone
    then (allowedClusters x n).find? fun k => (coresOf k).all (usable s) && !reserved s (8 * k)
    else none
  | _ => none

/-- CLUSTER_RESERVE (R294). -/
def execClusterReserve (d : Nat) (s : State) : Out :=
  match (poolOrder s d).find? fun e => (reserves s d e).isSome with
  | some e =>
    .next (setDie s d { die s d with pool := (die s d).pool.map fun f => if f = e then { f with cluster := reserves s d e } else f })
  | none => .next s

/-! ### Pre-emption (R308) -/

/-- What asks for a context: an entry of a pool, or a boosted child on the brood deque of a core (R311). -/
inductive Asker
  | entry (e : PoolEnt) | child (k : Nat) (n : NewStrand)
deriving DecidableEq, Repr

/-- The askers of a die: its pool in order of entry, then the holders on the deques of its cores. -/
def askers (s : State) (d : Nat) : List Asker :=
  (die s d).pool.map .entry ++ (coresOfDie d).flatMap fun k => ((core s k).deque.filter fun n => n.holds s).map (.child k)

def Asker.skey : Asker → Word
  | .entry e => e.skey
  | .child _ n => n.skey
def Asker.prio (s : State) : Asker → Nat
  | .entry e => e.prio s
  | .child _ n => n.level s
def Asker.boosted (s : State) : Asker → Bool
  | .entry e => e.boosted s
  | .child _ n => n.holds s

/-- The cores an asker may use, free or not: none of a cluster that another entry has reserved, of its own reservation only the cluster
(R294); a saved mate's core is its own (R272). -/
def Asker.mayUse (s : State) (a : Asker) (c : Nat) : Bool :=
  usable s c &&
    match a with
    | .entry e => (match e.kind with
      | .node l n => if (nodeOf s l n).desc.cosched then (match e.cluster with
            | some k => clusterOf c == k
            | none => !reserved s c && (allowedClusters (nodeOf s l n).desc n).contains (clusterOf c))
          else !reserved s c && nodeMayRun (nodeOf s l n).desc c
      | .fresh n home => !reserved s c && childMayRun n.who home c
      | .saved v => (v.ctx.who.mate.isSome || !reserved s c) && savedMayRun s v c)
    | .child k n => !reserved s c && childMayRun n.who k c

/-- Does it find a free context that it may use? -/
def Asker.placed (s : State) (a : Asker) (c : Nat) : Bool :=
  !(freeCtxs s c).isEmpty && match a with
    | .entry e => takes s c e
    | .child k n => usable s c && !reserved s c && childMayRun n.who k c

/-- The strand that an asker would stop: the lowest PRIO, then the lowest core, then the lowest context. -/
def victim (s : State) (d : Nat) (a : Asker) : Option Nat :=
  let hs := (coresOfDie d).filter (a.mayUse s) |>.flatMap fun c => (List.range 4).map (6 * c + ·)
  let run := hs.filter fun h => (hart s h).life == .running && !(hart s h).stopReq
  run.foldl (fun b h => match b with
    | some g => if (hart s h).csr.prio.toNat < (hart s g).csr.prio.toNat then some h else some g
    | none => some h) none

/-- The strands requested with `h`: every mate of its launch that has not executed EXIT, or itself. -/
def requested (s : State) (h : Nat) : List Nat :=
  let w := (hart s h).who
  if w.mate.isNone then [h]
  else
    (s.harts.filter fun e => isStrand e.1 && (e.2.life == .running || e.2.life == .trapped) && !e.2.leaving &&
      e.2.who.launch == w.launch && e.2.who.node == w.node && e.2.who.mate.isSome).map (·.1)

/-- Has the asker with a key a request outstanding: a strand it asked to stop that has neither stopped nor ended? -/
def asking (s : State) (key : Word) : Bool := s.harts.any fun e => e.2.stopReq && e.2.askedBy == some key

/-- PREEMPT_REQUEST (R308): the `k`-th asker of a die. -/
def execPreemptRequest (d k : Nat) (s : State) : Out :=
  match (askers s d).drop k with
  | [] => .next s
  | a :: _ =>
    if asking s a.skey || (coresOfDie d).any (a.placed s) then .next s
    else
      match victim s d a with
      | none => .next s
      | some h =>
        let x := hart s h
        let l := launch s x.who.launch
        if (freeSlot l d).isSome && (x.csr.prio.toNat + l.margin ≤ a.prio s || (a.boosted s && x.csr.prio.toNat < 63)) then
          .next ((requested s h).foldl (fun s g => modHart s g fun c => { c with stopReq := true, askedBy := some a.skey }) s)
        else .next s

/-! ### Settled work (R302, R309) -/

def matrixQuiet (m : MatrixUnit) (h : Nat) : Bool :=
  (m.hi ++ m.lo).all (fun i => match i with
    | .call c => c.h != h
    | .load .. => true) &&
  (m.running.all fun r => r.call.h != h) && m.suspended.all fun r => r.call.h != h

/-- Is a load waiting with W = 1: for a granule, be it its header's, or for the entries of its rows; and all it could read it has read? -/
def waitsOnly (l : WLoad) : Bool :=
  l.wt && !loadDone l && l.pieces.all fun p => match p.st with
    | .issued => false
    | _ => true

/-- Has the strand a GAMO that has not returned? -/
def amoPending (l : Launch) (key : Word) : Bool :=
  let g (u : WUnit) : Bool := u.key == key && match u.kind with
    | .gamo .. => true
    | _ => false
  l.units.any g || match l.commit with
    | some c => (c.units.any fun u => g u.2) || c.amos.any fun a => a.key == key
    | none => false

/-- Does an IXPOP or IXPEEK still wait for its entry: a producer of a pending scalar (R81, R143)? -/
def popsPending (c : Ctx) : Bool := c.queues.any fun e => e.2.claims.any fun k => match k.kind with
  | .pop _ | .peek .. => true
  | _ => false

/-- Has everything a strand has outstanding completed, but loads waiting with W = 1? -/
def quiet (s : State) (h : Nat) : Bool :=
  let c := hart s h
  matrixQuiet (core s (coreOf h)).mx h && (c.channels.all fun e => e.2.copies.all fun k => !k.pending) && c.fops.isEmpty &&
    c.loads.all waitsOnly && c.gloads.isEmpty && c.dqs.isEmpty && c.calls.isEmpty && c.remotes.isEmpty && !popsPending c &&
    !amoPending (launch s c.who.launch) c.csr.skey

/-! ### The end of a strand (R277, R301, R302) -/

/-- Have all mates of a mate's node executed EXIT? -/
def matesGone (s : State) (w : Ident) : Bool :=
  w.mate.isNone || (List.range 8).all fun m => (launch s w.launch).exits.contains (w.node, m)

/-- A context becomes free: the core forgets it. -/
def freeCtx (s : State) (h : Nat) : State :=
  modCore (setHart s h Ctx.reset) (coreOf h) fun k =>
    { k with issuing := if k.issuing = some (ctxNo h) then none else k.issuing, waiters := k.waiters.filter fun w => w.1 != ctxNo h }

/-- The work of an exited strand has settled: it has waited as FENCEL does (R277, R302). -/
def settled (s : State) (h : Nat) : Bool := isStrand h && (hart s h).life == .exited && quiet s h && fenceClear s h

/-- The contexts that end with `h`: those of every mate of its node, or its own. -/
def endsWith (s : State) (h : Nat) : List Nat :=
  let w := (hart s h).who
  if w.mate.isNone then [h]
  else
    (s.harts.filter fun e => isStrand e.1 && e.2.life != .idle && e.2.who.launch == w.launch && e.2.who.node == w.node &&
      e.2.who.mate.isSome).map (·.1)

/-- A strand ends: it leaves its groups, releases its barriers and frees its context. A load still waiting with W = 1 at the own comb is
withdrawn (R302). -/
def endStrand (s : State) (h : Nat) : State :=
  let c := hart s h
  let s := leaveAll s c.who.launch c.csr.skey
  let s := modCore s (coreOf h) fun k => { k with barriers := k.barriers.filter fun b => b.2.holder != some c.csr.skey }
  freeCtx s h

/-- STRAND_END: a strand whose work has settled ends; a mate ends once all eight have reached EXIT and none has an access outstanding, and
all eight with it (R277); a launch whose nodes are all Done may have waited for that. -/
def execStrandEnd (h : Nat) (s : State) : Out :=
  let hs := endsWith s h
  let w := (hart s h).who
  if hs.contains h && hs.all (settled s) && matesGone s w then
    let t := hs.foldl endStrand s
    .next (if w.mate.isSome then checkEnd t w.launch else t)
  else .next s

/-! ### Saving (R308, R309) -/

/-- A list of numbers with its length before it. -/
def counted (l : List Nat) : List Word := (l.length :: l).map (BitVec.ofNat 64)

/-- What the part of a slot at 0x80880 tells of: the resume pc, forks, depth, children, groups, held barriers and waiting loads. -/
def resumeWords (s : State) (h : Nat) : List Word :=
  let c := hart s h
  let groups := ((launch s c.who.launch).groups.filter fun e => e.2.members.contains c.csr.skey).map (·.1)
  let bars := (List.range 8).filter fun k => (barrier s (coreOf h) k).holder == some c.csr.skey
  let dst : LoadDst → List Nat := fun d => match d with
    | .tile r => [0, r]
    | .scalar r => [1, r]
    | .mask r => [2, r]
    | .freg r => [3, r]
    | .lines g => [4, g]
  let load (l : WLoad) : List Nat :=
    [l.id, l.clr.toNat, l.header.toNat] ++ dst l.dst ++ l.pieces.flatMap fun p => [p.core, p.off, p.len, p.pos]
  [c.pc, BitVec.ofNat 64 c.who.forks, BitVec.ofNat 64 c.who.depth] ++
    (c.kids.flatMap fun k => [k.1, BitVec.ofNat 64 (match k.2 with
      | some q => q + 1
      | none => 0)]) ++ counted groups ++ counted bars ++ c.loads.flatMap fun l => counted (load l)

/-- A channel record: its fault, its MOVED state, its batches. -/
def channelWords (y : Channel) : List Word :=
  [chanWord y, BitVec.ofNat 64 ((y.fault.map (·.addr)).getD 0), BitVec.ofNat 64 (y.movedAddr.getD 0), BitVec.ofNat 64 y.batch] ++
    counted y.closed ++ counted y.faultBatches

/-- The entries, marks and reservations of a queue. -/
def queueWords (y : IQueue) : List Word :=
  let item : QItem → List Nat := fun i => match i with
    | .entry v => [0, v]
    | .close none => [1, 0]
    | .close (some b) => [2, b]
    | .poison => [3, 0]
  let claim : Claim → List Nat := fun c => c.num :: match c.kind with
    | .pop r => [0, r, 0]
    | .peek r o => [1, r, o]
    | .load i => [2, i, 0]
    | .copy ch i => [3, ch, i]
  counted (y.items.flatMap item) ++ counted (y.claims.flatMap claim)

/-- The state of a scan (R350). -/
def scanWords (c : Scan) : List Nat :=
  [c.pred.ctorIdx, c.region, c.first, c.count, c.next, c.passed, c.qnum, c.value.toNat, c.push.toNat, c.score.getD 128, c.sd,
    c.stamp.elim 0 (· + 1)] ++ unpack 64 32 c.operand.toNat ++ c.scores.map BitVec.toNat

/-- The state of a producer (R262). -/
def producerWords (p : Producer) : List Word :=
  let w : List Nat := match p.work with
    | .list es m hi => [0, hi] ++ es ++ (match m with
      | some (r, v) => [1, r] ++ unpack 64 16 v.toNat
      | none => [0])
    | .bitmap a pos n => [1, a, pos, n]
    | .runs a left st n => [2, a, left, st, n]
    | .scan c => 3 :: scanWords c
  counted ([p.keep.toNat, p.rate, p.count, p.pushed, p.bound.getD 0] ++ w)

/-- The bytes of a save slot: (offset, bytes). Where R309 gives the contents of a part and not its bytes, they are a free value of all that
the part tells of. -/
def slotImage (s : State) (h : Nat) : List (Nat × List Byte) :=
  let c := hart s h
  let words (l : List Word) : List Byte := l.flatMap fun w => natBytes w.toNat 8
  let loops := c.loops.flatMap fun e => [e.start, e.last, BitVec.ofNat 64 e.remaining]
  let recent := c.done.reverse.take 16
  let opaquePart (off n : Nat) (ws : List Word) : Nat × List Byte :=
    (off, ((Config.saveBytes off ws) ++ List.replicate n 0).take n)
  ((List.range 128).filter (tileLive c)).map (fun n => (4096 * n, natBytes (c.tile n).val.toNat 4096)) ++
  [(0x80000, words ((List.range 32).map fun r => (c.scalar r).val)),
   (0x80100, (List.range 32).map fun r => ((c.scalar r).poison).getD 0),
   (0x80120, (List.range 128).map fun n => tileState (c.tile n)),
   (0x80200, (List.range 8).flatMap fun r => natBytes (c.mask r).val.toNat 128),
   (0x80600, words ((List.range 8).map c.param)),
   (0x80640, words ((List.range 64).map fun n => csrGet h c n)),
   (0x80840, words ((BitVec.ofNat 64 c.loops.length :: loops) ++ List.replicate (7 - loops.length) 0)),
   opaquePart 0x80880 0x80 (resumeWords s h),
   opaquePart 0x83000 0x200 ((List.range 8).flatMap fun n => channelWords (c.chan n)),
   opaquePart 0x84000 0x4000 ((List.range 2).flatMap fun q => queueWords (c.queue q)),
   opaquePart 0x88000 0x1000 (((List.range 2).flatMap fun q => (c.queue q).prods.flatMap producerWords) ++
     counted (c.scans.flatMap scanWords))] ++
  (List.range 16).map (fun n => (0x81000 + 0x110 * n, paddedImage (c.freg n).fn)) ++
  [(0x89000, natBytes c.nextSeq 8),
   (0x89008, List.replicate 6 0 ++ [c.mfrtn, c.mfsub]),
   (0x89010, natBytes (pack 1 (recent.map fun d => d.acked.toNat)) 8),
   (0x89100, words ((recent.map fun d => d.status) ++ List.replicate (16 - recent.length) 0)),
   (0x89180, List.replicate (0x100000 - 0x89180) 0)]

/-- Is the strand's next bundle an effective safe point, or has a YIELD that left nothing in flight been one? -/
def atSafePoint (s : State) (h : Nat) : Bool :=
  let c := hart s h
  c.yielded || (!c.exposed && match fetch s h with
    | .ok b => ((decodeMode (modeByte b)).map fun m => m.sp) == some true
    | .error _ => false)

/-- A strand is written to a save slot and enters its die's pool at PRIO; its waiting loads stay queued at their granules. No exposed
result is in flight (R91). -/
def saveStrand (s : State) (h slot : Nat) : State :=
  let c := hart s h
  let l := c.who.launch
  let s := (slotImage s h).foldl (fun s p => deviceWrite s (saveBase s l slot + p.1) p.2) s
  let g := ghostHart (coreOf h) l slot
  let s := if c.loads.isEmpty then s else setHart s g { Ctx.reset with life := .exited, leaving := true, who := c.who, loads := c.loads }
  let v : Saved := { ctx := { c with loads := [], latches := [], stopReq := false, askedBy := none, yielded := false, spCount := 0 }, h := h, slot := slot }
  let e : PoolEnt :=
    { kind := .saved v, skey := c.csr.skey, level := c.csr.prio.toNat, entered := s.now, boost := none, first := 0, cluster := none }
  let s := modLaunch s l fun x => { x with usedSlots := x.usedSlots ++ [slot] }
  let d := dieOf h
  freeCtx (setDie s d { die s d with pool := (die s d).pool ++ [e] }) h

/-- STRAND_SAVE (R309), once the channels of the slot serve it (R375). -/
def execStrandSave (h : Nat) (s : State) : Out :=
  let c := hart s h
  let t := landDue s h
  if isStrand h && c.life == .running && c.stopReq && quiet t h && atSafePoint t h then
    match freeSlot (launch s c.who.launch) (dieOf h) with
    | some slot =>
      .next (ordinaryAccess s (channelsOf s (saveBase s c.who.launch slot) (2 ^ 20)) (.save h) fun s => saveStrand (landDue s h) h slot)
    | none => .next s
  else .next s

/-! ### Resuming (R272, R310) -/

/-- A saved strand in context `h`: dead tiles are full and zero, MIG tells a change of core, its waiting loads are its own again. -/
def resumeOne (s : State) (v : Saved) (h : Nat) : State :=
  let c := v.ctx
  let g := ghostHart (coreOf v.h) c.who.launch v.slot
  let loads := (hart s g).loads
  let waits (n : Nat) : Bool := loads.any fun l => l.dst == .tile n
  let c := { c with
    tiles := c.tiles.filter fun e => tileLive c e.1 || waits e.1
    loads := loads
    remotes := (hart s g).remotes
    csr := { c.csr with mig := c.csr.mig || coreOf v.h != coreOf h } }
  let s := setHart (setHart s g Ctx.reset) h c
  modLaunch s c.who.launch fun x => { x with usedSlots := delNat v.slot x.usedSlots }

/-- Remove the entry of a saved strand. -/
def dropSaved (s : State) (v : Saved) : State :=
  let ds := s.dies.map fun e => (e.1, { e.2 with pool := e.2.pool.filter fun p => p.kind != .saved v })
  { s with dies := ds.filter fun e => e.2 != Die.reset }

/-- The channels of a saved strand's slot, and of its mates', with whom it resumes (R272, R310). -/
def resumeChannels (s : State) (v : Saved) : List Nat :=
  let w := v.ctx.who
  distinct ((if w.mate.isSome then savedMates s w.launch w.node else [v]).flatMap fun v =>
    channelsOf s (slotBase s v) (2 ^ 20))

/-- STRAND_RESUME (R310), once the channels of the slots serve it (R375): mates all together, each on the core it left (R272). -/
def execStrandResume (h : Nat) (s : State) : Out :=
  match chosenFor s h with
  | some (.pool e) =>
    (match e.kind with
     | .saved v =>
       .next (ordinaryAccess s (resumeChannels s v) (.resume v.ctx.who.launch v.slot) fun s =>
         if v.ctx.who.mate.isSome then
           (savedMates s v.ctx.who.launch v.ctx.who.node).foldl (fun s v =>
             match (freeCtxs s (coreOf v.h)).head? with
             | some g => resumeOne (dropSaved s v) v g
             | none => s) s
         else resumeOne (dropSaved s v) v h)
     | _ => .next s)
  | _ => .next s

end Sys2Proof.Machine
end

