-- ==== Sys2Proof/Machine/Commit.lean ====
section
/-!
DEFINITION. The commit step of a quantum (R289, R321, R324 to R326, R331, R332, R334, R343, R351, R363), messages of other modules at their
place in it (R388, R389), and the end of a promotion's copy (R334).
-/
namespace Sys2Proof.Machine

/-! ### Who is live in a quantum (R321) -/

/-- Does an entry of a pool hold back quantum `q` of launch `l`? -/
def PoolEnt.live (e : PoolEnt) (l q : Nat) : Bool := match e.kind with
  | .node .. => false
  | .fresh n _ => n.who.launch == l && n.qnum ≤ q
  | .saved v => v.ctx.who.launch == l && strandLive v.ctx q

/-- Is any party live in quantum `q`? -/
def anyLive (s : State) (l q : Nat) : Bool :=
  (s.harts.any fun e => (isStrand e.1 || isNode e.1) && e.2.life != .idle && e.2.who.launch == l && strandLive e.2 q) ||
  (s.dies.any fun e => e.2.pool.any fun p => p.live l q) ||
  (s.cores.any fun e => e.2.deque.any fun n => n.who.launch == l && n.qnum ≤ q) ||
  (launch s l).nodes.any fun e => match e.2.st with
    | .ready | .staging _ => e.2.start ≤ q
    | _ => false

/-- Does a GLD.Q or DQRY.Q that ended a quantum up to `q` still wait for its read (R133, R348)? -/
def readsPending (s : State) (l q : Nat) : Bool :=
  s.harts.any fun e => isStrand e.1 && e.2.who.launch == l &&
    (e.2.gloads.any (fun g => g.q.any fun p => p ≤ q) || e.2.dqs.any fun d => d.q.any fun p => p ≤ q)

/-! ### Promotions (R333, R334) -/

/-- Move the bytes of a frame: the destination takes exactly the source's bytes. -/
def moveFrame (m : List Host.Cell) (src dst n : Nat) : List Host.Cell :=
  let clean := m.filter fun c => !(dst ≤ c.1 && c.1 < dst + n)
  (m.filter fun c => src ≤ c.1 && c.1 < src + n).foldl (fun m c => mset m (c.1 - src + dst) c.2) clean

/-- The swap: the page names its new frame, the old one goes to the firmware's list. A page that has become absent or remote (R387) has no
frame here, and nothing is swapped (DEDUCED, notes/assumptions/59.md). -/
def swapPage (s : State) (p : Promo) : State :=
  match (findPage s.pages p.page).filter fun e => !s.remotePage e.2 with
  | none => s
  | some (base, e) =>
    let src := e.frame * 2 ^ 16
    let dst := p.frame * 2 ^ 16
    let w0 := mergeBits e.w0 (BitVec.ofNat 64 dst) (onesAt 64 16 26)
    let moved := (s.badLines.filter fun n => src ≤ 64 * n && 64 * n < src + e.size).map fun n => n - src / 64 + dst / 64
    let kept := s.badLines.filter fun n => !(dst ≤ 64 * n && 64 * n < dst + e.size)
    { s with
      mem := moveFrame s.mem src dst e.size
      pages := tset Page.absent s.pages (base / 2 ^ 16) { e with w0 := w0 }
      badLines := moved.foldl (fun l n => insNat n l) kept
      freeFrames := s.freeFrames ++ [e.frame] }

/-- Is the consumer of a promotion Done, or its launch over? -/
def lateFor (s : State) (p : Promo) : Bool := !(launch s p.launch).running || (nodeOf s p.launch p.node).st == .done

/-- The promotions whose copies have ended for consumers of launch `l` are decided. -/
def decidePromos (s : State) (l : Nat) : State :=
  let due (p : Promo) : Bool := p.copied && p.launch == l
  let s' := (s.promos.filter due).foldl (fun s p => if lateFor s p then abandon s p else swapPage s p) s
  { s' with promos := s'.promos.filter fun p => !due p }

/-- Is a commit step of another launch in progress? A page changes between commit steps (R332). -/
def stepsInProgress (s : State) (l : Nat) : Bool := s.launches.any fun e => e.1 != l && e.2.commit.isSome

/-- The drones whose channels the copy of a page to its new frame reads and writes. -/
def moveChannels (s : State) (p : Promo) : List Nat := match findPage s.pages p.page with
  | some (base, e) => distinct (frameChannels s base ++ physChannels e (p.frame * 2 ^ 16))
  | none => []

/-- PROMOTION_COPY_DONE: the copy has ended, once the channels have served it (R375). The swap is decided in the consumer's next commit
step; where that launch is over there is none, and the promotion is abandoned. -/
def execPromotionCopyDone (k : Nat) (s : State) : Out :=
  match s.promos.drop k with
  | [] => .next s
  | p :: _ =>
    .next (ordinaryAccess s (moveChannels s p) (.promo p.page) fun s =>
      if !(launch s p.launch).running then abandon { s with promos := dropNth s.promos k } p
      else { s with promos := setNth { p with copied := true } s.promos k })

/-! ### Writes of a step -/

/-- A shadow in pieces: whole 64-byte lines together, other granules alone: (granule number, bytes). `n` bounds the pieces. -/
def shadowPieces : Nat → Tab (BitVec 128) → List (Nat × List Byte)
  | 0, _ => []
  | _ + 1, [] => []
  | n + 1, (g, v) :: t =>
    let four := ((g, v) :: t).take 4
    if g % 4 = 0 && four.map (·.1) == [g, g + 1, g + 2, g + 3] then
      (g, four.flatMap fun x => natBytes x.2.toNat 16) :: shadowPieces n (t.drop 3)
    else (g, natBytes v.toNat 16) :: shadowPieces n t

/-- A granule of a reduce-add: each element plus its addend, rounded under the template (R246). -/
def addGranule (t : Line) (old add : Nat) : List Byte :=
  let d := typeOf (tpDfmt t)
  let w := tpDw t
  let xs := (unpack (8 * w) (16 / w) old).zip (unpack (8 * w) (16 / w) add)
  natBytes (pack (8 * w) (xs.map fun p => toElem (tpMode t) d (XR.add (tpRnd t == 3) (elemVal d p.1) (elemVal d p.2)))) 16

/-- The pieces of a copy that stay on this module, at their place in the step; `covered` are the granules that the PUBLISH writes without
reading them, over all its copies: together they cover a line or do not (R335). -/
def publishCopy (s : State) (l place : Nat) (key : Word) (covered : List Nat) (k : Copy) : State :=
  let own := ownGranules s k
  if tpXform k.tp = 2 then
    own.foldl (fun s g =>
      let rd := stepReader s l
      let old := leNat ((List.range 16).map fun i => rd (16 * g.1 + i))
      (stepWrite s l place key (16 * g.1) (addGranule k.tp old g.2.toNat) false).1) s
  else
    (shadowPieces own.length own).foldl (fun s p =>
      (stepWrite s l place key (16 * p.1) p.2 ((List.range 4).all fun i => covered.contains (p.1 / 4 * 4 + i))).1) s

/-- The keepers note the bad lines that a unit in several pieces met once all its bytes are applied (R345). -/
def spoilAfter (s : State) (l place : Nat) : State :=
  logWrites s l (((stepOf s l).log.filter fun w => w.place == place && w.bad).map fun w => { w with bytes := [] })

/-- The copies of a PUBLISH on this module, in issue order (R246). -/
def publishOwn (s : State) (l place : Nat) (key : Word) (ks : List Copy) : State :=
  let covered := (ks.filter fun k => tpXform k.tp != 2).flatMap fun k => (ownGranules s k).map (·.1)
  spoilAfter (ks.foldl (fun s k => publishCopy s l place key covered k) s) l place

/-! ### Units at their place (R324) -/

/-- The drones of the channels that a write of a unit of launch `l`'s step goes to: those of the frame where it un-elides the page (R331).
-/
def writeChannels (s : State) (l a n : Nat) : List Nat := match findPage s.pages a with
  | some (base, p) =>
    if p.rep = 2 && (tfind (stepOf s l).view.opened (base / 2 ^ 16)).isNone then frameChannels s base else channelsOf s a n
  | none => []

/-- What a unit touches, as contexts: the drones of the channels it writes, or the target of its call. -/
def unitTouches (s : State) (l : Nat) (u : WUnit) : List Nat := match u.kind with
  | .gst a bytes => (writeChannels s l a bytes.length).map droneHart
  | .gamo _ _ a n _ _ _ => (writeChannels s l a n).map droneHart
  | .publish ks => (distinct (ks.flatMap fun k => k.shadow.flatMap fun g => writeChannels s l (16 * g.1) 16)).map droneHart
  | .rcall _ _ t => [t]

/-- Is a unit a call of a guest context, which sees all memory? -/
def guestCall (u : WUnit) : Bool := match u.kind with
  | .rcall _ _ t => isGuest t
  | _ => false

/-- Has a call's drone drained its writes (R363, R376)? -/
def droneDrained (s : State) (h : Nat) : Bool :=
  !isDrone h ||
    let k := drone s (droneOf h)
    k.posted.isEmpty && k.bmac.isNone && !k.seqr.any fun r => !r.finished
/-- Has a call of the step replied, and its drone drained? -/
def callOver (s : State) (c : CallRef) : Bool := c.replied && droneDrained s c.h

/-- The contexts that calls of the step still occupy. -/
def busyTargets (s : State) (l : Nat) : List Nat := ((stepOf s l).calls.filter fun c => !callOver s c).map (·.h)

/-- A GAMO at its place: the old word, the write, its result kept for the step's completion (R135). -/
def applyGamo (s : State) (l place : Nat) (u : WUnit) (h dst a n : Nat) (f : AFunc) (v cmp : Word) : State :=
  let rd := stepReader s l
  let old : Word := BitVec.ofNat 64 (leNat ((List.range n).map fun i => rd (a + i)))
  let r := stepWrite s l place u.key a (natBytes (amoResult f n old v cmp).toNat n) false
  let o : Option Byte := match r.2 with
    | .done => none
    | .dropped o => some o
  modStep r.1 l fun c => { c with amos := c.amos ++ [{ h := h, key := u.key, dst := dst, old := old, poison := o }] }

/-- An RCALL.Q at its place: it sees what the earlier units wrote (R363). -/
def applyCall (s : State) (l place : Nat) (m : CallMsg) (h t : Nat) : State :=
  let s := modStep s l fun c =>
    { c with calls := c.calls ++ [{ place := place, h := t, key := m.skey, seqNo := m.seqNo, replied := false }] }
  dispatchCall (markSent s h m.skey m.seqNo) t m

/-- One write unit applies at its place. -/
def applyUnit (s : State) (l : Nat) (u : Nat × WUnit) : State :=
  match u.2.kind with
  | .gst a bytes => (stepWrite s l u.1 u.2.key a bytes false).1
  | .gamo h dst a n f v cmp => applyGamo s l u.1 u.2 h dst a n f v cmp
  | .publish ks => publishRemote (publishOwn s l u.1 u.2.key ks) l u.2.q u.2.key ks
  | .rcall h m t => applyCall s l u.1 m h t

/-- Apply the units of the step in order. One that touches what a running call occupies, or what an earlier waiting unit touches, waits;
the others go on (R363). A guest's call, which sees all memory, waits for every earlier unit (DEDUCED, notes/assumptions/63.md); later ones
go on, and it does not see them. -/
def advanceUnits (s : State) (l : Nat) : List (Nat × WUnit) → List Nat → State
  | [], _ => s
  | u :: us, held =>
    let t := unitTouches s l u.2
    if (t.any fun x => held.contains x || (busyTargets s l).contains x) || (guestCall u.2 && !held.isEmpty) then
      advanceUnits (modStep s l fun c => { c with units := c.units ++ [u] }) l us (held ++ t)
    else advanceUnits (applyUnit s l u) l us held

/-! ### Messages of other modules (R388, R389) -/

/-- Bytes of a message of the strand with a key, after the units of the step of launch `l`, reach a physical address; `whole` says that the
message covers their line. -/
def msgWrite (s : State) (l place : Nat) (key : Word) (pa : Nat) (bytes : List Byte) (whole : Bool) : State := match virtOf s pa with
  | some va => (stepWrite s l place key va bytes whole).1
  | none => (stepPut s l key pa bytes whole).1

/-- A byte as the message's addends see it. -/
def msgByte (s : State) (l pa : Nat) : Byte :=
  let v := (stepOf s l).view
  match virtOf s pa with
  | some va => viewReader s.image v va
  | none => (tfind v.bytes pa).getD (under s.mem v pa)

/-- One addend: rounded under the mode it carries. -/
def msgAdd (s : State) (l place : Nat) (key : Word) (a : Nat × Nat × Word) : State :=
  let t := typeOf (a.2.1 % 16)
  let md : RMode :=
    { rnd := (Rnd.ofCode (BitVec.ofNat 3 (a.2.1 / 16))).getD .rne, sat := a.2.1.testBit 7, ftz := a.2.1.testBit 8 }
  let w := t.bits / 8
  let old := leNat ((List.range w).map fun i => msgByte s l (a.1 + i))
  let new := toElem md t (XR.add (md.rnd == .rdn) (elemVal t old) (elemVal t a.2.2.toNat))
  msgWrite s l place key a.1 (natBytes new w) false

/-- The place after everything that a step has written. -/
def nextPlace (c : Commit) : Nat := c.log.foldl (fun n w => max n (w.place + 1)) 0

/-- A message applies as a whole, notifies its barriers and is acknowledged. The lines that its granules cover it rewrites (R335). -/
def applyMsg (s : State) (l : Nat) (m : Msg) : State :=
  let place := nextPlace (stepOf s l)
  let covered := m.granules.map fun g => g.1 / 16
  let s := m.granules.foldl (fun s g =>
    msgWrite s l place m.key g.1 (natBytes g.2.toNat 16) ((List.range 4).all fun i => covered.contains (g.1 / 64 * 4 + i))) s
  let s := spoilAfter (m.adds.foldl (fun s a => msgAdd s l place m.key a) s) l place
  let s := m.notify.foldl (fun s t => bumpBarrier s (48 * t.1 + t.2.1) t.2.2 1 none) s
  { s with fabric := { s.fabric with
      inbox := s.fabric.inbox.erase m
      inSeq := tset 0 s.fabric.inSeq m.peer ((m.seqNo + 1) % 2 ^ 32)
      acks := s.fabric.acks ++ [(m.peer, m.seqNo)] } }

def applyMsgs (s : State) (l : Nat) : State := (dueMsgs s.fabric).foldl (fun s m => applyMsg s l m) s

/-- The oldest running launch: sequence numbers count modulo 2^24 (R286), so the one furthest behind the last launch. -/
def oldestLaunch (s : State) : Option Nat :=
  let age (l : Nat) : Nat := (s.host.nextLaunch + 2 ^ 24 - l) % 2 ^ 24
  ((s.launches.filter fun e => e.2.running).map (·.1)).foldl (fun b l => match b with
    | some m => if age m < age l then some l else some m
    | none => some l) none

/-! ### The writes of a step reach memory -/

/-- The writes of a step stand in memory, whole: the pages it un-elided, its bytes, the lines it rewrote (R325, R331, R335). -/
def landStep (s : State) (l : Nat) (v : StepView) : State :=
  let s := v.opened.foldl (fun s o => landPage s (o.1 * 2 ^ 16) o.2) s
  let s := s.launches.foldl (fun s e =>
    if e.1 = l then s else modStep s e.1 fun c => { c with undo := c.undo.filter fun u => (tfind v.bytes u.1).isNone }) s
  { s with
    mem := v.bytes.foldl (fun m b => mset m b.1 b.2) s.mem
    badLines := s.badLines.filter fun n => !v.rewrites n }

/-- The step of launch `l` is over: its writes stand in memory, and the keepers follow them in their order (R344). `f` is what else becomes
of the launch. -/
def landWrites (s : State) (l : Nat) (f : Launch → Launch) : State :=
  let c := stepOf s l
  let old := readerOf (snapImage s)
  let s := landStep s l c.view
  keepStep (modLaunch s l fun x => f { x with commit := none }) old c.log

/-- The number under which messages apply while no launch runs; no launch has it. -/
def noLaunch : Nat := 2 ^ 24

/-- Messages that wait while no launch runs apply at once, as a step of their own (R388; DEDUCED, notes/assumptions/62.md). -/
def settleMsgs (s : State) : State :=
  if anyRunning s || anyStep s || (dueMsgs s.fabric).isEmpty then s
  else
    ordinaryAccess s (msgChannels s) .msgs fun s =>
      landWrites (applyMsgs (setLaunch s noLaunch { Launch.none with commit := some (emptyStep 0) }) noLaunch) noLaunch
        fun _ => Launch.none

/-! ### The step -/

/-- May quantum `q` of a launch commit (R324)? -/
def mayCommit (s : State) (l q : Nat) : Bool :=
  !anyLive s l q && !readsPending s l q && !((s.promos.any fun p => p.copied && p.launch == l) && stepsInProgress s l)

def unitBefore (a b : WUnit) : Bool := a.key.toNat < b.key.toNat || (a.key == b.key && a.ord < b.ord)

/-- The step of quantum `q` begins: promotions are decided, its units stand in key order, with those of a strand that R304 has released into
a quantum already committed (DEDUCED, notes/assumptions/57.md). -/
def beginStep (s : State) (l q : Nat) : State :=
  let s := decidePromos s l
  modLaunch s l fun x =>
    let us := sortBy unitBefore (x.units.filter fun u => u.q ≤ q)
    { x with commit := some { emptyStep q with units := (List.range us.length).zip us } }

/-- The step applies what it can. -/
def continueStep (s : State) (l : Nat) : State :=
  let us := (stepOf s l).units
  advanceUnits (modStep s l fun c => { c with units := [] }) l us []

/-- Is nothing of the step left? -/
def stepOver (s : State) (l : Nat) : Bool := (stepOf s l).units.isEmpty && (stepOf s l).calls.all (callOver s)

/-- A GAMO's scalar receives its word as the step completes. -/
def giveAmo (s : State) (a : AmoDone) : State :=
  if (hart s a.h).csr.skey = a.key then
    modHart s a.h fun c => match a.poison with
      | none => c.fillScalar a.dst a.old
      | some o => c.poisonScalar a.dst o
  else s

/-- A successor learns of one predecessor that is Done; its count reaching zero makes it ready for quantum `start` (R289). Once another has
failed and ended the launch, nothing more of it becomes ready (R312). -/
def noticeNode (s : State) (l start n : Nat) : State :=
  let s := modNode s l n fun x => { x with left := x.left - 1 }
  if (launch s l).running ∧ (nodeOf s l n).left = 0 ∧ (nodeOf s l n).st = .waiting then readyNode s l n start else s

/-- The nodes whose final quantum is committed are Done, and their successors learn of it. -/
def finishNodes (s : State) (l q : Nat) : State :=
  let ended := (launch s l).nodes.filter fun e => e.2.st == .completing && e.2.final ≤ q
  let s := ended.foldl (fun s e => modNode s l e.1 fun x => { x with st := .done }) s
  ended.foldl (fun s e => e.2.desc.succs.foldl (fun s n => noticeNode s l (q + 1) n) s) s

/-- A GLD.Q that waited for the commit of quantum `q` reads through the entry in force now, where the page is present and local, and else
through that of its issue (R133, R332, R387; DEDUCED, notes/assumptions/34.md). -/
def aimGloads (s : State) (l q : Nat) : State :=
  { s with harts := s.harts.map fun e => (e.1, { e.2 with gloads := e.2.gloads.map aim }) }
where
  /-- One load. -/
  aim (g : GLoad) : GLoad :=
    if g.launch = l ∧ g.q = some (q + 1) then
      match findPage s.pages g.addr with
      | some (b, p) => if s.remotePage p then g else { g with base := b, page := p }
      | none => g
    else g

/-- The step completes: its bytes stand in memory, keepers, rescans, GAMOs and nodes follow. Of a launch that has ended in the meantime
nothing but the writes is left (DEDUCED, notes/assumptions/54.md). -/
def completeStep (s : State) (l : Nat) : State :=
  let s := if oldestLaunch s = some l then applyMsgs s l else s
  let c := stepOf s l
  let due := (launch s l).rescans.filter fun r => r.1 ≤ c.q
  let s := landWrites s l fun x =>
    { x with committed := c.q, units := x.units.filter fun u => c.q < u.q, rescans := x.rescans.filter fun r => c.q < r.1 }
  let s := aimGloads s l c.q
  let s := due.foldl (fun s r => rescanBlocks s r.2.1 r.2.2.1 r.2.2.2) s
  let s := c.amos.foldl giveAmo (rebuildBad s)
  if (launch s l).running then checkEnd (finishNodes s l c.q) l else s

/-- The drones whose channels the writes of a step and of the messages in it go to, with the frames it un-elides, and what its keepers
read and write: records, and the blocks of a rescan. -/
def stepChannels (s : State) (l : Nat) : List Nat :=
  let x := launch s l
  let written := (stepOf s l).log.flatMap fun w => channelsOf s w.va w.bytes.length ++ recordDrones s w.va
  let scanned := (x.rescans.filter fun r => r.1 ≤ (stepOf s l).q).flatMap fun r => match s.regions.find? fun e => e.1 == r.2.1 with
    | some (_, g) => blockChannels s g r.2.2.1 r.2.2.2
    | none => []
  let received := if oldestLaunch s = some l then msgChannels s else []
  distinct (written ++ ((stepOf s l).view.opened.flatMap fun o => frameChannels s (o.1 * 2 ^ 16)) ++ scanned ++ received)

/-- QUANTUM_COMMIT: the step of launch `l`'s next quantum begins, goes on, and completes once nothing of it is left and the channels serve
its writes (R375). -/
def execQuantumCommit (l : Nat) (s : State) : Out :=
  let x := launch s l
  let s := if x.running && x.commit.isNone && mayCommit s l (x.committed + 1) then beginStep s l (x.committed + 1) else s
  if (launch s l).commit.isNone then .next s
  else
    let s := continueStep s l
    if stepOver s l then .next (ordinaryAccess s (stepChannels s l) (.step l) fun s => completeStep s l) else .next s

end Sys2Proof.Machine
end

