-- ==== Sys2Proof/Machine/Control.lean ====
section
/-!
DEFINITION. Control flow, CSRs, traps, the time stamp and the reads of index queues: SC slot (R97, R128 to R130, R139 to R143).
-/
namespace Sys2Proof.Machine

/-! ### Branches (R21, R128) -/

/-- pc + 64 × disp. -/
def branchTarget (s : State) (disp : BitVec 32) : Word := (me s).pc + 64 * disp.signExtend 64
/-- A scalar as a target: bits [5:0] ignored (R21). -/
def scalarTarget (s : State) (sa : SReg) : Word := (me s).s sa &&& ~~~0x3F#64

/-- A taken branch; `pops` says whether it leaves loops (R130). -/
def takeBranch (s : State) (t : Word) (pops : Bool) : State :=
  { s with bundle := { s.bundle with target := some t, branch := pops } }
/-- A branch under a condition. -/
def branchIf (s : State) (b : Bool) (disp : BitVec 32) : State := if b then takeBranch s (branchTarget s disp) true else s
/-- The link of CALL and CALLR. -/
def link (s : State) (sd : SReg) : State := landScalar s sd ((me s).pc + 64) 1

/-- J (R128). -/
def execJ (disp : BitVec 32) (s : State) : Out := issue (.j disp) (fun s => branchIf s true disp) s
/-- JR (R128). -/
def execJr (sa : SReg) (s : State) : Out := issue (.jr sa) (fun s => takeBranch s (scalarTarget s sa) true) s
/-- CALL (R128). -/
def execCall (f1 : SReg) (disp : BitVec 32) (s : State) : Out :=
  issue (.call f1 disp) (fun s => takeBranch (link s f1) (branchTarget s disp) false) s
/-- CALLR: the target is the old value of sa (R128). -/
def execCallr (sd sa : SReg) (s : State) : Out :=
  issue (.callr sd sa) (fun s => takeBranch (link s sd) (scalarTarget s sa) false) s
/-- RET (R128). -/
def execRet (sa : SReg) (s : State) : Out := issue (.ret sa) (fun s => takeBranch s (scalarTarget s sa) false) s
/-- BZ (R128). -/
def execBz (f1 : SReg) (disp : BitVec 32) (s : State) : Out :=
  issue (.bz f1 disp) (fun s => branchIf s ((me s).s f1 == 0) disp) s
/-- BNZ (R128). -/
def execBnz (f1 : SReg) (disp : BitVec 32) (s : State) : Out :=
  issue (.bnz f1 disp) (fun s => branchIf s ((me s).s f1 != 0) disp) s
/-- BCMP (R128, R123). -/
def execBcmp (cc : ICond) (f1 f2 : SReg) (disp : BitVec 32) (s : State) : Out :=
  issue (.bcmp cc f1 f2 disp) (fun s => branchIf s (intCond cc ((me s).s f1) ((me s).s f2)) disp) s

/-! ### Loops (R129) -/

/-- Enter a loop of `count` rounds whose body ends `last` bundles on, or skip it where the count is zero. -/
def enterLoop (s : State) (count last : Nat) : State :=
  let pc := (me s).pc
  let fin := pc + BitVec.ofNat 64 (64 * last)
  if count = 0 then { s with bundle := { s.bundle with skipLoop := some (fin + 64) } }
  else { s with bundle := { s.bundle with pushed := some { start := pc + 64, last := fin, remaining := count } } }

/-- LOOP (R129). -/
def execLoop (sa : SReg) (last : BitVec 21) (s : State) : Out :=
  issue (.loop sa last) (fun s => enterLoop s ((me s).s sa).toNat last.toNat) s
/-- LOOPI (R129). -/
def execLoopi (count : BitVec 16) (last : BitVec 21) (s : State) : Out :=
  issue (.loopi count last) (fun s => enterLoop s count.toNat last.toNat) s

/-! ### CSRs, traps, time -/

/-- CSRR: the value visible at its bundle, landing after one bundle (R84, R139). -/
def execCsrr (sd : SReg) (n : BitVec 12) (s : State) : Out :=
  issue (.csrr sd n) (fun s => landScalar s sd (csrRead s s.cur n.toNat) 1) s
/-- CSRW: lands after one bundle, as `csrWrite` says (R84, R139). -/
def execCsrw (n : BitVec 12) (sa : SReg) (s : State) : Out :=
  issue (.csrw n sa) (fun s => land s (.csr n.toNat ((me s).s sa)) 1 0) s

/-- A trap after the bundle (R93, R140). -/
def trapAfter (s : State) (cause : Nat) (n : BitVec 32) : State :=
  { s with bundle := { s.bundle with after := some (cause, n.setWidth 64) } }

/-- SVC (R140). -/
def execSvc (n : BitVec 32) (s : State) : Out := issue (.svc n) (fun s => trapAfter s 0x12 n) s
/-- BRK (R140). -/
def execBrk (n : BitVec 32) (s : State) : Out := issue (.brk n) (fun s => trapAfter s 0x11 n) s
/-- TRET: the return takes place as the bundle closes (R97, `returnTrap`). -/
def execTret (s : State) : Out := issue .tret (fun s => { s with bundle := { s.bundle with returns := true } }) s
/-- TSC: the global time stamp in ns (R142). -/
def execTsc (sd : SReg) (s : State) : Out := issue (.tsc sd) (fun s => landScalar s sd (BitVec.ofNat 64 s.now) 1) s

/-! ### Index queue reads (R143) -/

/-- IXPOP: sd is pending until an entry or a close mark fills it (R143). -/
def execIxpop (q : QNo) (sd : SReg) (s : State) : Out :=
  issue (.ixpop q sd) (fun s => claim (markDst s (.scalar sd.toNat)) s.cur q.toNat [.pop sd.toNat]) s

/-- IXPEEK: an offset above 1,023 gives all ones at once (R143). -/
def execIxpeek (q : QNo) (sd sa : SReg) (s : State) : Out :=
  issue (.ixpeek q sd sa)
    (fun s =>
      let off := ((me s).s sa).toNat
      let s' := markDst s (.scalar sd.toNat)
      if 1023 < off then fillFromQueue s' s.cur sd.toNat (BitVec.allOnes 64) none
      else claim s' s.cur q.toNat [.peek sd.toNat off]) s

end Sys2Proof.Machine
end

