-- ==== Sys2Proof/Machine/Errors.lean ====
section
/-!
DEFINITION. Errors that the environment brings about, the targeted self-tests that follow them, and what a lasting fault retires
(R210, R335, R353, R398, R399).
-/
namespace Sys2Proof.Machine

/-! ### Source numbers read back (R396, R401) -/

def srcKind (src : Nat) : Nat := src / 2 ^ 20 % 32
def srcDieOf (src : Nat) : Nat := src / 2 ^ 25 % 8
def srcIndex (src : Nat) : Nat := src % 2 ^ 20
/-- The core of a comb stripe's or register bank's source number. -/
def srcCoreOf (src : Nat) : Nat := 48 * srcDieOf src + srcIndex src / 64

/-- The source number of keeper `k`. -/
def srcKeeper (s : State) (k : Nat) : Nat := sourceNo s (k / 2) 8 (k % 2)

/-! ### A lasting fault is found (R398) -/

/-- A staging that is bound to a fenced core is abandoned: the node returns to the pool at its old place (R290, R293). -/
def unstage (s : State) (c : Nat) : State :=
  s.launches.foldl (fun s e => e.2.nodes.foldl (fun s n => match n.2.st with
    | .staging ps =>
      if ps.any fun h => coreOf h == c then
        poolNode (modNode s e.1 n.1 fun x => { x with st := .ready, staged := none }) e.1 n.1 n.2.place
      else s
    | _ => s) s) s

/-! Events of a retirement carry `who` as their source: the unit's own, or the firmware's where a command brings it about (R401). -/

/-- A core is fenced: the scheduler dispatches nothing more to it; nothing leaves its comb (R210). -/
def fenceCore (s : State) (who c : Nat) : State :=
  unstage (logEv (modCore s c fun k => { k with fenced := true }) who .coreFenced [BitVec.ofNat 64 (srcCore s c)]) c

/-- A unit counts as retired (R394). -/
def countRetired (s : State) (src : Nat) : State := { s with host := { s.host with retired := insNat (unitNo src) s.host.retired } }

/-- Has a unit a lasting fault? -/
def hasLasting (s : State) (src : Nat) : Bool := s.lasting.contains (unitNo src)

/-- A DRAM row is spared: the lines move, bad ones stay bad (R335). The spare row is sound. -/
def spareRow (s : State) (who row : Nat) : State :=
  logEv (countRetired { s with lastingRows := delNat row s.lastingRows } (srcMem s (1024 * row))) who .spared [BitVec.ofNat 64 (1024 * row)]

/-- The part of a keeper's area that failed is retired: its records are no longer vouched for (R353). -/
def retireArea (s : State) (who keeper : Nat) : State :=
  let keys := (s.areaTests ++ s.badRecords).filter fun k => keeperOf k == keeper
  let s := { s with deadRecords := keys.foldl (fun l k => insNat k l) s.deadRecords }
  logEv s who .areaRetired [BitVec.ofNat 64 (srcKeeper s keeper)]

/-- A lane of a link is retired; the link retrains on four lanes (R386). -/
def retireLane (s : State) (who link lane : Nat) : State :=
  if link < 16 ∧ lane < 8 then
    let d : List Word := [BitVec.ofNat 64 (8 * link + lane)]
    let s := setLink s link { linkOf s link with retired := insNat lane (linkOf s link).retired }
    logEv (logEv s who .laneRetired d) who .retrain d
  else s

/-- What retiring a unit, by source number, means for it (R398). -/
def retireUnit (s : State) (who src : Nat) : State :=
  let s := countRetired s src
  match srcKind src with
  | 2 | 3 => fenceCore s who (srcCoreOf src)
  | 6 => retireLane s who (srcIndex src / 8) (srcIndex src % 8)
  | 8 => retireArea s who (2 * srcDieOf src + srcIndex src)
  | _ => s

/-! ### The targeted tests -/

/-- Does no context of a core hold work? -/
def coreIdle (s : State) (c : Nat) : Bool := (List.range 6).all fun x => (hart s (6 * c + x)).life == .idle

/-- TARGETED_SELF_TEST: a stripe or bank whose test is due is tested once its core is idle (R210). -/
def execTargetedSelfTest (src : Nat) (s : State) : Out :=
  let c := srcCoreOf src
  if (core s c).testDue.contains src && coreIdle s c then
    let s := modCore s c fun k => { k with testDue := delNat src k.testDue }
    let s := logEv s src .selfTest [BitVec.ofNat 64 (hasLasting s src).toNat]
    .next (if hasLasting s src then retireUnit s src src else s)
  else .next s

/-- ROW_SELF_TEST: the row that holds physical address `pa`, where its test is due (R335). A spare takes its place between commit
steps. -/
def execRowSelfTest (pa : Nat) (s : State) : Out :=
  if s.rowTests.contains (pa / 1024) && s.launches.all fun e => e.2.commit.isNone then
    let src := srcMem s pa
    let s := { s with rowTests := delNat (pa / 1024) s.rowTests }
    let s := logEv s src .selfTest [BitVec.ofNat 64 pa]
    .next (if s.lastingRows.contains (pa / 1024) then spareRow s src (pa / 1024) else s)
  else .next s

/-- DIGEST_AREA_SELF_TEST: a keeper whose area has shown errors tests it (R353). -/
def execDigestAreaSelfTest (keeper : Nat) (s : State) : Out :=
  if s.areaTests.any fun k => keeperOf k == keeper then
    let src := srcKeeper s keeper
    let s := logEv s src .selfTest [BitVec.ofNat 64 keeper]
    let s := if hasLasting s src then retireUnit s src src else s
    .next { s with areaTests := s.areaTests.filter fun k => keeperOf k != keeper }
  else .next s

/-! ### Strikes -/

/-- 2^30 ns, the time in which a second corrected error calls for a test (R210, R335). -/
def correctedSpan : Nat := 2 ^ 30

/-- A corrected error: it is logged; a second one of the same stripe or bank within the span makes a test fall due (R210). -/
def correctedError (s : State) (src : Nat) : State :=
  let s' := logEv s src .corrected []
  if srcKind src = 2 || srcKind src = 3 then
    let c := srcCoreOf src
    let again := (core s c).corrected.any fun e => e.1 == src && s.now < e.2 + correctedSpan
    modCore s' c fun k =>
      { k with
        corrected := (k.corrected.filter fun e => e.1 != src) ++ [(src, s.now)]
        testDue := if again then insNat src k.testDue else k.testDue }
  else s'

/-- A corrected error in a line of DRAM: the same for its row (R335). -/
def correctedLine (s : State) (n : Nat) : State :=
  let row := n / 16
  let last := tget 0 s.rowCorrected row
  let s' := logEv s (srcMem s (64 * n)) .corrected []
  { s' with
    rowCorrected := tset 0 s.rowCorrected row (s.now + 1)
    rowTests := if last ≠ 0 ∧ s.now + 1 < last + correctedSpan then insNat row s'.rowTests else s'.rowTests }

/-- What a strike does to the machine. An error in a tile is found as the tile is read (R210). A source number of a reserved kind names no
unit (R401). -/
def strike (s : State) : Strike → State
  | .comb c g => modCore s c fun k => { k with badGranules := insNat g k.badGranules }
  | .tile h r =>
    if ((hart s h).tile r).st = .full then
      let src := srcBank s h r
      let s := logEv (modHart s h fun c => c.poisonTile r 0x14) src .uncorrectable []
      if isDrone h then s else modCore s (coreOf h) fun k => { k with testDue := insNat src k.testDue }
    else s
  | .line n => { s with badLines := insNat n s.badLines }
  | .microWord c a => modCore s c fun k => { k with mx := { k.mx with badWords := insNat a k.mx.badWords } }
  | .record key =>
    let s := { s with badRecords := insNat key s.badRecords, areaTests := insNat key s.areaTests }
    logEv s (srcKeeper s (keeperOf key)) .uncorrectable []
  | .corrected src => if srcKind src ≤ 0x0A then correctedError s (unitSrc s (unitNo src)) else s
  | .correctedLine n => correctedLine s n
  | .lasting src =>
    if srcKind src = 4 ∨ srcKind src = 5 ∨ 0x0A < srcKind src then s else { s with lasting := insNat (unitNo src) s.lasting }
  | .lastingRow row => { s with lastingRows := insNat row s.lastingRows }

end Sys2Proof.Machine
end

