-- ==== Sys2Proof/Machine/Fabric.lean ====
section
/-!
DEFINITION. Sarore links and messages between modules: flits, replay, lanes, arrival, acknowledgement and resending (R385, R386, R388).
-/
namespace Sys2Proof.Machine

/-- FLIT_RECEIVE: a flit with a correct check code and the next number is accepted; any other is discarded and answered with a replay
request naming that number (R386). -/
def execFlitReceive (link : Nat) (seqNo : BitVec 12) (good : Bool) (payload : BitVec 2048) (s : State) : Out :=
  let k := linkOf s link
  if good && seqNo.toNat == k.expect then
    .next (setLink s link { k with expect := (k.expect + 1) % 4096, inbox := k.inbox ++ [payload] })
  else .next (setLink s link { k with requests := k.requests ++ [k.expect] })

/-- REPLAY_REQUEST: the flits kept are sent again from the named one onward (R386). -/
def execReplayRequest (link : Nat) (seqNo : BitVec 12) (s : State) : Out :=
  let k := linkOf s link
  .next (setLink s link { k with replay := (k.history.map (·.1)).dropWhile (· != seqNo.toNat) })

/-- LANE_RETIRE: a lane with too many errors retrains under a test pattern; one that fails is retired (R386, R398). -/
def execLaneRetire (link lane : Nat) (s : State) : Out :=
  let src := sourceNo s 4 6 (8 * link + lane)
  if 16 ≤ link || 8 ≤ lane || (linkOf s link).retired.contains lane then .next s
  else
    let t := logEv s src .selfTest [BitVec.ofNat 64 (hasLasting s src).toNat]
    .next (if hasLasting s src then retireUnit t src src else t)

/-- Has a message of a pair been applied already? Numbers count modulo 2^32. -/
def appliedBefore (next n : Nat) : Bool := 2 ^ 31 ≤ (n + 2 ^ 32 - next) % 2 ^ 32

/-- MESSAGE_RECEIVE: a message applied before is discarded and acknowledged again; a new one waits for its place, or applies at once
where no launch runs (R388). Modules are numbered to 15 (R385). -/
def execMessageReceive (src seqNo lseq q key : Nat) (granules : List (Nat × BitVec 128)) (adds : List (Nat × Nat × Word))
    (notify : List (Nat × Nat × Nat)) (s : State) : Out :=
  let f := s.fabric
  if 16 ≤ src then .next s
  else if appliedBefore (tget 0 f.inSeq src) (seqNo % 2 ^ 32) then .next { s with fabric := { f with acks := f.acks ++ [(src, seqNo)] } }
  else if f.inbox.any fun m => m.peer == src && m.seqNo == seqNo % 2 ^ 32 then .next s
  else
    let m : Msg :=
      { peer := src, seqNo := seqNo % 2 ^ 32, lseq := lseq, q := q, key := BitVec.ofNat 64 key, granules := granules, adds := adds
        notify := notify, sent := s.now }
    .next (settleMsgs { s with fabric := { f with inbox := f.inbox ++ [m] } })

/-- MESSAGE_ACK: the source no longer keeps the message (R388). -/
def execMessageAck (dst seqNo : Nat) (s : State) : Out :=
  .next { s with fabric := { s.fabric with outbox := s.fabric.outbox.filter fun m => !(m.peer == dst && m.seqNo == seqNo) } }

/-- MESSAGE_RESEND: a message without an acknowledgement for 2^24 reference cycles is sent again; without a route its launch ends
with an error (R388). -/
def execMessageResend (k : Nat) (s : State) : Out :=
  match s.fabric.outbox.drop k with
  | [] => .next s
  | m :: _ =>
    if !refElapsed s m.sent (2 ^ 24) then .next s
    else
      match routeLink s m.peer with
      | none =>
        let s := { s with fabric := { s.fabric with outbox := dropNth s.fabric.outbox k } }
        .next (endLaunch (logEv s (srcDie s 0) .fabricLost [BitVec.ofNat 64 m.peer]) m.lseq (.error (wbits m.key 20 20)))
      | some link =>
        let s := setLink s link (sendFlits (linkOf s link) (Config.messageFlits m.peer m.seqNo))
        .next { s with fabric := { s.fabric with outbox := setNth { m with sent := s.now } s.fabric.outbox k } }

end Sys2Proof.Machine
end

