-- ==== Sys2Proof/Machine/FunctionUnit.lean ====
section
/-!
DEFINITION. The function registers' instructions of the VB slot and the completion of the function unit (chapter 07, R170 to R191).
A result is computed from the operands read at issue and is written when the operation completes (R173, R177).
-/
namespace Sys2Proof.Machine

/-- The function a register field names. -/
def fnOf (s : State) (f : FReg) : ChebFn := ((me s).freg f.toNat).fn

/-- CHTOL read at issue (R175). -/
def tolerance (s : State) : XR := tolOf ((me s).csr.chtol.setWidth 32)

/-- An operation enters the function unit. -/
def startFop (s : State) (o : FOp) : State := modMe s fun c => { c with fops := c.fops ++ [o] }

/-- An operation whose result is a function: fd is busy until it completes (R171, R177). -/
def startFn (s : State) (fd : FReg) (r : ChebFn × BitVec 6) : State :=
  markDst (startFop s { freg := some (fd.toNat, r.1), tile := none, scalar := none, flags := r.2 }) (.freg fd.toNat)

/-- An operation whose result is a tile: the bits `bits` of td, which is empty until it completes. -/
def startFnTile (s : State) (td : TReg) (v bits : Tile) (g : BitVec 6) : State :=
  markDst (startFop s { freg := none, tile := some (td.toNat, v, bits), scalar := none, flags := g }) (.tile td.toNat)

/-- Elements of row `r` of an fp32 tile from the left, the rest of the row zero. -/
def rowTile (r : Nat) (es : List Nat) : Tile := BitVec.ofNat 32768 (pack 32 (es.take 64) <<< (2048 * r))
/-- The bits of row `r`. -/
def rowBits (r : Nat) : Tile := onesAt 32768 (2048 * r) 2048

/-! ### CHEVAL (R178, R179) -/

/-- The result at one element position. -/
def chevalElem (md : RMode) (dr : Word) (clamp : Bool) (f : ChebFn) (x : XR) : Nat × BitVec 6 :=
  let at_ (x : XR) : Nat × BitVec 6 :=
    let (y, g) := evalFn (md.rnd == .rdn) f x
    let (c, g') := rnd md dr .fp32 y
    (c, g ||| g')
  let below := x.lt (f32 f.lo)
  if x.isNaN then (Fmt.fp32.nanCode, 0)
  else if below || (f32 f.hi).lt x then
    if clamp then at_ (if below then f32 f.lo else f32 f.hi) else (Fmt.fp32.nanCode, fNV)
  else at_ x

/-- CHEVAL (R179): exposed, latency 8 + ⌈n/8⌉, one draw for each position under SR. -/
def execCheval (clamp : Bool) (td : TReg) (m : MReg) (fa : FReg) (b : BSrc) (s : State) : Out :=
  issue (.cheval clamp td m fa b)
    (fun s =>
      let f := fnOf s fa
      let xs := (me s).bElems .fp32 (latchPos .vb 1) b
      let rs := (xs.zip (List.range 1024)).map fun p => chevalElem (rmode s) (drawNo s p.2) clamp f (Fmt.fp32.value p.1)
      takeDraws (landElems s td m .fp32 (8 + (f.coeffs.length + 7) / 8) rs) 1024) s

/-! ### Fitting, arithmetic, calculus (R180 to R186) -/

/-- The first N elements of row 0 of a tile source. -/
def samples (s : State) (ta : TSrc) (n : Nat) : List (BitVec 32) :=
  (((me s).srcElems .fp32 (latchPos .vb 0) ta).take n).map (BitVec.ofNat 32)

/-- CHFIT (R180). -/
def execChfit (fd : FReg) (ta : TSrc) (sc : SReg) (n : BitVec 8) (s : State) : Out :=
  issue (.chfit fd ta sc n)
    (fun s =>
      let d := domOf ((me s).s sc)
      startFn s fd (finish d.1 d.2 (tolerance s) (fit (samples s ta n.toNat)))) s

/-- CHADD (R182). -/
def execChadd (fd fa fb : FReg) (s : State) : Out :=
  issue (.chadd fd fa fb) (fun s => startFn s fd (addFn false (tolerance s) (fnOf s fa) (fnOf s fb))) s

/-- CHSUB (R182). -/
def execChsub (fd fa fb : FReg) (s : State) : Out :=
  issue (.chsub fd fa fb) (fun s => startFn s fd (addFn true (tolerance s) (fnOf s fa) (fnOf s fb))) s

/-- CHMUL (R183). -/
def execChmul (fd fa fb : FReg) (s : State) : Out :=
  issue (.chmul fd fa fb) (fun s => startFn s fd (mulFn (tolerance s) (fnOf s fa) (fnOf s fb))) s

/-- CHSCL (R184). -/
def execChscl (addv : Bool) (fd fa : FReg) (sb : SReg) (s : State) : Out :=
  issue (.chscl addv fd fa sb) (fun s => startFn s fd (sclFn addv (((me s).s sb).setWidth 32) (fnOf s fa))) s

/-- CHCMP: N = 0 means 64 (R181). -/
def execChcmp (fd fa fb : FReg) (n : BitVec 8) (s : State) : Out :=
  issue (.chcmp fd fa fb n)
    (fun s => startFn s fd (composeFn (tolerance s) (if n = 0 then 64 else n.toNat) (fnOf s fa) (fnOf s fb))) s

/-- CHINT (R186). -/
def execChint (fd fa : FReg) (s : State) : Out :=
  issue (.chint fd fa) (fun s => startFn s fd (intFn (tolerance s) (fnOf s fa))) s

/-- CHDIF (R185). -/
def execChdif (fd fa : FReg) (s : State) : Out :=
  issue (.chdif fd fa) (fun s => startFn s fd (difFn (fnOf s fa))) s

/-! ### Roots (R187) -/

/-- The first 16 roots in row `row` of td, the count in sb. -/
def startRoots (s : State) (td : TReg) (sb : SReg) (f : ChebFn) (row : Nat) : State :=
  let r := if f.coeffs.isEmpty then ([], 0) else rootsOf f
  let n : Word := if f.coeffs.isEmpty then BitVec.allOnes 64 else BitVec.ofNat 64 r.1.length
  let v := rowTile row ((r.1.take 16).map BitVec.toNat)
  let s := startFop s
    { freg := none, tile := some (td.toNat, v, rowBits row), scalar := some (sb.toNat, n), flags := r.2 }
  markDst (markDst s (.tile td.toNat)) (.scalar sb.toNat)

/-- CHROOT (R187). -/
def execChroot (td : TReg) (sb : SReg) (fa : FReg) (row : BitVec 4) (s : State) : Out :=
  issue (.chroot td sb fa row) (fun s => startRoots s td sb (fnOf s fa) row.toNat) s

/-! ### Housekeeping (R188 to R191) -/

/-- CHTRN's result: with a tolerance R175 first, then the cut; no flag. -/
def trnFn (tol : Option XR) (n : Nat) (f : ChebFn) : ChebFn :=
  let cs := match tol with
    | some t => truncTol t f.coeffs
    | none => f.coeffs
  { f with coeffs := cs.take n }

/-- CHTRN (R188). -/
def execChtrn (fd fa : FReg) (tol : Option SReg) (n : BitVec 8) (s : State) : Out :=
  issue (.chtrn fd fa tol n)
    (fun s => startFn s fd (trnFn (tol.map fun r => tolOf (((me s).s r).setWidth 32)) n.toNat (fnOf s fa), 0)) s

/-- The forms of CHDOM (R189). -/
def domEff (s : State) : ChDom → State
  | .set fd fa sb =>
    let d := domOf ((me s).s sb)
    startFn s fd ({ fnOf s fa with lo := d.1, hi := d.2 }, 0)
  | .get sd fa =>
    let f := fnOf s fa
    markDst (startFop s { freg := none, tile := none, scalar := some (sd.toNat, f.hi ++ f.lo), flags := 0 }) (.scalar sd.toNat)
  | .pts td fa n =>
    let ps := chebPts (fnOf s fa) n.toNat
    startFnTile s td (rowTile 0 (ps.map fun p => p.1.toNat)) (BitVec.allOnes 32768) (orAll (ps.map (·.2)))

/-- CHDOM (R189). -/
def execChdom (k : ChDom) (s : State) : Out := issue (.chdom k) (fun s => domEff s k) s

/-- The forms of CHMOV (R190). -/
def movEff (s : State) : ChMov → State
  | .move fd fa => startFn s fd (fnOf s fa, 0)
  | .toTile td fa => startFnTile s td (tileOfFn (fnOf s fa)) (BitVec.allOnes 32768) 0
  | .ofTile fd ta => startFn s fd ((fnOfTile ((me s).src (latchPos .vb 0) ta)).1, 0)

/-- CHMOV (R190). -/
def execChmov (k : ChMov) (s : State) : Out := issue (.chmov k) (fun s => movEff s k) s

/-- CHFREE (R191). -/
def execChfree (fd : FReg) (s : State) : Out := issue (.chfree fd) (fun s => startFn s fd (FuncReg.zero.fn, 0)) s

/-! ### Completion (R173, R174, R177) -/

/-- What an operation of the function unit writes as it completes, with its flags (R87). -/
def finishFop (o : FOp) (c : Ctx) : Ctx :=
  let c := match o.freg with
    | some (r, f) => c.fillFreg r f
    | none => c
  let c := match o.tile with
    | some (r, v, bits) => c.fillTile r (mergeBits (c.tile r).val v bits)
    | none => c
  let c := match o.scalar with
    | some (r, v) => c.fillScalar r v
    | none => c
  c.orFlags o.flags

/-- FUNCTION_OP_COMPLETE: the oldest operation of context `h` completes (R173). -/
def execFunctionOpComplete (h : Nat) (s : State) : Out :=
  match (hart s h).fops with
  | [] => .next s
  | o :: rest => .next (modHart s h fun c => finishFop o { c with fops := rest })

end Sys2Proof.Machine
end

