-- ==== Sys2Proof/Machine/Matrix.lean ====
section
/-!
DEFINITION. The matrix unit: the MX slot, its queues, its microprogram store and library, the micro-operations and the operand
multicast (chapter 09, R211 to R232; R279, R280).
-/
namespace Sys2Proof.Machine

/-! ### The library and the store (R222, R232) -/

/-- The format pairs of GEMM 0 to 9 (R232). -/
def gemmFormats : List (BitVec 4 × BitVec 4) :=
  [(1, 1), (2, 2), (3, 3), (4, 4), (3, 4), (10, 10), (11, 11), (12, 12), (14, 14), (13, 13)]

/-- The micro-operations of library routine `n`, which stands at store address 16 n (notes/assumptions/9.md). -/
def libRoutine (n : Nat) : List Instr :=
  let (fa, fb) := nth (0, 0) gemmFormats (if n < 20 then n % 10 else n - 20)
  let wide := fa = 14
  let line : BitVec 20 := if wide then 32 else 16
  let step : BitVec 20 := if wide then 2048 else 1024
  if n < 20 then
    let scales : List Instr :=
      if 12 ≤ fa then [.agset 2 2 false false 0 0 0 1 64 0 0, .agset 3 3 false false 0 0 0 1 64 0 0] else []
    let yields : List Instr := if 10 ≤ n then [.myield] else []
    let head : List Instr := [.agset 0 0 false false 0 0 0 line step 0 0, .agset 1 1 false false 0 0 0 line step 0 0] ++ scales
    let close := 16 * n + head.length + 2 + yields.length
    head ++ [.mloop 0 1 4 (BitVec.ofNat 12 close) 0, .mma fa fb 0] ++ yields ++ [.mend 0, .mout, .mstop]
  else if n < 27 then
    [.agset 0 0 true true 1 7 0 16 1024 0 0, .agset 1 1 false false 0 0 0 16 1024 0 0, .agset 4 6 false false 0 0 0 256 0 16384 0,
      .mcount 1 5 true 64 0, .mloop 1 2 0 (BitVec.ofNat 12 (16 * n + 11)) 0, .mzero,
      .mloop 0 1 4 (BitVec.ofNat 12 (16 * n + 9)) 0, .mma fa fb 0, .myield, .mend 0, .mout, .mend 1, .mstop]
  else []

/-- The word at a store address: a library word once the firmware has loaded the library (R222, R393). -/
def storeAddr (m : MatrixUnit) (a : Nat) : MicroWord :=
  match (m.store.find? fun e => e.1 == a), (libRoutine (a / 16)).drop (a % 16) with
  | some e, _ => e.2
  | none, i :: _ => if m.library && a / 16 < 27 then encodeMicro i else Config.storeWord a
  | none, [] => Config.storeWord a

/-- The start address of a routine, if its table entry is valid (R222). -/
def routineEntry (m : MatrixUnit) (rtn : Nat) : Option Nat :=
  if rtn < 27 then some (16 * rtn) else tget none m.routines rtn

/-! ### The MX slot (R213, R218 to R221) -/

def modMx (s : State) (c : Nat) (f : MatrixUnit → MatrixUnit) : State := modCore s c fun k => { k with mx := f k.mx }

/-- The accumulators from four tiles (R212). -/
def accOf (c : Ctx) (tn : Nat) : BitVec 131072 :=
  (c.tile (tn + 3)).val ++ (c.tile (tn + 2)).val ++ (c.tile (tn + 1)).val ++ (c.tile tn).val

/-- The tiles a call fills. -/
def callTiles (k : MCall) : List Nat := if k.out then [k.tbase, k.tbase + 1, k.tbase + 2, k.tbase + 3] else [k.tbase]

/-- Append a call to its queue, with the values visible at this bundle (R213). -/
def queueCall (s : State) (lo acc out : Bool) (tn : TReg) (rtn : BitVec 8) : State :=
  let c := me s
  let k : MCall :=
    { h := s.cur, tbase := tn.toNat, rtn := rtn.toNat, out := out, params := (List.range 8).map c.param, xv := c.csr.xv,
      acc := if acc then accOf c tn.toNat else 0 }
  let s := modMx s (coreOf s.cur) fun m => if lo then { m with lo := m.lo ++ [.call k] } else { m with hi := m.hi ++ [.call k] }
  (callTiles k).foldl (fun s t => markDst s (.tile t)) s

/-- MCALL (R213). -/
def execMcall (lo acc out : Bool) (tn : TReg) (rtn : BitVec 8) (s : State) : Out :=
  issue (.mcall lo acc out tn rtn) (fun s => queueCall s lo acc out tn rtn) s

/-- MSETP (R219). -/
def execMsetp (p : PReg) (sa : SReg) (s : State) : Out :=
  issue (.msetp p sa) (fun s => land s (.param p.toNat ((me s).s sa)) 1 0) s

/-- MSETPI (R219). -/
def execMsetpi (p : PReg) (imm : BitVec 38) (s : State) : Out :=
  issue (.msetpi p imm) (fun s => land s (.param p.toNat (imm.signExtend 64)) 1 0) s

/-- A run of a queue: the running one, or the suspended low one. -/
def runsOf (m : MatrixUnit) (lo : Bool) : List MRun :=
  (m.running.toList ++ m.suspended.toList).filter fun r => r.lo == lo

/-- The status word of MSTAT (R218). -/
def mstatWord (m : MatrixUnit) (h : Nat) (c : Ctx) (lo : Bool) : Word :=
  let waiting := (if lo then m.lo else m.hi).filterMap fun i => match i with
    | .call k => some k.h
    | .load .. => none
  let all := waiting ++ (runsOf m lo).map fun r => r.call.h
  let cur := match runsOf m lo with
    | r :: _ => r.call.rtn
    | [] => 0xFF
  BitVec.ofNat 64
    (c.mfsub.toNat * 2 ^ 56 + c.mfrtn.toNat * 2 ^ 48 + (all.filter (· == h)).length % 256 * 2 ^ 32 + all.length % 256 * 2 ^ 24 +
      cur % 256 * 2 ^ 16 + (lo && m.suspended.isSome).toNat * 2 + (m.running.any fun r => r.lo == lo).toNat)

/-- MSTAT, exposed (R218). -/
def execMstat (sd : SReg) (lo : Bool) (s : State) : Out :=
  issue (.mstat sd lo) (fun s => landScalar s sd (mstatWord (myCore s).mx s.cur (me s) lo) 1) s

/-- A load of core `c` stands at the tail of both queues (R221). -/
def enqueueLoad (s : State) (c rtn st : Nat) (ws : List MicroWord) : State :=
  let (id, s) := stamp s
  modMx s c fun m => { m with hi := m.hi ++ [.load id rtn st ws], lo := m.lo ++ [.load id rtn st ws] }

/-- MPLOAD's image, its header first, goes to the queues. -/
def queueLoad (s : State) (rtn : Nat) (v : Tile) : State :=
  match mploadHeader rtn (BitVec.ofNat 128 (bitsOf v 0 128)) with
  | none => s
  | some (st, n) =>
    enqueueLoad s (coreOf s.cur) rtn st ((List.range n).map fun m => BitVec.ofNat 128 (bitsOf v (128 * (m + 1)) 128))

/-- MPLOAD (R221). -/
def execMpload (rtn : BitVec 8) (ta : TReg) (s : State) : Out :=
  issue (.mpload rtn ta) (fun s => queueLoad s rtn.toNat ((me s).tile ta.toNat).val) s

/-! ### Faults of a call (R215, R230) -/

/-- A call faults: destinations that are not yet full are poisoned, the subcode is recorded. -/
def faultCall (s : State) (k : MCall) (filled : Bool) (sub : Nat) : State :=
  let o : Byte := if sub = 0x0A then 0x14 else 0x13
  modHart s k.h fun c =>
    let c := { c with mfsub := BitVec.ofNat 8 sub, mfrtn := BitVec.ofNat 8 k.rtn }
    if filled then c else (callTiles k).foldl (fun c t => c.poisonTile t o) c

/-- The running call of a core faults. -/
def faultRun (s : State) (r : MRun) (sub : Nat) : State :=
  modMx (faultCall s r.call r.filled sub) (coreOf r.call.h) fun m => { m with running := none }

/-- Is a call inside a micro-word: an MMA that has begun and waits for lines? -/
def MRun.midWord (r : MRun) : Bool := !(r.sent.isEmpty && r.lines.isEmpty && r.stalled.isEmpty)

/-- The pending calls of a context in a queue go, then its running or suspended one, which ends here where it stands at a micro-word
boundary and otherwise at its next one (R220). -/
def cancelCalls (s : State) (lo : Bool) : State :=
  let h := s.cur
  let m := (myCore s).mx
  let mine : MItem → Option MCall := fun i => match i with
    | .call k => if k.h = h then some k else none
    | .load .. => none
  let q := if lo then m.lo else m.hi
  let keep := q.filter fun i => (mine i).isNone
  let ended := (runsOf m lo).filter fun r => r.call.h == h && !r.midWord
  let s := modMx s (coreOf h) fun m =>
    let m := if lo then { m with lo := keep } else { m with hi := keep }
    let gone (r : Option MRun) : Option MRun := r.bind fun x =>
      if x.call.h == h && x.lo == lo then (if x.midWord then some { x with cancelled := true } else none) else r
    { m with running := gone m.running, suspended := gone m.suspended }
  let s := (q.filterMap mine).foldl (fun s k => faultCall s k false 0x08) s
  ended.foldl (fun s r => faultCall s r.call r.filled 0x08) s

/-- MCANCEL (R220). -/
def execMcancel (lo : Bool) (s : State) : Out := issue (.mcancel lo) (fun s => cancelCalls s lo) s

/-! ### Starting, resuming, loading (R214, R221) -/

/-- A call that starts; CNT is 0 for every level (DESIGN CHOICE: R227 gives no first value; notes/assumptions/77.md). -/
def startRun (k : MCall) (lo : Bool) (upc : Nat) : MRun :=
  { call := k, lo := lo, upc := upc, acc := k.acc, cnt := [0, 0, 0], idx := [0, 0, 0], active := [], reread := [], gens := [],
    outs := 0, steps := 0, filled := false, sent := [], lines := [], stalled := [], cancelled := false }

/-- The call starts, or faults where its table entry is not valid (R230). -/
def beginCall (s : State) (c : Nat) (k : MCall) (lo : Bool) : State :=
  match routineEntry (core s c).mx k.rtn with
  | none => faultCall s k false 0x09
  | some a => modMx s c fun m => { m with running := some (startRun k lo a) }

/-- Is the head of a queue a call? -/
def headCall (q : List MItem) : Option MCall := match q with
  | .call k :: _ => some k
  | _ => none

/-- MATRIX_CALL_START: the free unit takes the oldest high call, else, with none suspended, the oldest low call (R214). -/
def execMatrixCallStart (c : Nat) (s : State) : Out :=
  let m := (core s c).mx
  if m.running.isSome || (core s c).faulted then .next s
  else
    match headCall m.hi, m.suspended, headCall m.lo with
    | some k, _, _ => .next (beginCall (modMx s c fun m => { m with hi := m.hi.drop 1 }) c k false)
    | none, none, some k => .next (beginCall (modMx s c fun m => { m with lo := m.lo.drop 1 }) c k true)
    | _, _, _ => .next s

/-- MATRIX_CALL_RESUME (R214). -/
def execMatrixCallResume (c : Nat) (s : State) : Out :=
  let m := (core s c).mx
  if m.running.isNone && (headCall m.hi).isNone && !(core s c).faulted then
    .next (modMx s c fun m => { m with running := m.suspended, suspended := none })
  else .next s

/-- Micro-words go to the store and the routine's entry becomes valid; whole words clear errors. -/
def installRoutine (m : MatrixUnit) (rtn st : Nat) (ws : List MicroWord) : MatrixUnit :=
  let put := (ws.zip (List.range ws.length)).foldl (fun t w => tput (st + w.2) w.1 t) m.store
  { m with
    store := put
    badWords := m.badWords.filter fun a => a < st || st + ws.length ≤ a
    routines := tset none m.routines rtn (some st) }

/-- MPLOAD_APPLY: a load at the head of both queues, with no call running or suspended (R221). -/
def execMploadApply (c : Nat) (s : State) : Out :=
  let m := (core s c).mx
  match m.running, m.suspended, m.hi, m.lo with
  | none, none, .load id rtn st ws :: hi, .load id' .. :: lo =>
    if id = id' then .next (modMx s c fun m => installRoutine { m with hi := hi, lo := lo } rtn st ws) else .next s
  | _, _, _, _ => .next s

/-! ### A micro-word (R223) -/

/-- The run of the unit whose micro-word executes: `cur` names its core. -/
def microRun (s : State) : Option MRun := (core s s.cur).mx.running
def setRun (s : State) (r : MRun) : State := modMx s s.cur fun m => { m with running := some r }
/-- The micro-word is done: the next one follows, or a cancelled call ends at this boundary (R220). A fault of the micro-word itself gives
its own subcode (DEDUCED, notes/assumptions/77.md). -/
def nextMicro (s : State) (r : MRun) : State :=
  if r.cancelled then faultRun s r 0x08 else setRun s { r with upc := r.upc + 1, stalled := [] }

/-- A micro-operation on the running call; without one nothing happens. -/
def micro (f : State → MRun → State) (s : State) : Out := match microRun s with
  | none => .next s
  | some r => .next (f s r)

def genOf (r : MRun) (g : Nat) : Gen := tget Gen.unset r.gens g
def MRun.setGen (r : MRun) (g : Nat) (x : Gen) : MRun := { r with gens := tset Gen.unset r.gens g x }
def MRun.param (r : MRun) (p : BitVec 3) : Word := nth 0 r.call.params p.toNat

/-- AGSET (R224). -/
def agsetStep (g pb : BitVec 3) (w pe : Bool) (pl : BitVec 2) (px : BitVec 3) (off : BitVec 24) (pitch s0 s1 s2 : BitVec 20)
    (s : State) (r : MRun) : State :=
  if 4 < g.toNat then faultRun s r 0x01
  else if pe && pl == 3 then faultRun s r 0x04
  else
    let st := [s0.toInt, s1.toInt, s2.toInt]
    let st := if pe then setNth ((r.param px).setWidth 20).toInt st pl.toNat else st
    let x := genOf r g.toNat
    nextMicro s (r.setGen g.toNat
      { x with set := true, base := r.param pb + off.signExtend 64, pitch := pitch.toNat, strides := st, wt := w })

/-- AGSET (R224). -/
def execAgset (g pb : BitVec 3) (w pe : Bool) (pl : BitVec 2) (px : BitVec 3) (off : BitVec 24) (pitch s0 s1 s2 : BitVec 20)
    (s : State) : Out :=
  micro (agsetStep g pb w pe pl px off pitch s0 s1 s2) s

/-- AGMC (R226): another member is reached only in a cluster launch (R273); the own member is no receiver. -/
def agmcStep (g : BitVec 3) (mode : BitVec 2) (members : BitVec 8) (src : BitVec 3) (s : State) (r : MRun) : State :=
  let me := memberOf (coreOf r.call.h)
  if 3 < g.toNat ∨ mode = 3 ∨ (mode = 1 ∧ members.getLsbD me) then faultRun s r 0x01
  else if (mode = 1 ∧ members ≠ 0 ∨ mode = 2 ∧ src.toNat ≠ me) ∧ !inCluster s r.call.h then faultRun s r 0x02
  else
    nextMicro s (r.setGen g.toNat
      { genOf r g.toNat with mode := mode.toNat, members := members.toNat, source := src.toNat })

/-- AGMC (R226). -/
def execAgmc (g : BitVec 3) (mode : BitVec 2) (members : BitVec 8) (src : BitVec 3) (s : State) : Out :=
  micro (agmcStep g mode members src) s

/-- MZERO (R229). -/
def execMzero (s : State) : Out := micro (fun s r => nextMicro s { r with acc := 0 }) s

/-! ### Loops and counts (R227) -/

/-- Keys of `reread`: `l` for the next MLOOP of level l, `4 + l` for the loop that runs. -/
def nextReread (l : Nat) : Nat := l
def loopReread (l : Nat) : Nat := 4 + l

/-- A count word as MCOUNT and MEND read it: its core, offset and value (R198, R202): none where the address fails. -/
def countWord (s : State) (h : Nat) (a : Word) : Option (Nat × Nat × Nat) :=
  if windowBad s h a 4 4 then none
  else
    let c := memberCore h a.toNat
    let off := a.toNat % 2 ^ 22
    some (c, off, mnum (core s c).comb off 4)

/-- Use a count word: the call waits behind its strand's own stores, faults on a bad address or an error, or goes on. An
error in the word's granule gives 0x0A, as one in an operand line does (DEDUCED, notes/assumptions/77.md). -/
def withCount (s : State) (r : MRun) (a : Word) (f : Nat → State) : State :=
  match countWord s r.call.h a with
  | none => faultRun s r 0x02
  | some (c, off, v) =>
    if onItsWay s r.call.h c (granule off) then s
    else if (core s c).badGranules.contains (granule off) then faultRun (combError s c (granule off)) r 0x0A
    else f v

/-- MLOOP (R227). -/
def mloopStep (l src : BitVec 2) (p : BitVec 3) (last : BitVec 12) (count : BitVec 16) (s : State) (r : MRun) : State :=
  let k := l.toNat
  if l = 3 ∨ r.active.any (fun e => e.1 == k) ∨ src = 3 then faultRun s r 0x04
  else
    let n := if src = 0 then count.toNat else if src = 1 then wbits (r.param p) 0 32 else nth 0 r.cnt k
    let pend := r.reread.filter fun e => e.1 == nextReread k
    let r := { r with cnt := setNth n r.cnt k, idx := setNth 0 r.idx k, reread := tdel (nextReread k) r.reread }
    if n = 0 then setRun s { r with upc := last.toNat + 1 }
    else
      let rr := match pend with
        | e :: _ => tput (loopReread k) e.2 r.reread
        | [] => r.reread
      nextMicro s { r with active := (k, r.upc) :: r.active, reread := rr }

/-- MLOOP (R227). -/
def execMloop (l src : BitVec 2) (p : BitVec 3) (last : BitVec 12) (count : BitVec 16) (s : State) : Out :=
  micro (mloopStep l src p last count) s

/-- The test of MEND for a level whose MLOOP stands at `a`. -/
def mendTest (k a : Nat) (s : State) (r : MRun) : State :=
  if nth 0 r.idx k + 1 < nth 0 r.cnt k then setRun s { r with idx := setNth (nth 0 r.idx k + 1) r.idx k, upc := a + 1 }
  else nextMicro s { r with idx := setNth 0 r.idx k, active := r.active.drop 1, reread := tdel (loopReread k) r.reread }

/-- MEND (R227). -/
def mendStep (l : BitVec 2) (s : State) (r : MRun) : State :=
  match r.active with
  | [] => faultRun s r 0x04
  | (k, a) :: _ =>
    if k ≠ l.toNat then faultRun s r 0x04
    else
      match r.reread.find? fun e => e.1 == loopReread k with
      | none => mendTest k a s r
      | some (_, x) => withCount s r x.addr fun v => mendTest k a s { r with cnt := setNth (min v x.cap) r.cnt k }

/-- MEND (R227). -/
def execMend (l : BitVec 2) (s : State) : Out := micro (mendStep l) s

/-- MCOUNT (R227). With RD = 0 an earlier re-read address of the level stays (DEDUCED, notes/assumptions/77.md). -/
def mcountStep (l : BitVec 2) (p : BitVec 3) (rd : Bool) (cap : BitVec 16) (off : BitVec 24) (s : State) (r : MRun) : State :=
  if l = 3 ∨ cap = 0 then faultRun s r 0x04
  else
    let a := r.param p + off.signExtend 64
    withCount s r a fun v =>
      nextMicro s
        { r with
          cnt := setNth (min v cap.toNat) r.cnt l.toNat
          reread := if rd then tput (nextReread l.toNat) { addr := a, cap := cap.toNat } r.reread else r.reread }

/-- MCOUNT (R227). -/
def execMcount (l : BitVec 2) (p : BitVec 3) (rd : Bool) (cap : BitVec 16) (off : BitVec 24) (s : State) : Out :=
  micro (mcountStep l p rd cap off) s

/-! ### Lines (R211, R225, R226, R279) -/

/-- addr(g, n) of R225. -/
def lineAddr (r : MRun) (x : Gen) (n : Nat) : Word :=
  let st := (r.idx.zip x.strides).foldl (fun (a : Int) p => a + (p.1 : Int) * p.2) 0
  x.base + wordOfInt st + BitVec.ofNat 64 (n * x.pitch)

/-- What a step finds at one of its generators: its 64 lines, a fault, or a reason to wait. -/
inductive Lines
  | ready (ls : List (List Byte))
  | fault (sub : Nat)
  /-- An uncorrectable error in a granule of a core. -/
  | bad (c g : Nat)
  | wait
  /-- A receiver without lines (R279). -/
  | starved
deriving DecidableEq, Repr

/-- The granules of 64 lines of `n` bytes: (core, granule). -/
def lineGranules (h : Nat) (as : List Word) (n : Nat) : List (Nat × Nat) :=
  as.flatMap fun a =>
    let off := a.toNat % 2 ^ 22
    (List.range ((off + n - 1) / 16 + 1 - off / 16)).map fun i => (memberCore h a.toNat, off / 16 + i)

/-- The pieces of the lines that stand in another member's comb; byte `i` of line `n` has the place 64 n + i. -/
def linePieces (h : Nat) (as : List Word) (n : Nat) : List Piece :=
  ((as.zip (List.range as.length)).filter fun a => memberCore h a.1.toNat != coreOf h).flatMap fun a =>
    piecesFor (memberCore h a.1.toNat) (a.1.toNat % 2 ^ 22) n (64 * a.2)

/-- The load of generator `g`'s lines for the step at hand, if it has been issued. -/
def lineLoad (s : State) (r : MRun) (g : Nat) : Option WLoad :=
  match r.lines.find? fun e => e.1 == g with
  | some e => loadOf (hart s (unitHart (coreOf r.call.h))) e.2
  | none => none

/-- The bytes of line `i` as a load read them. -/
def loadedLine (l : WLoad) (i : Nat) : List Byte :=
  l.pieces.flatMap fun p => if p.pos / 64 = i then (match p.st with
    | .read v _ => natBytes v.toNat p.len
    | _ => []) else []

/-- The lines a local or sending generator reads: `n` bytes each, aligned to `al`. Those of the own comb are read as the step executes
(R216); those of other members come by the load that issued at this step (R274). -/
def readLines (s : State) (r : MRun) (g n al : Nat) : Lines :=
  let h := r.call.h
  let x := genOf r g
  if !x.set then .fault 0x06
  else
    let as := (List.range 64).map (lineAddr r x)
    if as.any fun a => windowBad s h a n al then .fault 0x02
    else
      let own (a : Word) : Bool := memberCore h a.toNat == coreOf h
      let gs := lineGranules h (as.filter own) n
      let l := lineLoad s r g
      let come := (linePieces h as n).isEmpty || l.any loadDone
      if !come || gs.any fun g => onItsWay s h g.1 g.2 || (x.wt && (core s g.1).isEmpty g.2) then .wait
      else
        match gs.find? fun g => (core s g.1).badGranules.contains g.2 with
        | some g => .bad g.1 g.2
        | none =>
          if (l.bind loadPoison).isSome then .fault 0x0A
          else
            .ready ((as.zip (List.range 64)).map fun a =>
              if own a.1 then mread (core s (coreOf h)).comb (a.1.toNat % 2 ^ 22) n else (l.map fun l => loadedLine l a.2).getD [])

/-- The launch in whose name a call runs. -/
def callLaunch (s : State) (h : Nat) : Nat := match (hart s h).run with
  | some r => r.msg.launch
  | none => (hart s h).who.launch

/-- The stream of a source member and generator at a core, for calls of a launch (R279). -/
def streamOf (m : MatrixUnit) (l src g : Nat) : List (List Byte) :=
  match m.streams.find? fun x => x.launch == l && x.source == src && x.gen == g with
  | some x => x.lines
  | none => []
def setStream (m : MatrixUnit) (l src g : Nat) (ls : List (List Byte)) : MatrixUnit :=
  let rest := m.streams.filter fun x => !(x.launch == l && x.source == src && x.gen == g)
  { m with streams := if ls.isEmpty then rest else rest ++ [{ launch := l, source := src, gen := g, lines := ls }] }

/-- The lines that a stream holds for a step: 64 of `n` bytes. -/
def streamLines (s : State) (l src g n : Nat) : Lines :=
  let ls := (streamOf (core s s.cur).mx l src g).take 64
  if ls.length < 64 then .starved else if ls.any fun l => l.length ≠ n then .fault 0x0B else .ready ls

/-- The stream a generator takes its lines from: a receiver's source; a sender's own, once it has delivered its lines. -/
def streamSource (r : MRun) (g : Nat) : Option Nat :=
  let x := genOf r g
  if x.mode = 2 then some x.source
  else if x.mode = 1 ∧ r.sent.contains g then some (memberOf (coreOf r.call.h))
  else none

/-- The lines of generator `g` for the next step. -/
def genLines (s : State) (r : MRun) (g n al : Nat) : Lines := match streamSource r g with
  | some src => streamLines s (callLaunch s r.call.h) src g n
  | none => readLines s r g n al

/-- The generator's lines in other members' combs are asked for, once, at the step that needs them; not before the strand's own stores
there have performed (R274). -/
def askLines (s : State) (r : MRun) (g n al : Nat) : State × MRun :=
  let h := r.call.h
  let x := genOf r g
  let as := (List.range 64).map (lineAddr r x)
  let ps := linePieces h as n
  if (streamSource r g).isSome || !x.set || (as.any fun a => windowBad s h a n al) || ps.isEmpty || (lineLoad s r g).isSome ||
      ps.any fun p => onItsWay s h p.core (granule p.off) then (s, r)
  else
    let u := unitHart (coreOf h)
    let (id, s) := stamp s
    let l : WLoad :=
      { id := id, dst := .lines g, clr := false, wt := x.wt, pieces := ps, fillBits := 0, gather := none, header := false, poison := none }
    let mine (k : Nat) : Bool := r.lines.any fun e => e.2 == k
    let s := modHart s u fun c =>
      { Ctx.reset with
        life := .exited, leaving := true, who := (hart s h).who, loads := (c.loads.filter fun y => mine y.id) ++ [l]
        remotes := c.remotes.filter fun y => match y with
          | .load k _ _ _ => mine k
          | _ => false }
    (sendPieces s u id 0, { r with lines := tput g id r.lines })

/-- The loads of a step that has executed are over. -/
def dropLines (s : State) (r : MRun) : State :=
  if r.lines.isEmpty then s else setHart s (unitHart (coreOf r.call.h)) Ctx.reset

/-- The cores whose stream buffers a sending generator serves, its own first (R279). -/
def receivers (r : MRun) (x : Gen) : List Nat :=
  coreOf r.call.h :: ((List.range 8).filter fun k => x.members.testBit k).map (clusterBase (coreOf r.call.h) + ·)

/-- Has every buffer that the generator serves room for a step's 64 lines (R279: 128 lines for a source member and generator, over
all launches: DEDUCED, notes/assumptions/60.md)? -/
def hasRoom (s : State) (r : MRun) (g : Nat) : Bool :=
  (receivers r (genOf r g)).all fun c =>
    ((core s c).mx.streams.filter fun x => x.source == memberOf (coreOf r.call.h) && x.gen == g).foldl (fun n x => n + x.lines.length) 0 +
      64 ≤ 128

/-- A sending generator's lines, read once, reach every buffer it serves (R279, R280). -/
def sendLines (s : State) (r : MRun) (g : Nat) (ls : List (List Byte)) : State × MRun :=
  let me := memberOf (coreOf r.call.h)
  let k := callLaunch s r.call.h
  let s := (receivers r (genOf r g)).foldl (fun s c => modMx s c fun m => setStream m k me g (streamOf m k me g ++ ls)) s
  (s, { r with sent := insNat g r.sent })

/-- The senders of a step that have read their lines deliver them where there is room. -/
def sendAll (s : State) (r : MRun) (ls : List (Nat × Lines)) : State × MRun :=
  ls.foldl (fun x p => match p.2 with
    | .ready l =>
      if (genOf r p.1).mode = 1 ∧ !r.sent.contains p.1 ∧ hasRoom x.1 x.2 p.1 then sendLines x.1 x.2 p.1 l else x
    | _ => x) (s, r)

/-- The step takes its lines from the streams. -/
def takeLines (s : State) (r : MRun) (g : Nat) : State := match streamSource r g with
  | some src =>
    let k := callLaunch s r.call.h
    modMx s s.cur fun m => setStream m k src g ((streamOf m k src g).drop 64)
  | none => s

/-! ### MMA (R117, R211, R228) -/

/-- Does a pair of formats stand in one family (R228)? -/
def pairOk (fa fb : Nat) : Bool :=
  [[1, 2], [3, 4], [10, 11], [12, 13], [14]].any fun f => f.contains fa && f.contains fb
def blockFmt (f : Nat) : Bool := 12 ≤ f
/-- Bytes of a line (R211). -/
def lineBytes (f : Nat) : Nat := if f = 14 then 32 else 16
/-- k of R211. -/
def stepK (f : Nat) : Nat := if f ≤ 2 then 8 else if f ≤ 11 then 16 else 32

/-- The type of an etype code 0 to 14. -/
def etypeOf (k : Nat) : EType := (EType.ofCode (BitVec.ofNat 4 k)).getD .uint8

/-- The element codes of a line. -/
def lineCodes (f : Nat) (l : List Byte) : List Nat := unpack (etypeOf f).bits (stepK f) (leNat l)

/-- The exact values of a line under its scale byte (R104, R106). -/
def lineVals (f : Nat) (xv : XR) (l scale : List Byte) : List XR :=
  let t := etypeOf f
  (lineCodes f l).map fun c => if blockFmt f then blockVal t (leNat scale) c xv else elemVal t c

/-- The dot product of a step: exact, the rules of R117 for NaN and infinities; a zero in its fixed-point adder is +0. -/
def dotOf (a b : List XR) : XR := xsum (XR.zero false :: (a.zip b).map fun p => XR.mul p.1 p.2)

/-- One accumulator of a floating step: rne of the sum, then one further rne (R117). -/
def accFloat (c : Nat) (d : XR) : Nat :=
  (rne32 (XR.add false (Fmt.fp32.value c) (f32 (rne32 d).1))).1.toNat

/-- One accumulator of an integer step: an exact sum, wrapped modulo 2^32 (R117). -/
def accInt (c : Nat) (a b : List Int) : Nat :=
  intCode 32 ((c : Int) + (a.zip b).foldl (fun s p => s + p.1 * p.2) 0)

/-- All accumulators after a step. -/
def mmaAcc (fa fb : Nat) (xv : XR) (acc : BitVec 131072) (la lb sa sb : List (List Byte)) : BitVec 131072 :=
  let cs := unpack 32 4096 acc.toNat
  let out : List Nat :=
    if fa = 10 ∨ fa = 11 then
      let as := la.map fun l => (lineCodes fa l).map (intVal (etypeOf fa))
      let bs := lb.map fun l => (lineCodes fb l).map (intVal (etypeOf fb))
      ((as.flatMap fun a => bs.map fun b => (a, b)).zip cs).map fun p => accInt p.2 p.1.1 p.1.2
    else
      let as := (la.zip sa).map fun l => lineVals fa xv l.1 l.2
      let bs := (lb.zip sb).map fun l => lineVals fb xv l.1 l.2
      ((as.flatMap fun a => bs.map fun b => (a, b)).zip cs).map fun p => accFloat p.2 (dotOf p.1.1 p.1.2)
  BitVec.ofNat 131072 (pack 32 out)

/-- The generators of a step with the width and alignment of their lines. -/
def stepGens (fa fb : Nat) : List (Nat × Nat × Nat) :=
  [(0, lineBytes fa, 16), (1, lineBytes fb, 16)] ++ (if blockFmt fa then [(2, 1, 1), (3, 1, 1)] else [])

/-- The first fault of a step's generators, or an error in a granule. -/
def stepFault (ls : List Lines) : Option Lines := ls.find? fun x => match x with
  | .fault _ | .bad .. => true
  | _ => false

def Lines.got : Lines → List (List Byte)
  | .ready ls => ls
  | _ => []
def Lines.isReady : Lines → Bool
  | .ready _ => true
  | _ => false

/-- The call waits, for multicast at the generators `gs`: each of them since now, if it does not wait already (R279). -/
def waitRun (s : State) (r : MRun) (gs : List Nat) : State :=
  let since (g : Nat) : Nat := if tget 0 r.stalled g = 0 then s.now + 1 else tget 0 r.stalled g
  setRun s { r with stalled := gs.foldl (fun t g => tset 0 t g (since g)) [] }

/-- The step executes on the lines of its generators (R228). -/
def mmaGo (s : State) (r : MRun) (fa fb xv : Nat) (gens : List (Nat × Nat × Nat)) (ls : List (List (List Byte))) : State :=
  let l (n : Nat) := nth [] ls n
  let none1 := List.replicate 64 ([] : List Byte)
  let (sa, sb) := if blockFmt fa then (l 2, l 3) else (none1, none1)
  let x := f32 (nth 0 r.call.xv xv)
  let s := dropLines (gens.foldl (fun s g => takeLines s r g.1) s) r
  nextMicro s { r with acc := mmaAcc fa fb x r.acc (l 0) (l 1) sa sb, steps := r.steps + 1, sent := [], lines := [] }

/-- MMA (R228): senders deliver, then the step executes once every generator has its lines; until then it waits. A sender that has its
lines and finds no room stalls (R279). Of several faults the format pair (0x03) goes before XV (0x01), and these before those of the
generators, the first of them first (DESIGN CHOICE, notes/assumptions/77.md). -/
def mmaStep (fa fb : BitVec 4) (xv : BitVec 2) (s : State) (r : MRun) : State :=
  let fa := fa.toNat
  let fb := fb.toNat
  if !pairOk fa fb then faultRun s r 0x03
  else if xv ≠ 0 ∧ fa ≠ 13 ∧ fb ≠ 13 then faultRun s r 0x01
  else
    let gens := stepGens fa fb
    let (s, r) := gens.foldl (fun x g => askLines x.1 x.2 g.1 g.2.1 g.2.2) (s, r)
    let ls := gens.map fun g => genLines s r g.1 g.2.1 g.2.2
    match stepFault ls with
    | some (.fault n) => faultRun s r n
    | some (.bad c g) => faultRun (combError s c g) r 0x0A
    | _ =>
      let has := (((gens.map (·.1)).zip ls).filter fun p => p.2.isReady).map (·.1)
      let (s, r) := sendAll s r ((gens.map (·.1)).zip ls)
      let ls := gens.map fun g => genLines s r g.1 g.2.1 g.2.2
      let unsent := has.filter fun g => (genOf r g).mode = 1 ∧ !r.sent.contains g
      let starved := (((gens.map (·.1)).zip ls).filter fun p => p.2 == .starved).map (·.1)
      match stepFault ls with
      | some (.fault n) => faultRun s r n
      | _ =>
        if !unsent.isEmpty || !ls.all Lines.isReady then waitRun s r (unsent ++ starved)
        else mmaGo s r fa fb xv.toNat gens (ls.map Lines.got)

/-- MMA (R228). -/
def execMma (fa fb : BitVec 4) (xv : BitVec 2) (s : State) : Out := micro (mmaStep fa fb xv) s

/-! ### Output and end (R214, R215, R229) -/

/-- Tile `q` of the accumulators (R212). -/
def accTile (acc : BitVec 131072) (q : Nat) : Tile := acc.extractLsb' (32768 * q) 32768

/-- Row `n` of the accumulators as bytes. -/
def accRow (acc : BitVec 131072) (n : Nat) : List Byte := natBytes (bitsOf acc (2048 * n) 2048) 256

/-- MOUT to the comb: engine writes of whole granules, which become full (R216, R229). -/
def outRow (s : State) (h : Nat) (a : Word) (bytes : List Byte) : State :=
  (cutGranules 18 (a.toNat % 2 ^ 22) 256 0).foldl (fun s p =>
    storeAt s (memberCore h a.toNat) p.1 ((bytes.drop p.2.2).take p.2.1) true) s

/-- MOUT (R229). -/
def moutStep (s : State) (r : MRun) : State :=
  let h := r.call.h
  if r.call.out then
    if r.filled then faultRun s r 0x05
    else
      let s := modHart s h fun c => (List.range 4).foldl (fun c q => c.fillTile (r.call.tbase + q) (accTile r.acc q)) c
      nextMicro s { r with filled := true, outs := r.outs + 1 }
  else
    let x := genOf r 4
    let as := (List.range 64).map (lineAddr r x)
    if !x.set then faultRun s r 0x06
    else if as.any fun a => windowBad s h a 256 16 then faultRun s r 0x02
    else
      let s := (as.zip (List.range 64)).foldl (fun s p => outRow s h p.1 (accRow r.acc p.2)) s
      nextMicro s { r with outs := r.outs + 1 }

/-- MOUT (R229). -/
def execMout (s : State) : Out := micro moutStep s

/-- MYIELD: a low call suspends while the head of the high queue is a call (R214). -/
def execMyield (s : State) : Out :=
  micro (fun s r =>
    if r.lo && (headCall (core s s.cur).mx.hi).isSome then
      modMx s s.cur fun m => { m with running := none, suspended := some { r with upc := r.upc + 1 } }
    else nextMicro s r) s

/-- MSTOP (R215, R229). -/
def mstopStep (s : State) (r : MRun) : State :=
  if r.call.out && !r.filled then faultRun s r 0x05
  else
    let s := modMx s s.cur fun m => { m with running := none }
    if r.call.out then s
    else modHart s r.call.h fun c => c.fillTile r.call.tbase (tileOf 32 [r.outs, r.steps])

/-- MSTOP (R215, R229). -/
def execMstop (s : State) : Out := micro mstopStep s

/-- MULTICAST_TIMEOUT: a sender that has stalled, or a receiver that has waited, for 2^24 reference cycles faults its call (R279). -/
def execMulticastTimeout (c : Nat) (s : State) : Out :=
  match (core s c).mx.running with
  | none => .next s
  | some r => if r.stalled.any fun e => refElapsed s (e.2 - 1) (2 ^ 24) then .next (faultRun s r 0x0B) else .next s

/-! ### The unit's turn (R222, R223) -/

/-- What the unit of core `c` does next: a micro-operation, or a fault of its call. -/
def microTurn (s : State) (c : Nat) : State × Option Instr :=
  let k := core s c
  let s := { s with cur := c }
  if k.faulted then (s, none)
  else
    match k.mx.running with
    | none => (s, none)
    | some r =>
      if 4096 ≤ r.upc then (faultRun s r 0x07, none)
      else if k.mx.badWords.contains r.upc then
        (faultRun (logEv s (srcCore s c) .uncorrectable [BitVec.ofNat 64 r.upc]) r 0x0A, none)
      else
        match decodeMicro (storeAddr k.mx r.upc) with
        | some i => (s, some i)
        | none => (faultRun s r 0x01, none)

end Sys2Proof.Machine
end

