-- ==== Sys2Proof/Machine/Host.lean ====
section
/-!
DEFINITION. The host: its registers, the command ring and the commands of the Asfort set, boot, monitors, thermal control (R284 to R287,
R336, R337, R390 to R402).
-/
namespace Sys2Proof.Machine

/-! ### Bytes and fields -/

/-- Bytes of host memory. -/
def hostRead (s : State) (a n : Nat) : List Byte := mread s.host.mem a n
def hostPut (s : State) (a : Nat) (b : List Byte) : State := { s with host := { s.host with mem := mwrite s.host.mem a b } }

/-- The little-endian field of `n` bytes at byte `o` of a record. -/
def fld (b : List Byte) (o n : Nat) : Nat := leNat ((b.drop o).take n)
/-- Are `n` bytes from byte `o` zero? -/
def zeros (b : List Byte) (o n : Nat) : Bool := ((b.drop o).take n).all (· == 0)
def word (n : Nat) : Word := BitVec.ofNat 64 n

/-! ### Answers (R391) -/

/-- A command's answer: CODE and RESULT. -/
abbrev Ans := Nat × Nat
def ansOk (r : Nat) : Ans := (0, r)
def ansIllegal : Ans := (1, 0)
def ansBusy : Ans := (2, 0)
def ansRefused (item : Nat) : Ans := (3, item)

def ringEntries (s : State) : Nat := 2 ^ wbits s.host.ringSize 0 5
/-- Has the host entered commands that are not executed yet? -/
def ringBusy (s : State) : Bool := s.host.head != s.host.tail % ringEntries s

/-- STATUS of the entry at HEAD is written and HEAD advances. -/
def answer (s : State) (a : Ans) : State :=
  if ringBusy s then
    let at56 := s.host.ringBase.toNat + 64 * s.host.head + 56
    let t := hostPut s at56 (natBytes (2 ^ 63 + a.2 % 2 ^ 32 * 2 ^ 16 + a.1) 8)
    { t with host := { t.host with head := (s.host.head + 1) % ringEntries s } }
  else s

/-- A command runs to its answer, or, answering nothing yet, waits in the ring. After a refused boot it is refused (R393). -/
def command (s : State) (f : State → Option (State × Ans)) : Out :=
  if s.host.refused then .next (answer s (ansRefused 0))
  else
    match f s with
    | none => .next s
    | some (t, a) => .next (answer t a)

/-- A command whose reads and writes of DRAM wait for the channels `ds` (R375). -/
def commandVia (s : State) (ds : List Nat) (f : State → Option (State × Ans)) : Out :=
  if s.host.refused || (f s).isNone then command s f else .next (ordinaryAccess s ds .host fun s => (f s).elim s fun r => answer r.1 r.2)

/-- A command whose change falls between the commit steps of every launch (R332). -/
def betweenSteps (s : State) (f : State → State × Ans) : Option (State × Ans) := if anyStep s then none else some (f s)

/-- A command that is BUSY while a launch runs (R392); the last step of one that has ended goes before it. -/
def whenIdle (s : State) (f : State → State × Ans) : Option (State × Ans) := if anyRunning s then some (s, ansBusy) else betweenSteps s f

/-! ### BAR 0 (R390) -/

/-- DOORBELL: the new tail index (R391). -/
def execDoorbell (v : BitVec 16) (s : State) : Out := .next { s with host := { s.host with tail := v.toNat } }

/-- REGISTER_WRITE: the writable registers, DOORBELL among them; a write to a read-only register or to no register has no effect (R390). A
RINGSIZE outside 4 to 16 and an EVTSIZE outside 6 to 20 is stored as it is, and HEAD and EVTTAIL count over the rings it gives (DESIGN
CHOICE, notes/assumptions/52.md). -/
def execRegisterWrite (off : Nat) (v : Word) (s : State) : Out :=
  let h := s.host
  .next { s with host := (match off with
    | 0x000 => { h with ringBase := v }
    | 0x008 => { h with ringSize := low 5 v }
    | 0x010 => { h with tail := v.toNat % 2 ^ 16 }
    | 0x020 => { h with evtBase := v }
    | 0x028 => { h with evtSize := low 5 v }
    | 0x038 => { h with evtHead := v.toNat % 2 ^ 20 }
    | _ => h) }

/-- What the host reads at an offset of BAR 0: a write-only register, and an offset with none, read as zero (R9). -/
def barRead (s : State) (off : Nat) : Word :=
  let h := s.host
  match off with
  | 0x000 => h.ringBase
  | 0x008 => h.ringSize
  | 0x018 => BitVec.ofNat 64 h.head
  | 0x020 => h.evtBase
  | 0x028 => h.evtSize
  | 0x030 => BitVec.ofNat 64 h.evtTail
  | 0x038 => BitVec.ofNat 64 h.evtHead
  | 0x040 => BitVec.ofNat 64 h.evtDrop
  | 0x048 => BitVec.ofNat 64 h.devState
  | _ => 0

/-! ### LAUNCH: the packet (R284 to R286) -/

/-- `n` bytes of a packet's tables at a global address, within one page; none where they cannot be read. -/
def tableAt (s : State) (im : Image) (a n : Nat) : Option (List Byte) :=
  match findPage im.pages a with
  | some (_, p) => if p.rep != 1 && !s.remotePage p && a < 2 ^ 56 then some (vread im a n) else none
  | none => none

/-- Is a global address aligned to `n` bytes? -/
def globalOk (a n : Nat) : Bool := a < 2 ^ 56 && a % n == 0

/-- The header's fields that lie outside their ranges make it bad; EXT stands apart (R284). -/
def headerOk (b : List Byte) : Bool :=
  fld b 0 4 == 0x31444E47 && 1 ≤ fld b 4 4 && fld b 4 4 ≤ 2 ^ 20 && globalOk (fld b 8 8) 64 && globalOk (fld b 16 8) 64 &&
    globalOk (fld b 24 8) 64 && globalOk (fld b 32 8) (2 ^ 20) && fld b 40 4 ≤ 2 ^ 20 && 1024 ≤ fld b 44 4 && 8 ≤ fld b 48 1 &&
    fld b 48 1 ≤ 40 && 1 ≤ fld b 49 1 && fld b 49 1 ≤ 63 && zeros b 50 6

/-- Can the nodes be found through this header? -/
def nodesFound (b : List Byte) : Bool :=
  1 ≤ fld b 4 4 && fld b 4 4 ≤ 2 ^ 20 && globalOk (fld b 8 8) 64 && globalOk (fld b 24 8) 64

/-- The record, the operand block and the successors of node `n`. -/
def nodeBytes (s : State) (im : Image) (hd : List Byte) (n : Nat) : Option (List Byte × List Byte × List Nat) :=
  match tableAt s im (fld hd 8 8 + 64 * n) 64, tableAt s im (fld hd 24 8 + 64 * n) 64 with
  | some r, some o =>
    let succs := (List.range (fld r 12 4)).map fun i => tableAt s im (fld r 16 8 + 4 * i) 4
    if succs.all Option.isSome then some (r, o, succs.map fun x => leNat (x.getD [])) else none
  | _, _ => none

/-- An operand declaration in its limits (R285). -/
def operandOk (o : List Byte) : Bool :=
  let doff := fld o 12 4
  let len := fld o 8 4
  globalOk (fld o 0 8) 16 && doff % 16 == 0 && doff < 2 ^ 22 && len % 16 == 0 && 16 ≤ len && len ≤ 0x400000 - doff

/-- The fields of a node's own record (R285, R286). -/
def recordOk (r o : List Byte) : Bool :=
  let kind := fld r 24 1
  let aff := fld r 26 1
  let flags := fld r 27 1
  let nops := flags / 2 % 8
  kind ≤ 2 && globalOk (fld r 0 8) 64 && (kind != 2 || fld r 0 8 == 0) && globalOk (fld r 16 8) 4 && fld r 25 1 ≤ 63 &&
    (match aff / 64 with
     | 0 => aff == 0
     | 1 => aff % 64 ≤ 3
     | 2 => aff % 64 ≤ 23
     | _ => false) &&
    flags < 64 && flags / 16 % 4 != 3 && nops ≤ 4 && (kind == 0 || (flags % 2 == 0 && nops == 0)) &&
    (if kind = 2 then fld r 28 1 < 64 else fld r 28 1 == 0) && zeros r 29 3 && (fld r 32 4 == 0 || 1024 ≤ fld r 32 4) && zeros r 36 28 &&
    (List.range 4).all fun i =>
      let d := (o.drop (16 * i)).take 16
      if i < nops then operandOk d else zeros d 0 16

/-- The template block names a valid template `t` (R286). -/
def blockTemplate (s : State) (im : Image) (block t : Nat) : Bool :=
  block != 0 && match tableAt s im (block + 64 * t) 64 with
    | some b => templateOk (BitVec.ofNat 512 (leNat b))
    | none => false

/-- The first node at fault (R286). `block` is the template block of the extension record, 0 for none. -/
def badNode (s : State) (im : Image) (hd : List Byte) (block : Nat) : Option Nat :=
  let n := fld hd 4 4
  let all := (List.range n).map (nodeBytes s im hd)
  let named := all.flatMap fun x => match x with
    | some (_, _, ss) => ss
    | none => []
  (List.range n).find? fun i =>
    match nth none all i with
    | none => true
    | some (r, o, ss) =>
      !(recordOk r o && (ss.all fun m => m < n) && fld r 8 4 == (named.filter (· == i)).length &&
        (fld r 24 1 != 2 || blockTemplate s im block (fld r 28 1)) && (tableAt s im (fld hd 16 8 + 64 * i) 64).isSome)

/-! ### LAUNCH: the extension record (R287) -/

def extBytes (s : State) (im : Image) (ext : Nat) : List Byte := (tableAt s im ext 64).getD []

/-- The routine images: (routine, start, micro-words); none for an entry outside the limits or whose header MPLOAD refuses. -/
def routineImage (s : State) (im : Image) (table i : Nat) : Option (Nat × Nat × List MicroWord) :=
  match tableAt s im (table + 16 * i) 16 with
  | none => none
  | some e =>
    let a := fld e 0 8
    let rtn := fld e 8 1
    if !(globalOk a 16 && 64 ≤ rtn && zeros e 9 7) then none
    else
      let ws := (List.range 256).map fun m => tableAt s im (a + 16 * m) 16
      if !(ws.all Option.isSome) then none
      else
        let micro : List MicroWord := ws.map fun w => BitVec.ofNat 128 (leNat (w.getD []))
        match mploadHeader rtn (nth 0 micro 0) with
        | some (st, n) => some (rtn, st, (micro.drop 1).take n)
        | none => none

/-- A comb image: (comb offset, bytes). -/
def combImage (s : State) (im : Image) (table i : Nat) : Option (Nat × List Byte) :=
  match tableAt s im (table + 16 * i) 16 with
  | none => none
  | some e =>
    if !operandOk e then none
    else
      let gs := (List.range (fld e 8 4 / 16)).map fun g => tableAt s im (fld e 0 8 + 16 * g) 16
      if gs.all Option.isSome then some (fld e 12 4, gs.flatMap fun g => g.getD []) else none

def routineImages (s : State) (im : Image) (x : List Byte) : List (Option (Nat × Nat × List MicroWord)) :=
  (List.range (fld x 32 4)).map (routineImage s im (fld x 16 8))
def combImages (s : State) (im : Image) (x : List Byte) : List (Option (Nat × List Byte)) :=
  (List.range (fld x 36 4)).map (combImage s im (fld x 24 8))

/-- The extension record and its tables in their limits. -/
def extOk (s : State) (im : Image) (ext : Nat) : Bool :=
  ext == 0 ||
    (globalOk ext 64 && (tableAt s im ext 64).isSome &&
      let x := extBytes s im ext
      globalOk (fld x 0 8) 64 && globalOk (fld x 8 8) 64 && fld x 32 4 ≤ 192 && fld x 36 4 ≤ 4096 && zeros x 48 16 &&
        (if fld x 32 4 = 0 then fld x 16 8 == 0 else globalOk (fld x 16 8) 16) &&
        (if fld x 36 4 = 0 then fld x 24 8 == 0 else globalOk (fld x 24 8) 16) &&
        (fld x 0 8 == 0 || (List.range 64).all fun t => (tableAt s im (fld x 0 8 + 64 * t) 64).isSome) &&
        (routineImages s im x).all Option.isSome && (combImages s im x).all Option.isSome)

/-- Does the record load anything into the shared stores? -/
def extLoads (x : List Byte) : Bool := fld x 0 8 != 0 || fld x 32 4 != 0 || fld x 36 4 != 0

def allCores : List Nat := List.range Config.cores

/-- What the record loads into one core, in the order of R287: a routine stands in the queues as one of MPLOAD does (R221). -/
def loadCore (s : State) (im : Image) (x : List Byte) (c : Nat) : State :=
  let s :=
    if fld x 0 8 = 0 then s
    else
      modCore s c fun k =>
        { k with templates := (List.range 64).foldl (fun t i =>
            tset 0 t i (BitVec.ofNat 512 (leNat ((tableAt s im (fld x 0 8 + 64 * i) 64).getD [])))) k.templates }
  let s := (routineImages s im x).foldl (fun s r => match r with
    | some (rtn, st, ws) => enqueueLoad s c rtn st ws
    | none => s) s
  (combImages s im x).foldl (fun s p => match p with
    | some (off, bytes) => storeRange s c off bytes true
    | none => s) s

/-! ### LAUNCH: acceptance -/

/-- A node as the packet describes it. -/
def nodeOfPacket (s : State) (im : Image) (hd : List Byte) (n : Nat) : Node :=
  let (r, o, ss) := (nodeBytes s im hd n).getD ([], [], [])
  let args := (tableAt s im (fld hd 16 8 + 64 * n) 64).getD []
  let aff := fld r 26 1
  let flags := fld r 27 1
  let d : NodeRec :=
    { entry := word (fld r 0 8), preds := fld r 8 4, succs := ss, kind := fld r 24 1, prio := fld r 25 1, affMode := aff / 64,
      affNo := aff % 64, pin := flags / 16 % 4, cosched := flags % 2 == 1, tmpl := fld r 28 1,
      spmax := if fld r 32 4 = 0 then fld hd 44 4 else fld r 32 4,
      args := (List.range 8).map fun i => word (fld args (8 * i) 8),
      ops := (List.range (flags / 2 % 8)).map fun i => (fld o (16 * i) 8, fld o (16 * i + 8) 4, fld o (16 * i + 12) 4) }
  { nodeReset with desc := d, st := .waiting, left := d.preds }

/-- A launch as its packet describes it. -/
def launchOfPacket (s : State) (im : Image) (hd : List Byte) : Launch :=
  let x := extBytes s im (fld hd 56 8)
  let ext := fld hd 56 8 != 0
  { Launch.none with
    ended := none
    age := fld hd 48 1
    margin := fld hd 49 1
    saveBase := fld hd 32 8
    saveCnt := fld hd 40 4
    seedBase := if ext then word (fld x 40 8) else 0
    handler := if ext then word (fld x 8 8) else 0
    nodes := (List.range (fld hd 4 4)).foldl (fun t n => tset nodeReset t n (nodeOfPacket s im hd n)) [] }

/-- The code tables are zero at the start of every launch (R237). -/
def clearCodeTables (s : State) : State :=
  { s with cores := (s.cores.map fun e => (e.1, { e.2 with codeTables := [] })).filter fun e => e.2 != Core.reset }

/-- No barrier but one that a live strand holds keeps a target into a launch's start (R250, R251). -/
def freshBarriers (s : State) : State :=
  let fresh (b : Barrier) : Barrier := if b.holder.any (liveKey s) then b else { b with target := 0, holder := none }
  let cores := s.cores.map fun e =>
    (e.1, { e.2 with barriers := (e.2.barriers.map fun b => (b.1, fresh b.2)).filter fun b => b.2 != Barrier.reset })
  { s with cores := cores.filter fun e => e.2 != Core.reset }

/-- An accepted packet: the sequence number is one more than the last, the stores are loaded, the nodes without predecessors are ready in
quantum 1 (R286 to R290). -/
def startLaunch (s : State) (im : Image) (hd : List Byte) : State × Nat :=
  let l := (s.host.nextLaunch + 1) % 2 ^ 24
  let x := extBytes s im (fld hd 56 8)
  let s := { s with host := { s.host with nextLaunch := l } }
  let s := freshBarriers (clearCodeTables s)
  let s := if fld hd 56 8 != 0 && extLoads x then allCores.foldl (fun s c => loadCore s im x c) s else s
  let s := setLaunch s l (launchOfPacket s im hd)
  let roots := (launch s l).nodes.filter fun e => e.2.desc.preds == 0
  (checkEnd (roots.foldl (fun s e => if (launch s l).running then readyNode s l e.1 1 else s) s) l, l)

/-- What LAUNCH answers. -/
def launchAnswer (s : State) (p : Nat) : State × Ans :=
  let im := snapImage s
  let noNode := ansRefused 0xFFFFFFFF
  match (if globalOk p 64 then tableAt s im p 64 else none) with
  | none => (s, noNode)
  | some hd =>
    let ext := fld hd 56 8
    let extGood := extOk s im ext
    let x := extBytes s im ext
    if ext != 0 && globalOk ext 64 && extLoads x && anyRunning s then (s, ansBusy)
    else
      let block := if ext != 0 && globalOk ext 64 then fld x 0 8 else 0
      match (if nodesFound hd then badNode s im hd block else none) with
      | some n => (s, ansRefused n)
      | none =>
        if headerOk hd && extGood then
          let r := startLaunch s im hd
          (r.1, ansOk r.2)
        else (s, noNode)

/-- What LAUNCH reads of a packet: addresses and lengths of its tables, of the extension record's, of its images. -/
def launchReads (s : State) (im : Image) (p : Nat) : List (Nat × Nat) :=
  match tableAt s im p 64 with
  | none => []
  | some hd =>
    let n := if nodesFound hd then fld hd 4 4 else 0
    let succs := (List.range n).filterMap fun i => (nodeBytes s im hd i).map fun r => (fld r.1 16 8, 4 * fld r.1 12 4)
    let ext := fld hd 56 8
    let x := extBytes s im ext
    let images (table size : Nat) (range : List Byte → Nat × Nat) : List (Nat × Nat) :=
      (List.range size).filterMap fun i => (tableAt s im (table + 16 * i) 16).map range
    [(p, 64), (fld hd 8 8, 64 * n), (fld hd 16 8, 64 * n), (fld hd 24 8, 64 * n)] ++ succs ++
      (if ext = 0 then []
       else
         [(ext, 64), (fld x 0 8, if fld x 0 8 = 0 then 0 else 4096), (fld x 16 8, 16 * fld x 32 4), (fld x 24 8, 16 * fld x 36 4)] ++
           images (fld x 16 8) (fld x 32 4) (fun e => (fld e 0 8, 4096)) ++
           images (fld x 24 8) (fld x 36 4) fun e => (fld e 0 8, fld e 8 4))

/-- The drones whose channels a packet's tables and images are read from. -/
def launchChannels (s : State) (p : Nat) : List Nat :=
  if p < 2 ^ 56 then distinct ((launchReads s (snapImage s) p).flatMap fun r => channelsOf s r.1 r.2) else []

/-- LAUNCH (R286, R287, R392). After a thermal trip the module runs nothing until RESET, and refuses it (R400; DEDUCED,
notes/assumptions/21.md). -/
def execLaunch (packet : Word) (s : State) : Out :=
  if s.host.devState = 2 then command s fun s => some (s, ansRefused 0xFFFFFFFF)
  else commandVia s (launchChannels s packet.toNat) fun s => some (launchAnswer s packet.toNat)

/-! ### Pages (R319, R387, R389, R402) -/

/-- Is a frame of `n` bytes at a physical address in memory that a MAP may name (R317)? -/
def frameOk (pa n : Nat) : Bool :=
  (pa + n ≤ 2 ^ 39 && (pa + n - 1) % 2 ^ 36 < 0xF00000000) || (2 ^ 41 ≤ pa && pa + n ≤ 2 ^ 42)

def overlap (a n b m : Nat) : Bool := a < b + m && b < a + n

/-- The present pages: base and entry. -/
def presentPages (s : State) : List (Nat × Page) := (s.pages.filter fun e => e.2.present).map fun e => (e.1 * 2 ^ 16, e.2)

/-- Does a range touch a region? -/
def inRegion (s : State) (va n : Nat) : Bool := s.regions.any fun e => overlap va n e.2.base e.2.len

/-- Would a page give a frame of a region a second mapping (R337)? An entry that is not present maps nothing. -/
def sharesRegion (s : State) (va : Nat) (p : Page) : Bool :=
  p.present && !s.remotePage p && (presentPages s).any fun e =>
    e.1 != va && !s.remotePage e.2 && overlap (p.frame * 2 ^ 16) p.size (e.2.frame * 2 ^ 16) e.2.size &&
      (inRegion s e.1 e.2.size || inRegion s va p.size)

/-- Zero fields of MAP's arguments that are not zero. -/
def mapIllegal (w0 w1 attr : Word) : Bool :=
  wbits w0 42 14 != 0 || wbits w0 0 16 != 0 || (w0.getLsbD 57 && wbits w0 16 9 != 0) || (wbits w0 58 2 != 2 && w1 != 0) ||
    wbits attr 4 4 != 0 || wbits attr 20 44 != 0

/-- The page that MAP describes. -/
def pageOf (w0 w1 attr : Word) : Page :=
  { w0 := w0, w1 := w1, modno := wbits attr 0 4,
    notify := if attr.getLsbD 8 then some (wbits attr 9 2, wbits attr 11 6, wbits attr 17 3) else none }

/-- The number of MAP's first argument that cannot be accepted. -/
def mapRefused (s : State) (va : Nat) (p : Page) : Option Nat :=
  let clash := (presentPages s).any fun e => overlap va p.size e.1 e.2.size && !(e.1 == va && e.2.size == p.size)
  if !globalOk va p.size || clash then some 0
  else if p.rep == 3 || !frameOk (p.frame * 2 ^ 16) p.size || sharesRegion s va p then some 1
  else
    match p.notify with
    | some t => if 48 ≤ t.2.1 then some 3 else none
    | none => none

/-- MAP (R392, R402); an entry with V = 0 makes the page absent. -/
def execMap (va w0 w1 attr : Word) (s : State) : Out :=
  command s fun s => betweenSteps s fun s =>
    let p := pageOf w0 w1 attr
    if mapIllegal w0 w1 attr then (s, ansIllegal)
    else
      match mapRefused s va.toNat p with
      | some i => (s, ansRefused i)
      | none => ({ s with pages := tset Page.absent s.pages (va.toNat / 2 ^ 16) (if p.present then p else Page.absent) }, ansOk 0)

/-- UNMAP: the entry of the page that holds the address becomes absent (R392). -/
def execUnmap (va : Word) (s : State) : Out :=
  command s fun s => betweenSteps s fun s =>
    match findPage s.pages va.toNat with
    | some (b, _) => ({ s with pages := tset Page.absent s.pages (b / 2 ^ 16) Page.absent }, ansOk 0)
    | none => (s, ansOk 0)

/-! ### HOSTCOPY (R402) -/

/-- The first 64 KiB unit of a range whose page is absent or remote, counted from the unit that holds its start. -/
def badUnit (s : State) (va len : Nat) : Option Nat :=
  let units := if len = 0 then 0 else (va % 2 ^ 16 + len + 2 ^ 16 - 1) / 2 ^ 16
  (List.range units).find? fun i =>
    let a := (va / 2 ^ 16 + i) * 2 ^ 16
    !(a < 2 ^ 56) || match findPage s.pages a with
      | some (_, p) => s.remotePage p
      | none => true

/-- What HOSTCOPY moves: direction 0 writes to the device, 1 reads from it. -/
def hostcopyEff (ha va len dir : Word) (s : State) : State :=
  if dir = 0 then deviceWrite s va.toNat (hostRead s ha.toNat len.toNat)
  else
    let im := snapImage s
    hostPut (firmwareMeets s im va.toNat len.toNat) ha.toNat (firmwareReads s im va.toNat len.toNat)

/-- HOSTCOPY: it writes between the commit steps of every launch (R332), and its accesses wait for the channels (R375). -/
def execHostcopy (ha va len dir : Word) (s : State) : Out :=
  if s.host.refused then .next (answer s (ansRefused 0))
  else if 1 < dir.toNat then .next (answer s ansIllegal)
  else
    match badUnit s va.toNat len.toNat with
    | some i => .next (answer s (ansRefused i))
    | none =>
      if dir = 0 && anyStep s then .next s
      else .next (ordinaryAccess s (channelsOf s va.toNat len.toNat) .host fun s => answer (hostcopyEff ha va len dir s) (ansOk 0))

/-! ### The Asfort MPLOAD (R221, R392) -/

/-- ASFORT_MPLOAD: the load stands at the tail of both queues of every core. -/
def execAsfortMpload (rtn ha : Word) (s : State) : Out :=
  command s fun s => whenIdle s fun s =>
    let image : Tile := BitVec.ofNat 32768 (leNat (hostRead s ha.toNat 4096))
    if 256 ≤ rtn.toNat || (mploadHeader rtn.toNat (BitVec.ofNat 128 (bitsOf image 0 128))).isNone then (s, ansRefused 0)
    else (allCores.foldl (fun s c => queueLoad { s with cur := 6 * c } rtn.toNat image) s, ansOk 0)

/-! ### Regions (R336, R337) -/

def regionOf (b : List Byte) : Region :=
  { base := fld b 0 8, len := fld b 8 8, bsz := fld b 16 1, efmt := fld b 17 1, rowLen := fld b 18 2, g := fld b 20 2,
    k1 := fld b 22 1 % 8, k2 := fld b 22 1 / 8 % 8, bpoint := fld b 23 1 }

/-- The fields of a region record in their ranges. -/
def regionFields (b : List Byte) (r : Region) : Bool :=
  r.bsz ≤ 2 && r.efmt ≤ 11 && 1 ≤ r.rowLen && 1 ≤ r.g && fld b 22 1 < 64 && 1 ≤ r.k1 && r.k1 ≤ 4 && r.k2 ≤ 4 && r.k1 != r.k2 &&
    (if r.keeps 2 then r.bpoint ≤ 80 else r.bpoint == 0) && zeros b 24 40 && r.base % r.block == 0 && r.len % r.block == 0 && r.len != 0 &&
    r.base + r.len ≤ 2 ^ 56

/-- The shape that a region's kinds ask for. -/
def regionShape (r : Region) : Bool :=
  r.block % (r.rowLen * r.width) == 0 &&
    (!r.keeps 1 || (r.rowLen + r.g - 1) / r.g ≤ (if r.floats then 31 else 15)) &&
    (!r.keeps 3 || r.elems ≤ 15872) && (!r.keeps 4 || r.rpb ≤ 30)

/-- The pages of a range: present, local, not compressed, their frames their own. -/
def regionPages (s : State) (r : Region) : Bool :=
  (List.range ((r.base % 2 ^ 16 + r.len + 2 ^ 16 - 1) / 2 ^ 16)).all fun i =>
    match findPage s.pages ((r.base / 2 ^ 16 + i) * 2 ^ 16) with
    | some (b, p) =>
      p.rep != 1 && !s.remotePage p && !(presentPages s).any fun e =>
        e.1 != b && !s.remotePage e.2 && !overlap e.1 e.2.size r.base r.len &&
          overlap (p.frame * 2 ^ 16) p.size (e.2.frame * 2 ^ 16) e.2.size
    | none => false

/-- The records that keeper `k` holds of region `n` (R338). -/
def recordsAt (n : Nat) (r : Region) (k : Nat) : Nat :=
  (r.len / r.block + 7 - (k + 8 - n % 8) % 8) / 8 * r.kinds.length

/-- Have the digest areas room for a region's records, 2^24 to a keeper? -/
def areaRoom (s : State) (n : Nat) (r : Region) : Bool :=
  (List.range 8).all fun k => (s.regions.foldl (fun m e => m + recordsAt e.1 e.2 k) 0) + recordsAt n r k ≤ 2 ^ 24

/-- Forget a region's records. -/
def dropRecords (s : State) (n : Nat) : State :=
  let mine (k : Nat) : Bool := k / 8 / 2 ^ 48 == n
  { s with
    records := s.records.filter fun e => !mine e.1
    badRecords := s.badRecords.filter fun k => !mine k
    deadRecords := s.deadRecords.filter fun k => !mine k
    areaTests := s.areaTests.filter fun k => !mine k }

/-- A region is defined under the lowest free number, and its records are built. -/
def defineRegion (s : State) (b : List Byte) : State × Ans :=
  let r := regionOf b
  match (List.range 4096).find? fun n => !(s.regions.any fun e => e.1 == n) with
  | none => (s, ansRefused 0)
  | some n =>
    if regionFields b r && regionShape r && regionPages s r && !inRegion s r.base r.len && areaRoom s n r then
      let s := dropRecords s n
      (rebuildRange { s with regions := tput n r s.regions } r.base r.len, ansOk n)
    else (s, ansRefused 0)

/-- The drones whose channels hold the blocks that a new region's records are built from, and those records. -/
def regionChannels (s : State) (b : List Byte) : List Nat :=
  let r := regionOf b
  let t := defineRegion s b
  if t.2.1 = 0 then distinct (blockChannels t.1 r 0 (r.len / r.block)) else []

/-- REGION (R337). -/
def execRegion (ha : Word) (s : State) : Out :=
  commandVia s (if anyRunning s then [] else regionChannels s (hostRead s ha.toNat 64)) fun s =>
    whenIdle s fun s => defineRegion s (hostRead s ha.toNat 64)

/-- A record with KINDS 0 and nothing but a BASE deletes that region. -/
def deleteRegion (s : State) (b : List Byte) : State × Ans :=
  match s.regions.find? fun e => e.2.base == fld b 0 8 with
  | some (n, _) =>
    if zeros b 8 56 then ({ dropRecords s n with regions := tdel n s.regions }, ansOk n) else (s, ansRefused 0)
  | none => (s, ansRefused 0)

/-- REGION_DELETE (R337). -/
def execRegionDelete (ha : Word) (s : State) : Out :=
  command s fun s => whenIdle s fun s => deleteRegion s (hostRead s ha.toNat 64)

/-! ### TIERSET (R392, R334) -/

/-- The move of a page to a frame, or the number of the argument that TIERSET refuses. -/
def tierMove (s : State) (va frame : Nat) : Promo ⊕ Nat :=
  match findPage s.pages va with
  | some (_, p) =>
    if s.remotePage p then .inr 0
    else if frame % p.size != 0 || !frameOk frame p.size then .inr 1
    else .inl { page := va, frame := frame / 2 ^ 16, launch := 0, node := 0, die := 0, copied := true }
  | none => .inr 0

/-- TIERSET: the page's bytes and its entry move to the frame at a physical address, between the commit steps of every launch. -/
def execTierset (va frame : Word) (s : State) : Out :=
  let ds := match tierMove s va.toNat frame.toNat with
    | .inl m => moveChannels s m
    | .inr _ => []
  commandVia s ds fun s => betweenSteps s fun s =>
    match tierMove s va.toNat frame.toNat with
    | .inl m => (swapPage s m, ansOk 0)
    | .inr i => (s, ansRefused i)

/-! ### CHECKPOINT and RESTORE (R395) -/

/-- The kind word of a content class: 0 bytes follow, 1 zero, 2 constant. -/
def checkpointKind (cls : Nat) : Word := Config.checkpointKind ++ BitVec.ofNat 2 cls

/-- `n` bytes of physical memory as the firmware reads them: see `firmwareReads`. -/
def frameReads (s : State) (pa n : Nat) : List Byte :=
  let b := mread s.mem pa n
  if s.badLines.isEmpty then b
  else (b.zip (List.range n)).map fun x => if s.badLines.contains ((pa + x.2) / 64) then Config.badByte s.tick (pa + x.2) else x.1

/-- The record of 64 KiB unit `i` of a page: header only where the unit is constant or zero. -/
def unitRecord (s : State) (va : Nat) (p : Page) (i : Nat) : List Byte :=
  let bytes := frameReads s ((p.frame + i) * 2 ^ 16) (2 ^ 16)
  let cls := if p.rep = 2 then 2 else if bytes.all (· == 0) then 1 else 0
  natBytes (va + i * 2 ^ 16) 8 ++ natBytes p.w0.toNat 8 ++ natBytes p.w1.toNat 8 ++ natBytes (checkpointKind cls).toNat 8 ++
    (if cls = 0 then bytes else [])

/-- Every present local page in VA order. -/
def checkpointBytes (s : State) : List Byte :=
  ((presentPages s).filter fun e => !s.remotePage e.2).flatMap fun e => (List.range (e.2.size / 2 ^ 16)).flatMap (unitRecord s e.1 e.2)

/-- CHECKPOINT: refused where the records do not fit. -/
def execCheckpoint (ha len : Word) (s : State) : Out :=
  let pages := (presentPages s).filter fun e => !s.remotePage e.2
  commandVia s (if anyRunning s then [] else distinct (pages.flatMap fun e => frameChannels s e.1)) fun s => whenIdle s fun s =>
    let b := checkpointBytes s
    if len.toNat < b.length then (s, ansRefused 1)
    else
      let met := ((presentPages s).filter fun e => !s.remotePage e.2).foldl (fun s e => firmwareMeets s s.image e.1 e.2.size) s
      (hostPut met ha.toNat b, ansOk 0)

/-- Put a unit's page entry and its bytes back. -/
def restoreUnit (s : State) (va : Nat) (p : Page) (bytes : List Byte) : State :=
  let base := va / p.size * p.size
  let pages := s.pages.filter fun e => !e.2.present || !overlap base p.size (e.1 * 2 ^ 16) e.2.size || (e.1 * 2 ^ 16 == base && e.2.size == p.size)
  let pa := p.frame * 2 ^ 16 + (va - base)
  { s with
    pages := tset Page.absent pages (base / 2 ^ 16) p
    mem := if bytes.isEmpty then s.mem else mwrite s.mem pa bytes
    badLines := if bytes.isEmpty then s.badLines else s.badLines.filter fun n => !(pa ≤ 64 * n && 64 * n < pa + bytes.length) }

/-- The units of the records at a host address, until their length is used up or a header names no present page: virtual address, entry,
bytes. -/
def restoreUnits (s : State) : Nat → Nat → Nat → List (Nat × Page × List Byte)
  | 0, _, _ => []
  | f + 1, a, left =>
    let b := hostRead s a 32
    let va := fld b 0 8
    let p : Page := { w0 := word (fld b 8 8), w1 := word (fld b 16 8), modno := s.host.modno, notify := none }
    if left < 32 || !p.present then []
    else
      let kind := word (fld b 24 8)
      if kind = checkpointKind 2 then (va, p, []) :: restoreUnits s f (a + 32) (left - 32)
      else if kind = checkpointKind 1 then (va, p, List.replicate (2 ^ 16) 0) :: restoreUnits s f (a + 32) (left - 32)
      else (va, p, hostRead s (a + 32) (2 ^ 16)) :: restoreUnits s f (a + 32 + 2 ^ 16) (left - 32 - 2 ^ 16)

/-- The drones whose channels RESTORE writes: those of the frames, and of every region's blocks and records. -/
def restoreChannels (s : State) (us : List (Nat × Page × List Byte)) : List Nat :=
  distinct ((us.flatMap fun u => physChannels u.2.1 (u.2.1.frame * 2 ^ 16)) ++
    s.regions.flatMap fun e => blockChannels s e.2 0 (e.2.len / e.2.block))

/-- RESTORE: pages, entries and every digest record (R345). -/
def execRestore (ha len : Word) (s : State) : Out :=
  let units (s : State) : List (Nat × Page × List Byte) := restoreUnits s (len.toNat / 32) ha.toNat len.toNat
  commandVia s (if anyRunning s then [] else restoreChannels s (units s)) fun s => whenIdle s fun s =>
    let t := (units s).foldl (fun s u => restoreUnit s u.1 u.2.1 u.2.2) s
    (t.regions.foldl (fun s e => rebuildRange s e.2.base e.2.len) t, ansOk 0)

/-! ### Monitors (R397) -/

/-- The number of a block that samples nothing, and of the late-promotion count, which has no bins. -/
def quantityNone : Nat := 7
def quantityLate : Nat := 6

def Capture.reset : Capture :=
  { quantity := quantityNone, w := 0, origin := 0, bins := List.replicate 64 0, low := none, high := none, samples := 0 }
def capture (s : State) (src : Nat) : Capture := tget Capture.reset s.host.captures src
def setCapture (s : State) (src : Nat) (c : Capture) : State :=
  { s with host := { s.host with captures := tset Capture.reset s.host.captures src c } }

/-- MONITOR_ARM: quantity, bin width and origin. -/
def execMonitorArm (src quantity w origin : Word) (s : State) : Out :=
  command s fun s =>
    if quantityNone ≤ quantity.toNat then some (s, ansRefused 1)
    else
      let c := { capture s src.toNat with quantity := quantity.toNat, w := w.toNat, origin := origin.toInt }
      some (setCapture s src.toNat c, ansOk 0)

/-- A sample goes to its bin, clamped; bins and counts saturate or wrap at their widths. -/
def takeSample (s : State) (src : Nat) (v : Int) : State :=
  let c := capture s src
  if quantityLate ≤ c.quantity then s
  else
    let i := (max 0 (min 63 ((v - c.origin) / (2 ^ c.w : Int)))).toNat
    setCapture s src { c with
      bins := setNth (min (2 ^ 32 - 1) (nth 0 c.bins i + 1)) c.bins i
      low := some (match c.low with
        | some x => min x v
        | none => v)
      high := some (match c.high with
        | some x => max x v
        | none => v)
      samples := (c.samples + 1) % 2 ^ 64 }

/-- The 544 bytes of a capture block; without a sample the minimum and the maximum are zero. -/
def captureBytes (s : State) (src : Nat) : List Byte :=
  let c := capture s src
  let n := if c.quantity = quantityLate then (die s (srcDieOf src)).late else c.samples
  let extreme (x : Option Int) : Nat := (wordOfInt (x.getD 0)).toNat
  (c.bins.flatMap fun b => natBytes b 8) ++ natBytes (extreme c.low) 8 ++ natBytes (extreme c.high) 8 ++ natBytes n 8 ++
    List.replicate 8 0

/-- MONITOR_READ. -/
def execMonitorRead (src ha : Word) (s : State) : Out :=
  command s fun s => some (hostPut s ha.toNat (captureBytes s src.toNat), ansOk 0)

/-- MONITOR_CLEAR: bins, minimum, maximum and count are zeroed. -/
def execMonitorClear (src : Word) (s : State) : Out :=
  command s fun s =>
    let c := { capture s src.toNat with bins := List.replicate 64 0, low := none, high := none, samples := 0 }
    some (setCapture s src.toNat c, ansOk 0)

/-! ### SELFTEST, ATTEST (R394, R399) -/

/-- Is a unit, by its present source number, one of those that SELFTEST names? -/
def named (src : Word) (u : Nat) : Bool := src == BitVec.allOnes 64 || word u == src

/-- The full test of the named units: those that fail are retired, under the firmware's source (R398, R399, R401); how many they are. -/
def testUnits (s : State) (src : Word) : State × Nat :=
  let who := srcFirmware s
  let units := (s.lasting.map (unitSrc s)).filter (named src)
  let rows := s.lastingRows.filter fun r => named src (srcMem s (1024 * r))
  let bad := distinct (units ++ rows.map fun r => srcMem s (1024 * r))
  let s := bad.foldl (fun s u => logEv s who .selfTest [word u, 1]) s
  let s := units.foldl (fun s u => retireUnit s who u) s
  (rows.foldl (fun s r => spareRow s who r) s, bad.length)

/-- SELFTEST: the failing units are retired and counted. -/
def execSelftest (src : Word) (s : State) : Out :=
  command s fun s => whenIdle s fun s =>
    let r := testUnits s src
    (r.1, ansOk r.2)

/-- The fields of a report, then the signature over them. -/
def reportBytes (s : State) (nonce : List Byte) : List Byte :=
  let b := nonce ++ natBytes Config.serialNumber.toNat 8 ++ natBytes s.host.modno 8 ++ natBytes s.host.m0.toNat 32 ++
    natBytes s.host.m1.toNat 32 ++ natBytes s.host.m2.toNat 32 ++ natBytes s.host.retired.length 8 ++ natBytes Config.publicKey.toNat 64
  b ++ natBytes (Config.signReport b).toNat 29792

/-- ATTEST, which a refused boot does not refuse (R393). -/
def execAttest (nonce report : Word) (s : State) : Out :=
  .next (answer (hostPut s report.toNat (reportBytes s (hostRead s nonce.toNat 32))) (ansOk 0))

/-! ### Boot (R393) -/

/-- Units retired before stay retired. -/
def keepRetired (s : State) (src : Nat) : State :=
  match srcKind src with
  | 2 | 3 => modCore s (srcCoreOf src) fun k => { k with fenced := true }
  | 6 =>
    let k := linkOf s (srcIndex src / 8)
    setLink s (srcIndex src / 8) { k with retired := insNat (srcIndex src % 8) k.retired }
  | _ => s

/-- The device state after a reset (R11, R393): the registers of BAR 0 take their reset values (R390); DRAM keeps its bytes and its errors,
the module its number, its routes, its retired units, the number of its last launch and the events not yet written (DEDUCED,
notes/assumptions/20.md). -/
def deviceReset (s : State) : State :=
  let host := { HostIf.reset with
    mem := s.host.mem, pendingEv := s.host.pendingEv, modno := s.host.modno, route := s.host.route, routes := s.host.routes
    retired := s.host.retired, nextLaunch := s.host.nextLaunch }
  let t := { State.reset with
    now := s.now, tick := s.tick, turn := none, mem := s.mem, badLines := s.badLines, rowTests := s.rowTests
    rowCorrected := s.rowCorrected, host := host, lasting := s.lasting, lastingRows := s.lastingRows }
  let t := allCores.foldl (fun t c => modCore t c fun k => { k with tvec := Config.romDispatcher }) t
  s.host.retired.foldl keepRetired t

/-- A library package in host memory. -/
def package (s : State) (a : Word) : List Byte := hostRead s a.toNat (Config.packageLength a)

/-- The firmware loads the libraries: the matrix library into the store of every core, and the drone library (R222, R393). -/
def loadLibraries (s : State) (droneLib : List Byte) : State :=
  let s := allCores.foldl (fun s c => modMx s c fun m => { m with library := true }) s
  { s with host := { s.host with droneLib := droneLib } }

/-- The ROM's work at power-on and at RESET, in order. -/
def boot (s : State) (matrixLib droneLib : Word) : State :=
  let s := deviceReset (testUnits s (BitVec.allOnes 64)).1
  let p1 := package s matrixLib
  let p2 := package s droneLib
  let good := Config.signatureGood p1 && Config.signatureGood p2
  let s := if good then loadLibraries s p2 else s
  { s with host := { s.host with
      m0 := Config.romDigest
      m1 := Config.shake256 p1
      m2 := Config.shake256 p2
      refused := !good
      devState := if good then 1 else 3 } }

/-- The running launches all end with one status. -/
def endAll (s : State) (e : EndSt) : State := (s.launches.filter fun x => x.2.running).foldl (fun s x => endLaunch s x.1 e) s

/-- Every event goes to the event ring, and time moves past the last stamp, so that no later event stands before it (R396; the time that
RESET takes is DEDUCED, notes/assumptions/20.md). -/
def flushEvents (s : State) : State :=
  { s with
    now := s.host.pendingEv.foldl (fun t e => max t (e.stamp + 1)) s.now
    host := { s.host.pendingEv.foldl writeEvent s.host with pendingEv := [] } }

/-- RESET: a module number of 16 or more is ILLEGAL (DESIGN CHOICE, notes/assumptions/79.md); else it ends every launch, answers, takes
the module number and the routes that the table in host memory gives (R385), boots (R393). The answer and the events stand in their rings
before the registers take their reset values. -/
def execReset (modno route matrixLib droneLib : Word) (s : State) : Out :=
  if 16 ≤ modno.toNat then .next (answer s ansIllegal)
  else
    let s := answer (flushEvents (endAll s .reset)) (ansOk 0)
    let routes := hostRead s route.toNat (Config.routeLength route)
    let s := { s with host := { s.host with modno := modno.toNat, route := route, routes := routes } }
    .next (boot s matrixLib droneLib)

/-- POWER_ON (R393). -/
def execPowerOn (s : State) : Out := .next (boot s Config.bootPackages.1 Config.bootPackages.2)

/-! ### Heat (R400) -/

/-- THERMAL_LIMIT: the clock of a die drops by a step, or rises again; the sensors of all five dies have one (R401). -/
def execThermalLimit (d : Nat) (hot : Bool) (s : State) : Out :=
  let k := die s d
  let clock := if hot then max 350 (k.clock - 50) else min 700 (k.clock + 50)
  if 5 ≤ d then .next s
  else .next (logEv (setDie s d { k with clock := clock, hot := hot }) (sourceNo s d 10 0) .thermal [word clock])

/-- Nothing runs any more: of a commit step in progress nothing more is made visible but what its calls have written (R325, R364), and the
sequencers stop (DEDUCED, notes/assumptions/21.md). -/
def stopAll (s : State) : State :=
  let s := s.launches.foldl (fun s e => if e.2.commit.isSome then modLaunch s e.1 fun x => { x with commit := none } else s) s
  s.drones.foldl (fun s e => modDrone s e.1 fun k => { k with seqr := none, ordinary := [], serving := [], granted := [] }) s

/-- THERMAL_TRIP: every launch ends with THERMAL, DEVSTATE becomes 2, and the module runs nothing until RESET. -/
def execThermalTrip (s : State) : Out :=
  let s := stopAll (endAll s .thermal)
  .next (logEv { s with host := { s.host with devState := 2 } } (sourceNo s 4 10 0) .thermal [])

/-! ### The firmware's turn (R391, R392) -/

/-- The command of a descriptor: none for an unknown code. -/
def commandOf (s : State) (b : List Byte) : Option Instr :=
  let a (i : Nat) : Word := word (fld b (8 + 8 * i) 8)
  match fld b 0 2 with
  | 0x01 => some (.launch (a 0))
  | 0x02 => some (.map (a 0) (a 1) (a 2) (a 3))
  | 0x03 => some (.unmap (a 0))
  | 0x04 => some (.hostcopy (a 0) (a 1) (a 2) (a 3))
  | 0x05 => some (.asfortMpload (a 0) (a 1))
  | 0x06 => some (if fld (hostRead s (a 0).toNat 64) 22 1 = 0 then .regionDelete (a 0) else .region (a 0))
  | 0x07 => some (.tierset (a 0) (a 1))
  | 0x08 => some (.checkpoint (a 0) (a 1))
  | 0x09 => some (.restore (a 0) (a 1))
  | 0x0A =>
    (match (a 4).toNat with
     | 0 => some (.monitorArm (a 0) (a 1) (a 2) (a 3))
     | 1 => some (.monitorRead (a 0) (a 5))
     | 2 => some (.monitorClear (a 0))
     | _ => none)
  | 0x0B => some (.selftest (a 0))
  | 0x0C => some (.attest (a 0) (a 1))
  | 0x0D => some (.reset (a 0) (a 1) (a 2) (a 3))
  | _ => none

/-- The firmware executes the entry at HEAD: a command, or the answer ILLEGAL at once. -/
def firmwareTurn (s : State) : State × Option Instr :=
  if s.host.devState = 0 || !ringBusy s then (s, none)
  else
    let b := hostRead s (s.host.ringBase.toNat + 64 * s.host.head) 64
    match commandOf s b with
    | some i => if zeros b 2 2 then (s, some i) else (answer s ansIllegal, none)
    | none => (answer s ansIllegal, none)

end Sys2Proof.Machine
end

