-- ==== Sys2Proof/Machine/IndexEngine.lean ====
section
/-!
DEFINITION. The index engine, the scout and the guard (chapter 11, R253 to R265), and the digest commands with their completions (R346
to R354), which run as producers beside them.
-/
namespace Sys2Proof.Machine

/-! ### Producers that are known at issue (R259, R263, R265) -/

/-- A producer command: its count scalar is pending (R255). -/
def produce (s : State) (q : QNo) (keep : Bool) (rate : BitVec 4) (sb : SReg) (w : Work) : State :=
  let p : Producer := { work := w, held := none, keep := keep, rate := rate.toNat, count := sb.toNat, pushed := 0, bound := none }
  markDst (startProducer s s.cur q.toNat p) (.scalar sb.toNat)

/-- Nonzero under type T (R259): for the F types of R144 (fp32, fp16, bf16) not ±0, that is, a bit below the sign is 1; for every other
type, e4m3 and e5m2 among them, any bit is 1. -/
def nonzeroCode (t : EType) (c : Nat) : Bool := if t.isF then c % 2 ^ (t.bits - 1) != 0 else c != 0

/-- What IXSCAN pushes. -/
def scanEntries (row : Bool) (t : EType) (v : Tile) (base : Nat) : List Nat :=
  let nz := (tileElems t v).map (nonzeroCode t)
  if row then ((chunks t.perRow 16 nz).zip (List.range 16)).filterMap fun p => if p.1.any id then some (base + p.2) else none
  else (nz.zip (List.range nz.length)).filterMap fun p => if p.1 then some (base + p.2) else none

/-- IXSCAN (R259). -/
def execIxscan (q : QNo) (row : Bool) (t : EType) (ta : TReg) (sa sb : SReg) (keep : Bool) (rate : BitVec 4) (s : State) : Out :=
  issue (.ixscan q row t ta sa sb keep rate)
    (fun s => produce s q keep rate sb (.list (scanEntries row t ((me s).tile ta.toNat).val (wbits ((me s).s sa) 0 32)) none 0)) s

/-- IXBMAP (R260). -/
def execIxbmap (q : QNo) (sa sc sb : SReg) (keep : Bool) (rate : BitVec 4) (s : State) : Out :=
  issue (.ixbmap q sa sc sb keep rate)
    (fun s => produce s q keep rate sb (.bitmap ((me s).s sa).toNat 0 ((me s).s sc).toNat)) s

/-- IXRLE (R260). -/
def execIxrle (q : QNo) (sa sc sb : SReg) (keep : Bool) (rate : BitVec 4) (s : State) : Out :=
  issue (.ixrle q sa sc sb keep rate)
    (fun s => produce s q keep rate sb (.runs ((me s).s sa).toNat ((me s).s sc).toNat 0 0)) s

/-- IXCLR (R261). -/
def execIxclr (q : QNo) (s : State) : Out := issue (.ixclr q) (fun s => clearQueue s s.cur q.toNat) s

/-- The rows SPRED picks (R263). -/
def scoutRows (scores : List XR) (theta : XR) : List Nat :=
  (scores.zip (List.range scores.length)).filterMap fun p =>
    if theta.lt p.1 || p.1.isNaN || theta.isNaN then some p.2 else none

/-- SPRED: md is pending until it completes (R263). -/
def execSpred (q : QNo) (md : MReg) (ta : TReg) (sa sb : SReg) (n1 : BitVec 10) (keep : Bool) (rate : BitVec 4) (s : State) : Out :=
  issue (.spred q md ta sa sb n1 keep rate)
    (fun s =>
      let w := (me s).s sa
      let scores := ((tileElems .fp32 ((me s).tile ta.toNat).val).take (n1.toNat + 1)).map Fmt.fp32.value
      let rows := scoutRows scores (f32Of w)
      let m := maskOf ((List.range 1024).map fun r => rows.contains r)
      markDst (produce s q keep rate sb (.list (rows.map (wbits w 32 32 + ·)) (some (md.toNat, m)) 0)) (.mask md.toNat)) s

/-- A bound as GUARD takes it: negative or -0 counts as +0, NaN as +∞ (R265). -/
def guardBound (x : XR) : XR := if x.isNaN then .inf false else if x.sign then .fin false 0 0 else x
/-- An ε as GUARD takes it: NaN or negative counts as +0. -/
def guardEps (x : XR) : XR := if x.isNaN || x.sign then .fin false 0 0 else x

/-- The row with the largest bound, ties to the lowest row. -/
def largestRow : List (Nat × XR) → Option (Nat × XR)
  | [] => none
  | x :: xs => match largestRow xs with
    | none => some x
    | some y => if x.2.lt y.2 then some y else some x

/-- The layer pass: rows in the order they are pushed, and the mass left out. -/
def layerPass (eps : XR) : Nat → List (Nat × XR) → List Nat × XR
  | 0, o => ([], xsum (o.map (·.2)))
  | n + 1, o =>
    let m := xsum (o.map (·.2))
    if eps.lt m then
      match largestRow o with
      | none => ([], m)
      | some r =>
        let (rs, m') := layerPass eps n (o.filter fun x => x.1 != r.1)
        (r.1 :: rs, m')
    else ([], m)

/-- GUARD's pushes and the omitted mass (R265). -/
def guardRows (us : List XR) (computed : Nat → Bool) (epsRow epsLayer : XR) : List Nat × XR :=
  let o := ((List.range us.length).zip us).filter fun p => !computed p.1
  let first := o.filter fun p => epsRow.lt p.2
  let rest := o.filter fun p => !epsRow.lt p.2
  let (rs, m) := layerPass epsLayer rest.length rest
  (first.map (·.1) ++ rs, m)

/-- GUARD (R265): bounds in the bound-column layout (R264). -/
def execGuard (q : QNo) (ma : MReg) (tu : TReg) (sa sb sc : SReg) (n1 : BitVec 10) (keep : Bool) (rate : BitVec 4) (s : State) : Out :=
  issue (.guard q ma tu sa sb sc n1 keep rate)
    (fun s =>
      let c := me s
      let v := (c.tile tu.toNat).val
      let us := (List.range (n1.toNat + 1)).map fun r => guardBound (Fmt.fp32.value (tileElem .fp32 v (r % 16 * 64 + r / 16)))
      let (rs, m) := guardRows us (fun r => (c.mask ma.toNat).val.getLsbD r) (guardEps (f32Of (c.s sa))) (guardEps (f32Of (c.s sb)))
      produce s q keep rate sc (.list (rs.map (wbits (c.s sa) 32 32 + ·)) none (rnd RMode.up 0 .fp32 m).1)) s

/-! ### Reading records (R344, R348, R349) -/

/-- The launch and quantum in whose name a context reads digests. -/
def readerLaunch (s : State) (h : Nat) : Nat × Nat := copyLaunch s h

/-- May a record read of context `h`, issued in quantum `q`, be served now: quantum q - 2 has committed and no step in progress
holds the block? -/
def recordReady (s : State) (h q region block : Nat) : Bool :=
  q ≤ (launch s (readerLaunch s h).1).committed + 2 &&
    match s.regions.find? fun e => e.1 == region with
    | some (_, r) => !recordHeld s (r.base + block * r.block) r.block
    | none => true

/-- The stamp of a record read now (R344). -/
def stampNow (s : State) (h : Nat) : Nat := (launch s (readerLaunch s h).1).committed

/-! ### DQRY (R348) -/

/-- The region and the first unit of a digest command, in units of `ham` rows or blocks. -/
def digestUnit (s : State) (a : Nat) (rows : Bool) : Nat × Nat := match regionAt s a with
  | some (n, r) => (n, (a - r.base) / (if rows then r.rowBytes else r.block))
  | none => (0, 0)

def startQuery (s : State) (kind : DKind) (td : TReg) (sa sb : SReg) (ordered : Bool) : State :=
  let c := me s
  let (n, b) := digestUnit s (c.s sa).toNat false
  let (ord, s) := stamp s
  let q := (readerLaunch s s.cur).2
  let d : DQuery :=
    { ord := ord, dst := td.toNat, kind := kind, region := n, block := b, count := (c.s sb).toNat
      q := if ordered then some q else none, qnum := q }
  markDst (modMe s fun x => { x with dqs := x.dqs ++ [d] }) (.tile td.toNat)

/-- DQRY, Q = 0 (R348). -/
def execDqry (kind : DKind) (td : TReg) (sa sb : SReg) (s : State) : Out :=
  issue (.dqry kind td sa sb) (fun s => startQuery s kind td sa sb false) s

/-- DQRY.Q ends the quantum (R348). -/
def execDqryQ (kind : DKind) (td : TReg) (sa sb : SReg) (s : State) : Out :=
  issue (.dqryQ kind td sa sb) (fun s => endsHere (startQuery s kind td sa sb true)) s

/-- Is a command the oldest of its context's (R354)? -/
def oldestRead (x : Ctx) (ord : Nat) : Bool := (readOrds x).all fun o => ord ≤ o

/-- The blocks of a query. -/
def queryBlocks (d : DQuery) : List Nat := (List.range d.count).map (d.block + ·)

/-- May a query be served now? A DQRY.Q of quantum q waits for the commit of q - 1. -/
def queryReady (s : State) (h : Nat) (d : DQuery) : Bool :=
  (d.q.all fun q => q ≤ stampNow s h + 1) && (queryBlocks d).all fun b => recordReady s h d.qnum d.region b

/-- The rows of the records of a query. -/
def queryTile (s : State) (d : DQuery) (st : Nat) : Tile :=
  BitVec.ofNat 32768 (pack 2048 ((queryBlocks d).map fun b =>
    ((readRecord s (recKey d.region b d.kind.code)).bits d.kind.code st).toNat))

/-- DQRY_COMPLETE: the oldest query completes once the channels serve it (R348, R354, R375). -/
def execDqryComplete (h : Nat) (s : State) : Out :=
  match (hart s h).dqs with
  | [] => .next s
  | d :: rest =>
    if oldestRead (hart s h) d.ord && queryReady s h d then
      let st := stampNow s h
      let v := queryTile s d st
      let ds := distinct ((queryBlocks d).map fun b => recordDrone (recKey d.region b d.kind.code))
      .next (ordinaryAccess s ds (.digest h d.ord) fun s => modHart s h fun x =>
        let x := { x with dqs := rest, csr := { x.csr with dgstamp := BitVec.ofNat 64 st } }
        x.fillTile d.dst v)
    else .next s

/-! ### DSCAN (R349, R350) -/

/-- 0 × ∞ counts as 0 in a bound. -/
def boundProduct (a b : XR) : XR := match a, b with
  | .fin _ 0 _, .inf _ | .inf _, .fin _ 0 _ => .fin false 0 0
  | a, b => XR.mul a b
def up32 (x : XR) : XR := Fmt.fp32.value (rnd RMode.up 0 .fp32 x).1

/-- ub of a record for the weights of the operand. -/
def upperBound (r : Region) (x : Rec) (operand : Tile) : XR :=
  up32 (xsum ((List.range r.ng).map fun g =>
    let q := Fmt.fp32.value (tileElem .fp32 operand g)
    up32 (maxX (boundProduct q (r.lo x g)) (boundProduct q (r.hi x g)))))

/-- Does a bounds record meet the operand's window in every group asked for? -/
def overlaps (r : Region) (x : Rec) (operand : Tile) (groups : Word) : Bool :=
  let bits : BitVec 1984 := operand.setWidth 1984
  (List.range (min r.ng 31)).all fun g =>
    !groups.getLsbD g ||
      ((r.lo x g).le (r.boundVal (getBits bits (r.loPos g + r.bw) r.bw)) && (r.boundVal (getBits bits (r.loPos g) r.bw)).le (r.hi x g))

/-- S × 2^-B of a SUM record. -/
def sumValue (r : Region) (x : Rec) : XR := (XR.ofInt (sumOf x)).scale (-(r.bpoint : Int))

def fpInf : BitVec 32 := 0x7F800000
def fpBool (b : Bool) : BitVec 32 := if b then 0x3F800000 else 0

/-- A unit's verdict and score (R349); `unit` is a block number, or a row number of the region for `ham`. -/
def scanUnit (s : State) (c : Scan) (unit : Nat) : Bool × BitVec 32 :=
  match s.regions.find? fun e => e.1 == c.region with
  | none => (true, if c.pred = .ham then 0 else fpInf)
  | some (n, r) =>
    let block := if c.pred = .ham then unit / r.rpb else unit
    let row := unit % r.rpb
    let x := readRecord s (recKey n block (predKind c.pred))
    if !x.valid || x.poison || (c.pred == .sumgt && (x.ovf || x.inv)) || (c.pred == .ham && staleRow x row) then
      (true, if c.pred = .ham then 0 else fpInf)
    else
      match c.pred with
      | .overlap => let b := overlaps r x c.operand c.value; (b, fpBool b)
      | .ub => let u := upperBound r x c.operand; ((f32Of c.value).lt u, (rne32 u).1)
      | .znz =>
        let k := popNat 1984 x.body.toNat
        (k != 0, (rne32 (XR.ofInt k)).1)
      | .sumgt => let v := sumValue r x; ((f32Of c.value).lt v, (rne32 v).1)
      | .ham =>
        let d := popNat 64 (getBits x.body (64 * row) 64 ^^^ bitsOf c.operand 0 64)
        (d ≤ min 64 (wbits c.value 0 7), (rne32 (XR.ofInt d)).1)

/-- The block whose record a unit needs. -/
def unitBlock (s : State) (c : Scan) (unit : Nat) : Nat :=
  if c.pred = .ham then
    match s.regions.find? fun e => e.1 == c.region with
    | some (_, r) => unit / r.rpb
    | none => 0
  else unit

/-- The scan after its next unit; the unit's number where it passes. -/
def scanNext (s : State) (h : Nat) (c : Scan) : Scan × Option Nat :=
  let unit := c.first + c.next
  let (ok, sc) := scanUnit s c unit
  let st := stampNow s h
  ({ c with
     next := c.next + 1
     scores := if c.score.isSome then c.scores ++ [sc] else c.scores
     passed := c.passed + ok.toNat
     stamp := some (match c.stamp with
       | some o => min o st
       | none => st) }, if ok then some unit else none)

/-- May the next unit of a scan be read? -/
def scanReady (s : State) (h : Nat) (c : Scan) : Bool :=
  recordReady s h c.qnum c.region (unitBlock s c (c.first + c.next))

/-- A scan that pushes nothing reads its units, `n` at most; none where one is held back. -/
def scanAll (s : State) (h : Nat) : Nat → Scan → Option Scan
  | 0, c => some c
  | n + 1, c => if c.next = c.count then some c else if scanReady s h c then scanAll s h n (scanNext s h c).1 else none

/-- The drone whose channel holds the record that a unit needs. -/
def unitDrone (s : State) (c : Scan) (unit : Nat) : Nat := recordDrone (recKey c.region (unitBlock s c unit) (predKind c.pred))

def startScan (s : State) (q : Option QNo) (pred : DPred) (sa sb sc : SReg) (ta : TReg) (score : Option TReg) (sd : SReg)
    (keep : Bool) (rate : BitVec 4) : State :=
  let c := me s
  let (n, b) := digestUnit s (c.s sa).toNat (pred == .ham)
  let (ord, s) := stamp s
  let k : Scan :=
    { ord := ord, pred := pred, region := n, first := b, count := (c.s sb).toNat, next := 0
      operand := (c.tile ta.toNat).val &&& onesAt 32768 0 2048, value := c.s sc, push := q.isSome
      score := score.map (·.toNat), scores := [], sd := sd.toNat, passed := 0, stamp := none, qnum := (readerLaunch s s.cur).2 }
  let s := match q with
    | some q =>
      startProducer s s.cur q.toNat
        { work := .scan k, held := none, keep := keep, rate := rate.toNat, count := sd.toNat, pushed := 0, bound := none }
    | none => modMe s fun x => { x with scans := x.scans ++ [k] }
  let s := match score with
    | some tr => markDst s (.tile tr.toNat)
    | none => s
  markDst s (.scalar sd.toNat)

/-- DSCAN (R349, R350). -/
def execDscan (q : Option QNo) (pred : DPred) (sa sb sc : SReg) (ta : TReg) (score : Option TReg) (sd : SReg) (keep : Bool)
    (rate : BitVec 4) (s : State) : Out :=
  issue (.dscan q pred sa sb sc ta score sd keep rate) (fun s => startScan s q pred sa sb sc ta score sd keep rate) s

/-- DSCAN_COMPLETE: for q = 0 or 1 the scan that runs on that queue, for q = 2 the oldest one that pushes nothing (R350, R354). -/
def execDscanComplete (h q : Nat) (s : State) : Out :=
  if q < 2 then
    match ((hart s h).queue q).prods with
    | p :: _ =>
      match p.work with
      | .scan c => if c.next = c.count ∧ oldestRead (hart s h) c.ord then .next (finishProducer s h q p) else .next s
      | _ => .next s
    | [] => .next s
  else
    match (hart s h).scans with
    | [] => .next s
    | c :: rest =>
      if oldestRead (hart s h) c.ord then
        match scanAll s h (c.count + 1) c with
        | some d =>
          let ds := distinct ((List.range c.count).map fun i => unitDrone s c (c.first + i))
          .next (ordinaryAccess s ds (.digest h c.ord) fun s => settleScan (modHart s h fun x => { x with scans := rest }) h d d.passed)
        | none => .next s
      else .next s

/-! ### DREFR (R351) -/

/-- DREFR: a rescan in the commit step of the issuer's current quantum (R351). -/
def execDrefr (sa sb : SReg) (s : State) : Out :=
  issue (.drefr sa sb)
    (fun s =>
      let (n, b) := digestUnit s ((me s).s sa).toNat false
      let (l, q) := readerLaunch s s.cur
      modLaunch s l fun x => { x with rescans := x.rescans ++ [(q, n, b, ((me s).s sb).toNat)] }) s

/-! ### The next push (R255) -/

/-- The running producer goes on by one entry, or finishes; a full queue makes it wait (R253, R255). A scan reads a record once its channel
serves it (R375). -/
def pushNext (s : State) (h q : Nat) (p : Producer) : State :=
  let full := 1024 ≤ occupied (hart s h) q
  match p.work with
  | .list [] _ _ => finishProducer s h q p
  | .list (e :: es) m hi => if full then s else pushEntry s h q { p with work := .list es m hi } e
  | .bitmap a pos len =>
    stepBitmap s h q p a pos len full
  | .runs a left start len => stepRuns s h q p a left start len full
  | .scan c =>
    if c.next = c.count ∨ !scanReady s h c then s
    else
      match scanNext s h c with
      | (d, some unit) =>
        if full then s
        else ordinaryAccess s [unitDrone s c unit] (.digest h c.ord) fun s => pushEntry s h q { p with work := .scan d } unit
      | (d, none) =>
        ordinaryAccess s [unitDrone s c (c.first + c.next)] (.digest h c.ord) fun s => setProducer s h q { p with work := .scan d }

/-- INDEX_PRODUCER_PUSH (R255). -/
def execIndexProducerPush (h q : Nat) (s : State) : Out :=
  match ((hart s h).queue q).prods with
  | [] => .next s
  | p :: _ => .next (pushNext s h q p)

end Sys2Proof.Machine
end

