-- ==== Sys2Proof/Machine/Sync.lean ====
section
/-!
DEFINITION. The SY slot: barriers (R250 to R252), quanta (R323), forks and joins (R298 to R302), groups (R303), cluster rounds (R275,
R276), priority, YIELD and HALT (R305). The waits themselves stand in Quanta.lean and Issue.lean: a bundle issues once they are over.
-/
namespace Sys2Proof.Machine

/-! ### Barriers -/

/-- BSET (R251): the barrier becomes held by the strand. -/
def execBset (clr : Bool) (k : BNo) (sa : SReg) (s : State) : Out :=
  issue (.bset clr k sa)
    (fun s =>
      let c := coreOf s.cur
      let b := barrier s c k.toNat
      setBarrier s c k.toNat
        { fcause := 0, finfo := 0, flt := false, count := if clr then 0 else b.count, target := wbits ((me s).s sa) 0 32
          holder := some (barrierKey s s.cur) }) s

/-- BINC (R251): on the own core at once, on another member after the accesses before it. -/
def execBinc (k : BNo) (sa sb : SReg) (n : BitVec 16) (s : State) : Out :=
  issue (.binc k sa sb n)
    (fun s =>
      let c := me s
      let amount := wbits (c.s sa) 0 32 + n.toNat
      let m := bincMember c s.cur sb
      if m = memberOf (coreOf s.cur) then bumpBarrier s (coreOf s.cur) k.toNat amount none
      else modMe s fun c => { c with remotes := c.remotes ++ [.binc (clusterBase (coreOf s.cur) + m) k.toNat amount] }) s

/-- A served wait consumes its round. -/
def takeRound (s : State) (i : Instr) : State := match served s i with
  | some b => consumeRound s b
  | none => s

/-- WAITB (R251). -/
def execWaitb (k : BNo) (s : State) : Out := issue (.waitb k) (fun s => takeRound s (.waitb k)) s

/-- WAITANY (R252). -/
def execWaitany (sd : SReg) (mask : BitVec 8) (s : State) : Out :=
  issue (.waitany sd mask)
    (fun s => match served s (.waitany sd mask) with
      | some b => landScalar (moveCwpos (consumeRound s b) b) sd (BitVec.ofNat 64 b) 1
      | none => s) s

/-! ### Quanta -/

/-- QEND (R323). -/
def execQend (s : State) : Out := issue .qend endsHere s

/-! ### Forks -/

/-- The child of a FORK or SPAWNG (R298). -/
def childOf (s : State) (sa sb : SReg) (disp : BitVec 30) : NewStrand :=
  let c := me s
  let key := childKey c.csr.skey c.who.depth (c.who.forks + 1)
  { who :=
      { launch := c.who.launch, node := c.who.node, depth := c.who.depth + 1, forks := 0, pin := c.who.pin, mate := none
        cluster := c.who.cluster, parent := some c.csr.skey }
    pc := c.pc + 64 * disp.signExtend 64
    args := [c.s sa, c.s sb] ++ (List.range 6).map fun i => (c.scalar (i + 3)).val
    skey := key
    prio := c.csr.prio
    spmax := c.csr.spmax
    seed := seedOf (launch s c.who.launch).seedBase key
    qnum := c.csr.qnum.toNat }

/-- The child goes to the bottom of the brood deque, or, where that is full, to the die's pool (R300). -/
def pushChild (s : State) (n : NewStrand) : State :=
  let k := coreOf s.cur
  if (core s k).deque.length < 64 then modCore s k fun x => { x with deque := x.deque ++ [n] }
  else
    let e : PoolEnt :=
      { kind := .fresh n k, skey := n.skey, level := n.prio.toNat, entered := s.now, boost := none, first := 0, cluster := none }
    let d := dieOf s.cur
    setDie s d { die s d with pool := (die s d).pool ++ [e] }

/-- FORK's effect. -/
def forkEff (s : State) (sa sb : SReg) (disp : BitVec 30) : State :=
  let n := childOf s sa sb disp
  let s := modMe s fun c => { c with who := { c.who with forks := c.who.forks + 1 }, kids := c.kids ++ [(n.skey, none)] }
  pushChild (modNode s n.who.launch n.who.node fun x => { x with live := x.live + 1 }) n

/-- FORK (R298). -/
def execFork (sa sb : SReg) (disp : BitVec 30) (s : State) : Out := issue (.fork sa sb disp) (fun s => forkEff s sa sb disp) s

/-- SPAWNG: the child is a member of the group from here on (R298, R303). -/
def execSpawng (g : BitVec 6) (sa sb : SReg) (disp : BitVec 30) (s : State) : Out :=
  issue (.spawng g sa sb disp)
    (fun s =>
      let n := childOf s sa sb disp
      joinGroup (forkEff s sa sb disp) n.who.launch (groupKey s.cur g.toNat) n.skey) s

/-- JOIN: the children it waited for are joined (R301). -/
def execJoin (s : State) : Out := issue .join (fun s => modMe s fun c => { c with kids := [] }) s

/-- EXIT (R302); in a guest context it replies with t0 and s1 (R361). -/
def execExit (s : State) : Out :=
  issue .exit
    (fun s =>
      if isGuest s.cur then
        let r : Reply :=
          { state := 0x01, cause := 0, banks := 0, rval := (((me s).scalar 1).val).setWidth 16, tile := ((me s).tile 0).val }
        { s with bundle := { s.bundle with reply := some r } }
      else { s with bundle := { s.bundle with exits := true } }) s

/-- YIELD (R305): the bundle's end decides whether the strand is saved. -/
def execYield (s : State) : Out := issue .yield (fun s => { s with bundle := { s.bundle with yields := true } }) s

/-! ### Groups and rounds -/

/-- GJOIN (R303). -/
def execGjoin (g : BitVec 6) (s : State) : Out :=
  issue (.gjoin g) (fun s => joinGroup s (me s).who.launch (groupKey s.cur g.toNat) (me s).csr.skey) s
/-- GLEAVE (R303). -/
def execGleave (g : BitVec 6) (s : State) : Out :=
  issue (.gleave g) (fun s => leaveGroup s (me s).who.launch (groupKey s.cur g.toNat) (me s).csr.skey) s
/-- GBAR: released with its round (R303). -/
def execGbar (g : BitVec 6) (s : State) : Out := issue (.gbar g) id s
/-- CBAR: released with its round, which is counted (R276). -/
def execCbar (s : State) : Out := issue .cbar (fun s => modMe s fun c => { c with rounds := c.rounds + 1 }) s
/-- DRAIN (R251, R275). -/
def execDrain (s : State) : Out := issue .drain id s
/-- FENCEL (R275). -/
def execFencel (s : State) : Out := issue .fencel id s

/-! ### Priority and the launch -/

/-- PRIO: visible from the next bundle on (R305). -/
def execPrio (sa : SReg) (n : BitVec 6) (s : State) : Out :=
  issue (.prio sa n)
    (fun s =>
      let v := if sa = 0 then n.setWidth 64 else low 6 ((me s).s sa)
      modMe s fun c => { c with csr := { c.csr with prio := v } }) s

/-- HALT: the launch ends as the bundle closes (R305). -/
def execHalt (sa : SReg) (s : State) : Out :=
  issue (.halt sa) (fun s => { s with bundle := { s.bundle with halts := some ((me s).s sa) } }) s

/-! ### Events of an issuing strand -/

/-- TRAP_ENTRY (R96). -/
def execTrapEntry (core : Nat) (s : State) : Out := .next (enterHandler s core)

/-- SAFE_POINT_OVERRUN (R307): trap 0x10 before the next bundle issues. -/
def execSafePointOverrun (h : Nat) (s : State) : Out :=
  if isStrand h && (hart s h).life == .running then
    match early s h with
    | some (.trap x) => .next (trapBundle { s with cur := h } h x)
    | _ => .next s
  else .next s

/-- May a strand's quantum end by a count: it runs, its limits have been read, it does not wait? -/
def countsQuantum (s : State) (h : Nat) : Bool :=
  isStrand h && (hart s h).life == .running && !(hart s h).qFresh && (hart s h).wait == .none

/-- QW_QUANTUM_END (R322). -/
def execQwQuantumEnd (h : Nat) (s : State) : Out :=
  if countsQuantum s h && (hart s h).qwLim ≤ (hart s h).qUnits then .next (modHart s h endQuantum) else .next s
/-- QB_QUANTUM_END (R322). -/
def execQbQuantumEnd (h : Nat) (s : State) : Out :=
  if countsQuantum s h && (hart s h).qbLim ≤ (hart s h).qBundles then .next (modHart s h endQuantum) else .next s

end Sys2Proof.Machine
end

