-- ==== Sys2Proof/Machine/Dispatch.lean ====
section
/-!
DEFINITION. The dispatch: one arm for each constructor of `Instr`.
-/
namespace Sys2Proof.Machine

/-- The meaning of every instruction, micro-operation and event. -/
def exec (i : Instr) (s : State) : Host.Outcome State Fault Refusal :=
  match i with
  | .nop slot => Sys2Proof.Machine.execNop slot s
  | .ill slot => Sys2Proof.Machine.execIll slot s
  | .add sd sa sb => Sys2Proof.Machine.execAdd sd sa sb s
  | .sub sd sa sb => Sys2Proof.Machine.execSub sd sa sb s
  | .and sd sa sb => Sys2Proof.Machine.execAnd sd sa sb s
  | .or sd sa sb => Sys2Proof.Machine.execOr sd sa sb s
  | .xor sd sa sb => Sys2Proof.Machine.execXor sd sa sb s
  | .shl sd sa sb => Sys2Proof.Machine.execShl sd sa sb s
  | .shr sd sa sb => Sys2Proof.Machine.execShr sd sa sb s
  | .sar sd sa sb => Sys2Proof.Machine.execSar sd sa sb s
  | .mul sd sa sb => Sys2Proof.Machine.execMul sd sa sb s
  | .mulh sd sa sb => Sys2Proof.Machine.execMulh sd sa sb s
  | .mulhu sd sa sb => Sys2Proof.Machine.execMulhu sd sa sb s
  | .div sd sa sb => Sys2Proof.Machine.execDiv sd sa sb s
  | .divu sd sa sb => Sys2Proof.Machine.execDivu sd sa sb s
  | .rem sd sa sb => Sys2Proof.Machine.execRem sd sa sb s
  | .remu sd sa sb => Sys2Proof.Machine.execRemu sd sa sb s
  | .min sd sa sb => Sys2Proof.Machine.execMin sd sa sb s
  | .max sd sa sb => Sys2Proof.Machine.execMax sd sa sb s
  | .minu sd sa sb => Sys2Proof.Machine.execMinu sd sa sb s
  | .maxu sd sa sb => Sys2Proof.Machine.execMaxu sd sa sb s
  | .sel sd sa sb sc => Sys2Proof.Machine.execSel sd sa sb sc s
  | .cmp cc sd sa sb => Sys2Proof.Machine.execCmp cc sd sa sb s
  | .clz sd sa => Sys2Proof.Machine.execClz sd sa s
  | .popc sd sa => Sys2Proof.Machine.execPopc sd sa s
  | .brev sd sa => Sys2Proof.Machine.execBrev sd sa s
  | .addi sd sa imm => Sys2Proof.Machine.execAddi sd sa imm s
  | .andi sd sa imm => Sys2Proof.Machine.execAndi sd sa imm s
  | .ori sd sa imm => Sys2Proof.Machine.execOri sd sa imm s
  | .xori sd sa imm => Sys2Proof.Machine.execXori sd sa imm s
  | .shli sd sa amt => Sys2Proof.Machine.execShli sd sa amt s
  | .shri sd sa amt => Sys2Proof.Machine.execShri sd sa amt s
  | .sari sd sa amt => Sys2Proof.Machine.execSari sd sa amt s
  | .li sd imm => Sys2Proof.Machine.execLi sd imm s
  | .lih sd imm => Sys2Proof.Machine.execLih sd imm s
  | .cmpi cc sd sa imm => Sys2Proof.Machine.execCmpi cc sd sa imm s
  | .fadd sd sa sb => Sys2Proof.Machine.execFadd sd sa sb s
  | .fsub sd sa sb => Sys2Proof.Machine.execFsub sd sa sb s
  | .fmul sd sa sb => Sys2Proof.Machine.execFmul sd sa sb s
  | .ffma sd sa sb sc => Sys2Proof.Machine.execFfma sd sa sb sc s
  | .fmin sd sa sb => Sys2Proof.Machine.execFmin sd sa sb s
  | .fmax sd sa sb => Sys2Proof.Machine.execFmax sd sa sb s
  | .fcmp cc sd sa sb => Sys2Proof.Machine.execFcmp cc sd sa sb s
  | .fcvt k sd sa => Sys2Proof.Machine.execFcvt k sd sa s
  | .j disp => Sys2Proof.Machine.execJ disp s
  | .jr sa => Sys2Proof.Machine.execJr sa s
  | .call f1 disp => Sys2Proof.Machine.execCall f1 disp s
  | .callr sd sa => Sys2Proof.Machine.execCallr sd sa s
  | .ret sa => Sys2Proof.Machine.execRet sa s
  | .bz f1 disp => Sys2Proof.Machine.execBz f1 disp s
  | .bnz f1 disp => Sys2Proof.Machine.execBnz f1 disp s
  | .bcmp cc f1 f2 disp => Sys2Proof.Machine.execBcmp cc f1 f2 disp s
  | .loop sa last => Sys2Proof.Machine.execLoop sa last s
  | .loopi count last => Sys2Proof.Machine.execLoopi count last s
  | .gld size sd base disp => Sys2Proof.Machine.execGld size sd base disp s
  | .gldQ size sd base disp => Sys2Proof.Machine.execGldQ size sd base disp s
  | .gst size sd base disp => Sys2Proof.Machine.execGst size sd base disp s
  | .gamo f size sd base disp sv => Sys2Proof.Machine.execGamo f size sd base disp sv s
  | .globalLoadComplete h k => Sys2Proof.Machine.execGlobalLoadComplete h k s
  | .csrr sd n => Sys2Proof.Machine.execCsrr sd n s
  | .csrw n sa => Sys2Proof.Machine.execCsrw n sa s
  | .svc n => Sys2Proof.Machine.execSvc n s
  | .brk n => Sys2Proof.Machine.execBrk n s
  | .tret => Sys2Proof.Machine.execTret s
  | .tsc sd => Sys2Proof.Machine.execTsc sd s
  | .ixpop q sd => Sys2Proof.Machine.execIxpop q sd s
  | .ixpeek q sd sa => Sys2Proof.Machine.execIxpeek q sd sa s
  | .vadd u td m a b t => Sys2Proof.Machine.execVadd u td m a b t s
  | .vsub u td m a b t => Sys2Proof.Machine.execVsub u td m a b t s
  | .vmul u td m a b t => Sys2Proof.Machine.execVmul u td m a b t s
  | .vfma u td m a b c t => Sys2Proof.Machine.execVfma u td m a b c t s
  | .vfms u td m a b c t => Sys2Proof.Machine.execVfms u td m a b c t s
  | .vfnma u td m a b c t => Sys2Proof.Machine.execVfnma u td m a b c t s
  | .vmin u td m a b t => Sys2Proof.Machine.execVmin u td m a b t s
  | .vmax u td m a b t => Sys2Proof.Machine.execVmax u td m a b t s
  | .vabs u td m a t => Sys2Proof.Machine.execVabs u td m a t s
  | .vneg u td m a t => Sys2Proof.Machine.execVneg u td m a t s
  | .vcmp u cc md m a b t => Sys2Proof.Machine.execVcmp u cc md m a b t s
  | .vsel u td m a b t => Sys2Proof.Machine.execVsel u td m a b t s
  | .vclamp u td m a b c t => Sys2Proof.Machine.execVclamp u td m a b c t s
  | .viadd u td m a b t => Sys2Proof.Machine.execViadd u td m a b t s
  | .visub u td m a b t => Sys2Proof.Machine.execVisub u td m a b t s
  | .vimul u td m a b t => Sys2Proof.Machine.execVimul u td m a b t s
  | .vimulh u td m a b t => Sys2Proof.Machine.execVimulh u td m a b t s
  | .vshl u td m a b t => Sys2Proof.Machine.execVshl u td m a b t s
  | .vshr u td m a b t => Sys2Proof.Machine.execVshr u td m a b t s
  | .vsar u td m a b t => Sys2Proof.Machine.execVsar u td m a b t s
  | .vand u td m a b t => Sys2Proof.Machine.execVand u td m a b t s
  | .vor u td m a b t => Sys2Proof.Machine.execVor u td m a b t s
  | .vxor u td m a b t => Sys2Proof.Machine.execVxor u td m a b t s
  | .vnot u td m a t => Sys2Proof.Machine.execVnot u td m a t s
  | .vicmp u cc md m a b t => Sys2Proof.Machine.execVicmp u cc md m a b t s
  | .vimin u td m a b t => Sys2Proof.Machine.execVimin u td m a b t s
  | .vimax u td m a b t => Sys2Proof.Machine.execVimax u td m a b t s
  | .vpopc u td m a t => Sys2Proof.Machine.execVpopc u td m a t s
  | .vclz u td m a t => Sys2Proof.Machine.execVclz u td m a t s
  | .vcvt u td m a t src part => Sys2Proof.Machine.execVcvt u td m a t src part s
  | .vpack u scale td a t ktype q => Sys2Proof.Machine.execVpack u scale td a t ktype q s
  | .vunpack u td m a b t xv q => Sys2Proof.Machine.execVunpack u td m a b t xv q s
  | .vmov u td m a t => Sys2Proof.Machine.execVmov u td m a t s
  | .vmovs u td m sb t => Sys2Proof.Machine.execVmovs u td m sb t s
  | .vmovi u td m imm t => Sys2Proof.Machine.execVmovi u td m imm t s
  | .vext u sd a sb t => Sys2Proof.Machine.execVext u sd a sb t s
  | .vins u td a sb sc t => Sys2Proof.Machine.execVins u td a sb sc t s
  | .viota u td m sb t => Sys2Proof.Machine.execViota u td m sb t s
  | .vrotr u td m a k t => Sys2Proof.Machine.execVrotr u td m a k t s
  | .vrotc u td m a k t => Sys2Proof.Machine.execVrotc u td m a k t s
  | .vbcr u td m a k t => Sys2Proof.Machine.execVbcr u td m a k t s
  | .vbcc u td m a k t => Sys2Proof.Machine.execVbcc u td m a k t s
  | .vredr u op td m a t => Sys2Proof.Machine.execVredr u op td m a t s
  | .vredc u op td m a t => Sys2Proof.Machine.execVredc u op td m a t s
  | .vperm u td m a b t => Sys2Proof.Machine.execVperm u td m a b t s
  | .vrcp u td m a t => Sys2Proof.Machine.execVrcp u td m a t s
  | .vrsq u td m a t => Sys2Proof.Machine.execVrsq u td m a t s
  | .vexp2 u td m a t => Sys2Proof.Machine.execVexp2 u td m a t s
  | .vlog2 u td m a t => Sys2Proof.Machine.execVlog2 u td m a t s
  | .vmerge u desc idx hi td m a b t => Sys2Proof.Machine.execVmerge u desc idx hi td m a b t s
  | .vsort u desc idx td m a t => Sys2Proof.Machine.execVsort u desc idx td m a t s
  | .vtopk u least idx td m a k t => Sys2Proof.Machine.execVtopk u least idx td m a k t s
  | .vbound u td m a b c g => Sys2Proof.Machine.execVbound u td m a b c g s
  | .mand u md ma mb => Sys2Proof.Machine.execMand u md ma mb s
  | .mor u md ma mb => Sys2Proof.Machine.execMor u md ma mb s
  | .mxor u md ma mb => Sys2Proof.Machine.execMxor u md ma mb s
  | .mnot u md ma => Sys2Proof.Machine.execMnot u md ma s
  | .mpopc u sd ma t => Sys2Proof.Machine.execMpopc u sd ma t s
  | .mfirst u sd ma t => Sys2Proof.Machine.execMfirst u sd ma t s
  | .mset u md k => Sys2Proof.Machine.execMset u md k s
  | .cheval clamp td m fa b => Sys2Proof.Machine.execCheval clamp td m fa b s
  | .chfit fd ta sc n => Sys2Proof.Machine.execChfit fd ta sc n s
  | .chadd fd fa fb => Sys2Proof.Machine.execChadd fd fa fb s
  | .chsub fd fa fb => Sys2Proof.Machine.execChsub fd fa fb s
  | .chmul fd fa fb => Sys2Proof.Machine.execChmul fd fa fb s
  | .chscl addv fd fa sb => Sys2Proof.Machine.execChscl addv fd fa sb s
  | .chcmp fd fa fb n => Sys2Proof.Machine.execChcmp fd fa fb n s
  | .chint fd fa => Sys2Proof.Machine.execChint fd fa s
  | .chdif fd fa => Sys2Proof.Machine.execChdif fd fa s
  | .chroot td sb fa row => Sys2Proof.Machine.execChroot td sb fa row s
  | .chtrn fd fa tol n => Sys2Proof.Machine.execChtrn fd fa tol n s
  | .chdom k => Sys2Proof.Machine.execChdom k s
  | .chmov k => Sys2Proof.Machine.execChmov k s
  | .chfree fd => Sys2Proof.Machine.execChfree fd s
  | .functionOpComplete h => Sys2Proof.Machine.execFunctionOpComplete h s
  | .mcall lo acc out tn rtn => Sys2Proof.Machine.execMcall lo acc out tn rtn s
  | .msetp p sa => Sys2Proof.Machine.execMsetp p sa s
  | .msetpi p imm => Sys2Proof.Machine.execMsetpi p imm s
  | .mstat sd lo => Sys2Proof.Machine.execMstat sd lo s
  | .mpload rtn ta => Sys2Proof.Machine.execMpload rtn ta s
  | .mcancel lo => Sys2Proof.Machine.execMcancel lo s
  | .matrixCallStart core => Sys2Proof.Machine.execMatrixCallStart core s
  | .matrixCallResume core => Sys2Proof.Machine.execMatrixCallResume core s
  | .mploadApply core => Sys2Proof.Machine.execMploadApply core s
  | .agset g pb w pe pl px off pitch s0 s1 s2 => Sys2Proof.Machine.execAgset g pb w pe pl px off pitch s0 s1 s2 s
  | .agmc g mode members src => Sys2Proof.Machine.execAgmc g mode members src s
  | .mzero => Sys2Proof.Machine.execMzero s
  | .mma fa fb xv => Sys2Proof.Machine.execMma fa fb xv s
  | .mloop l src p last count => Sys2Proof.Machine.execMloop l src p last count s
  | .mend l => Sys2Proof.Machine.execMend l s
  | .mout => Sys2Proof.Machine.execMout s
  | .mcount l p rd cap off => Sys2Proof.Machine.execMcount l p rd cap off s
  | .myield => Sys2Proof.Machine.execMyield s
  | .mstop => Sys2Proof.Machine.execMstop s
  | .multicastTimeout core => Sys2Proof.Machine.execMulticastTimeout core s
  | .ldt clr wt td base stride rows disp => Sys2Proof.Machine.execLdt clr wt td base stride rows disp s
  | .ldrw clr wt td base srow rows disp => Sys2Proof.Machine.execLdrw clr wt td base srow rows disp s
  | .ldg clr wt td base sp rows disp q => Sys2Proof.Machine.execLdg clr wt td base sp rows disp q s
  | .ldx clr wt d td base tx => Sys2Proof.Machine.execLdx clr wt d td base tx s
  | .lds clr wt size sd base disp => Sys2Proof.Machine.execLds clr wt size sd base disp s
  | .ldf clr wt fd base disp => Sys2Proof.Machine.execLdf clr wt fd base disp s
  | .ldm clr wt md base disp => Sys2Proof.Machine.execLdm clr wt md base disp s
  | .stt fill ta base stride rows disp => Sys2Proof.Machine.execStt fill ta base stride rows disp s
  | .strw fill ta base srow rows disp => Sys2Proof.Machine.execStrw fill ta base srow rows disp s
  | .stx fill d ta base tx => Sys2Proof.Machine.execStx fill d ta base tx s
  | .sts fill size sa base disp => Sys2Proof.Machine.execSts fill size sa base disp s
  | .stf fill fa base disp => Sys2Proof.Machine.execStf fill fa base disp s
  | .stm fill ma base disp => Sys2Proof.Machine.execStm fill ma base disp s
  | .scor fill d ta base tx => Sys2Proof.Machine.execScor fill d ta base tx s
  | .scadd fill d ta base tx => Sys2Proof.Machine.execScadd fill d ta base tx s
  | .scmax fill uns d ta base tx => Sys2Proof.Machine.execScmax fill uns d ta base tx s
  | .scmin fill uns d ta base tx => Sys2Proof.Machine.execScmin fill uns d ta base tx s
  | .sete base stride rows disp => Sys2Proof.Machine.execSete base stride rows disp s
  | .setf base stride rows disp => Sys2Proof.Machine.execSetf base stride rows disp s
  | .loadComplete h k => Sys2Proof.Machine.execLoadComplete h k s
  | .remoteAccessPerform h k => Sys2Proof.Machine.execRemoteAccessPerform h k s
  | .copy ch n sa sb snap asof gather bar => Sys2Proof.Machine.execCopy ch n sa sb snap asof gather bar s
  | .cbatch ch => Sys2Proof.Machine.execCbatch ch s
  | .cwait ch m => Sys2Proof.Machine.execCwait ch m s
  | .publish ch => Sys2Proof.Machine.execPublish ch s
  | .ctset n ta => Sys2Proof.Machine.execCtset n ta s
  | .ctsetCode k ta => Sys2Proof.Machine.execCtsetCode k ta s
  | .cstat sd ch sel clr => Sys2Proof.Machine.execCstat sd ch sel clr s
  | .copyComplete h ch k => Sys2Proof.Machine.execCopyComplete h ch k s
  | .copyFault h ch k => Sys2Proof.Machine.execCopyFault h ch k s
  | .ixscan q row t ta sa sb keep rate => Sys2Proof.Machine.execIxscan q row t ta sa sb keep rate s
  | .ixbmap q sa sc sb keep rate => Sys2Proof.Machine.execIxbmap q sa sc sb keep rate s
  | .ixrle q sa sc sb keep rate => Sys2Proof.Machine.execIxrle q sa sc sb keep rate s
  | .ixclr q => Sys2Proof.Machine.execIxclr q s
  | .spred q md ta sa sb n1 keep rate => Sys2Proof.Machine.execSpred q md ta sa sb n1 keep rate s
  | .guard q ma tu sa sb sc n1 keep rate => Sys2Proof.Machine.execGuard q ma tu sa sb sc n1 keep rate s
  | .indexProducerPush h q => Sys2Proof.Machine.execIndexProducerPush h q s
  | .dqry kind td sa sb => Sys2Proof.Machine.execDqry kind td sa sb s
  | .dqryQ kind td sa sb => Sys2Proof.Machine.execDqryQ kind td sa sb s
  | .dqryComplete h => Sys2Proof.Machine.execDqryComplete h s
  | .dscan q pred sa sb sc ta score sd keep rate => Sys2Proof.Machine.execDscan q pred sa sb sc ta score sd keep rate s
  | .drefr sa sb => Sys2Proof.Machine.execDrefr sa sb s
  | .rcallR re nt tn sa sb sc sd => Sys2Proof.Machine.execRcallR re nt tn sa sb sc sd s
  | .rcallQ re nt tn sa sb sc sd => Sys2Proof.Machine.execRcallQ re nt tn sa sb sc sd s
  | .rstat ack sd sa => Sys2Proof.Machine.execRstat ack sd sa s
  | .promote sa sb sc => Sys2Proof.Machine.execPromote sa sb sc s
  | .remoteCallStart h => Sys2Proof.Machine.execRemoteCallStart h s
  | .replyArrival h k => Sys2Proof.Machine.execReplyArrival h k s
  | .replyTimeout h k => Sys2Proof.Machine.execReplyTimeout h k s
  | .callRunLimit h => Sys2Proof.Machine.execCallRunLimit h s
  | .lnseq sa => Sys2Proof.Machine.execLnseq sa s
  | .lnwait sd => Sys2Proof.Machine.execLnwait sd s
  | .dfence => Sys2Proof.Machine.execDfence s
  | .bmac sd sa sb sc n => Sys2Proof.Machine.execBmac sd sa sb sc n s
  | .rret ta sa => Sys2Proof.Machine.execRret ta sa s
  | .sequencerComplete d => Sys2Proof.Machine.execSequencerComplete d s
  | .sequencerStop d => Sys2Proof.Machine.execSequencerStop d s
  | .sequencerSuspend d => Sys2Proof.Machine.execSequencerSuspend d s
  | .sequencerResume d => Sys2Proof.Machine.execSequencerResume d s
  | .ordinaryAccessArrival d => Sys2Proof.Machine.execOrdinaryAccessArrival d s
  | .bmacComplete d => Sys2Proof.Machine.execBmacComplete d s
  | .postedWriteDrain d => Sys2Proof.Machine.execPostedWriteDrain d s
  | .bset clr k sa => Sys2Proof.Machine.execBset clr k sa s
  | .binc k sa sb n => Sys2Proof.Machine.execBinc k sa sb n s
  | .waitb k => Sys2Proof.Machine.execWaitb k s
  | .waitany sd mask => Sys2Proof.Machine.execWaitany sd mask s
  | .qend => Sys2Proof.Machine.execQend s
  | .fork sa sb disp => Sys2Proof.Machine.execFork sa sb disp s
  | .join => Sys2Proof.Machine.execJoin s
  | .exit => Sys2Proof.Machine.execExit s
  | .yield => Sys2Proof.Machine.execYield s
  | .gjoin g => Sys2Proof.Machine.execGjoin g s
  | .gleave g => Sys2Proof.Machine.execGleave g s
  | .gbar g => Sys2Proof.Machine.execGbar g s
  | .cbar => Sys2Proof.Machine.execCbar s
  | .drain => Sys2Proof.Machine.execDrain s
  | .prio sa n => Sys2Proof.Machine.execPrio sa n s
  | .spawng g sa sb disp => Sys2Proof.Machine.execSpawng g sa sb disp s
  | .fencel => Sys2Proof.Machine.execFencel s
  | .halt sa => Sys2Proof.Machine.execHalt sa s
  | .strandEnd h => Sys2Proof.Machine.execStrandEnd h s
  | .trapEntry core => Sys2Proof.Machine.execTrapEntry core s
  | .safePointOverrun h => Sys2Proof.Machine.execSafePointOverrun h s
  | .quantumCommit l => Sys2Proof.Machine.execQuantumCommit l s
  | .qwQuantumEnd h => Sys2Proof.Machine.execQwQuantumEnd h s
  | .qbQuantumEnd h => Sys2Proof.Machine.execQbQuantumEnd h s
  | .promotionCopyDone k => Sys2Proof.Machine.execPromotionCopyDone k s
  | .contextTakeWork h => Sys2Proof.Machine.execContextTakeWork h s
  | .stagingComplete l n => Sys2Proof.Machine.execStagingComplete l n s
  | .agingTick die => Sys2Proof.Machine.execAgingTick die s
  | .clusterReserve die => Sys2Proof.Machine.execClusterReserve die s
  | .preemptRequest die k => Sys2Proof.Machine.execPreemptRequest die k s
  | .strandSave h => Sys2Proof.Machine.execStrandSave h s
  | .strandResume h => Sys2Proof.Machine.execStrandResume h s
  | .targetedSelfTest src => Sys2Proof.Machine.execTargetedSelfTest src s
  | .rowSelfTest pa => Sys2Proof.Machine.execRowSelfTest pa s
  | .digestAreaSelfTest keeper => Sys2Proof.Machine.execDigestAreaSelfTest keeper s
  | .flitReceive link seqNo good payload => Sys2Proof.Machine.execFlitReceive link seqNo good payload s
  | .replayRequest link seqNo => Sys2Proof.Machine.execReplayRequest link seqNo s
  | .laneRetire link lane => Sys2Proof.Machine.execLaneRetire link lane s
  | .messageReceive src seqNo lseq q key granules adds notify => Sys2Proof.Machine.execMessageReceive src seqNo lseq q key granules adds notify s
  | .messageAck dst seqNo => Sys2Proof.Machine.execMessageAck dst seqNo s
  | .messageResend k => Sys2Proof.Machine.execMessageResend k s
  | .doorbell v => Sys2Proof.Machine.execDoorbell v s
  | .registerWrite off v => Sys2Proof.Machine.execRegisterWrite off v s
  | .launch packet => Sys2Proof.Machine.execLaunch packet s
  | .map va w0 w1 attr => Sys2Proof.Machine.execMap va w0 w1 attr s
  | .unmap va => Sys2Proof.Machine.execUnmap va s
  | .hostcopy ha va len dir => Sys2Proof.Machine.execHostcopy ha va len dir s
  | .asfortMpload rtn ha => Sys2Proof.Machine.execAsfortMpload rtn ha s
  | .region ha => Sys2Proof.Machine.execRegion ha s
  | .regionDelete ha => Sys2Proof.Machine.execRegionDelete ha s
  | .tierset va frame => Sys2Proof.Machine.execTierset va frame s
  | .checkpoint ha len => Sys2Proof.Machine.execCheckpoint ha len s
  | .restore ha len => Sys2Proof.Machine.execRestore ha len s
  | .monitorArm src quantity w origin => Sys2Proof.Machine.execMonitorArm src quantity w origin s
  | .monitorRead src ha => Sys2Proof.Machine.execMonitorRead src ha s
  | .monitorClear src => Sys2Proof.Machine.execMonitorClear src s
  | .selftest src => Sys2Proof.Machine.execSelftest src s
  | .attest nonce report => Sys2Proof.Machine.execAttest nonce report s
  | .reset modno route matrixLib droneLib => Sys2Proof.Machine.execReset modno route matrixLib droneLib s
  | .powerOn => Sys2Proof.Machine.execPowerOn s
  | .thermalLimit die hot => Sys2Proof.Machine.execThermalLimit die hot s
  | .thermalTrip => Sys2Proof.Machine.execThermalTrip s
  | .foragerGranuleWrite h ch k => Sys2Proof.Machine.execForagerGranuleWrite h ch k s
  | .dscanComplete h q => Sys2Proof.Machine.execDscanComplete h q s
  | .replyAcknowledgement h k => Sys2Proof.Machine.execReplyAcknowledgement h k s

end Sys2Proof.Machine
end

