-- ==== Sys2Proof/Machine/Rom.lean ====
section
/-!
DEFINITION. The ROM trap dispatcher as it behaves in the supervisor context: the jump to a launch's handler and the default actions
(R98, R138, R328).
-/
namespace Sys2Proof.Machine

/-- The SC instruction of the bundle at TPC of context `h`. -/
def trappedScalar (s : State) (h : Nat) : Option Instr :=
  match fetch (modHart s h fun c => { c with pc := c.csr.tpc }) h with
  | .ok b =>
    (match (decodeBundle b).head? with
     | some x => (match x.dec with
       | .ok i => some i
       | _ => none)
     | none => none)
  | .error _ => none

/-- May every byte of a misaligned access be read, or written? -/
def bytesAllowed (s : State) (a n : Nat) (store : Bool) : Bool :=
  a + n ≤ 2 ^ 56 && (List.range n).all fun k => match findPage s.pages (a + k) with
    | some (_, p) => !s.remotePage p && (if store then p.wr && p.rep != 1 else p.rd)
    | none => false

/-- The origin of poison that the first bad byte of an emulated load gives. -/
def bytePoison (s : State) (a n : Nat) : Option Byte :=
  (List.range n).findSome? fun k => match findPage s.pages (a + k) with
    | some (_, p) => if p.rep = 1 then some 0x0D else if vbad s.image (a + k) 1 then some 0x14 else none
    | none => none

/-- The handler is over: context TSRC resumes, its SC slot skipped. -/
def returnSkipping (s : State) (c : Nat) : State := returnTrap (modCore s c fun k => { k with tskip := 1 }) c

/-- A misaligned GLD, byte by byte, of the strand's view of memory; a bad line that it meets is logged and tested (R335). -/
def emulateLoad (s : State) (c h n : Nat) (sd : SReg) (a : Nat) : State :=
  let o := hart s h
  let g : GLoad :=
    { dst := sd.toNat, addr := a, size := n, q := none, launch := o.who.launch, key := o.csr.skey,
      ord := (launch s o.who.launch).nextOrd, base := 0, page := Page.absent }
  let bytes := (List.range n).map fun k => (forwarded s g (a + k)).getD (readerOf s.image (a + k))
  let s := if bytePoison s a n = some 0x14 then readError s s.image a n else s
  let s := modHart s h fun x => match bytePoison s a n with
    | some b => x.poisonScalar sd.toNat b
    | none => x.fillScalar sd.toNat (BitVec.ofNat 64 (leNat bytes))
  returnSkipping s c

/-- A misaligned GST, one write unit of the strand for each byte. -/
def emulateStore (s : State) (c n : Nat) (v : Word) (a : Nat) : State :=
  let bytes := natBytes v.toNat n
  let s := { s with cur := 6 * c + 4 }
  let s := (List.range n).foldl (fun s k => addUnit s (.gst (a + k) [nth 0 bytes k])) s
  returnSkipping s c

/-- The last row of R98: an event TRAP, then HALT with the cause. -/
def trapAction (s : State) (c h : Nat) : State :=
  let k := (hart s h).csr
  haltLaunch (logEv s (srcCore s c) .trap [k.tcause, k.tslot, k.tpc, k.tinfo, k.skey]) (6 * c + 4) k.tcause

/-- The default action for the trap of context `h`. -/
def defaultAction (s : State) (c h : Nat) : State :=
  let x := hart s h
  let k := x.csr
  match k.tcause.toNat with
  | 0x06 =>
    (match trappedScalar s h with
     | some (.gld size sd base disp) =>
       let a := (globalAddr x base disp).toNat
       if bytesAllowed s a (2 ^ size.toNat) false then emulateLoad s c h (2 ^ size.toNat) sd a else trapAction s c h
     | some (.gst size sd base disp) =>
       let a := (globalAddr x base disp).toNat
       if bytesAllowed s a (2 ^ size.toNat) true then emulateStore s c (2 ^ size.toNat) (x.s sd) a else trapAction s c h
     | _ => trapAction s c h)
  | 0x11 => returnTrap (logEv s (srcCore s c) .break [k.tpc, low 32 k.tinfo, k.skey]) c
  | 0x12 =>
    if low 32 k.tinfo = 0 then returnTrap (logEv s (srcCore s c) .svc [x.s 1, x.s 2]) c else trapAction s c h
  | _ => trapAction s c h

/-- The drones whose channels the ROM reads for the trap of context TSRC: the bundle of a misaligned access, and the bytes of its load. -/
def romChannels (s : State) (c : Nat) : List Nat :=
  let h := 6 * c + (core s c).tsrc.toNat % 8
  let x := hart s h
  if x.csr.tcause.toNat = 0x06 ∧ ((hart s (6 * c + 4)).pc ≠ romEntry ∨ (launch s x.who.launch).handler = 0) then
    distinct (channelsOf s (x.csr.tpc &&& ~~~0x3F#64).toNat 64 ++ (match trappedScalar s h with
      | some (.gld size _ base disp) => channelsOf s (globalAddr x base disp).toNat (2 ^ size.toNat)
      | _ => []))
  else []

/-- What the ROM does for the trap of context TSRC: the launch's handler starts with s1 to s5, or the default action is taken. -/
def romTurn (s : State) (c : Nat) : State :=
  let n := (core s c).tsrc.toNat % 8
  let h := 6 * c + n
  let x := hart s h
  let handler := (launch s x.who.launch).handler
  if (hart s (6 * c + 4)).pc = romEntry ∧ handler ≠ 0 then
    modHart s (6 * c + 4) fun y =>
      let ws : List Word := [BitVec.ofNat 64 n, x.csr.tcause, x.csr.tpc, x.csr.tinfo, x.csr.tslot]
      let y := (ws.zip (List.range 5)).foldl (fun (y : Ctx) w => y.fillScalar (w.2 + 1) w.1) y
      { y with pc := handler }
  else defaultAction s c h

end Sys2Proof.Machine
end

