-- ==== Sys2Proof/Machine/Turns.lean ====
section
/-!
DEFINITION. Who moves: a core's choice of context (R195), a drone, and the other turns of `Turn`.
-/
namespace Sys2Proof.Machine

/-- What a turn leads to: a state at once, one instruction or event to execute, or the slots of an open bundle. -/
inductive Move
  | done (s : State)
  | single (s : State) (i : Instr)
  | bundle (s : State) (is : List Instr)
deriving DecidableEq, Repr

/-- The contexts of a core in the order of R195: the issuing one, the supervisor, the guest, the strands in rotation. -/
def candidates (k : Core) : List Nat :=
  let order := [4, 5] ++ (List.range 4).map fun i => (k.last + 1 + i) % 4
  match k.issuing with
  | some x => x :: order
  | none => order

/-- Issue from the first context that does not block (R195). A call that waits for the guest context starts in its turn. -/
def tryContexts (s : State) (c : Nat) : List Nat → Move
  | [] => .done s
  | x :: xs =>
    let h := 6 * c + x
    let s := if x = 5 then startCall s h else s
    if (hart s h).life != .running then tryContexts s c xs
    else if x == 4 && inRom s c then .done (ordinaryAccess s (romChannels s c) (.rom c) fun s => romTurn s c)
    else
      let e := examine s h
      match e.verdict with
      | .go => .bundle (openBundle e.state e.mode e.instrs) e.instrs
      | .trap t => .done (trapBundle e.state h t)
      | .block => tryContexts (blockBundle e.state h) c xs

/-- A core's turn. A core that has stopped on a core fault issues nothing (R96). -/
def coreTurn (s : State) (c : Nat) : Move := if (core s c).faulted then .done s else tryContexts s c (candidates (core s c))

/-- A drone's turn (R356). -/
def droneTurn (s : State) (d : Nat) : Move :=
  let h := Config.droneBase + d
  if (hart s h).life != .running then .done s
  else
    let e := examine s h
    match e.verdict with
    | .go => .bundle (openBundle e.state e.mode e.instrs) e.instrs
    | .trap t => .done (trapBundle e.state h t)
    | .block => .done e.state

/-- The turn that a state takes: the one it names, or any. -/
def turnOf (s : State) : Turn := s.turn.getD (Config.choice s.tick)

/-- The reply of a call is lost on its way (R368). -/
def loseReply (s : State) (h k : Nat) : State :=
  modHart s h fun c => { c with calls := match c.calls.drop k with
    | x :: _ => setNth { x with reply := none } c.calls k
    | [] => c.calls }

/-- Time passes, and the records stamped in it reach the event ring (R396). One counter serves every die: the skew that R3 allows is 0
(DESIGN CHOICE, notes/assumptions/53.md). -/
def elapse (s : State) (ns : Nat) : State := drainEvents { countFirst s ns with now := s.now + ns }

/-- The events that take place whether or not the module runs (R390, R393, R400). -/
def outside : Instr → Bool
  | .powerOn | .doorbell .. | .registerWrite .. | .thermalLimit .. | .thermalTrip => true
  | _ => false

/-- The commands of the Asfort set (R392). -/
def hostCommand : Instr → Bool
  | .launch .. | .map .. | .unmap .. | .hostcopy .. | .asfortMpload .. | .region .. | .regionDelete .. | .tierset .. | .checkpoint ..
  | .restore .. | .monitorArm .. | .monitorRead .. | .monitorClear .. | .selftest .. | .attest .. | .reset .. => true
  | _ => false

/-- The micro-operations (R223). -/
def isMicro : Instr → Bool
  | .agset .. | .agmc .. | .mzero | .mma .. | .mloop .. | .mend .. | .mout | .mcount .. | .myield | .mstop => true
  | _ => false

/-- Does an instruction take place by itself? A slot's instruction issues in its bundle, a micro-operation in its routine, a command from
the ring (R16, R222, R391). -/
def isEvent (i : Instr) : Bool := (slotOf i).isNone && !isMicro i && !hostCommand i

/-- The units of R401, by source number. -/
def isUnitNo (src : Nat) : Bool :=
  let d := srcDieOf src
  let i := srcIndex src
  match srcKind src with
  | 0x00 | 0x0A => d ≤ 4 && i == 0
  | 0x01 => d < 4 && i < 48
  | 0x02 => d < 4 && i < 64 * 48
  | 0x03 => d < 4 && i < 64 * 48 && i % 64 < 48
  | 0x04 => d < 4 && i < 128
  | 0x05 => d < 4 && i < 8
  | 0x06 => d == 4 && i < 128
  | 0x07 => d == 4 && i == 0
  | 0x08 => d < 4 && i < 2
  | 0x09 => d < 4 && i < 136
  | _ => false

/-- Is a physical address in DRAM (R317)? -/
def inDram (pa : Nat) : Bool := pa < 2 ^ 39 || (2 ^ 41 ≤ pa && pa < 2 ^ 42)

/-- Does a strike hit something that the module has (R1)? -/
def strikes : Strike → Bool
  | .comb c g => c < Config.cores && g < 2 ^ 18
  | .tile h r => (h < Config.droneBase + Config.drones) && r < 128
  | .line n | .correctedLine n => inDram (64 * n)
  | .microWord c a => c < Config.cores && a < 4096
  | .record _ => true
  | .corrected src | .lasting src => isUnitNo src
  | .lastingRow row => inDram (1024 * row)

/-- A state, and an instruction to execute in it if there is one. -/
def thenRun (p : State × Option Instr) : Move := match p.2 with
  | some i => .single p.1 i
  | none => .done p.1

/-- Does a turn take place? It moves something that the module has, 192 cores and 544 drones (R1). Before boot, after a trip and after a
refused boot the module runs nothing (R393, R400). -/
def mayMove (s : State) : Turn → Bool
  | .core c | .micro c => s.host.devState == 1 && c < Config.cores
  | .drone d | .seqStep d => s.host.devState == 1 && d < Config.drones
  | .event i => isEvent i && (s.host.devState == 1 || outside i)
  | .strike e => strikes e
  | _ => true

/-- The move of a state: the turn it names is used up. Messages that the end of the last launch left waiting have applied by then (R388). -/
def move (s : State) : Move :=
  let t := turnOf s
  let s := settleMsgs { s with turn := none, tick := s.tick + 1, bundle := Bundle.closed }
  if !mayMove s t then .done s
  else
    match t with
    | .core c => coreTurn s c
    | .drone d => droneTurn s d
    | .micro c => thenRun (microTurn s c)
    | .seqStep d => .done (seqCommand s d)
    | .firmware => thenRun (firmwareTurn s)
    | .elapse ns => .done (elapse s ns)
    | .event i => .single s i
    | .strike e => .done (strike s e)
    | .loseReply h k => .done (loseReply s h k)
    | .hostWrite a bytes => .done (hostPut s a bytes)
    | .sample src v => .done (takeSample s src v)

/-! ### One instruction placed for the next step -/

/-- The page that holds a placed bundle, at virtual and physical address `placedAt`: present, readable, executable (R319). -/
def placedAt : Nat := 0x10000
def placedPage : Page := { w0 := BitVec.ofNat 64 (2 ^ 63 + 2 ^ 62 + 2 ^ 60 + placedAt), w1 := 0, modno := 0, notify := none }

/-- Do the bits name an instruction that only a drone accepts (R52)? -/
def forDrone (nbits w : Nat) : Bool := match decodeTableWord nbits w with
  | some i => droneOnly i
  | none => false

/-- The machine with a bundle, its low `nbits` bits `w` and the rest zero, loaded at the pc of a context that runs and whose turn
it is: a strand of a running launch on core 0, or the call of drone 0 where only a drone accepts the instruction. -/
def placed (s : State) (nbits w : Nat) : State :=
  let s := { s with
    mem := mwrite s.mem placedAt (natBytes (w % 2 ^ nbits) 64)
    pages := tset Page.absent s.pages 1 { placedPage with modno := s.host.modno }
    host := { s.host with devState := 1 }
    launches := tset Launch.none s.launches 1 { Launch.none with ended := none } }
  let n : NewStrand :=
    { who := { Ident.none with launch := 1 }, pc := BitVec.ofNat 64 placedAt, args := [], skey := skeyOf 1 0 0, prio := 0,
      spmax := 65536, seed := 0, qnum := 1 }
  if forDrone nbits w then
    let m : CallMsg :=
      { caller := 0, skey := skeyOf 1 0 0, seqNo := 1, ordered := true, reissue := false, launch := 1, qnum := 1,
        entry := BitVec.ofNat 64 placedAt, payload := [], tile := 0 }
    { setHart s Config.droneBase { startCtx n with run := some { msg := m, started := s.now, banks := 0 } } with
      turn := some (.drone 0) }
  else { setHart s 0 (startCtx n) with turn := some (.core 0) }

end Sys2Proof.Machine
end

