-- ==== Sys2Proof/Machine/Step.lean ====
section
/-!
DEFINITION. One step of the machine, and the placing of one instruction where the next step fetches it.
-/
namespace Sys2Proof.Machine

/-- The slots of an open bundle take effect in slot order. -/
def runSlots : List Instr → State → Host.Outcome State Fault Refusal
  | [], s => .next s
  | i :: is, s =>
    match exec i s with
    | .next t => runSlots is t
    | .fault r => .fault r
    | .refused r => .refused r

/-- A bundle's slots, then its end. -/
def runBundle (is : List Instr) (s : State) : Host.Outcome State Fault Refusal :=
  match runSlots is s with
  | .next t => .next (closeBundle t)
  | .fault r => .fault r
  | .refused r => .refused r

/-- One step: the turn named by the state, or any turn, moves. -/
def step (s : State) : Host.Outcome State Fault Refusal :=
  match move s with
  | .done t => .next t
  | .single t i => exec i t
  | .bundle t is => runBundle is t

/-- The state with a bundle placed for its first context: see `placed`. -/
def State.withFetchWord (s : State) (nbits w : Nat) : State := placed s nbits w

end Sys2Proof.Machine
end

