-- ==== Sys2Proof/Safety.lean ====
section
/-!
DEFINITION. What counts as a safe run, and the terms the statements use: the invariant of the model's data, a bundle that is open, and
the shapes of the results that instructions put in flight.
-/
namespace Sys2Proof.Machine

/-! ### The invariant of the data -/

/-- A sparse memory is in its canonical form. -/
def Memory.wf (m : List Host.Cell) : Bool := memWf m

/-- The memories of the machine: DRAM, the host's memory, every comb and every cell store. -/
def State.memories (s : State) : List (List Host.Cell) :=
  [s.mem, s.host.mem] ++ s.cores.map (fun c => c.2.comb) ++ s.drones.map (fun d => d.2.cells)

/-- Every memory keeps its canonical form. -/
def State.memoriesOk (s : State) : Prop := ∀ m ∈ s.memories, Memory.wf m = true

/-! ### Bundles -/

/-- A bundle is open: what a meaning does here is the effect of one slot (R19, R99). -/
abbrev State.slotsOpen (s : State) : Prop := s.bundle.isOpen = true

/-! ### Channels -/

/-- No drone's sequencer runs, so no ordinary access waits for a channel, and none has a grant left from a run (R375). -/
def State.channelsFree (s : State) : Prop := ∀ d, (drone s d).sequencing = false ∧ (drone s d).granted = []

/-! ### Operands of the vector slots, by element -/

/-- Element `n` of source a. -/
def opA (s : State) (u : VUnit) (t : EType) (a : TSrc) (n : Nat) : Nat := tileElem t ((me s).src (latchPos u 0) a) n
/-- Element `n` of operand b: of a tile, or the low bits of a broadcast scalar (R40). -/
def opB (s : State) (u : VUnit) (t : EType) (b : BSrc) (n : Nat) : Nat := match b with
  | .tile x => tileElem t ((me s).src (latchPos u 1) x) n
  | .scalar r => ((me s).s r).toNat % 2 ^ t.bits
/-- Element `n` of source c. -/
def opC (s : State) (u : VUnit) (t : EType) (c : TSrc) (n : Nat) : Nat := tileElem t ((me s).src (latchPos u 2) c) n

/-! ### Results in flight -/

/-- `t` is `s` with one tile result in flight: it lands after `k` bundles (16 times as many on a drone) in the elements of `td` that
mask `m` governs, element `n` with the value and the flags of `f n`. -/
def TileResult (s t : State) (td : TReg) (m : MReg) (e : EType) (k : Nat) (f : Nat → Nat × BitVec 6) : Prop :=
  ∃ v : Tile,
    t = land s (.tile td.toNat v (elemMask e ((me s).mask m.toNat).val)) (vecLat s k)
      (orAll ((List.range (elemCount e)).map fun n => (f n).2)) ∧
    ∀ n, n < elemCount e → tileElem e v n = (f n).1 % 2 ^ e.bits

/-- The same with one draw taken for each element position under SR (R109). -/
def TileRounded (s t : State) (td : TReg) (m : MReg) (e : EType) (k : Nat) (f : Nat → Nat × BitVec 6) : Prop :=
  ∃ r, TileResult s r td m e k f ∧ t = takeDraws r (elemCount e)

/-- Is a landing to a register that the instruction names as its destination (R29)? -/
def Landing.within (u : Use) : Landing → Prop
  | .tile r _ _ => u.dT = [r]
  | .scalar r _ => u.dS = [r]
  | .mask r _ => u.dM = [r]
  | .param r _ => u.dP = [r]
  | .csr .. | .nothing => False

/-- The instruction names one destination register and no more. -/
def Use.single (u : Use) : Prop := u.dT.length + u.dS.length + u.dM.length + u.dF.length + u.dP.length = 1

/-- `t` is `s` with one result of the issuing context put in flight, to the one destination `u` names, and draws counted: every
register, every memory and every other piece of state is as it was. -/
def ResultsOnly (u : Use) (s t : State) : Prop :=
  ∃ (f : Flight) (n : Nat), u.single ∧ f.dst.within u ∧
    t = { setMe s { me s with flight := (me s).flight ++ [f] } with bundle := { s.bundle with draws := s.bundle.draws + n } }

/-- What a store of the ST slot writes on a core: the window address and the bytes of each piece (R193, R204, R207, R208); empty for
every other instruction. -/
def storeRanges (s : State) (i : Instr) : List (Nat × List Byte) :=
  let c := me s
  let at1 (base : SReg) (disp : BitVec 32) : Word := c.s base + disp.signExtend 64
  let rows (ta : TReg) (a p : Word) (n row0 : Nat) : List (Nat × List Byte) := (List.range n).map fun r =>
    ((a + BitVec.ofNat 64 r * p).toNat, natBytes (bitsOf (c.tile ta.toNat).val (2048 * ((row0 + r) % 16)) 2048) 256)
  match i with
  | .stt _ ta base str n disp => rows ta (at1 base disp) (if str = 0 then 256 else c.s str) (n.toNat + 1) 0
  | .strw _ ta base srow n disp => rows ta (at1 base disp) 256 (n.toNat + 1) ((c.s srow).toNat % 16)
  | .sts _ size sa base disp => [((at1 base disp).toNat, natBytes (c.s sa).toNat (2 ^ size.toNat))]
  | .stf _ fa base disp => [((at1 base disp).toNat, paddedImage (c.freg fa.toNat).fn)]
  | .stm _ ma base disp => [((at1 base disp).toNat, natBytes (c.mask ma.toNat).val.toNat 128)]
  | _ => []

/-- The instructions that compute: all they do is to put results in flight. -/
def computes : Instr → Bool
  | .add .. | .sub .. | .and .. | .or .. | .xor .. | .shl .. | .shr .. | .sar .. | .mul .. | .mulh .. | .mulhu .. | .div .. | .divu ..
  | .rem .. | .remu .. | .min .. | .max .. | .minu .. | .maxu .. | .sel .. | .cmp .. | .clz .. | .popc .. | .brev .. | .addi ..
  | .andi .. | .ori .. | .xori .. | .shli .. | .shri .. | .sari .. | .li .. | .lih .. | .cmpi .. | .fadd .. | .fsub .. | .fmul ..
  | .ffma .. | .fmin .. | .fmax .. | .fcmp .. | .fcvt .. | .csrr .. | .tsc .. | .vadd .. | .vsub .. | .vmul .. | .vfma .. | .vfms ..
  | .vfnma .. | .vmin .. | .vmax .. | .vabs .. | .vneg .. | .vcmp .. | .vsel .. | .vclamp .. | .viadd .. | .visub .. | .vimul ..
  | .vimulh .. | .vshl .. | .vshr .. | .vsar .. | .vand .. | .vor .. | .vxor .. | .vnot .. | .vicmp .. | .vimin .. | .vimax ..
  | .vpopc .. | .vclz .. | .vcvt .. | .vpack .. | .vunpack .. | .vmov .. | .vmovs .. | .vmovi .. | .vext .. | .vins .. | .viota ..
  | .vrotr .. | .vrotc .. | .vbcr .. | .vbcc .. | .vredr .. | .vredc .. | .vperm .. | .vrcp .. | .vrsq .. | .vexp2 .. | .vlog2 ..
  | .vmerge .. | .vsort .. | .vtopk .. | .vbound .. | .mand .. | .mor .. | .mxor .. | .mnot .. | .mpopc .. | .mfirst .. | .mset ..
  | .cheval .. | .msetp .. | .msetpi .. | .mstat .. => true
  | _ => false

end Sys2Proof.Machine
end

