-- ==== Sys2Proof/WellFormed.lean ====
section
/-!
DEFINITION. The well-formed instructions. The value checks themselves (`Instr.wf`) stand with the decoder that makes them, in
Sys2Proof/Decode.lean, one line for every constructor of `Instr`.
-/
namespace Sys2Proof

/-- An instruction that the encodings of chapters 01, 05 to 11, 18 and 19 admit. -/
abbrev WellFormed (i : Instr) : Prop := i.wf = true

/-- A well-formed instruction that a bundle's slot holds, the registers it names in range (R88). -/
abbrev WellFormedIn (t : Slot) (i : Instr) : Prop := slotOf i = some t ∧ WellFormed i ∧ i.inRange = true

end Sys2Proof
end

