-- ==== Sys2Proof/Certificates/Slice0/Obligations.lean ====
section
/-!
DEFINITION. The statements for the provers. Each docstring says which rules of spec/ the statement formalises.
-/
open Sys2Proof Sys2Proof.Machine

/-! ### Encodings -/

/-- O1. Words that the manual writes out bit by bit decode to the instructions it names: one slot of every family (R23, R39, R41,
R43 to R48, R223, R257 with the worked encodings of chapters 01, 05 to 11 and 13). -/
def Obligations.DecodeWords : Prop :=
  decodeSlot .sc 0x2018C00000100000 = .ok (.addi 3 3 64) ∧
  decodeSlot .sc 0x0920460000000000 = .ok (.mul 4 1 3) ∧
  decodeSlot .sc 0x47193FFFFFFF4800 = .ok (.bcmp .lt 3 4 0xFFFFFFFD) ∧
  decodeSlot .sc 0x490000200000C000 = .ok (.loopi 4 3) ∧
  decodeSlot .sc 0x5238800000043024 = .ok (.gamo .add 3 7 2 16 9) ∧
  decodeSlot .va 0x0408801414860000 = .ok (.vfma .va 4 2 (.reg false false 1) (.tile (.reg true false 5)) (.reg false true 6) .fp32) ∧
  decodeSlot .vb 0x5006001008000000 = .ok (.mand .vb 3 1 2) ∧
  decodeSlot .vb 0x690C005034000000 = .ok (.chroot 6 13 5 0) ∧
  decodeSlot .mx 0x0101084000000000 = .ok (.mcall false false true 8 2) ∧
  decodeSlot .ld 0x011021E600000100 = .ok (.ldt true true 8 2 3 3 0x100) ∧
  decodeSlot .st 0x071840020000000D = .ok (.scor false true 12 4 13) ∧
  decodeSlot .cp 0x0111443000000090 = .ok (.copy 1 5 2 3 false none none (some 4)) ∧
  decodeSlot .cp 0x190060BA05000F00 = .ok (.guard 0 1 5 16 11 20 15 false 0) ∧
  decodeSlot .sy 0x0D00000000000000 = .ok .cbar

/-- O2. For every well-formed instruction of a slot, with every operand at every value its encoding admits, decoding its word in
that slot gives the instruction back: no bit of an encoding is dropped. -/
def Obligations.DecodeEncode : Prop :=
  ∀ (t : Slot) (i : Instr), WellFormedIn t i → decodeSlot t (encodeSlot i) = .ok i

/-- O3. The same for the ten micro-operations of the matrix unit (R223) and for the mode byte (R31), whose every legal value decodes
to the mode that encodes to it. -/
def Obligations.MicroDecodeEncode : Prop :=
  (∀ g pb w pe pl px off pitch s0 s1 s2,
    decodeMicro (encodeMicro (.agset g pb w pe pl px off pitch s0 s1 s2)) = some (.agset g pb w pe pl px off pitch s0 s1 s2)) ∧
  (∀ g mode members src, decodeMicro (encodeMicro (.agmc g mode members src)) = some (.agmc g mode members src)) ∧
  (∀ fa fb xv, decodeMicro (encodeMicro (.mma fa fb xv)) = some (.mma fa fb xv)) ∧
  (∀ l src p last count, decodeMicro (encodeMicro (.mloop l src p last count)) = some (.mloop l src p last count)) ∧
  (∀ l, decodeMicro (encodeMicro (.mend l)) = some (.mend l)) ∧
  (∀ l p rd cap off, decodeMicro (encodeMicro (.mcount l p rd cap off)) = some (.mcount l p rd cap off)) ∧
  (∀ i ∈ [Instr.mzero, .mout, .myield, .mstop], decodeMicro (encodeMicro i) = some i) ∧
  (∀ m, decodeMode (encodeMode m) = some m) ∧
  (∀ b m, decodeMode b = some m → encodeMode m = b)

/-! ### Steps -/

/-- O4. A step of a core whose issuing context examines its bundle with the verdict to go: where no drone's sequencer runs on a
channel (R375) the decoded instructions of the bundle, the slots of TSKIP as NOP, are executed by `exec` in slot order on the opened
bundle, and the bundle closes (R19, R99, R195). That State.turn names who moves is the model's choice (notes/assumptions/4.md), as
is that messages left waiting apply as a move begins, `settleMsgs` (notes/assumptions/62.md). A step whose turn is an event of the
opcode table (`isEvent`: no slot instruction, micro-operation or host command, which issue in their bundle, routine or ring), the
module being in service, executes it: `exec` of that event; a turn of a core or drone that the module has not, above 191 or 543
(R1), moves nothing. Where no bundle is open, an instruction is a bundle of its own, which is the model's choice
(notes/assumptions/36.md): once its checks are passed it has the effect of its slot between the opening and the closing of that
bundle; else it traps or blocks as one. -/
def Obligations.StepRunsDecoded : Prop :=
  (∀ (s : State) (c x : Nat) (b : Line) (v : State),
     let q := settleMsgs { s with turn := none, tick := s.tick + 1, bundle := Bundle.closed }
     let h := 6 * c + x
     let r := beforeIssue q h
     let l := skipSlots (hart r h) (decodeBundle b)
     s.turn = some (.core c) → c < 192 → q.host.devState = 1 → (core q c).faulted = false → (core q c).issuing = some x →
     (hart q h).life = .running → (x = 4 → inRom q c = false) → early q h = none → q.channelsFree → fetch r h = .ok b →
     judge r h (decodeMode (modeByte b)) l = (v, .go) →
     step s = runBundle (instrsOf l) (openBundle v ((decodeMode (modeByte b)).getD Mode.zero) (instrsOf l))) ∧
  (∀ (s : State) (i : Instr) (c : Nat),
     let q := settleMsgs { s with turn := none, tick := s.tick + 1, bundle := Bundle.closed }
     (s.turn = some (.event i) → isEvent i = true → q.host.devState = 1 → step s = exec i q) ∧
     (s.turn = some (.core c) ∧ 192 ≤ c ∨ s.turn = some (.drone c) ∧ 544 ≤ c → step s = .next q)) ∧
  (∀ (t : Slot) (i : Instr) (s : State), slotOf i = some t → s.bundle.isOpen = false →
     let e := examineAlone s i
     (e.verdict = .go → e.instrs = [i] → exec i s = runBundle [i] (openBundle e.state e.mode [i])) ∧
     (∀ x, e.verdict = .trap x → exec i s = .next (trapBundle e.state s.cur x)) ∧
     (e.verdict = .block → exec i s = .next (blockBundle e.state s.cur)))

/-- O5. NOP does nothing, in every slot, so running the slots of a bundle is running it without its NOPs. A slot of opcode 0x00 is
NOP where its other bits are zero (in SY, but for the mode byte) and illegal otherwise; 64 zero bytes are eight NOPs with rounding
to nearest even, no saturation, no flush and no safe point (R24). -/
def Obligations.NopsDoNothing : Prop :=
  (∀ (t : Slot) (s : State), s.slotsOpen → exec (.nop t) s = .next s) ∧
  (∀ (t : Slot) (l m : List Instr) (s : State), (∀ r, runSlots l s = .next r → r.slotsOpen) →
    runSlots (l ++ .nop t :: m) s = runSlots (l ++ m) s) ∧
  (∀ (t : Slot) (w : Word), fld w 56 8 = 0 →
    decodeSlot t w = if (if t = .sy then fld w 8 48 = 0 else fld w 0 56 = 0) then .ok (.nop t) else .illegal) ∧
  instrsOf (decodeBundle 0) = Slot.all.map .nop ∧ decodeMode (modeByte 0) = some Mode.zero ∧
  Mode.zero = { rnd := .rne, sat := false, ftz := false, sp := false }

/-! ### Reset and invariants -/

/-- O6. The machine right after reset: combs zero with every granule full (R197), cell stores and bank accumulators zero (R356), the
CSRs of every context at their reset values (R85), the registers as a strand finds them (R78, R81, R83, R170), DEVSTATE 0 and both
rings empty (R390). The general registers' zeros before a first strand start, and the values of SEED, SPMAX, PRIO, SKEY, QNUM and
STATUS, to which R85 gives none before a launch, are the model's choice (notes/assumptions/1.md). The memories of the machine right
after reset have their canonical form. -/
def Obligations.ResetValues : Prop :=
  (let s := State.reset
   (∀ c a, mget (core s c).comb a = 0 ∧ (core s c).isEmpty (granule a) = false) ∧
   (∀ d a b, mget (drone s d).cells a = 0 ∧ tget 0 (drone s d).accs b = 0) ∧
   (∀ h n, csrGet h (hart s h) n = match n with
     | 0x00 => statusWord h false
     | 0x07 => 0x33800000
     | 0x0D | 0x0E => BitVec.allOnes 64
     | 0x12 => 64
     | 0x13 => 4096
     | _ => 0) ∧
   (∀ h r, (hart s h).tile r = TileReg.zero ∧ (hart s h).scalar r = ScalarReg.zero ∧ (hart s h).param r = 0 ∧
     (hart s h).freg r = FuncReg.zero ∧ ((hart s h).mask r).val = (if r = 0 then BitVec.allOnes 1024 else 0)) ∧
   s.host.devState = 0 ∧ s.host.head = s.host.tail ∧ s.host.evtHead = s.host.evtTail ∧ s.host.evtDrop = 0) ∧
  (State.reset.memoriesOk)

/-- O7. Every step keeps the canonical form of every memory: DRAM, the host's memory, the combs and the drones' cell stores. From
any state whose memories have it, a step that answers a next state answers one whose memories have it. -/
def Obligations.StepKeepsMemories : Prop :=
  ∀ s t : State, s.memoriesOk → step s = .next t → t.memoriesOk

/-- O8. The hard-wired registers: s0 reads as zero, never pending and never poisoned, and a write to it is discarded (R29, R81); m0
reads as all ones, and a write to it is discarded (R29, R78), whatever lands. -/
def Obligations.HardWiredRegisters : Prop :=
  (∀ (c : Ctx) (v : ScalarReg), c.scalar 0 = ScalarReg.zero ∧ c.setScalar 0 v = c) ∧
  (∀ (c : Ctx) (v : MaskReg), (c.mask 0).val = BitVec.allOnes 1024 ∧ (c.mask 0).pending = false ∧ (c.mask 0).poison = none ∧
    c.setMask 0 v = c) ∧
  (∀ (s : State) (h d : Nat) (v : Word) (m : Mask),
    hart (landOne s h { due := d, dst := .scalar 0 v, flags := 0 }) h = hart s h ∧
    hart (landOne s h { due := d, dst := .mask 0 m, flags := 0 }) h = hart s h)

/-! ### Landing -/

/-- O9. A result lands as the bundle of its number comes to issue, and not before: its register then holds the value, full and
unpoisoned, its flags are ORed into FLAGS, and nothing stays in flight; before that the context is as it was (R87, R89). A tile
result lands element by element under its mask: an element whose governing bit is 1 takes the new value, every other element keeps
its old one (R78, R146), and the tile is full (R79). -/
def Obligations.LandingRules : Prop :=
  (∀ (s : State) (h due : Nat) (sd : SReg) (v : Word) (g : BitVec 6),
     (hart s h).flight = [{ due := due, dst := .scalar sd.toNat v, flags := g }] → sd ≠ 0 →
     (due ≤ (hart s h).count →
       (hart (landDue s h) h).scalar sd.toNat = { val := v, pending := false, poison := none } ∧
       (hart (landDue s h) h).csr.flags = (hart s h).csr.flags ||| g.setWidth 64 ∧
       (hart (landDue s h) h).flight = []) ∧
     ((hart s h).count < due → hart (landDue s h) h = hart s h)) ∧
  (∀ (s : State) (h r due n : Nat) (v : Tile) (t : EType) (m : Mask) (g : BitVec 6), n < elemCount t →
     let c := hart (landOne s h { due := due, dst := .tile r v (elemMask t m), flags := g }) h
     (c.tile r).st = .full ∧
       tileElem t (c.tile r).val n = if govern t m n then tileElem t v n else tileElem t ((hart s h).tile r).val n)

/-- O10. The instructions that compute change nothing but results in flight (and the count of draws): in an open bundle each of them
answers a next state in which one result more is in flight, to the one destination register that the instruction names; every
register, every byte of memory, the pc, FLAGS, every special register and every other context are as they were (R29, R87, R89,
R146). -/
def Obligations.ComputationFrame : Prop :=
  ∀ (i : Instr) (s : State), s.slotsOpen → computes i = true → ∃ t, exec i s = .next t ∧ ResultsOnly (useOf i) s t

/-! ### Scalar integers -/

/-- O11. The results of the integer register forms but for division and bit counts: their values, their latencies, no flag (R120,
R121, R123). The bit counts: CLZ gives n with the highest one at bit 63 - n (64 for zero), POPC the number of ones, BREV the bits in
reverse (R121). The immediate forms: the immediate sign-extended, shift amounts 0 to 63, LIH's high half above the old low half
(R124). -/
def Obligations.IntegerResults : Prop :=
  (∀ (s : State) (sd sa sb sc : SReg), s.slotsOpen →
     let a := (me s).s sa
     let b := (me s).s sb
     let gives (i : Instr) (v : Word) (k : Nat) : Prop := exec i s = .next (landScalar s sd v k)
     gives (.add sd sa sb) (a + b) 1 ∧ gives (.sub sd sa sb) (a - b) 1 ∧ gives (.and sd sa sb) (a &&& b) 1 ∧
     gives (.or sd sa sb) (a ||| b) 1 ∧ gives (.xor sd sa sb) (a ^^^ b) 1 ∧ gives (.shl sd sa sb) (a <<< (b.toNat % 64)) 1 ∧
     gives (.shr sd sa sb) (a >>> (b.toNat % 64)) 1 ∧ gives (.sar sd sa sb) (a.sshiftRight (b.toNat % 64)) 1 ∧
     gives (.mul sd sa sb) (BitVec.ofNat 64 (a.toNat * b.toNat)) 3 ∧
     gives (.mulh sd sa sb) (BitVec.ofInt 64 (a.toInt * b.toInt / 2 ^ 64)) 3 ∧
     gives (.mulhu sd sa sb) (BitVec.ofNat 64 (a.toNat * b.toNat / 2 ^ 64)) 3 ∧
     gives (.min sd sa sb) (if b.toInt < a.toInt then b else a) 1 ∧ gives (.max sd sa sb) (if a.toInt < b.toInt then b else a) 1 ∧
     gives (.minu sd sa sb) (if b.toNat < a.toNat then b else a) 1 ∧ gives (.maxu sd sa sb) (if a.toNat < b.toNat then b else a) 1 ∧
     gives (.sel sd sa sb sc) (if (me s).s sc = 0 then b else a) 1 ∧
     gives (.cmp .eq sd sa sb) (if a = b then 1 else 0) 1 ∧ gives (.cmp .ne sd sa sb) (if a = b then 0 else 1) 1 ∧
     gives (.cmp .lt sd sa sb) (if a.toInt < b.toInt then 1 else 0) 1 ∧ gives (.cmp .ge sd sa sb) (if a.toInt < b.toInt then 0 else 1) 1 ∧
     gives (.cmp .ltu sd sa sb) (if a.toNat < b.toNat then 1 else 0) 1 ∧
     gives (.cmp .geu sd sa sb) (if a.toNat < b.toNat then 0 else 1) 1 ∧
     gives (.cmp .gt sd sa sb) (if b.toInt < a.toInt then 1 else 0) 1 ∧ gives (.cmp .le sd sa sb) (if b.toInt < a.toInt then 0 else 1) 1 ∧
     gives (.cmp .gtu sd sa sb) (if b.toNat < a.toNat then 1 else 0) 1 ∧
     gives (.cmp .leu sd sa sb) (if b.toNat < a.toNat then 0 else 1) 1) ∧
  (∀ (s : State) (sd sa : SReg), s.slotsOpen →
     let a := (me s).s sa
     (∃ n, exec (.clz sd sa) s = .next (landScalar s sd (BitVec.ofNat 64 n) 1) ∧ n ≤ 64 ∧ (∀ k, 64 - n ≤ k → a.getLsbD k = false) ∧
       (n < 64 → a.getLsbD (63 - n) = true)) ∧
     exec (.popc sd sa) s = .next (landScalar s sd (BitVec.ofNat 64 ((List.range 64).countP fun k => a.getLsbD k)) 1) ∧
     (∃ v : Word, exec (.brev sd sa) s = .next (landScalar s sd v 1) ∧ ∀ k, k < 64 → v.getLsbD k = a.getLsbD (63 - k))) ∧
  (∀ (s : State) (sd sa : SReg) (imm : BitVec 32) (amt : BitVec 6) (short : BitVec 28) (cc : ICond), s.slotsOpen →
     let a := (me s).s sa
     let x := imm.signExtend 64
     let gives (i : Instr) (v : Word) : Prop := exec i s = .next (landScalar s sd v 1)
     gives (.addi sd sa imm) (a + x) ∧ gives (.andi sd sa imm) (a &&& x) ∧ gives (.ori sd sa imm) (a ||| x) ∧
     gives (.xori sd sa imm) (a ^^^ x) ∧ gives (.shli sd sa amt) (a <<< amt.toNat) ∧ gives (.shri sd sa amt) (a >>> amt.toNat) ∧
     gives (.sari sd sa amt) (a.sshiftRight amt.toNat) ∧ gives (.li sd imm) x ∧
     (∃ v, gives (.lih sd imm) v ∧ v.extractLsb' 32 32 = imm ∧ v.extractLsb' 0 32 = ((me s).s sd).extractLsb' 0 32) ∧
     gives (.cmpi cc sd sa short) (if intCond cc a (short.signExtend 64) then 1 else 0))

/-- O12. Division never traps and never sets a flag: by zero it gives all ones and the remainder sa; the one overflow gives -2^63
and remainder 0; otherwise the quotient rounded toward zero and its remainder (R122, R121). -/
def Obligations.DivisionRules : Prop :=
  ∀ (s : State) (sd sa sb : SReg), s.slotsOpen →
    let a := (me s).s sa
    let b := (me s).s sb
    let gives (i : Instr) (v : Word) : Prop := exec i s = .next (landScalar s sd v 18 0)
    (∀ h, ∀ i ∈ [Instr.div sd sa sb, .divu sd sa sb, .rem sd sa sb, .remu sd sa sb],
      staticTrap s h i = none ∧ valueTrap s h i = none) ∧
    (b = 0 → gives (.div sd sa sb) (-1) ∧ gives (.divu sd sa sb) (BitVec.ofNat 64 (2 ^ 64 - 1)) ∧ gives (.rem sd sa sb) a ∧
      gives (.remu sd sa sb) a) ∧
    (a.toInt = -2 ^ 63 → b.toInt = -1 → gives (.div sd sa sb) a ∧ gives (.rem sd sa sb) 0) ∧
    (b ≠ 0 → gives (.divu sd sa sb) (BitVec.ofNat 64 (a.toNat / b.toNat)) ∧ gives (.remu sd sa sb) (BitVec.ofNat 64 (a.toNat % b.toNat)) ∧
      gives (.div sd sa sb) (a.sdiv b) ∧ gives (.rem sd sa sb) (a.srem b))

/-! ### Floating point -/

/-- O13. The scalar floating-point instructions: fp32 operands in bits [31:0], one rounding under the bundle's mode, latency 4, the
flags with the result, one draw under SR but for FMIN, FMAX and FCMP (R109, R120, R125 to R127). -/
def Obligations.ScalarFloatResults : Prop :=
  ∀ (s : State) (sd sa sb sc : SReg) (cc : FCond) (k : FCvt), s.slotsOpen →
    let f (r : SReg) : XR := Fmt.fp32.value (((me s).s r).toNat % 2 ^ 32)
    let md := rmode s
    let d := drawNo s 0
    let gives (i : Instr) (r : Nat × BitVec 6) : Prop := exec i s = .next (takeDraws (landScalar s sd (BitVec.ofNat 64 r.1) 4 r.2) 1)
    let picks (i : Instr) (r : Nat × BitVec 6) : Prop := exec i s = .next (landScalar s sd (BitVec.ofNat 64 r.1) 4 r.2)
    gives (.fadd sd sa sb) (fpAdd md d .fp32 (f sa) (f sb)) ∧ gives (.fsub sd sa sb) (fpAdd md d .fp32 (f sa) (f sb).neg) ∧
    gives (.fmul sd sa sb) (fpMul md d .fp32 (f sa) (f sb)) ∧ gives (.ffma sd sa sb sc) (fpMulAdd md d .fp32 (f sa) (f sb) (f sc)) ∧
    picks (.fmin sd sa sb) (flushOnly md .fp32 (fpPick false (f sa) (f sb))) ∧
    picks (.fmax sd sa sb) (flushOnly md .fp32 (fpPick true (f sa) (f sb))) ∧
    exec (.fcmp cc sd sa sb) s = .next (landScalar s sd (if fpCond cc (f sa) (f sb) then 1 else 0) 4) ∧
    exec (.fcvt k sd sa) s =
      .next (takeDraws (landScalar s sd (fcvtResult md d k ((me s).s sa)).1 4 (fcvtResult md d k ((me s).s sa)).2) 1)

/-- O14. Rounding a value that the format holds gives its own code, exactly and without a flag, in every rounding mode and under SR
whatever is drawn: for every finite code of fp32, fp16 and bf16 with FTZ off (R108, R110). The rounding modes, for a magnitude m 2^k
+ r, 0 < r < 2^k, between the value m of code c and the next one, in units of that gap: RNE takes the nearer and at a tie the even
code, RTZ the smaller magnitude, RUP and RDN the value above and below, RNA the nearer and at a tie the larger magnitude, SR the
larger where the draw's high half is below floor(2^32 r / 2^k); NX, and UF below the smallest normal (R108, R109, R113). Past the
largest finite value the result overflows: OF, NX, and an infinity or the largest finite value by the mode, the latter with SA under
SAT; SR rounds there as RNE (R109, R110). FTZ turns a result below the smallest normal into a signed zero with UF and NX; a zero
keeps its sign (R111). NaN and infinity: no NaN passes its sign or payload, and a NaN operand sets no flag (R102); with SAT off
infinity rounds to itself without a flag, in the formats that have it, and with SAT to the largest finite value with SA and NX
(R100, R101, R110). -/
def Obligations.RoundingRules : Prop :=
  (∀ (md : RMode) (dr : Word) (f : Fmt) (c : Nat), f = .fp32 ∨ f = .fp16 ∨ f = .bf16 → md.ftz = false →
     c % 2 ^ (f.bits - 1) ≤ f.maxCode → c < 2 ^ f.bits → rnd md dr f (f.value c) = (c, 0)) ∧
  (∀ (md : RMode) (dr : Word) (f : Fmt) (neg : Bool), f = .fp32 ∨ f = .fp16 ∨ f = .bf16 ∨ f = .e5m2 →
     let sign : Nat := if neg then 2 ^ (f.bits - 1) else 0
     let past : Nat × BitVec 6 :=
       if md.sat then (f.big neg, fOF ||| fNX ||| fSA)
       else ((match md.rnd with
         | .rtz => f.big neg
         | .rup => if neg then f.big neg else f.infCode neg
         | .rdn => if neg then f.infCode neg else f.big neg
         | _ => f.infCode neg), fOF ||| fNX)
     (∀ e, rnd md dr f (.fin neg 0 e) = (sign, 0)) ∧
     (∀ c m k r : Nat, ∀ e : Int, c ≤ f.maxCode → f.value c = .fin false m e → 0 < r → r < 2 ^ k → md.ftz = false →
       let nearest : Bool := decide (2 ^ k < 2 * r) || (decide (2 * r = 2 ^ k) && c % 2 == 1)
       let up : Bool := match md.rnd with
         | .rne => nearest
         | .rtz => false
         | .rup => !neg
         | .rdn => neg
         | .rna => decide (2 ^ k ≤ 2 * r)
         | .sr => if c = f.maxCode then nearest else decide ((dr.extractLsb' 32 32).toNat < 2 ^ 32 * r / 2 ^ k)
       rnd md dr f (.fin neg (m * 2 ^ k + r) (e - k)) =
         if up && c == f.maxCode then past
         else (sign + (if up then c + 1 else c), fNX ||| (if c < 2 ^ f.mb then fUF else 0))) ∧
     (∀ m n : Nat, ∀ e g : Int, f.value f.maxCode = .fin false m e → XR.lt (.fin false n g) (.fin false (m + 1) e) = false →
       rnd md dr f (.fin neg n g) = past) ∧
     (∀ m : Nat, ∀ e : Int, m ≠ 0 → md.ftz = true →
       let r := rnd { md with ftz := false } dr f (.fin neg m e)
       rnd md dr f (.fin neg m e) = if r.1 % 2 ^ (f.bits - 1) < 2 ^ f.mb then (sign, fUF ||| fNX) else r)) ∧
  (∀ (md : RMode) (dr : Word) (f : Fmt) (neg : Bool),
     rnd md dr f .nan = (f.nanCode, 0) ∧ (∀ y, fpAdd md dr f .nan y = (f.nanCode, 0) ∧ fpMul md dr f .nan y = (f.nanCode, 0)) ∧
     (f.hasInf = true → md.sat = false → rnd md dr f (.inf neg) = (f.infCode neg, 0)) ∧
     (md.sat = true → rnd md dr f (.inf neg) = (f.big neg, fSA ||| fNX)))

/-! ### Control flow -/

/-- O15. Branches: the target each one sets, the condition under which it is taken, the link of CALL and CALLR, which is pc + 64
after one bundle (R21, R128). `taken` says that the bundle's next pc is `t`, and whether the branch may leave loops. LOOP and LOOPI:
a loop of a count that is not zero pushes the entry (next bundle, last bundle, count); a LOOP of count zero goes on after the last
bundle (R129). LOOPI's count is never zero in a well-formed instruction (R129). Where a bundle goes on: at its taken branch, which
leaves the loops that `popOutside` leaves, CALL, CALLR and RET none; else into the loop it enters, or past the one whose count is
zero; else, at the innermost loop's last bundle, at the loop's start with one round less while rounds remain, and past it, looking
at the enclosing loop, once they are over; else at the next bundle (R21, R130). Two loops may share a last bundle. A taken branch
leaves every loop that its target lies outside of, with every loop inside that one: what stays is the longest end of the loop stack
of which every entry holds the target (R130). -/
def Obligations.BranchesAndLoopEntries : Prop :=
  (∀ (s : State) (sa sb sd : SReg) (d : BitVec 32) (cc : ICond), s.slotsOpen →
     let pc := (me s).pc
     let dest := pc + 64 * d.signExtend 64
     let a := (me s).s sa
     let reg := a &&& ~~~0x3F#64
     let taken (s : State) (t : Word) (pops : Bool) : State := { s with bundle := { s.bundle with target := some t, branch := pops } }
     let linked := landScalar s sd (pc + 64) 1
     exec (.j d) s = .next (taken s dest true) ∧ exec (.jr sa) s = .next (taken s reg true) ∧
     exec (.call sd d) s = .next (taken linked dest false) ∧ exec (.callr sd sa) s = .next (taken linked reg false) ∧
     exec (.ret sa) s = .next (taken s reg false) ∧
     exec (.bz sa d) s = .next (if a = 0 then taken s dest true else s) ∧
     exec (.bnz sa d) s = .next (if a = 0 then s else taken s dest true) ∧
     exec (.bcmp cc sa sb d) s = .next (if intCond cc a ((me s).s sb) then taken s dest true else s)) ∧
  (∀ (s : State) (sa : SReg) (last : BitVec 21) (n : BitVec 16), s.slotsOpen →
     let pc := (me s).pc
     let fin := pc + BitVec.ofNat 64 (64 * last.toNat)
     let enter (k : Nat) : State := { s with bundle := { s.bundle with pushed := some { start := pc + 64, last := fin, remaining := k } } }
     ((me s).s sa ≠ 0 → exec (.loop sa last) s = .next (enter ((me s).s sa).toNat)) ∧
     ((me s).s sa = 0 → exec (.loop sa last) s = .next { s with bundle := { s.bundle with skipLoop := some (fin + 64) } }) ∧
     (n ≠ 0 → exec (.loopi n last) s = .next (enter n.toNat)) ∧
     ((Instr.loopi n last).wf = true → n ≠ 0)) ∧
  (∀ (c : Ctx) (b : Bundle) (e : LoopEnt) (es : List LoopEnt),
     (∀ t, b.target = some t → nextPc c b = (t, if b.branch then popOutside t c.loops else c.loops)) ∧
     (∀ p, b.target = none → b.pushed = some p → nextPc c b = (c.pc + 64, p :: c.loops)) ∧
     (∀ a, b.target = none → b.pushed = none → b.skipLoop = some a → nextPc c b = (a, c.loops)) ∧
     (b.target = none → b.pushed = none → b.skipLoop = none →
       (c.loops = e :: es → e.last = c.pc → 1 < e.remaining →
         nextPc c b = (e.start, { e with remaining := e.remaining - 1 } :: es)) ∧
       (c.loops = e :: es → e.last = c.pc → e.remaining ≤ 1 → nextPc c b = nextPc { c with loops := es } b) ∧
       (c.loops = e :: es → e.last ≠ c.pc → nextPc c b = (c.pc + 64, e :: es)) ∧
       (c.loops = [] → nextPc c b = (c.pc + 64, [])))) ∧
  (∀ (t : Word) (l : List LoopEnt),
     let holds (e : LoopEnt) : Prop := e.start.toNat ≤ t.toNat ∧ t.toNat ≤ e.last.toNat
     (∃ k, popOutside t l = l.drop k) ∧ (∀ e ∈ popOutside t l, holds e) ∧
     (∀ k, (∀ e ∈ l.drop k, holds e) → (l.drop k).length ≤ (popOutside t l).length))

/-- O16. CSRR reads the CSR, TSC the time stamp in ns, CSRW writes the CSR: each lands after one bundle (R84, R139, R142). A write
to a context's own CSR: a read-only CSR ignores it, FLAGS and STATUS.MIG are cleared by ones (R9, R86), QW and QB store 1 for 0, and
the read after it sees what was stored; of the supervisor's, TSRC is read-only, TSKIP has eight bits, and TVEC stores its bits [5:0]
as zero (R84 to R86, R139). A write through the window is ignored unless its context is stopped in a trap; then it is performed, on
read-only CSRs too, and fills a scalar but s0 (R84). That DIE, CORE and CTX stay under it, that TVEC's low bits are stored as zero
and that a pending scalar is filled are the model's choice (notes/assumptions/50.md). -/
def Obligations.CsrRules : Prop :=
  (∀ (s : State) (sd sa : SReg) (n : BitVec 12), s.slotsOpen →
     exec (.csrr sd n) s = .next (landScalar s sd (csrRead s s.cur n.toNat) 1) ∧
     exec (.tsc sd) s = .next (landScalar s sd (BitVec.ofNat 64 s.now) 1) ∧
     exec (.csrw n sa) s = .next (land s (.csr n.toNat ((me s).s sa)) 1 0)) ∧
  (∀ (s : State) (h x : Nat) (v : Word), x < 6 →
     let t (n : Nat) := csrWrite s h n v
     let y := 6 * coreOf h + x
     let csr (n : Nat) : Nat := 0x100 + 0x80 * x + n
     let performed (n : Nat) (r : Word) : Prop := csrRead (t (csr n)) h (csr n) = r
     (∀ n ∈ [0x01, 0x02, 0x03, 0x04, 0x0C, 0x0F, 0x10, 0x11, 0x15], hart (t n) h = hart s h) ∧
     csrRead (t 0x05) h 0x05 = csrRead s h 0x05 &&& ~~~v ∧ csrRead (t 0x06) h 0x06 = v ∧ csrRead (t 0x0D) h 0x0D = v ∧
     csrRead (t 0x0E) h 0x0E = v ∧ csrRead (t 0x07) h 0x07 = (v.setWidth 32).setWidth 64 ∧
     csrRead (t 0x12) h 0x12 = (if v.setWidth 16 = 0#16 then 1 else (v.setWidth 16).setWidth 64) ∧
     csrRead (t 0x13) h 0x13 = (if v.setWidth 32 = 0#32 then 1 else (v.setWidth 32).setWidth 64) ∧
     csrRead (t 0x14) h 0x14 = (v.setWidth 3).setWidth 64 ∧
     (∀ i j, i < 4 → j < 4 →
       csrRead (t (0x08 + i)) h (0x08 + j) = if j = i then (v.setWidth 32).setWidth 64 else csrRead s h (0x08 + j)) ∧
     csrRead (t 0x00) h 0x00 = csrRead s h 0x00 &&& ~~~(v &&& 0x80) ∧
     csrRead (t 0x40) h 0x40 = v &&& ~~~0x3F#64 ∧ t 0x41 = s ∧ csrRead (t 0x42) h 0x42 = (v.setWidth 8).setWidth 64 ∧
     ((hart s y).life ≠ .trapped → ∀ n, n < 0x80 → t (csr n) = s) ∧
     ((hart s y).life = .trapped →
       performed 0x01 ((v.setWidth 8).setWidth 64) ∧ performed 0x02 v ∧ performed 0x03 ((v.setWidth 8).setWidth 64) ∧ performed 0x04 v ∧
       performed 0x05 (csrRead s h (csr 0x05) &&& ~~~v) ∧ performed 0x0C ((v.setWidth 32).setWidth 64) ∧
       performed 0x0F ((v.setWidth 6).setWidth 64) ∧ performed 0x10 v ∧ performed 0x11 v ∧ performed 0x15 v ∧
       performed 0x00 (csrRead s h (csr 0x00) &&& ~~~(v &&& 0x80)) ∧
       ∀ k, k < 32 → hart (t (csr (0x40 + k))) y =
         if k = 0 then hart s y else (hart s y).setScalar k { val := v, pending := false, poison := none }))

/-! ### Traps -/

/-- O17. Taking a trap in a strand's context whose core's handler is idle and waits for nobody (R96): the context stops; TCAUSE,
TPC, TSLOT and TINFO of it are written; the supervisor context runs from TVEC with its low bits clear, and TSRC names the context.
The context keeps its results in flight, its registers and its loop stack (R91, R130); no byte of memory and no comb changes. While
a handler runs, a further trap of the core waits behind the traps that wait already, and the handler goes on (R96). The return from
a trap (R97), no trap waiting: the context that TSRC names, stopped in a trap, runs again at its TPC, whose bits [5:0] do not count
(R21), with its bundle count, registers and results in flight as they were, the slots of TSKIP as NOP in its first bundle and
SPMAX's count anew (R307); TSKIP is zero and the handler is over. -/
def Obligations.TrapEntry : Prop :=
  (∀ (s : State) (h : Nat) (tpc : Word) (x : Trap), isStrand h = true →
     (core s (coreOf h)).handling = false → (core s (coreOf h)).trapQ = [] →
     let t := takeTrap s h tpc x
     let c := hart s h
     let v := hart t (6 * coreOf h + 4)
     hart t h =
       { c with
         life := .trapped
         csr := { c.csr with tcause := BitVec.ofNat 64 x.cause, tpc := tpc, tslot := BitVec.ofNat 64 x.slots, tinfo := x.info } } ∧
     v.life = .running ∧ v.pc = (core s (coreOf h)).tvec &&& ~~~0x3F#64 ∧ v.scalars = (hart s (6 * coreOf h + 4)).scalars ∧
     (core t (coreOf h)).tsrc = BitVec.ofNat 64 (ctxNo h) ∧ (core t (coreOf h)).handling = true ∧
     (core t (coreOf h)).comb = (core s (coreOf h)).comb ∧ t.mem = s.mem) ∧
  (∀ (s : State) (h : Nat) (tpc : Word) (x : Trap), isStrand h = true → (core s (coreOf h)).handling = true →
     let t := takeTrap s h tpc x
     (hart t h).life = .trapped ∧ (core t (coreOf h)).trapQ = (core s (coreOf h)).trapQ ++ [ctxNo h] ∧
       hart t (6 * coreOf h + 4) = hart s (6 * coreOf h + 4) ∧ (core t (coreOf h)).tsrc = (core s (coreOf h)).tsrc) ∧
  (∀ (s : State) (c x : Nat), x < 4 → (core s c).tsrc = BitVec.ofNat 64 x → (core s c).trapQ = [] →
     (hart s (6 * c + x)).life = .trapped → (hart s (6 * c + x)).leaving = false →
     let t := returnTrap s c
     let y := hart s (6 * c + x)
     hart t (6 * c + x) =
       { y with life := .running, pc := y.csr.tpc &&& ~~~0x3F#64, skip := (core s c).tskip.setWidth 8, spCount := 0 } ∧
     (core t c).tskip = 0 ∧ (core t c).handling = false ∧ (hart t (6 * c + 4)).life = .idle ∧ t.mem = s.mem)

/-- O18. The instructions that trap or end a handler by their own effect: SVC and BRK complete their bundle and then raise 0x12 and
0x11 with their number in TINFO (R93, R140); TRET returns and HALT ends the launch as the bundle closes (R97, R305). As a
supervisor's bundle closes, no trap waiting: TRET lets the context of TSRC go on at its TPC (R97); HALT ends the launch of that
context's strand with its value (R305). Either ends the handler. An SVC that issues as a bundle of its own in a strand with nothing
in flight, its core's handler idle: the strand stops in the trap with TPC at the next bundle and TINFO the number, and the handler
runs from TVEC (R93, R96, R140). That TSLOT marks the SC slot is the model's reading (notes/assumptions/26.md), and that the
instruction alone is its bundle its choice (36.md). -/
def Obligations.SystemInstructions : Prop :=
  (∀ (s : State) (n : BitVec 32) (sa : SReg), s.slotsOpen →
     exec (.svc n) s = .next { s with bundle := { s.bundle with after := some (0x12, n.setWidth 64) } } ∧
     exec (.brk n) s = .next { s with bundle := { s.bundle with after := some (0x11, n.setWidth 64) } } ∧
     exec .tret s = .next { s with bundle := { s.bundle with returns := true } } ∧
     exec (.halt sa) s = .next { s with bundle := { s.bundle with halts := some ((me s).s sa) } }) ∧
  (∀ (s : State) (c x : Nat), c < 192 → s.cur = 6 * c + 4 → x < 4 → (core s c).tsrc = BitVec.ofNat 64 x → (core s c).trapQ = [] →
     let b := s.bundle
     let y := hart s (6 * c + x)
     let t := closeBundle s
     let ended : Prop := (core t c).handling = false ∧ (hart t (6 * c + 4)).life = .idle ∧ (core t c).issuing = none ∧ t.mem = s.mem
     b.exits = false → b.yields = false → b.after = none → b.reply = none →
     (b.returns = true → b.halts = none → y.life = .trapped → y.leaving = false →
       hart t (6 * c + x) =
         { y with life := .running, pc := y.csr.tpc &&& ~~~0x3F#64, skip := (core s c).tskip.setWidth 8, spCount := 0 } ∧
       (core t c).tskip = 0 ∧ ended) ∧
     (∀ v, b.halts = some v → (launch s y.who.launch).ended = none → (launch t y.who.launch).ended = some (.halt v) ∧ ended)) ∧
  (∀ (s : State) (n : BitVec 32),
     let h := s.cur
     let c := hart s h
     let k := core s (coreOf h)
     isStrand h = true → s.bundle.isOpen = false → s.bundle.mode = Mode.zero → c.life = .running → c.flight = [] → c.loops = [] →
     c.skip = 0 → c.stopReq = false → c.spCount < c.csr.spmax.toNat → runAheadBlocked s c = false →
     k.handling = false → k.trapQ = [] → k.waiters = [] →
     ∃ t, exec (.svc n) s = .next t ∧ (hart t h).life = .trapped ∧ (hart t h).csr.tcause = 0x12 ∧ (hart t h).csr.tpc = c.pc + 64 ∧
       (hart t h).csr.tslot = 1 ∧ (hart t h).csr.tinfo = n.setWidth 64 ∧
       (hart t (6 * coreOf h + 4)).life = .running ∧ (hart t (6 * coreOf h + 4)).pc = k.tvec &&& ~~~0x3F#64 ∧
       (core t (coreOf h)).tsrc = BitVec.ofNat 64 (ctxNo h) ∧ t.mem = s.mem)

/-- O19. ILL exists in every slot whatever its other 56 bits hold, and raises the precise trap 0x01 in every context and on drones
(R25): its bundle commits nothing; the trap marks its slot and has TINFO zero. That the instruction alone is its bundle is the
model's choice (notes/assumptions/36.md). -/
def Obligations.IllTraps : Prop :=
  ∀ (t : Slot) (s : State), s.bundle.isOpen = false → early s s.cur = none → (hart (beforeIssue s s.cur) s.cur).skip = 0 →
    exec (.ill t) s = .next (trapBundle (beforeIssue s s.cur) s.cur { cause := 0x01, slots := 2 ^ t.index, info := 0 }) ∧
    ∀ w : Word, fld w 56 8 = 0xFF → decodeSlot t w = .ok (.ill t)

/-- O20. A bundle past its decode faults, without a wait: it blocks while an operand or an engine of any slot blocks (R79, R81).
Once none does, every slot is checked; if any faults the bundle traps with TSLOT marking every faulting slot, and TCAUSE and TINFO
are those of the lowest-numbered one (R95). What a source does to its bundle, for each class of register, by an instruction that
reads one: a pending scalar or mask, a busy function register and an empty tile under E = 0 block, a pending destination too; an
empty tile under E = 1 traps 0x04; a poisoned source traps 0x05, TINFO naming the origin, the class and the number, and so does a
poisoned destination under a mask (R79, R81, R88, R171). That it names the first of two is the model's choice
(notes/assumptions/46.md). When GLD, GLD.Q, GST and GAMO of a strand trap, in the order of R131: an address with nonzero [63:56]
0x07, a misaligned one 0x06, an absent page 0x07, a remote page, one not readable, and one not writable or compressed for a write
0x08 with kind 0x00, TINFO holding A[55:0]; otherwise they go. A GAMO of 1 or 2 bytes is illegal (R88, R131, R387). A privileged
instruction outside the supervisor context of a core traps 0x02 with TINFO zero as it is decoded (R26, R84, R97, R221, R297, R333);
a scheduling instruction of a strand traps 0x08 of kind 0x06 in the supervisor context, and all but EXIT in a guest's (R88, R297;
that EXIT replies there is notes/assumptions/48.md); in a strand PRIO of a value above 63 traps with kind 0x07 and the value, GBAR
of a group that the strand is not in with kind 0x04 and the group (R303, R305). -/
def Obligations.TrapsAsJudged : Prop :=
  (∀ (s : State) (h : Nat) (m : Option Mode) (l : List SlotIn), decodeFaults h (hart s h) m l = [] → (∀ i ∈ instrsOf l, isWait i = false) →
     let faults (y : SlotIn) : Option (Nat × Word) := match y.dec with
       | .ok i => issueTrap s h i
       | _ => none
     ((∃ i ∈ instrsOf l, (useIn h i).blocks (hart s h) = true ∨ engineBlocks s h i = true) → (judge s h m l).2 = .block) ∧
     (∀ x c info, (l.map fun y => y.slot.index).Nodup → (hart s h).stopReq = false →
       (isStrand h = true → runAheadBlocked s (hart s h) = false) →
       (∀ i ∈ instrsOf l, (useIn h i).blocks (hart s h) = false ∧ engineBlocks s h i = false) → x ∈ l → faults x = some (c, info) →
       (∀ y ∈ l, (faults y).isSome = true → x.slot.index ≤ y.slot.index) →
       ∃ t, judge s h m l = (s, .trap t) ∧ t.cause = c ∧ t.info = info ∧
         ∀ k, t.slots.testBit k = l.any fun y => y.slot.index == k && (faults y).isSome)) ∧
  (∀ (s : State) (h : Nat) (sd sa sb : SReg) (u : VUnit) (td ta : TReg) (m md ma mb : MReg) (e hold : Bool) (t : EType) (fa : FReg) (o : Byte),
     let c := hart s h
     let blocks (i : Instr) : Prop := (useIn h i).blocks c = true
     let raises (i : Instr) (cause origin cls n : Nat) : Prop :=
       issueTrap s h i = some (cause, BitVec.ofNat 64 (origin * 2 ^ 56 + cls * 2 ^ 8 + n))
     ((∃ r ∈ [sd, sa, sb], (c.scalar r.toNat).pending = true) → blocks (.add sd sa sb)) ∧
     ((c.scalar sa.toNat).poison = some o → raises (.add sd sa sb) 5 o.toNat 1 sa.toNat) ∧
     ((c.scalar sa.toNat).poison = none → (c.scalar sb.toNat).poison = some o → raises (.add sd sa sb) 5 o.toNat 1 sb.toNat) ∧
     ((c.tile ta.toNat).st = .empty →
       blocks (.vmov u td m (.reg hold false ta) t) ∧ raises (.vmov u td m (.reg hold true ta) t) 4 0 0 ta.toNat) ∧
     ((c.tile ta.toNat).st = .poisoned o → raises (.vmov u td 0 (.reg hold e ta) t) 5 o.toNat 0 ta.toNat) ∧
     (m ≠ 0 → (c.tile td.toNat).st = .empty → blocks (.vmov u td m (.reg hold e ta) t)) ∧
     (m ≠ 0 → (c.tile td.toNat).st = .poisoned o → (c.tile ta.toNat).st = .full → raises (.vmov u td m (.reg hold e ta) t) 5 o.toNat 0 td.toNat) ∧
     ((c.mask ma.toNat).pending = true → blocks (.mand u md ma mb)) ∧
     ((c.mask ma.toNat).poison = some o → raises (.mand u md ma mb) 5 o.toNat 2 ma.toNat) ∧
     ((c.freg fa.toNat).st = .busy → blocks (.chdom (.get sd fa))) ∧
     ((c.freg fa.toNat).st = .poisoned o → raises (.chdom (.get sd fa)) 5 o.toNat 3 fa.toNat)) ∧
  (∀ (s : State) (h : Nat) (size : BitVec 2) (sd base sv : SReg) (disp : BitVec 32) (f : AFunc), isStrand h = true →
     let a := (hart s h).s base + disp.signExtend 64
     let v : Word := BitVec.ofNat 64 (a.toNat % 2 ^ 56)
     let reads (o : Option (Nat × Word)) : Prop := valueTrap s h (.gld size sd base disp) = o ∧ valueTrap s h (.gldQ size sd base disp) = o
     let writes (o : Option (Nat × Word)) : Prop :=
       valueTrap s h (.gst size sd base disp) = o ∧ valueTrap s h (.gamo f size sd base disp sv) = o
     let all (cause : Nat) : Prop := reads (some (cause, v)) ∧ writes (some (cause, v))
     (2 ^ 56 ≤ a.toNat → all 0x07) ∧
     (a.toNat < 2 ^ 56 → a.toNat % 2 ^ size.toNat ≠ 0 → all 0x06) ∧
     (a.toNat < 2 ^ 56 → a.toNat % 2 ^ size.toNat = 0 →
       (findPage s.pages a.toNat = none → all 0x07) ∧
       ∀ b p, findPage s.pages a.toNat = some (b, p) →
         (s.remotePage p = true → all 0x08) ∧
         (s.remotePage p = false → reads (if p.rd then none else some (0x08, v)) ∧
           writes (if p.wr && p.rep != 1 then none else some (0x08, v)))) ∧
     (size.toNat < 2 → decodeSlot .sc (encodeSlot (.gamo f size sd base disp sv)) = .illegal)) ∧
  ((∀ (h : Nat) (c : Ctx) (m : Mode) (sa sb sc : SReg) (ta : TReg) (rtn : BitVec 8) (n : BitVec 12), h < 1152 → h % 6 ≠ 4 →
     let traps (i : Instr) : Prop := slotFault h c m (.ok i) (some i) [] = some (0x02, 0)
     traps .tret ∧ traps (.halt sa) ∧ traps (.promote sa sb sc) ∧ traps (.mpload rtn ta) ∧ (0x40 ≤ n.toNat → traps (.csrr sa n) ∧ traps (.csrw n sa))) ∧
   (∀ (s : State) (c : Nat) (sa sb : SReg) (n g : BitVec 6) (disp : BitVec 30), c < 192 →
     (∀ i ∈ [Instr.qend, .join, .yield, .gleave g, .gjoin g, .gbar g, .fork sa sb disp, .spawng g sa sb disp, .prio sa n], ∀ x, x = 4 ∨ x = 5 →
       valueTrap s (6 * c + x) i = some (0x08, BitVec.ofNat 64 (0x06 * 2 ^ 56))) ∧
     valueTrap s (6 * c + 4) .exit = some (0x08, BitVec.ofNat 64 (0x06 * 2 ^ 56))) ∧
   (∀ (s : State) (h : Nat) (sa : SReg) (g : BitVec 6), isStrand h = true →
     (sa ≠ 0 → 63 < ((hart s h).s sa).toNat → ((hart s h).s sa).toNat < 2 ^ 56 →
       valueTrap s h (.prio sa 0) = some (0x08, BitVec.ofNat 64 (0x07 * 2 ^ 56 + ((hart s h).s sa).toNat))) ∧
     ((hart s h).csr.skey ∉ (group s (hart s h).who.launch (64 * dieOf h + g.toNat)).members →
       valueTrap s h (.gbar g) = some (0x08, BitVec.ofNat 64 (0x04 * 2 ^ 56 + g.toNat)))))

/-- O21. Before a strand's bundle is looked at: its SPMAX count reached, the next bundle is not issued and trap 0x10 is taken (R93,
R307); otherwise nothing stops it here; that this is judged before the fetch is the model's choice (notes/assumptions/74.md). Once
decoded, a bundle with a decode fault traps, whatever would block it (R28); else the first bundle of quantum n blocks while n - 3
has not committed (R326). An ADD that issues as a bundle of its own in a strand whose sources are ready: the strand goes on at the
next bundle with its bundle counted, the sum in flight for the bundle after; no other context, no core but for its choice of
context, and no memory changes (R19, R89, R120, R121). That the instruction alone is its bundle is the model's choice
(notes/assumptions/36.md). -/
def Obligations.BundlesIssue : Prop :=
  (∀ (s : State) (h : Nat) (m : Option Mode) (l : List SlotIn), isStrand h = true → (hart s h).stopReq = false →
     let c := hart s h
     (c.csr.spmax.toNat ≤ c.spCount → early s h = some (.trap { cause := 0x10, slots := 0, info := 0 })) ∧
     (c.spCount < c.csr.spmax.toNat → early s h = none) ∧
     (∀ t, trapOf (decodeFaults h c m l) = some t → judge s h m l = (s, .trap t)) ∧
     (decodeFaults h c m l = [] → (launch s c.who.launch).committed + 3 < c.csr.qnum.toNat → judge s h m l = (s, .block))) ∧
  (∀ (s : State) (sd sa sb : SReg),
     let h := s.cur
     let c := hart s h
     isStrand h = true → s.bundle.isOpen = false → s.bundle.mode = Mode.zero → c.life = .running → c.flight = [] → c.loops = [] →
     c.skip = 0 → c.stopReq = false → c.spCount < c.csr.spmax.toNat → runAheadBlocked s c = false → c.qFresh = false →
     c.qBundles + 1 < c.qbLim → (core s (coreOf h)).waiters = [] →
     (∀ r ∈ [sd, sa, sb], (c.scalar r.toNat).pending = false) → (∀ r ∈ [sa, sb], (c.scalar r.toNat).poison = none) →
     ∃ t, exec (.add sd sa sb) s = .next t ∧ (hart t h).pc = c.pc + 64 ∧ (hart t h).count = c.count + 1 ∧
       (hart t h).flight = [{ due := c.count + 1, dst := .scalar sd.toNat (c.s sa + c.s sb), flags := 0 }] ∧
       (hart t h).scalars = c.scalars ∧ (hart t h).tiles = c.tiles ∧ (hart t h).csr = c.csr ∧
       (∀ g, g ≠ h → hart t g = hart s g) ∧ t.mem = s.mem ∧
       ∀ k, core t k = { core s k with issuing := (core t k).issuing, last := (core t k).last })

/-! ### Global scalar instructions -/

/-- O22. The global scalar instructions as they issue in a strand: a GLD and a GLD.Q put a load under way and make sd pending, the
GLD.Q ending its quantum; a GST and a GAMO add one write unit to the strand's quantum, the bytes of sd little-endian, the GAMO
ending its quantum and making sd pending; no byte of memory changes at issue (R5, R132 to R135, R322). What a GAMO of n = 4 or 8
bytes leaves in memory: the wrapped sum, the bit operations, the smaller or larger signed word, the operand, or the operand where
the old word equals the compare value (R135). -/
def Obligations.GlobalAccesses : Prop :=
  (∀ (s : State) (size : BitVec 2) (sd base sv : SReg) (d : BitVec 32) (f : AFunc), s.slotsOpen → isStrand s.cur = true →
     let c := me s
     let a := (c.s base + d.signExtend 64).toNat
     let q := c.csr.qnum.toNat
     let unit (k : UnitKind) : WUnit := { key := c.csr.skey, q := q, ord := (launch s c.who.launch).nextOrd, kind := k }
     (∃ t g, exec (.gld size sd base d) s = .next t ∧ (me t).gloads = c.gloads ++ [g] ∧ g.dst = sd.toNat ∧ g.addr = a ∧
       g.size = 2 ^ size.toNat ∧ g.q = none ∧ t.bundle = { s.bundle with marks := s.bundle.marks ++ [.scalar sd.toNat] } ∧
       t.mem = s.mem) ∧
     (∃ t g, exec (.gldQ size sd base d) s = .next t ∧ (me t).gloads = c.gloads ++ [g] ∧ g.dst = sd.toNat ∧ g.addr = a ∧
       g.size = 2 ^ size.toNat ∧ g.q = some q ∧ t.bundle = { s.bundle with marks := s.bundle.marks ++ [.scalar sd.toNat], endsQ := true } ∧
       t.mem = s.mem) ∧
     (∃ t, exec (.gst size sd base d) s = .next t ∧ t.mem = s.mem ∧
       (launch t c.who.launch).units = (launch s c.who.launch).units ++ [unit (.gst a (natBytes (c.s sd).toNat (2 ^ size.toNat)))] ∧
       (hart t s.cur).qUnits = c.qUnits + 1 ∧ t.bundle.endsQ = (s.bundle.endsQ || decide (c.qwLim ≤ c.qUnits + 1))) ∧
     (∃ t v w, exec (.gamo f size sd base d sv) s = .next t ∧ t.mem = s.mem ∧
       (launch t c.who.launch).units =
         (launch s c.who.launch).units ++ [unit (.gamo s.cur sd.toNat a (2 ^ size.toNat) f v w)] ∧
       v.toNat = (c.s sv).toNat % 2 ^ (8 * 2 ^ size.toNat) ∧ w.toNat = (c.s sd).toNat % 2 ^ (8 * 2 ^ size.toNat) ∧
       t.bundle.endsQ = true ∧ t.bundle.marks = s.bundle.marks ++ [.scalar sd.toNat])) ∧
  (∀ (old v cmp : Word) (n : Nat), n = 4 ∨ n = 8 → old.toNat < 2 ^ (8 * n) → v.toNat < 2 ^ (8 * n) → cmp.toNat < 2 ^ (8 * n) →
     let sg (x : Word) : Int := if x.toNat < 2 ^ (8 * n - 1) then x.toNat else (x.toNat : Int) - 2 ^ (8 * n)
     (amoResult .add n old v cmp).toNat = (old.toNat + v.toNat) % 2 ^ (8 * n) ∧
     amoResult .or n old v cmp = old ||| v ∧ amoResult .and n old v cmp = old &&& v ∧ amoResult .xor n old v cmp = old ^^^ v ∧
     amoResult .min n old v cmp = (if sg v < sg old then v else old) ∧ amoResult .max n old v cmp = (if sg old < sg v then v else old) ∧
     amoResult .swap n old v cmp = v ∧ amoResult .cas n old v cmp = if old = cmp then v else old)

/-- O23. GLOBAL_LOAD_COMPLETE of an oldest load of a strand with nothing of its own to forward, its page present and uncompressed,
no error in its bytes: where no drone's sequencer runs, sd holds the bytes of committed memory, little-endian and zero-extended, and
the load is over; where one runs on a channel of those bytes the load waits there, behind the accesses that came before it; a GLD.Q
whose quantum q has q - 1 uncommitted stays (R5, R131 to R133, R136, R375). -/
def Obligations.GlobalLoadCompletes : Prop :=
  ∀ (s : State) (h : Nat) (g : GLoad) (gs : List GLoad) (b : Nat) (p : Page), isStrand h = true →
    (hart s h).gloads = g :: gs → findPage (gloadImage s g).pages g.addr = some (b, p) → p.rep = 0 →
    vbad (gloadImage s g) g.addr g.size = false → (∀ k, forwarded s g k = none) →
    (gloadReady s g = true → s.channelsFree → ∃ t v, exec (.globalLoadComplete h 0) s = .next t ∧
      hart t h = ({ hart s h with gloads := gs } : Ctx).fillScalar g.dst v ∧ t.mem = s.mem ∧
      v = BitVec.ofNat 64 (leNat ((List.range g.size).map fun k => (vbyte (gloadImage s g) (g.addr + k)).getD 0))) ∧
    (gloadReady s g = true → ∀ d r, d ∈ channelsOf { s with pages := (gloadImage s g).pages } g.addr g.size →
      let k := drone s d
      let x : Access := .gld h g.dst
      k.seqr = some r → r.finished = false → r.suspended = false → k.granted.contains x = false →
      ∃ t, exec (.globalLoadComplete h 0) s = .next t ∧ t.harts = s.harts ∧ t.mem = s.mem ∧
        (drone t d).ordinary = if k.ordinary.contains x then k.ordinary else k.ordinary ++ [x]) ∧
    (∀ q, g.q = some q → (launch s g.launch).committed + 1 < q → exec (.globalLoadComplete h 0) s = .next s)

/-! ### Vector instructions -/

/-- O24. The integer vector operations, element by element: sum, difference and product wrapped, or clamped under SAT; the high
half; shifts by the low bits of b; the bit operations; the smaller and larger; VCLAMP between two bounds; the counts. All land after
two bundles in the elements the mask governs (R40, R103, R112, R144, R147, R151, R153). That VSAR of an unsigned type brings in
zeros, and that FLAGS takes the SA of masked-off elements too, are the model's readings (notes/assumptions/39.md, 29.md). Narrowing
an exact integer: a value within the type's range is unchanged; outside it the low bits stay without SAT, and the nearer end of the
range is taken under SAT (R103, R112). -/
def Obligations.VectorIntegers : Prop :=
  (∀ (s : State) (u : VUnit) (td : TReg) (m : MReg) (a c : TSrc) (b : BSrc) (t : EType), s.slotsOpen →
     let x (n : Nat) : Nat := opA s u t a n
     let y (n : Nat) : Nat := opB s u t b n
     let z (n : Nat) : Nat := opC s u t c n
     let ix (n : Nat) : Int := intVal t (x n)
     let iy (n : Nat) : Int := intVal t (y n)
     let sat := (rmode s).sat
     let narrow (i : Int) : Nat × BitVec 6 := ((narrowInt sat t i).1, if sat && (i < intMin t || intMax t < i) then fSA else 0)
     let gives (i : Instr) (f : Nat → Nat × BitVec 6) : Prop := ∃ r, exec i s = .next r ∧ TileResult s r td m t 2 f
     let bits (i : Instr) (f : Nat → Nat) : Prop := gives i fun n => (f n, 0)
     (t.isI = true →
       gives (.viadd u td m a b t) (fun n => narrow (ix n + iy n)) ∧ gives (.visub u td m a b t) (fun n => narrow (ix n - iy n)) ∧
       gives (.vimul u td m a b t) (fun n => narrow (ix n * iy n)) ∧
       bits (.vimulh u td m a b t) (fun n => (ix n * iy n / 2 ^ t.bits % 2 ^ t.bits).toNat) ∧
       bits (.vshl u td m a b t) (fun n => x n <<< (y n % t.bits)) ∧ bits (.vshr u td m a b t) (fun n => x n >>> (y n % t.bits)) ∧
       bits (.vsar u td m a b t) (fun n => (intVal t (x n) / 2 ^ (y n % t.bits) % 2 ^ t.bits).toNat) ∧
       bits (.vimin u td m a b t) (fun n => if iy n < ix n then y n else x n) ∧
       bits (.vimax u td m a b t) (fun n => if ix n < iy n then y n else x n) ∧
       bits (.vclamp u td m a b c t) (fun n =>
         let v := if ix n < iy n then y n else x n
         if intVal t (z n) < intVal t v then z n else v) ∧
       bits (.vpopc u td m a t) (fun n => (List.range t.bits).countP fun k => (x n).testBit k) ∧
       bits (.vclz u td m a t) (fun n => if x n = 0 then t.bits else t.bits - 1 - (x n).log2)) ∧
     (t.isB = true →
       bits (.vand u td m a b t) (fun n => x n &&& y n) ∧ bits (.vor u td m a b t) (fun n => x n ||| y n) ∧
       bits (.vxor u td m a b t) (fun n => x n ^^^ y n) ∧ bits (.vnot u td m a t) (fun n => 2 ^ t.bits - 1 - x n))) ∧
  (∀ (sat : Bool) (t : EType) (i : Int), t.isI = true →
     let r := intVal t (narrowInt sat t i).1
     (intMin t ≤ i ∧ i ≤ intMax t → r = i) ∧
     (sat = true → i < intMin t → r = intMin t) ∧ (sat = true → intMax t < i → r = intMax t) ∧
     (sat = false → (r - i) % 2 ^ t.bits = 0 ∧ intMin t ≤ r ∧ r ≤ intMax t))

/-- O25. The floating vector operations, element by element: one rounding under the bundle's mode with the draw of the element's
position for VADD to VFNMA, no rounding for VMIN to VNEG and VCLAMP, which FTZ alone may flush; latency 4 (R109, R147 to R149,
R151). That FLAGS takes the flags of masked-off elements too is the model's reading (notes/assumptions/29.md). The special
functions, element by element, after twelve bundles: the exact value of 1/x, 1/√x, 2^x and log2 x rounded once under the bundle's
mode with the draw of the element's position, and the special cases of R163's table. Conversions. VCVT converts element by element
between types of equal or different width, writing part p of each row where the destination is narrower, from part p where it is
wider, with the draw of the destination's position (R155). VPACK writes the 64 codes of chunk q of each row, each block of 32 under
its scale, or their scale bytes with the unused bytes of the row zeroed (R114, R115, R156); VUNPACK gives the values of chunk q
under their scales, rounded to fp32 (R104, R106, R157). All land after three bundles. VBOUND gives element 0 of each row the bound
that R168's procedure forms from the row's group bounds, the sums of row 0 of b and the bias of c, and +0 to every other element,
after six bundles, whatever the bundle's mode, and takes no draw. -/
def Obligations.VectorFloats : Prop :=
  (∀ (s : State) (u : VUnit) (td : TReg) (m : MReg) (a c : TSrc) (b : BSrc) (t : EType), s.slotsOpen → t.isF = true →
     let g := vfmt t
     let x (n : Nat) : XR := g.value (opA s u t a n)
     let y (n : Nat) : XR := g.value (opB s u t b n)
     let z (n : Nat) : XR := g.value (opC s u t c n)
     let md := rmode s
     let flush (v : XR) : Nat × BitVec 6 := flushOnly { md with sat := false } g v
     let rounds (i : Instr) (f : Nat → Nat × BitVec 6) : Prop := ∃ r, exec i s = .next r ∧ TileRounded s r td m t 4 f
     let picks (i : Instr) (f : Nat → XR) : Prop := ∃ r, exec i s = .next r ∧ TileResult s r td m t 4 fun n => flush (f n)
     rounds (.vadd u td m a b t) (fun n => fpAdd md (drawNo s n) g (x n) (y n)) ∧
     rounds (.vsub u td m a b t) (fun n => fpAdd md (drawNo s n) g (x n) (y n).neg) ∧
     rounds (.vmul u td m a b t) (fun n => fpMul md (drawNo s n) g (x n) (y n)) ∧
     rounds (.vfma u td m a b c t) (fun n => fpFma md (drawNo s n) g (x n) (y n) (z n)) ∧
     rounds (.vfms u td m a b c t) (fun n => fpFma md (drawNo s n) g (x n) (y n) (z n).neg) ∧
     rounds (.vfnma u td m a b c t) (fun n => fpFma md (drawNo s n) g (x n).neg (y n) (z n)) ∧
     picks (.vmin u td m a b t) (fun n => fpPick false (x n) (y n)) ∧ picks (.vmax u td m a b t) (fun n => fpPick true (x n) (y n)) ∧
     picks (.vabs u td m a t) (fun n => (x n).abs) ∧ picks (.vneg u td m a t) (fun n => (x n).neg) ∧
     picks (.vclamp u td m a b c t) (fun n => fpPick false (fpPick true (x n) (y n)) (z n))) ∧
  (∀ (s : State) (u : VUnit) (td : TReg) (m : MReg) (a : TSrc) (t : EType) (neg : Bool) (k : Nat) (e : Int), s.slotsOpen → t.isF = true →
     let g := vfmt t
     let special (i : Instr) (f : XR → XR × BitVec 6) : Prop := ∃ r, exec i s = .next r ∧ TileRounded s r td m t 12 fun n =>
       let y := f (g.value (opA s u t a n))
       let r := rnd (rmode s) (drawNo s n) g y.1
       (r.1, r.2 ||| y.2)
     special (.vrcp u td m a t) (fun x => (XR.div (.fin false 1 0) x, 0)) ∧ special (.vrsq u td m a t) rsqFn ∧
     special (.vexp2 u td m a t) exp2Fn ∧ special (.vlog2 u td m a t) log2Fn ∧
     XR.div (.fin false 1 0) (.fin neg 0 e) = .inf neg ∧ (∃ e', XR.div (.fin false 1 0) (.inf neg) = .fin neg 0 e') ∧
     rsqFn (.fin neg 0 e) = (.inf neg, 0) ∧ rsqFn (.inf false) = (.fin false 0 0, 0) ∧ rsqFn (.inf true) = (.nan, fNV) ∧
     rsqFn (.fin true (k + 1) e) = (.nan, fNV) ∧ rsqFn .nan = (.nan, 0) ∧
     exp2Fn (.inf false) = (.inf false, 0) ∧ exp2Fn (.inf true) = (.fin false 0 0, 0) ∧ exp2Fn .nan = (.nan, 0) ∧
     log2Fn (.fin neg 0 e) = (.inf true, 0) ∧ log2Fn (.inf false) = (.inf false, 0) ∧ log2Fn (.inf true) = (.nan, fNV) ∧
     log2Fn (.fin true (k + 1) e) = (.nan, fNV) ∧ log2Fn .nan = (.nan, 0)) ∧
  (∀ (s : State) (u : VUnit) (td : TReg) (m : MReg) (a b : TSrc) (t w : EType) (p q : BitVec 3) (k xv : BitVec 2), s.slotsOpen →
     let e := t.perRow
     let md := rmode s
     let lands (i : Instr) (k : Mask) (draws : Nat) (wr : Nat → Bool) (t : EType) (r : Nat → Nat × BitVec 6) : Prop := ∃ v bits : Tile,
       exec i s = .next (takeDraws (land s (.tile td.toNat v bits) (vecLat s 3)
         (orAll (((List.range (elemCount t)).filter wr).map fun n => (r n).2))) draws) ∧
       ∀ n, n < elemCount t → (wr n = true → tileElem t v n = (r n).1 % 2 ^ t.bits) ∧
         tileElem t bits n = if wr n && govern t k n then 2 ^ t.bits - 1 else 0
     let all : Mask := BitVec.allOnes 1024
     (t.isB = true → w.isB = true →
      let es := w.perRow
      let wr (n : Nat) : Bool := decide (e ≤ es) || (decide (p.toNat * es ≤ n % e) && decide (n % e < (p.toNat + 1) * es))
      let src (n : Nat) : Nat := if e ≤ es then n / e * es + (p.toNat * e + n % e) else n / e * es + (n % e - p.toNat * es)
      lands (.vcvt u td m a t w p) ((me s).mask m.toNat).val (elemCount t) wr t fun n => convert md (drawNo s n) w t (elemVal w (opA s u w a (src n)))) ∧
     (t = .mxe2m1 ∨ t = .k4 ∨ t = .mxe4m3 → 64 * q.toNat + 64 ≤ e →
       let block (i h : Nat) : List XR := (List.range 32).map fun j => Fmt.fp32.value (opA s u .fp32 a (64 * i + 32 * h + j))
       let scale (i h : Nat) : Nat × Bool := blockScale t k.toNat (block i h)
       lands (.vpack u false td a t k q) all (elemCount t) (fun n => decide (64 * q.toNat ≤ n % e) && decide (n % e < 64 * q.toNat + 64)) t
         (fun n =>
           let j := n % e - 64 * q.toNat
           let z := scale (n / e) (j / 32)
           if z.2 then (0, fNV) else blockCode md (drawNo s n) t z.1 (nth .nan (block (n / e) (j / 32)) (j % 32))) ∧
       lands (.vpack u true td a t k q) all 0
         (fun n => decide (n % 256 / 2 = q.toNat) || decide ((if t.bits = 4 then 16 else 8) ≤ n % 256)) .uint8
         (fun n =>
           let z := scale (n / 256) (n % 2)
           if n % 256 / 2 = q.toNat then (z.1, if z.2 then fNV else 0) else (0, 0))) ∧
     (∃ r, exec (.vunpack u td m a b t xv q) s = .next r ∧ TileRounded s r td m .fp32 3 fun n =>
       let j := 64 * q.toNat + n % 64
       rnd md (drawNo s n) .fp32
         (blockVal t (tileElem .uint8 ((me s).src (latchPos u 1) b) (256 * (n / 64) + j / 32)) (opA s u t a (e * (n / 64) + j))
           (f32 (nth 0 (me s).csr.xv xv.toNat))))) ∧
  (∀ (s : State) (u : VUnit) (td : TReg) (m : MReg) (a b c : TSrc) (g : BitVec 8), s.slotsOpen →
     let row (f : Nat → Nat) (i : Nat) : List Nat := (List.range 64).map fun j => f (64 * i + j)
     let sums (n : Nat) : Nat := tileElem .fp32 ((me s).src (latchPos u 1) b) n
     ∃ r, exec (.vbound u td m a b c g) s = .next r ∧ TileResult s r td m .fp32 6 fun n =>
       if n % 64 = 0 then boundRow (row (opA s u .fp32 a) (n / 64)) (row sums 0) (row (opC s u .fp32 c) (n / 64)) g.toNat else (0, 0))

/-- O26. The exact values that VRCP, VRSQ, VEXP2 and VLOG2 round once, for every finite element (R163). The values of 1/x and, for
positive x, of 1/√x stand to every number of at most 100 bits, and so to every value and midpoint of a format, as the real ones do.
Those of 2^x for |x| < 4,096 and of log2 x are within 2^-290 of the real ones, relative and absolute, and equal to them where they
are a power of two and an integer; 2^x beyond that is past the range of every format. -/
def Obligations.SpecialValues : Prop :=
  (∀ (neg : Bool) (m n : Nat) (e g : Int), 0 < m → n < 2 ^ 100 →
    let x : ℝ := (m : ℝ) * (2 : ℝ) ^ e
    let c : ℝ := (n : ℝ) * (2 : ℝ) ^ g
    let stands (z : XR) (below above : Prop) : Prop := (XR.lt (.fin false n g) z = true ↔ below) ∧ (XR.lt z (.fin false n g) = true ↔ above)
    let recip := XR.div (.fin false 1 0) (.fin neg m e)
    (recip.sign = neg ∧ stands recip.abs (c * x < 1) (1 < c * x)) ∧
    stands (rsqFn (.fin false m e)).1 (c ^ 2 * x < 1) (1 < c ^ 2 * x) ∧ (rsqFn (.fin false m e)).2 = 0) ∧
  (∀ (neg : Bool) (m : Nat) (e : Int), 0 < m → m < 2 ^ 64 → -200 ≤ e →
    let x : ℝ := (if neg then -1 else 1) * (m : ℝ) * (2 : ℝ) ^ e
    (e + m.log2 < 12 → ∃ (k : Nat) (f : Int), exp2Fn (.fin neg m e) = (.fin false k f, 0) ∧
      |(k : ℝ) * (2 : ℝ) ^ f - (2 : ℝ) ^ x| ≤ (2 : ℝ) ^ x * (2 : ℝ) ^ (-290 : ℤ) ∧
      ∀ i : Int, x = (i : ℝ) → (k : ℝ) * (2 : ℝ) ^ f = (2 : ℝ) ^ i) ∧
    (12 ≤ e + m.log2 → exp2Fn (.fin neg m e) = (.fin false 1 (if neg then -5000 else 5000), 0))) ∧
  (∀ (neg : Bool) (e : Int), exp2Fn (.fin neg 0 e) = (.fin false 1 0, 0)) ∧
  (∀ (m : Nat) (e : Int), 0 < m → m < 2 ^ 64 →
    let y : ℝ := Real.logb 2 ((m : ℝ) * (2 : ℝ) ^ e)
    ∃ (neg : Bool) (k : Nat) (f : Int), log2Fn (.fin false m e) = (.fin neg k f, 0) ∧
      let v : ℝ := (if neg then -1 else 1) * (k : ℝ) * (2 : ℝ) ^ f
      |v - y| ≤ (2 : ℝ) ^ (-290 : ℤ) ∧ ∀ i : Int, y = (i : ℝ) → v = (i : ℝ))

/-- O27. VCMP and VICMP write a whole mask after two bundles: a bit is one where the condition holds of every element it governs and
the governing bit of the source mask is one; for a 64-bit type both bits of an element are alike; no flag, no draw; a result for m0
is discarded; the codes 6 and 7 of VICMP's condition are illegal (R150, R154; the conditions of VCMP are R126's). -/
def Obligations.VectorCompares : Prop :=
  ∀ (s : State) (u : VUnit) (md m : MReg) (a : TSrc) (b : BSrc) (t : EType) (cc : FCond) (ci : VICond), s.slotsOpen →
    let k := ((me s).mask m.toNat).val
    let bit (ok : Nat → Bool) (j : Nat) : Bool :=
      if t.bits = 64 then ok (j / 2) && k.getLsbD (j / 2 * 2)
      else ((List.range (32 / t.bits)).all fun i => ok (32 / t.bits * j + i)) && k.getLsbD j
    let gives (i : Instr) (ok : Nat → Bool) : Prop :=
      ∃ v : Mask, exec i s = .next (land s (.mask md.toNat v) (vecLat s 2) 0) ∧ ∀ j, j < 1024 → v.getLsbD j = bit ok j
    (t.isF = true → gives (.vcmp u cc md m a b t) fun n =>
      fpCond cc ((vfmt t).value (opA s u t a n)) ((vfmt t).value (opB s u t b n))) ∧
    (t.isI = true → gives (.vicmp u ci md m a b t) fun n => viCond ci (intVal t (opA s u t a n)) (intVal t (opB s u t b n))) ∧
    (∀ (h due : Nat) (v : Mask), hart (landOne s h { due := due, dst := .mask 0 v, flags := 0 }) h = hart s h) ∧
    (∀ w : Word, fld w 56 8 = 0x1B → 6 ≤ (fld w 8 3).toNat → decodeSlot u.slot w = .illegal)

/-- O28. The moves: VMOV, VMOVS, VMOVI, VIOTA, VSEL, VEXT, VINS, and the rotations and broadcasts along rows and across rows,
element by element; no flag, no draw; the immediates that do not fit, and an immediate beside a scalar amount, are illegal (R152,
R158, R160; the results of R159). VPERM permutes within each row: the index of an element is taken in its own row, and an index past
the row gives zero (R161). -/
def Obligations.VectorMoves : Prop :=
  (∀ (s : State) (u : VUnit) (td : TReg) (m : MReg) (a : TSrc) (b : BSrc) (sb sc sd : SReg) (k : RotAmt) (imm : BitVec 32) (t : EType),
     s.slotsOpen →
     let e := t.perRow
     let x (n : Nat) : Nat := opA s u t a n
     let r := rotAmount s k
     let gives (i : Instr) (l : Nat) (f : Nat → Nat) : Prop := ∃ v, exec i s = .next v ∧ TileResult s v td m t l fun n => (f n, 0)
     gives (.vmov u td m a t) 2 x ∧ gives (.vmovs u td m sb t) 2 (fun _ => ((me s).s sb).toNat) ∧
     gives (.vmovi u td m imm t) 2 (fun _ => if t = .int64 then (imm.signExtend 64).toNat else imm.toNat) ∧
     gives (.viota u td m (some sb) t) 2 (fun n => ((me s).s sb).toNat + n) ∧ gives (.viota u td m none t) 2 (fun n => n) ∧
     (∃ v, exec (.vsel u td m a b t) s = .next v ∧
       TileResult s v td 0 t 2 fun n => (if govern t ((me s).mask m.toNat).val n then x n else opB s u t b n, 0)) ∧
     gives (.vrotr u td m a k t) 2 (fun n => x (n / e * e + (n % e + (e - r % e)) % e)) ∧
     gives (.vrotc u td m a k t) 5 (fun n => x ((n / e + (16 - r % 16)) % 16 * e + n % e)) ∧
     gives (.vbcr u td m a k t) 2 (fun n => x (n / e * e + r % e)) ∧ gives (.vbcc u td m a k t) 5 (fun n => x (r % 16 * e + n % e)) ∧
     exec (.vext u sd a sb t) s =
       .next (landScalar s sd (BitVec.ofInt 64 (intVal t (x (((me s).s sb).toNat % elemCount t)))) (vecLat s 2)) ∧
     (∃ v, exec (.vins u td a sb sc t) s = .next v ∧
       TileResult s v td 0 t 2 fun n => (if n = ((me s).s sc).toNat % elemCount t then ((me s).s sb).toNat else x n, 0)) ∧
     (t.bits < 32 → imm ≠ (imm.setWidth t.bits).setWidth 32 → imm ≠ (imm.setWidth t.bits).signExtend 32 →
       decodeSlot u.slot (encodeSlot (.vmovi u td m imm t)) = .illegal) ∧
     (∀ n : BitVec 8, (e ≤ n.toNat → decodeSlot u.slot (encodeSlot (.vrotr u td m a (.imm n) t)) = .illegal ∧
         decodeSlot u.slot (encodeSlot (.vbcr u td m a (.imm n) t)) = .illegal) ∧
       (16 ≤ n.toNat → decodeSlot u.slot (encodeSlot (.vrotc u td m a (.imm n) t)) = .illegal ∧
         decodeSlot u.slot (encodeSlot (.vbcc u td m a (.imm n) t)) = .illegal)) ∧
     (∀ w : Word, 0x30 ≤ (fld w 56 8).toNat → (fld w 56 8).toNat ≤ 0x33 → fld w 11 1 = 1 → fld w 0 8 ≠ 0 →
       decodeSlot u.slot w = .illegal)) ∧
  (∀ (s : State) (u : VUnit) (td : TReg) (m : MReg) (a b : TSrc) (t : EType), s.slotsOpen →
     ∃ r, exec (.vperm u td m a b t) s = .next r ∧ TileResult s r td m t 4 fun n =>
       let x := tileElem t ((me s).src (latchPos u 1) b) n
       (if x < t.perRow then opA s u t a (n / t.perRow * t.perRow + x) else 0, 0))

/-- O29. VSORT orders each row stably in the order in force: with idx the source positions it writes are all the positions of the
row, each pair of them in order, and equal elements keep their source order; without idx it writes the elements at these positions
(R164, R166). VTOPK writes the first k elements, or positions, that VSORT would place first, descending or with .min ascending, and
zero after them, k of 0 or above E being illegal (R167); VMERGE writes the low or the high half of the sequence that R165's
procedure merges from a row of a and a row of b. -/
def Obligations.VsortSorts : Prop :=
  (∀ (s : State) (u : VUnit) (desc : Bool) (td : TReg) (m : MReg) (a : TSrc) (t : EType), s.slotsOpen → t.isK = true →
     let e := t.perRow
     ∃ (p : Nat → Nat → Nat) (r w : State),
       exec (.vsort u desc true td m a t) s = .next r ∧ TileResult s r td m t 14 (fun n => (p (n / e) (n % e), 0)) ∧
       exec (.vsort u desc false td m a t) s = .next w ∧
       TileResult s w td m t 14 (fun n => (canonElem t (opA s u t a (n / e * e + p (n / e) (n % e))), 0)) ∧
       ∀ i, i < 16 →
         ((List.range e).map (p i)).Perm (List.range e) ∧
         ∀ j k, j < k → k < e →
           let x := opA s u t a (i * e + p i j)
           let y := opA s u t a (i * e + p i k)
           comesBefore desc t x y = true ∨ (comesBefore desc t y x = false ∧ p i j < p i k)) ∧
  (∀ (s : State) (u : VUnit) (flag idx hi : Bool) (td : TReg) (m : MReg) (a b : TSrc) (k : BitVec 8) (t : EType), s.slotsOpen →
     t.isK = true →
     let e := t.perRow
     (∃ (f : Nat → Nat) (r w : State), exec (.vsort u (!flag) idx td m a t) s = .next r ∧ TileResult s r td m t 14 (fun n => (f n, 0)) ∧
       exec (.vtopk u flag idx td m a k t) s = .next w ∧
       TileResult s w td m t 12 fun n => (if n % e < k.toNat then f n else 0, 0)) ∧
     (k.toNat = 0 ∨ e < k.toNat → decodeSlot u.slot (encodeSlot (.vtopk u flag idx td m a k t)) = .illegal) ∧
     (∃ r, exec (.vmerge u flag idx hi td m a b t) s = .next r ∧ TileResult s r td m t 10 fun n =>
       let row (f : Nat → Nat) (p : Nat) : List (Nat × Nat) := (List.range e).map fun j => (f (n / e * e + j), p + j)
       let l := mergeRows (comesBefore flag t) (2 * e) (row (opA s u t a) 0) (row (tileElem t ((me s).src (latchPos u 1) b)) e)
       let z := nth (0, 0) l (n % e + if hi then e else 0)
       (if idx then z.2 else canonElem t z.1, 0)))

/-- O30. The reductions of integers: VREDR writes to every element of a row the wrapped sum of that row, its largest or smallest
element, or its bits combined; VREDC the same of a column to every element of it (R162). The reductions of floating types by the
pairwise tree: the sum rounds at each step under the bundle's mode, its draws numbered row after row, or column after column, and
level by level; max and min are VMAX's and VMIN's steps and take no draw (R116, R162). -/
def Obligations.IntegerReductions : Prop :=
  (∀ (s : State) (u : VUnit) (td : TReg) (m : MReg) (a : TSrc) (t : EType), s.slotsOpen → t.isI = true →
     let e := t.perRow
     let x (n : Nat) : Nat := opA s u t a n
     let row (n : Nat) : List Nat := (List.range e).map fun j => x (n / e * e + j)
     let col (n : Nat) : List Nat := (List.range 16).map fun i => x (i * e + n % e)
     let gives (op : RedOp) (f : List Nat → Nat) : Prop :=
       (∃ r, exec (.vredr u op td m a t) s = .next r ∧ TileResult s r td m t 5 fun n => (f (row n), 0)) ∧
       (∃ r, exec (.vredc u op td m a t) s = .next r ∧ TileResult s r td m t 9 fun n => (f (col n), 0))
     gives .add List.sum ∧ gives .max (fun l => l.foldl (fun x y => if intVal t x < intVal t y then y else x) (l.headD 0)) ∧
     gives .min (fun l => l.foldl (fun x y => if intVal t y < intVal t x then y else x) (l.headD 0)) ∧
     gives .and (fun l => l.foldl (· &&& ·) (2 ^ t.bits - 1)) ∧ gives .or (fun l => l.foldl (· ||| ·) 0) ∧
     gives .xor (fun l => l.foldl (· ^^^ ·) 0)) ∧
  (∀ (s : State) (u : VUnit) (td : TReg) (m : MReg) (a : TSrc) (t : EType), s.slotsOpen → t.isF = true →
     let e := t.perRow
     let g := vfmt t
     let md := rmode s
     let x (n : Nat) : Nat := opA s u t a n
     let row (n : Nat) : List Nat := (List.range e).map fun j => x (n / e * e + j)
     let col (n : Nat) : List Nat := (List.range 16).map fun i => x (i * e + n % e)
     let tree (step : Nat → XR → XR → Nat × BitVec 6) (k : Nat) (l : List Nat) : Nat × BitVec 6 :=
       let z := treeSum (fun k x y => step k (g.value x) (g.value y)) 8 k l 0
       (z.1, z.2.1)
     let sum (k : Nat) (l : List Nat) := tree (fun k x y => fpAdd md (drawNo s k) g x y) k l
     let pick (up : Bool) (l : List Nat) := tree (fun _ x y => flushOnly { md with sat := false } g (fpPick up x y)) 0 l
     (∃ r, exec (.vredr u .add td m a t) s = .next (takeDraws r (16 * (e - 1))) ∧
       TileResult s r td m t 5 fun n => sum (n / e * (e - 1)) (row n)) ∧
     (∃ r, exec (.vredc u .add td m a t) s = .next (takeDraws r (e * 15)) ∧ TileResult s r td m t 9 fun n => sum (n % e * 15) (col n)) ∧
     (∀ up : Bool, let op : RedOp := if up then .max else .min
       (∃ r, exec (.vredr u op td m a t) s = .next r ∧ TileResult s r td m t 5 fun n => pick up (row n)) ∧
       (∃ r, exec (.vredc u op td m a t) s = .next r ∧ TileResult s r td m t 9 fun n => pick up (col n))))

/-- O31. The mask instructions: bitwise AND, OR, XOR and NOT after one bundle; MSET all ones or all zeros, or the bits whose
elements all lie below s(b), by linear index or within their row; MPOPC and MFIRST count and find the elements of a type whose
governing bit is one (R78, R169). -/
def Obligations.MaskResults : Prop :=
  ∀ (s : State) (u : VUnit) (md ma mb : MReg) (sd sb : SReg) (t : EType) (b : Bool), s.slotsOpen →
    let x := ((me s).mask ma.toNat).val
    let y := ((me s).mask mb.toNat).val
    let gives (i : Instr) (v : Mask) : Prop := exec i s = .next (land s (.mask md.toNat v) (vecLat s 1) 0)
    gives (.mand u md ma mb) (x &&& y) ∧ gives (.mor u md ma mb) (x ||| y) ∧ gives (.mxor u md ma mb) (x ^^^ y) ∧
    gives (.mnot u md ma) (~~~x) ∧ gives (.mset u md (.all b)) (if b then BitVec.allOnes 1024 else 0) ∧
    (let below (ok : Nat → Bool) (j : Nat) : Bool :=
       if t.bits = 64 then ok (j / 2) else (List.range (32 / t.bits)).all fun i => ok (32 / t.bits * j + i)
     let k := ((me s).s sb).toNat
     t.isB = true →
      (∃ v, gives (.mset u md (.pre t sb)) v ∧ ∀ j, j < 1024 → v.getLsbD j = below (fun n => decide (n < k)) j) ∧
      (∃ v, gives (.mset u md (.rowpre t sb)) v ∧ ∀ j, j < 1024 →
        v.getLsbD j = below (fun n => decide (n % t.perRow < min k t.perRow)) j)) ∧
    exec (.mpopc u sd ma t) s =
      .next (landScalar s sd (BitVec.ofNat 64 ((List.range (elemCount t)).countP fun n => govern t x n)) (vecLat s 1)) ∧
    ∃ v : Word, exec (.mfirst u sd ma t) s = .next (landScalar s sd v (vecLat s 1)) ∧
      (∀ n, n < elemCount t → govern t x n = true → (∀ k, k < n → govern t x k = false) → v = BitVec.ofNat 64 n) ∧
      ((∀ n, n < elemCount t → govern t x n = false) → v = BitVec.allOnes 64)

/-! ### Function registers -/

/-- O32. The function instructions enter the function unit with their result and leave their destination busy, empty or pending
until it completes; nothing else changes (R171, R173, R177). The results: sums, products, composites, integrals and derivatives as
`addFn`, `mulFn`, `composeFn`, `intFn` and `difFn` compute them from the operands; CHFIT fits the samples of row 0; CHTRN cuts the
coefficients; CHDOM replaces the domain, reads it, or writes the points of R180; CHMOV copies, also to and from the layout of R190;
CHROOT writes the first 16 of the roots that `rootsOf` finds, ascending, every sample that is zero among them, and their count
(R187); CHFREE gives length 0 on [-1, 1] (R175, R180 to R191). CHEVAL is no engine command: its exposed result, rounded once at each
position with the position's draw, lands after 8 + ⌈n/8⌉ bundles; a NaN, or without .clamp a point outside the domain, gives NaN,
the latter with NV (R179). -/
def Obligations.FunctionStarts : Prop :=
  ∀ (s : State) (fd fa fb : FReg) (td : TReg) (sb sc sd : SReg) (ta : TSrc) (n : BitVec 8) (row : BitVec 4) (addv : Bool) (m : MReg)
    (b : BSrc) (clamp : Bool), s.slotsOpen →
    let f (r : FReg) : ChebFn := ((me s).freg r.toNat).fn
    let tol := tolOf ((me s).csr.chtol.setWidth 32)
    let w := (me s).s sb
    let e (j : Nat) : Nat := tileElem .fp32 ((me s).src (latchPos .vb 0) ta) j
    let starts (i : Instr) (o : FOp) (ms : List Mark) : Prop :=
      exec i s = .next { modMe s fun c => { c with fops := c.fops ++ [o] } with bundle := { s.bundle with marks := s.bundle.marks ++ ms } }
    let fn (i : Instr) (r : ChebFn × BitVec 6) : Prop :=
      starts i { freg := some (fd.toNat, r.1), tile := none, scalar := none, flags := r.2 } [.freg fd.toNat]
    let tile (i : Instr) (v bits : Tile) (g : BitVec 6) : Prop :=
      starts i { freg := none, tile := some (td.toNat, v, bits), scalar := none, flags := g } [.tile td.toNat]
    (∃ r, exec (.cheval clamp td m fa b) s = .next r ∧ TileRounded s r td m .fp32 (8 + ((f fa).coeffs.length + 7) / 8) fun n =>
      chevalElem (rmode s) (drawNo s n) clamp (f fa) (Fmt.fp32.value (opB s .vb .fp32 b n))) ∧
    (∀ md d x, chevalElem md d clamp (f fa) .nan = (Fmt.fp32.nanCode, 0) ∧
      (x ≠ .nan → x.lt (f32 (f fa).lo) = true ∨ (f32 (f fa).hi).lt x = true → chevalElem md d false (f fa) x = (Fmt.fp32.nanCode, fNV))) ∧
    fn (.chadd fd fa fb) (addFn false tol (f fa) (f fb)) ∧ fn (.chsub fd fa fb) (addFn true tol (f fa) (f fb)) ∧
    fn (.chmul fd fa fb) (mulFn tol (f fa) (f fb)) ∧ fn (.chscl addv fd fa sb) (sclFn addv (w.setWidth 32) (f fa)) ∧
    fn (.chcmp fd fa fb n) (composeFn tol (if n = 0 then 64 else n.toNat) (f fa) (f fb)) ∧
    fn (.chint fd fa) (intFn tol (f fa)) ∧ fn (.chdif fd fa) (difFn (f fa)) ∧
    fn (.chfit fd ta sc n) (finish (((me s).s sc).extractLsb' 0 32) (((me s).s sc).extractLsb' 32 32) tol
      (fit ((List.range n.toNat).map fun j => BitVec.ofNat 32 (e j)))) ∧
    fn (.chtrn fd fa none n) ({ f fa with coeffs := (f fa).coeffs.take n.toNat }, 0) ∧
    fn (.chtrn fd fa (some sb) n) ({ f fa with coeffs := (truncTol (tolOf (w.setWidth 32)) (f fa).coeffs).take n.toNat }, 0) ∧
    fn (.chdom (.set fd fa sb)) ({ f fa with lo := w.extractLsb' 0 32, hi := w.extractLsb' 32 32 }, 0) ∧
    starts (.chdom (.get sd fa)) { freg := none, tile := none, scalar := some (sd.toNat, (f fa).hi ++ (f fa).lo), flags := 0 }
      [.scalar sd.toNat] ∧
    (let point (j : Nat) : BitVec 32 × BitVec 6 :=
       let lo := f32 (f fa).lo
       let hi := f32 (f fa).hi
       rne32 (XR.add false ((XR.add false lo hi).scale (-1))
         (XR.mul ((XR.add false hi lo.neg).scale (-1)) (cosPi (2 * j + 1) (2 * n.toNat))))
     ∃ v, tile (.chdom (.pts td fa n)) v (BitVec.allOnes 32768) (orAll ((List.range n.toNat).map fun j => (point j).2)) ∧
       ∀ j, j < 1024 → tileElem .fp32 v j = if j < min n.toNat 64 then (point j).1.toNat else 0) ∧
    fn (.chmov (.move fd fa)) (f fa, 0) ∧
    ((f fa).coeffs.length ≤ 64 → ∃ v, tile (.chmov (.toTile td fa)) v (BitVec.allOnes 32768) 0 ∧ ∀ j, j < 1024 → tileElem .fp32 v j =
      if j = 0 then (f fa).lo.toNat else if j = 1 then (f fa).hi.toNat else if j = 2 then (f fa).coeffs.length
      else if 64 ≤ j ∧ j < 128 then (nth 0 (f fa).coeffs (j - 64)).toNat else 0) ∧
    fn (.chmov (.ofTile fd ta)) ({ lo := BitVec.ofNat 32 (e 0), hi := BitVec.ofNat 32 (e 1)
                                   coeffs := (List.range (min (e 2) 64)).map fun k => BitVec.ofNat 32 (e (64 + k)) }, 0) ∧
    fn (.chfree fd) ({ lo := 0xBF800000, hi := 0x3F800000, coeffs := [] }, 0) ∧
    (let len := (f fa).coeffs.length
     let roots := if len = 0 then [] else (rootsOf (f fa)).1
     (∃ v, starts (.chroot td sb fa row)
        { freg := none, tile := some (td.toNat, v, BitVec.ofNat 32768 (2 ^ (2048 * (row.toNat + 1)) - 2 ^ (2048 * row.toNat)))
          scalar := some (sb.toNat, if len = 0 then BitVec.allOnes 64 else BitVec.ofNat 64 roots.length)
          flags := if len = 0 then 0 else (rootsOf (f fa)).2 } [.tile td.toNat, .scalar sb.toNat] ∧
      ∀ j, j < 64 → tileElem .fp32 v (64 * row.toNat + j) = if j < 16 then (nth 0 roots j).toNat else 0) ∧
     ((∀ x ∈ roots, (f32 x).isNaN = false) → roots.Pairwise fun x y => (f32 y).lt (f32 x) = false) ∧
     ∀ j, j ≤ 4 * len → len ≠ 0 →
       let lo := f32 (f fa).lo
       let x := (rne32 (XR.add false lo (XR.div (XR.mul (XR.add false (f32 (f fa).hi) lo.neg) (XR.ofInt j)) (XR.ofInt (4 * len : Nat))))).1
       (f32 (evalRne (f fa) (f32 x)).1).isZero = true → x ∈ roots)

/-- O33. FUNCTION_OP_COMPLETE completes the oldest operation of its context and no other: its function register is ready with the
result, its tile merged and full, its scalar full, its flags ORed into FLAGS (R87, R173). No other context, no core and no byte of
memory changes. CHFREE followed by its completion: fd has length 0 on [-1, 1], is not poisoned, and occupies no slot of the bank
(R191). -/
def Obligations.FunctionCompletes : Prop :=
  (∀ (s : State) (h : Nat) (o : FOp) (os : List FOp), (hart s h).fops = o :: os →
     ∃ t, exec (.functionOpComplete h) s = .next t ∧ (hart t h).fops = os ∧
       (hart t h).csr = { (hart s h).csr with flags := (hart s h).csr.flags ||| o.flags.setWidth 64 } ∧
       (∀ r f, o.freg = some (r, f) → (hart t h).freg r = { fn := f, st := .ready }) ∧
       (∀ r v b, o.tile = some (r, v, b) → (hart t h).tile r = { val := mergeBits ((hart s h).tile r).val v b, st := .full }) ∧
       (∀ r v, o.scalar = some (r, v) → r ≠ 0 → (hart t h).scalar r = { val := v, pending := false, poison := none }) ∧
       (∀ g, g ≠ h → hart t g = hart s g) ∧ t.cores = s.cores ∧ t.drones = s.drones ∧ t.mem = s.mem) ∧
  (∀ (s : State) (fd : FReg), s.slotsOpen → (me s).fops = [] →
     ∃ t u, exec (.chfree fd) s = .next t ∧ exec (.functionOpComplete s.cur) t = .next u ∧
       (me u).freg fd.toNat = { fn := { lo := 0xBF800000, hi := 0x3F800000, coeffs := [] }, st := .ready } ∧
       ∀ r, r ≠ fd.toNat → r < 16 → bankUsed (me u) r + ((me s).freg fd.toNat).fn.coeffs.length = bankUsed (me s) r)

/-! ### Matrix unit -/

/-- O34. The MX slot: MCALL appends to its queue, with the parameters and CHXV visible at its bundle and the accumulators of its
four tiles where it has ACC, and its tiles are empty from then on (R212, R213); MSETP and MSETPI land in a parameter after one
bundle (R219); MSTAT reads (R218); MPLOAD stands at the tail of both queues under one number, with the micro-words of its tile
(R221); MCANCEL takes the calls of its context, and only those, out of its queue and ends its running or suspended call of that
queue, poisons the tiles of each that are not filled yet and records subcode 0x08; a call inside a micro-word goes on to the end of
that word, where it ends; where its context has none, nothing changes (R215, R220). -/
def Obligations.MatrixInstructions : Prop :=
  ∀ (s : State) (lo acc out : Bool) (tn ta : TReg) (rtn : BitVec 8) (p : PReg) (sa sd : SReg) (imm : BitVec 38), s.slotsOpen →
    let c := coreOf s.cur
    let m := (core s c).mx
    let queue (x : MatrixUnit) (b : Bool) : List MItem := if b then x.lo else x.hi
    let callOf (i : MItem) : Option MCall := match i with
      | .call k => some k
      | .load .. => none
    let mine (i : MItem) : Bool := (callOf i).any fun k => k.h == s.cur
    (∃ t k, exec (.mcall lo acc out tn rtn) s = .next t ∧
      (core t c).mx = (if lo then { m with lo := m.lo ++ [.call k] } else { m with hi := m.hi ++ [.call k] }) ∧
      k = { h := s.cur, tbase := tn.toNat, rtn := rtn.toNat, out := out, params := (List.range 8).map fun r => (me s).param r
            xv := (me s).csr.xv, acc := k.acc } ∧
      (acc = false → k.acc = 0) ∧
      (∀ q, q < 4 → acc = true → k.acc.extractLsb' (32768 * q) 32768 = ((me s).tile (tn.toNat + q)).val) ∧
      t.bundle = { s.bundle with marks := s.bundle.marks ++ (List.range (if out then 4 else 1)).map fun q => Mark.tile (tn.toNat + q) } ∧
      t.harts = s.harts ∧ t.mem = s.mem) ∧
    exec (.msetp p sa) s = .next (land s (.param p.toNat ((me s).s sa)) 1 0) ∧
    exec (.msetpi p imm) s = .next (land s (.param p.toNat (imm.signExtend 64)) 1 0) ∧
    (let runs := (m.running.toList ++ m.suspended.toList).filter fun r => r.lo == lo
     let all := ((queue m lo).filterMap callOf).map (fun k => k.h) ++ runs.map fun r => r.call.h
     ∃ v, exec (.mstat sd lo) s = .next (landScalar s sd v 1) ∧ v.extractLsb' 56 8 = (me s).mfsub ∧ v.extractLsb' 48 8 = (me s).mfrtn ∧
      v.extractLsb' 40 8 = 0 ∧ v.extractLsb' 32 8 = BitVec.ofNat 8 (all.count s.cur) ∧ v.extractLsb' 24 8 = BitVec.ofNat 8 all.length ∧
      v.extractLsb' 16 8 = BitVec.ofNat 8 ((runs.head?.map fun r => r.call.rtn).getD 0xFF) ∧ v.extractLsb' 2 14 = 0 ∧
      v.getLsbD 1 = (lo && m.suspended.isSome) ∧ v.getLsbD 0 = m.running.any fun r => r.lo == lo) ∧
    (∀ st n, mploadHeader rtn.toNat (BitVec.ofNat 128 (bitsOf ((me s).tile ta.toNat).val 0 128)) = some (st, n) →
      ∃ t ws, exec (.mpload rtn ta) s = .next t ∧ ws.length = n ∧
        (∀ k, k < n → ws[k]? = some (BitVec.ofNat 128 (bitsOf ((me s).tile ta.toNat).val (128 * (k + 1)) 128))) ∧
        (core t c).mx = { m with hi := m.hi ++ [.load s.arrivals rtn.toNat st ws], lo := m.lo ++ [.load s.arrivals rtn.toNat st ws] } ∧
        t.harts = s.harts ∧ t.mem = s.mem) ∧
    (let ends (r : MRun) : Bool := r.call.h == s.cur && r.lo == lo
     let amid (r : MRun) : Bool := !(r.sent.isEmpty && r.lines.isEmpty && r.stalled.isEmpty)
     let keep (o : Option MRun) : Option MRun := o.bind fun r =>
       if ends r then (if amid r then some { r with cancelled := true } else none) else some r
     let rest := (queue m lo).filter fun i => !mine i
     let cancelled : List (MCall × Bool) :=
       (((queue m lo).filter mine).filterMap callOf).map (fun k => (k, false)) ++
         ((m.running.toList ++ m.suspended.toList).filter fun r => ends r && !amid r).map fun r => (r.call, r.filled)
     ∃ t, exec (.mcancel lo) s = .next t ∧
      (core t c).mx = { m with
        hi := if lo then m.hi else rest
        lo := if lo then rest else m.lo
        running := keep m.running
        suspended := keep m.suspended } ∧
      (∀ j, j ≠ c → core t j = core s j) ∧ (∀ g, g ≠ s.cur → hart t g = hart s g) ∧ t.mem = s.mem ∧
      (cancelled = [] → t.harts = s.harts) ∧ (cancelled ≠ [] → (me t).mfsub = 0x08) ∧
      ∀ p ∈ cancelled, p.2 = false → ∀ r ∈ callTiles p.1, ((me t).tile r).st = .poisoned 0x13)

/-- O35. The matrix unit between calls: the free unit starts the oldest high call, else, with none suspended, the oldest low call,
at its routine's entry; a call of a routine that is not valid faults with 0x09 and poisons its tiles (R214, R215, R230); the
suspended low call resumes once the unit is free of high calls (R214); a load at the head of both queues is applied while no call
runs or is suspended, after which its micro-words stand in the store and its routine is valid (R221); a run one of whose generators
has waited for 2^24 reference cycles for multicast faults with 0x0B (R279). -/
def Obligations.MatrixEvents : Prop :=
  ∀ (s : State) (c : Nat),
    let m := (core s c).mx
    (∀ k rest a, m.running = none → (core s c).faulted = false → m.hi = .call k :: rest → routineEntry m k.rtn = some a →
      ∃ t, exec (.matrixCallStart c) s = .next t ∧ (core t c).mx = { m with hi := rest, running := some (startRun k false a) } ∧
        t.harts = s.harts) ∧
    (∀ k rest a, m.running = none → (core s c).faulted = false → m.hi = [] → m.suspended = none → m.lo = .call k :: rest →
      routineEntry m k.rtn = some a →
      ∃ t, exec (.matrixCallStart c) s = .next t ∧ (core t c).mx = { m with lo := rest, running := some (startRun k true a) } ∧
        t.harts = s.harts) ∧
    (∀ k rest, m.running = none → (core s c).faulted = false → m.hi = .call k :: rest → routineEntry m k.rtn = none →
      ∃ t, exec (.matrixCallStart c) s = .next t ∧ (core t c).mx = { m with hi := rest } ∧ (hart t k.h).mfsub = 0x09 ∧
        (hart t k.h).mfrtn = BitVec.ofNat 8 k.rtn ∧ ((hart t k.h).tile k.tbase).st = .poisoned 0x13) ∧
    (∀ r, m.running = none → (core s c).faulted = false → m.hi = [] → m.suspended = some r →
      ∃ t, exec (.matrixCallResume c) s = .next t ∧ (core t c).mx = { m with running := some r, suspended := none } ∧
        t.harts = s.harts) ∧
    (∀ id rtn st ws hi lo, m.running = none → m.suspended = none → m.hi = .load id rtn st ws :: hi → m.lo = .load id rtn st ws :: lo →
      ∃ t, exec (.mploadApply c) s = .next t ∧ (core t c).mx.hi = hi ∧ (core t c).mx.lo = lo ∧
        tget none (core t c).mx.routines rtn = some st ∧ (∀ k v, ws[k]? = some v → storeAddr (core t c).mx (st + k) = v)) ∧
    (∀ r x, m.running = some r → coreOf r.call.h = c → (∃ g, (g, x + 1) ∈ r.stalled) → refElapsed s x (2 ^ 24) = true →
      ∃ t, exec (.multicastTimeout c) s = .next t ∧ (core t c).mx.running = none ∧ (hart t r.call.h).mfsub = 0x0B)

/-- O36. The micro-operations on a running call that has not been cancelled: what each leaves of the call, with the next micro-word
(R223, R224, R226, R227, R229). AGSET takes a stride from a parameter under PE; AGMC sets the role, another member being reached in
a cluster launch alone; MLOOP enters with its count, of the word, of a parameter or kept, or goes on after its last word where that
is 0; MEND goes back while rounds remain, after it has read the count word again where its level has a re-read address; MOUT writes
the tiles, or its rows in the comb, whose granules become full. A call that was cancelled ends at the boundary with subcode 0x08
(R220); misuse faults with its subcode. That an MCOUNT without RD keeps an earlier re-read address is the model's choice
(notes/assumptions/77.md). -/
def Obligations.MicroOperations : Prop :=
  ∀ (s : State) (r : MRun), (core s s.cur).mx.running = some r → coreOf r.call.h = s.cur →
    let goes (i : Instr) (x : MRun) : Prop := r.cancelled = false → exec i s = .next (setRun s x)
    let fails (i : Instr) (sub : Byte) : Prop := ∃ t, exec i s = .next t ∧ (core t s.cur).mx.running = none ∧ (hart t r.call.h).mfsub = sub
    let on (x : MRun) : MRun := { x with upc := r.upc + 1, stalled := [] }
    let me := memberOf s.cur
    let par (p : BitVec 3) : Word := nth 0 r.call.params p.toNat
    goes .mzero (on { r with acc := 0 }) ∧ (r.cancelled = true → fails .mzero 0x08) ∧
    (∀ (g pb : BitVec 3) w pe (pl : BitVec 2) px off pitch (s0 s1 s2 : BitVec 20), g.toNat ≤ 4 → (pe = true → pl ≠ 3) →
      ∃ x : Gen, goes (.agset g pb w pe pl px off pitch s0 s1 s2) (on (r.setGen g.toNat x)) ∧ x.set = true ∧
        x.base = par pb + off.signExtend 64 ∧ x.pitch = pitch.toNat ∧ x.wt = w ∧ x.mode = (genOf r g.toNat).mode ∧
        x.strides = [s0, s1, s2].mapIdx fun i v => if pe && i == pl.toNat then ((par px).setWidth 20).toInt else v.toInt) ∧
    (∀ (g pb : BitVec 3) w pe (pl : BitVec 2) px off pitch (s0 s1 s2 : BitVec 20),
      (4 < g.toNat → fails (.agset g pb w pe pl px off pitch s0 s1 s2) 0x01) ∧
      (g.toNat ≤ 4 → fails (.agset g pb w true 3 px off pitch s0 s1 s2) 0x04)) ∧
    (∀ (g : BitVec 3) (mode : BitVec 2) (members : BitVec 8) (src : BitVec 3),
      let wrong : Prop := 4 ≤ g.toNat ∨ mode = 3 ∨ (mode = 1 ∧ members.getLsbD me = true)
      let away : Prop := (mode = 1 ∧ members ≠ 0) ∨ (mode = 2 ∧ src.toNat ≠ me)
      (¬wrong → (away → inCluster s r.call.h = true) → goes (.agmc g mode members src)
        (on (r.setGen g.toNat { genOf r g.toNat with mode := mode.toNat, members := members.toNat, source := src.toNat }))) ∧
      (wrong → fails (.agmc g mode members src) 0x01) ∧
      (¬wrong → away → inCluster s r.call.h = false → fails (.agmc g mode members src) 0x02)) ∧
    (∀ (l src : BitVec 2) p (last : BitVec 12) (n : BitVec 16),
      let fresh : Prop := l ≠ 3 ∧ src ≠ 3 ∧ ∀ e ∈ r.active, e.1 ≠ l.toNat
      let k := if src = 0 then n.toNat else if src = 1 then (par p).toNat % 2 ^ 32 else nth 0 r.cnt l.toNat
      let x := { r with cnt := setNth k r.cnt l.toNat, idx := setNth 0 r.idx l.toNat }
      (fresh → k = 0 → r.reread = [] → exec (.mloop l src p last n) s = .next (setRun s { x with upc := last.toNat + 1 })) ∧
      (fresh → k ≠ 0 → r.reread = [] → goes (.mloop l src p last n) (on { x with active := (l.toNat, r.upc) :: r.active })) ∧
      (∀ y, fresh → k ≠ 0 → r.reread = [(l.toNat, y)] →
        goes (.mloop l src p last n) (on { x with active := (l.toNat, r.upc) :: r.active, reread := [(4 + l.toNat, y)] })) ∧
      (¬fresh → fails (.mloop l src p last n) 0x04)) ∧
    (∀ (l : BitVec 2) a rest c o v,
      let back (x : MRun) : Prop :=
        let i := nth 0 r.idx l.toNat + 1
        (i < nth 0 x.cnt l.toNat → exec (.mend l) s = .next (setRun s { x with idx := setNth i r.idx l.toNat, upc := a + 1 })) ∧
        (nth 0 x.cnt l.toNat ≤ i → goes (.mend l) (on { x with idx := setNth 0 r.idx l.toNat, active := rest, reread := [] }))
      r.active = (l.toNat, a) :: rest → (r.reread = [] → back r) ∧
        ∀ y, r.reread = [(4 + l.toNat, y)] → countWord s r.call.h y.addr = some (c, o, v) → onItsWay s r.call.h c (granule o) = false →
          (core s c).badGranules.contains (granule o) = false → back { r with cnt := setNth (min v y.cap) r.cnt l.toNat }) ∧
    (∀ (l : BitVec 2), (r.active = [] ∨ ∃ e es, r.active = e :: es ∧ e.1 ≠ l.toNat) → fails (.mend l) 0x04) ∧
    (∀ (l : BitVec 2) p rd (cap : BitVec 16) (off : BitVec 24) c o v,
      let a := par p + off.signExtend 64
      (l ≠ 3 → cap ≠ 0 → countWord s r.call.h a = some (c, o, v) → onItsWay s r.call.h c (granule o) = false →
        (core s c).badGranules.contains (granule o) = false →
        goes (.mcount l p rd cap off) (on { r with
          cnt := setNth (min v cap.toNat) r.cnt l.toNat
          reread := if rd then tput l.toNat { addr := a, cap := cap.toNat } r.reread else r.reread }) ∧
        v = leNat (mread (core s c).comb (a.toNat % 2 ^ 22) 4) ∧ c = memberCore r.call.h a.toNat) ∧
      (l = 3 ∨ cap = 0 → fails (.mcount l p rd cap off) 0x04) ∧
      (l ≠ 3 → cap ≠ 0 → countWord s r.call.h a = none → fails (.mcount l p rd cap off) 0x02)) ∧
    ((r.lo && (headCall (core s s.cur).mx.hi).isSome) = false → goes .myield (on r)) ∧
    ((r.lo && (headCall (core s s.cur).mx.hi).isSome) = true → ∃ t, exec .myield s = .next t ∧ (core t s.cur).mx.running = none ∧
      (core t s.cur).mx.suspended = some { r with upc := r.upc + 1 }) ∧
    (r.call.out = true → r.filled = true → fails .mout 0x05) ∧ (r.call.out = true → r.filled = false → fails .mstop 0x05) ∧
    (r.call.out = true → r.filled = false → r.cancelled = false → ∃ t, exec .mout s = .next t ∧
      (core t s.cur).mx.running = some (on { r with filled := true, outs := r.outs + 1 }) ∧
      ∀ q, q < 4 → (hart t r.call.h).tile (r.call.tbase + q) = { val := r.acc.extractLsb' (32768 * q) 32768, st := .full }) ∧
    (let g := genOf r 4
     let row (n : Nat) : Word := lineAddr r g n
     let bad : Prop := ∃ n, n < 64 ∧ windowBad s r.call.h (row n) 256 16 = true
     r.call.out = false →
       (g.set = false → fails .mout 0x06) ∧ (g.set = true → bad → fails .mout 0x02) ∧
       (g.set = true → ¬bad → r.cancelled = false → (∀ n, n < 64 → memberCore r.call.h (row n).toNat = s.cur) →
         (core s s.cur).badGranules = [] → (∀ e ∈ s.harts, e.2.loads = []) →
         ∃ t, exec .mout s = .next t ∧ (core t s.cur).mx.running = some (on { r with outs := r.outs + 1 }) ∧ t.harts = s.harts ∧
           (∀ c, c ≠ s.cur → core t c = core s c) ∧ t.mem = s.mem ∧
           (∀ o, mget (core t s.cur).comb o = mget ((List.range 64).foldl (fun m n => mwrite m ((row n).toNat % 2 ^ 22)
             (natBytes (bitsOf r.acc (2048 * n) 2048) 256)) (core s s.cur).comb) o) ∧
           ∀ n k, n < 64 → k < 16 → (core t s.cur).isEmpty ((row n).toNat % 2 ^ 22 / 16 + k) = false)) ∧
    (r.call.out = true → r.filled = true → ∃ t, exec .mstop s = .next t ∧ (core t s.cur).mx.running = none ∧ t.harts = s.harts) ∧
    (r.call.out = false → ∃ t, exec .mstop s = .next t ∧ (core t s.cur).mx.running = none ∧
      ((hart t r.call.h).tile r.call.tbase).st = .full ∧
      bitsOf ((hart t r.call.h).tile r.call.tbase).val 0 32 = r.outs % 2 ^ 32 ∧
      bitsOf ((hart t r.call.h).tile r.call.tbase).val 32 32 = r.steps % 2 ^ 32)

/-- O37. A step of MMA whose generators read their own lines, which are at hand: each of the 64 × 64 accumulators gains the dot
product of its two lines, of 8, 16 or 32 elements by the format, and the step is counted (R117, R211, R228). Integers: the exact
product wrapped to 32 bits. Floating formats: the exact sum rounded to fp32, and its sum with the accumulator rounded again, both to
nearest even. Block formats: the same, every element under its line's scale byte, the elements of k4 with the value XV of the call
(R104, R106). A pair of formats of two families faults with 0x03, an XV index without k4 with 0x01; that the pair goes first is the
model's choice (notes/assumptions/77.md). -/
def Obligations.MatrixSteps : Prop :=
  ∀ (s : State) (r : MRun) (fa fb : BitVec 4) (xv : BitVec 2) (ls : Nat → List (List Byte)), (core s s.cur).mx.running = some r →
    let family (l : List (BitVec 4)) : Prop := fa ∈ l ∧ fb ∈ l
    let ints := family [10, 11]
    let blocks := family [12, 13] ∨ family [14]
    let pair : Prop := family [1, 2] ∨ family [3, 4] ∨ ints ∨ blocks
    let xvOk : Prop := xv = 0 ∨ fa = 13 ∨ fb = 13
    let width (f : BitVec 4) : Nat := if f = 14 then 32 else 16
    let athand (g n al : Nat) : Prop := (genOf r g).mode = 0 ∧ askLines s r g n al = (s, r) ∧ readLines s r g n al = .ready (ls g)
    let count (f : BitVec 4) : Nat := if f = 1 ∨ f = 2 then 8 else if f = 12 ∨ f = 13 ∨ f = 14 then 32 else 16
    let ty (f : BitVec 4) : EType := (EType.ofCode f).getD .uint8
    let code (f : BitVec 4) (g i n : Nat) : Nat := leNat (nth [] (ls g) i) / 2 ^ ((ty f).bits * n) % 2 ^ (ty f).bits
    let value (f : BitVec 4) (g i n : Nat) : XR :=
      if f = 12 ∨ f = 13 ∨ f = 14 then
        blockVal (ty f) (leNat (nth [] (ls (g + 2)) i)) (code f g i n) (f32 (nth 0 r.call.xv xv.toNat))
      else elemVal (ty f) (code f g i n)
    let int (f : BitVec 4) (g i n : Nat) : Int := intVal (ty f) (code f g i n)
    let fails (sub : Byte) : Prop :=
      ∃ t, exec (.mma fa fb xv) s = .next t ∧ (core t s.cur).mx.running = none ∧ (hart t r.call.h).mfsub = sub
    (pair → xvOk → r.cancelled = false → athand 0 (width fa) 16 → athand 1 (width fb) 16 → (blocks → athand 2 1 1 ∧ athand 3 1 1) →
      ∃ v : BitVec 131072,
        exec (.mma fa fb xv) s = .next (setRun (dropLines s r)
          { r with acc := v, steps := r.steps + 1, sent := [], lines := [], upc := r.upc + 1, stalled := [] }) ∧
        ∀ i j, i < 64 → j < 64 →
          let old := bitsOf r.acc (32 * (64 * i + j)) 32
          let new := bitsOf v (32 * (64 * i + j)) 32
          (ints → (new : Int) = ((old : Int) + ((List.range 16).map fun n => int fa 0 i n * int fb 1 j n).sum) % 2 ^ 32) ∧
          (¬ints →
            let dot := xsum (.fin false 0 0 :: (List.range (count fa)).map fun n => XR.mul (value fa 0 i n) (value fb 1 j n))
            new = (rne32 (XR.add false (Fmt.fp32.value old) (f32 (rne32 dot).1))).1.toNat)) ∧
    (coreOf r.call.h = s.cur → (¬pair → fails 0x03) ∧ (pair → ¬xvOk → fails 0x01))

/-! ### Comb memory -/

/-- O38. The loads of the LD slot as they issue: each puts one load under way for its destination, which is empty or pending from
then on; W ends the quantum; no byte of any comb or of memory changes, and without C, where no earlier load has it, no granule
empties (R199 to R201, R204 to R209). An LDS of the own comb, and its completion: sd becomes pending, and then holds the 2^size
bytes at s(base) + sext(disp), zero-extended, as they stood at issue (R207, R209). The loads of a drone, by what its call sees
(R357, R358, R364): LDS, LDM and LDT of cells, or of global memory, and their completion. The destination holds the bytes of the
near address, the rows of a tile that are not loaded keep theirs, and nothing else changes; what a call sees outside the commit
steps is committed memory. -/
def Obligations.LoadsBegin : Prop :=
  (∀ (s : State) (clr wt d : Bool) (td tx : TReg) (sd base sb : SReg) (fd : FReg) (md : MReg) (rows : BitVec 4) (size : BitVec 2)
     (disp : BitVec 32) (short : BitVec 28) (q : QNo), s.slotsOpen → isDrone s.cur = false →
     let begins (i : Instr) (dst : LoadDst) (m : Mark) : Prop :=
       ∃ t, exec i s = .next t ∧ ((me t).loads.map fun l => (l.dst, l.clr, l.wt)) =
           ((me s).loads.map fun l => (l.dst, l.clr, l.wt)) ++ [(dst, clr, wt)] ∧
         t.bundle.marks = s.bundle.marks ++ [m] ∧ t.bundle.endsQ = (s.bundle.endsQ || wt) ∧ t.mem = s.mem ∧ t.drones = s.drones ∧
         ∀ c, (core t c).comb = (core s c).comb ∧
           ((∀ l ∈ (me s).loads, l.clr = false) → clr = false → (core t c).empties = (core s c).empties)
     begins (.ldt clr wt td base sb rows disp) (.tile td.toNat) (.tile td.toNat) ∧
     begins (.ldrw clr wt td base sb rows disp) (.tile td.toNat) (.tile td.toNat) ∧
     begins (.ldx clr wt d td base tx) (.tile td.toNat) (.tile td.toNat) ∧
     begins (.lds clr wt size sd base disp) (.scalar sd.toNat) (.scalar sd.toNat) ∧
     begins (.ldf clr wt fd base disp) (.freg fd.toNat) (.freg fd.toNat) ∧
     begins (.ldm clr wt md base disp) (.mask md.toNat) (.mask md.toNat) ∧
     ((me s).loads = [] → ((me s).queue q.toNat).items = [] → begins (.ldg clr wt td base sb rows short q) (.tile td.toNat) (.tile td.toNat))) ∧
  (∀ (s : State) (clr : Bool) (size : BitVec 2) (sd base : SReg) (disp : BitVec 32), s.slotsOpen → isDrone s.cur = false →
     s.cur < 1152 → (me s).loads = [] →
     let a := ((me s).s base + disp.signExtend 64).toNat
     let o := a % 2 ^ 22
     let k := core s (coreOf s.cur)
     memberCore s.cur a = coreOf s.cur → a % 2 ^ size.toNat = 0 → k.badGranules.contains (o / 16) = false → sd ≠ 0 →
     ∃ t u, exec (.lds clr false size sd base disp) s = .next t ∧ exec (.loadComplete s.cur 0) t = .next u ∧
       ((me u).scalar sd.toNat).val = BitVec.ofNat 64 (leNat (mread k.comb o (2 ^ size.toNat))) ∧
       ((me u).scalar sd.toNat).pending = false ∧ ((me u).scalar sd.toNat).poison = none ∧ (me u).loads = [] ∧
       (core u (coreOf s.cur)).isEmpty (o / 16) = (clr || k.isEmpty (o / 16))) ∧
  (∀ (s : State) (clr wt : Bool) (size : BitVec 2) (sd base sb : SReg) (td : TReg) (md : MReg) (rows : BitVec 4) (disp : BitVec 32),
     s.slotsOpen → isDrone s.cur = true → (me s).loads = [] → s.badLines = [] →
     let a := (me s).s base + disp.signExtend 64
     let p := if sb = 0 then 256 else (me s).s sb
     let row (r : Nat) : Word := a + BitVec.ofNat 64 r * p
     let near (x : Word) (n : Nat) : Prop := (x.toNat / 2 ^ 56 = 2 ∧ x.toNat % 2 ^ 18 + n ≤ 2 ^ 18) ∨ x.toNat + n ≤ 2 ^ 56
     let byte (x : Word) (j : Nat) : Byte :=
       if x.toNat / 2 ^ 56 = 2 then mget (drone s (s.cur - 1152)).cells (x.toNat % 2 ^ 18 + j) else callReader s s.cur (x.toNat + j)
     let done (i : Instr) (m : Mark) (f : Ctx → Prop) : Prop :=
       ∃ t u, exec i s = .next t ∧ exec (.loadComplete s.cur 0) t = .next u ∧ t.bundle.marks = s.bundle.marks ++ [m] ∧ f (me u) ∧
         (me u).loads = [] ∧ u.mem = s.mem ∧ u.drones = s.drones ∧ u.cores = s.cores ∧ ∀ g, g ≠ s.cur → hart u g = hart s g
     (near a (2 ^ size.toNat) → sd ≠ 0 → done (.lds clr wt size sd base disp) (.scalar sd.toNat) fun c =>
       c.scalar sd.toNat = { val := BitVec.ofNat 64 (leNat ((List.range (2 ^ size.toNat)).map (byte a))), pending := false, poison := none }) ∧
     (near a 128 → md ≠ 0 → done (.ldm clr wt md base disp) (.mask md.toNat) fun c =>
       c.mask md.toNat = { val := BitVec.ofNat 1024 (leNat ((List.range 128).map (byte a))), pending := false, poison := none }) ∧
     ((∀ r, r ≤ rows.toNat → near (row r) 256) → done (.ldt clr wt td base sb rows disp) (.tile td.toNat) fun c =>
       (c.tile td.toNat).st = .full ∧ ∀ n, n < 4096 → bitsOf (c.tile td.toNat).val (8 * n) 8 =
         if n / 256 ≤ rows.toNat then (byte (row (n / 256)) (n % 256)).toNat else bitsOf ((me s).tile td.toNat).val (8 * n) 8) ∧
     ((∀ r, (me s).run = some r → r.msg.ordered = false) → ∀ va, callReader s s.cur va = (vbyte s.image va).getD 0))

/-- O39. What the stores of the ST slot write, and nothing else: `storeRanges` gives the address and the bytes of each piece, from
the addresses the rules give. On a core every byte of every comb outside those ranges, and every byte of memory, is as it was;
pieces of the own comb stand there, the later over the earlier, their granules full under F (R204); those of another member are
queued, by granule (R274; R193, R196, R207, R208). On a drone the pieces stand in the cell store, or in global memory, the later
over the earlier, and nothing else changes (R357). -/
def Obligations.StoresWrite : Prop :=
  (∀ (s : State) (i : Instr), s.slotsOpen → isDrone s.cur = false → storeRanges s i ≠ [] →
     ∃ t, exec i s = .next t ∧ t.mem = s.mem ∧ t.drones = s.drones ∧
       (∀ c o, (∀ p ∈ storeRanges s i, ¬(memberCore s.cur p.1 = c ∧ p.1 % 2 ^ 22 ≤ o ∧ o < p.1 % 2 ^ 22 + p.2.length)) →
         mget (core t c).comb o = mget (core s c).comb o) ∧
       (let own := coreOf s.cur
        let fill := match i with
          | .stt f .. | .strw f .. | .sts f .. | .stf f .. | .stm f .. => f
          | _ => false
        (fill = false → ∀ c, (core t c).empties = (core s c).empties) ∧
        ((∀ p ∈ storeRanges s i, memberCore s.cur p.1 = own) → (core s own).badGranules = [] →
          (∀ o, mget (core t own).comb o =
            mget ((storeRanges s i).foldl (fun m p => mwrite m (p.1 % 2 ^ 22) p.2) (core s own).comb) o) ∧
          (fill = true → (∀ e ∈ s.harts, e.2.loads = []) → ∀ p ∈ storeRanges s i, ∀ j, j < p.2.length →
            (core t own).isEmpty ((p.1 % 2 ^ 22 + j) / 16) = false)) ∧
        ((∀ p ∈ storeRanges s i, memberCore s.cur p.1 ≠ own ∧ p.2 ≠ [] ∧
            ((p.1 % 16 = 0 ∧ p.2.length % 16 = 0) ∨ p.1 % 16 + p.2.length ≤ 16)) →
          (∀ c, (core t c).comb = (core s c).comb) ∧ (me t).remotes = (me s).remotes ++ (storeRanges s i).flatMap fun p =>
            let sends (o : Nat) (b : List Byte) : Remote := .store (memberCore s.cur p.1) (p.1 % 2 ^ 22 + o) b fill
            if p.2.length ≤ 16 then [sends 0 p.2]
            else (List.range (p.2.length / 16)).map fun k => sends (16 * k) ((p.2.drop (16 * k)).take 16)))) ∧
  (∀ (s : State) (i : Instr), s.slotsOpen → isDrone s.cur = true → storeRanges s i ≠ [] →
     let d := s.cur - 1152
     ((∀ p ∈ storeRanges s i, p.1 / 2 ^ 56 = 2 ∧ p.1 % 2 ^ 18 + p.2.length ≤ 2 ^ 18) →
       ∃ t, exec i s = .next t ∧ t.mem = s.mem ∧ t.cores = s.cores ∧ t.harts = s.harts ∧
         drone t d = { drone s d with cells := (storeRanges s i).foldl (fun m p => mwrite m (p.1 % 2 ^ 18) p.2) (drone s d).cells } ∧
         ∀ k, k ≠ d → drone t k = drone s k) ∧
     (s.badLines = [] → (∀ p ∈ storeRanges s i, p.1 + p.2.length ≤ 2 ^ 56 ∧ ∃ b e, e.rep = 0 ∧
         ∀ j, j < p.2.length → findPage s.pages (p.1 + j) = some (b, e)) →
       let put (m : List Host.Cell) (p : Nat × List Byte) : List Host.Cell := match findPage s.pages p.1 with
         | some (b, e) => mwrite m (e.frame * 2 ^ 16 + (p.1 - b)) p.2
         | none => m
       ∃ t, exec i s = .next t ∧ t.cores = s.cores ∧ t.harts = s.harts ∧ t.drones = s.drones ∧
         ∀ o, mget t.mem o = mget ((storeRanges s i).foldl put s.mem) o))

/-- O40. The scatter forms to the own comb, where one element is not skipped: the word at s(base) plus its index becomes what the
form says of the old word and the element, stored, ORed, added and wrapped, or the larger or smaller, signed or not; no other byte
of the comb changes (R206). -/
def Obligations.ScattersApply : Prop :=
  ∀ (s : State) (d fill : Bool) (ta tx : TReg) (base : SReg) (x k : Nat), s.slotsOpen → isDrone s.cur = false →
    scatterIdx ((me s).tile tx.toNat).val d = [(x, k)] →
    let w := if d then 8 else 4
    let a := ((me s).s base + BitVec.ofNat 64 x).toNat
    let o := a % 2 ^ 22
    let c := coreOf s.cur
    memberCore s.cur a = c → (core s c).badGranules = [] →
    let old := leNat (mread (core s c).comb o w)
    let new := bitsOf ((me s).tile ta.toNat).val (8 * w * k) (8 * w)
    let sg (n : Nat) : Int := if n < 2 ^ (8 * w - 1) then n else (n : Int) - 2 ^ (8 * w)
    let writes (i : Instr) (v : Nat) : Prop := ∃ t, exec i s = .next t ∧ t.mem = s.mem ∧
      mread (core t c).comb o w = natBytes v w ∧ ∀ b, b < o ∨ o + w ≤ b → mget (core t c).comb b = mget (core s c).comb b
    writes (.stx fill d ta base tx) new ∧ writes (.scor fill d ta base tx) (old ||| new) ∧
    writes (.scadd fill d ta base tx) ((old + new) % 2 ^ (8 * w)) ∧
    writes (.scmax fill false d ta base tx) (if sg old < sg new then new else old) ∧
    writes (.scmin fill false d ta base tx) (if sg new < sg old then new else old) ∧
    writes (.scmax fill true d ta base tx) (max old new) ∧ writes (.scmin fill true d ta base tx) (min old new)

/-- O41. SETE and SETF of rows of the own comb, no load waiting: the 16 granules of each row become empty, or full; no byte changes
(R204). An access to another member performs at its core once nothing earlier of its strand is on its way to the same granule: the
oldest one always may. A store writes its bytes there, a BINC counts (R251, R274); at a core that stopped on a core fault none
performs (R278). -/
def Obligations.GranulesAndMembers : Prop :=
  (∀ (s : State) (base sb : SReg) (rows : BitVec 4) (disp : BitVec 32), s.slotsOpen → isDrone s.cur = false →
     (∀ e ∈ s.harts, e.2.loads = []) →
     let p := if sb = 0 then 256 else (me s).s sb
     let row (r : Nat) : Nat := ((me s).s base + disp.signExtend 64 + BitVec.ofNat 64 r * p).toNat
     let c := coreOf s.cur
     (∀ r, r ≤ rows.toNat → memberCore s.cur (row r) = c ∧ row r % 2 ^ 22 + 256 ≤ 2 ^ 22 ∧ row r % 16 = 0) →
     (∃ t, exec (.sete base sb rows disp) s = .next t ∧ (core t c).comb = (core s c).comb ∧ t.mem = s.mem ∧
       ∀ r k, r ≤ rows.toNat → k < 16 → (core t c).isEmpty (row r % 2 ^ 22 / 16 + k) = true) ∧
     (∃ t, exec (.setf base sb rows disp) s = .next t ∧ (core t c).comb = (core s c).comb ∧ t.mem = s.mem ∧
       ∀ r k, r ≤ rows.toNat → k < 16 → (core t c).isEmpty (row r % 2 ^ 22 / 16 + k) = false)) ∧
  (∀ (s : State) (h c o k n : Nat) (bs : List Byte) (r : Remote) (rs : List Remote),
     ((hart s h).remotes = r :: rs → (core s (remotePlace r).1).faulted = true → exec (.remoteAccessPerform h 0) s = .next s) ∧
     ((hart s h).remotes = .store c o bs false :: rs → (core s c).faulted = false → (core s c).badGranules.contains (o / 16) = false →
       ∃ t, exec (.remoteAccessPerform h 0) s = .next t ∧ (hart t h).remotes = rs ∧ (core t c).comb = mwrite (core s c).comb o bs ∧
         (∀ j, j ≠ c → core t j = core s j) ∧ t.mem = s.mem) ∧
     ((hart s h).remotes = .binc c k n :: rs → (core s c).faulted = false →
       ∃ t, exec (.remoteAccessPerform h 0) s = .next t ∧ (hart t h).remotes = rs ∧
         (barrier t c k).count = min ((barrier s c k).count + n) 0xFFFFFFFF ∧ (core t c).comb = (core s c).comb ∧ t.mem = s.mem))

/-! ### Forager, index engine, digests, calls -/

/-- O42. The CP slot's forager instructions as they issue (R237 to R240, R246 to R248): COPY puts one copy into the open batch of
its channel, with the template, the addresses, the barrier and the ASOF stamp as they are now, SNAP with a stamp; with GATHER it
reserves a claim for each row in its queue and takes the entries that stand there, in order; CBATCH and CWAIT close the batch;
PUBLISH of a strand takes the channel's complete copies into one write unit; CTSET and CTSET.CODE load a template and a code table;
CSTAT reads the channel's record and, with CLR, clears it afterwards. No byte of memory or of a comb changes. -/
def Obligations.ForagerInstructions : Prop :=
  ∀ (s : State) (ch : BitVec 3) (n : BitVec 6) (k sel : BitVec 2) (sa sb sd : SReg) (snap clr : Bool) (m : BitVec 4) (bar : Option BNo)
    (asof : Option SReg) (ta : TReg), s.slotsOpen → isStrand s.cur = true →
    let y := (me s).chan ch.toNat
    let c := coreOf s.cur
    let calm (t : State) : Prop := t.mem = s.mem ∧ ∀ j, (core t j).comb = (core s j).comb
    let joins (g : Option QNo) (f : State → Copy → Prop) : Prop :=
      ∃ t x, exec (.copy ch n sa sb snap asof g bar) s = .next t ∧ calm t ∧
        (me t).chan ch.toNat = { y with copies := y.copies ++ [x], opened := true } ∧ x.tp = tget 0 (core s c).templates n.toNat ∧
        x.src = (me s).s sa ∧ x.dst = (me s).s sb ∧ x.snap = (snap || asof.isSome) ∧ x.asof = asof.map (fun r => ((me s).s r).toNat) ∧
        x.bar = bar.map (·.toNat) ∧ x.batch = y.batch ∧ x.phase = .queued ∧ x.row = 0 ∧ x.col = 0 ∧ x.shadow = [] ∧ f t x
    joins none (fun t x => x.gather = none ∧ (me t).queues = (me s).queues) ∧
    (∀ (g : QNo) (es : List Nat), ((me s).queue g.toNat).items = es.map .entry → ((me s).queue g.toNat).claims = [] →
      (∀ k ∈ y.copies, k.id ≠ s.arrivals) →
      joins (some g) fun t x =>
        let rows := tpRows x.tp + 1
        x.id = s.arrivals ∧
        x.gather = some { queue := g.toNat, want := rows, got := (es.take rows).map some, poisoned := false } ∧
        ((me t).queue g.toNat).items = (es.drop rows).map .entry ∧
        ((me t).queue g.toNat).claims.map (fun k => k.kind) = List.replicate (rows - es.length) (.copy ch.toNat x.id)) ∧
    (∃ t, exec (.cbatch ch) s = .next t ∧ calm t ∧ (me t).chan ch.toNat = closeBatch y) ∧
    (∃ t, exec (.cwait ch m) s = .next t ∧ calm t ∧ (me t).chan ch.toNat = closeBatch y) ∧
    (∃ t u, exec (.publish ch) s = .next t ∧ calm t ∧ (me t).qUnits = (me s).qUnits + 1 ∧
      (launch t (me s).who.launch).units = (launch s (me s).who.launch).units ++ [u] ∧ u.key = (me s).csr.skey ∧
      u.q = (me s).csr.qnum.toNat ∧ u.kind = .publish (y.copies.filter fun x => x.phase == .complete) ∧
      ∀ x ∈ ((me t).chan ch.toNat).copies, x.phase ≠ .complete) ∧
    (∃ t, exec (.ctset n ta) s = .next t ∧ calm t ∧
      tget 0 (core t c).templates n.toNat = ((me s).tile ta.toNat).val.extractLsb' 0 512 ∧
      ∀ j, j ≠ n.toNat → tget 0 (core t c).templates j = tget 0 (core s c).templates j) ∧
    (∃ t, exec (.ctsetCode k ta) s = .next t ∧ calm t ∧
      tget 0 (core t c).codeTables k.toNat = ((me s).tile ta.toNat).val.extractLsb' 0 4096) ∧
    (∃ t v, exec (.cstat sd ch sel clr) s = .next t ∧ calm t ∧
      (me t).flight = (me s).flight ++ [{ due := (me s).count + 1, dst := .scalar sd.toNat v, flags := 0 }] ∧
      (sel = 0 → (y.copies.filter Copy.pending).length < 2 ^ 16 → y.closed.length < 2 ^ 8 → y.moved < 2 ^ 16 →
        v.extractLsb' 56 8 = (y.fault.map fun f => f.cause).getD 0 ∧ v.extractLsb' 48 8 = (y.fault.map fun f => f.sub).getD 0 ∧
        v.extractLsb' 32 16 = BitVec.ofNat 16 y.moved ∧ v.extractLsb' 16 16 = BitVec.ofNat 16 (y.copies.filter Copy.pending).length ∧
        v.extractLsb' 8 8 = BitVec.ofNat 8 y.closed.length ∧ v.extractLsb' 0 8 = if y.opened then 1 else 0) ∧
      (sel = 1 → v = BitVec.ofNat 64 ((y.fault.map fun f => f.addr).getD 0)) ∧ (sel = 2 → v = BitVec.ofNat 64 (y.movedAddr.getD 0)) ∧
      (sel = 3 → v = (barrier s c ch.toNat).word) ∧
      (clr = true → ((me t).chan ch.toNat).fault = none ∧ ((me t).chan ch.toNat).moved = 0) ∧
      (clr = false → (me t).chan ch.toNat = y))

/-- O43. The copies of a channel as they go on (R234, R239 to R242, R247, R249), where no drone's sequencer runs (R375): a raw
granule for a comb is written there as it was read, a converted one element by element, through the code table or the source type,
SCALE and BIAS, rounded once under the template's mode, a reduce-add over the old element; a granule for global memory only joins
the copy's shadow; a copy to a comb that is done leaves the channel, one to global memory keeps its shadow; a copy that faults
leaves it too, and the first fault of the channel is kept. Its barrier counts one at either end, a fault with its cause (R250). -/
def Obligations.CopyEvents : Prop :=
  ∀ (s : State) (h ch k : Nat) (x : Copy), isStrand h = true → runningCopy s h ch k = some x →
    let tp := x.tp
    let dt := typeOf (tpDfmt tp)
    let dw := dt.bits / 8
    let sw := (typeOf (tpSfmt tp)).bits / 8
    let code (l : List Byte) (w i : Nat) : Nat := leNat ((l.drop (w * i)).take w)
    let term (src : List Byte) (i : Nat) : XR :=
      let e := code src sw i
      let v := if tpCt tp then elemVal dt (bitsOf (tget 0 (core s (coreOf h)).codeTables (tpCtab tp)) (16 * e) 16)
        else elemVal (typeOf (tpSfmt tp)) e
      let v := if tpScl tp then XR.mul v (tpScale tp) else v
      if tpAdd tp then XR.add (tpRnd tp == 3) v (tpBias tp) else v
    (∀ d src a n, s.channelsFree → copyNext s h x = .write d src a n → tpXform tp = 1 ∨ tpXform tp = 2 → src.length = 16 / dw * sw →
      let m := memberCore h d.toNat
      let at16 (t : State) : List Byte := mread (core t m).comb (d.toNat % 2 ^ 22) 16
      (tpDstSp tp = true → d.toNat % 16 = 0 → (core s m).badGranules = [] →
        ∃ t, exec (.foragerGranuleWrite h ch k) s = .next t ∧ t.mem = s.mem ∧ ∀ i, i < 16 / dw → code (at16 t) dw i =
          toElem (tpMode tp) dt (if tpXform tp = 2 then XR.add (tpRnd tp == 3) (term src i) (elemVal dt (code (at16 s) dw i)) else term src i)
            % 2 ^ dt.bits) ∧
      (tpDstSp tp = false →
        ∃ t y g, exec (.foragerGranuleWrite h ch k) s = .next t ∧ t.mem = s.mem ∧ t.cores = s.cores ∧
          (copiesOf t h ch)[k]? = some y ∧ tfind y.shadow (d.toNat / 16) = some g ∧
          ∀ i, i < 16 / dw → code (natBytes g.toNat 16) dw i = toElem (tpMode tp) dt (term src i) % 2 ^ dt.bits)) ∧
    (∀ d src a n, s.channelsFree → copyNext s h x = .write d src a n → tpXform x.tp = 0 → src.length = 16 →
      (tpDstSp x.tp = true → d.toNat % 16 = 0 →
        ∃ t, exec (.foragerGranuleWrite h ch k) s = .next t ∧ t.mem = s.mem ∧
          mread (core t (memberCore h d.toNat)).comb (d.toNat % 2 ^ 22) 16 = src ∧
          (core t (memberCore h d.toNat)).badGranules.contains (d.toNat % 2 ^ 22 / 16) = false) ∧
      (tpDstSp x.tp = false →
        ∃ t y, exec (.foragerGranuleWrite h ch k) s = .next t ∧ t.mem = s.mem ∧ t.cores = s.cores ∧
          (copiesOf t h ch)[k]? = some y ∧ tfind y.shadow (d.toNat / 16) = some (BitVec.ofNat 128 (leNat src)))) ∧
    (let place := if tpDstSp tp then memberCore h x.dst.toNat else coreOf h
     (copyNext s h x = .done →
       ∃ t, exec (.copyComplete h ch k) s = .next t ∧ t.mem = s.mem ∧
         (tpDstSp tp = true → copiesOf t h ch = (copiesOf s h ch).eraseIdx k) ∧
         (tpDstSp tp = false → ∃ y, (copiesOf t h ch)[k]? = some y ∧ y.phase = .complete ∧ y.shadow = x.shadow) ∧
         (x.bar = none → t.cores = s.cores) ∧
         ∀ b, x.bar = some b → barrier t place b = { barrier s place b with count := min ((barrier s place b).count + 1) 0xFFFFFFFF }) ∧
     (∀ f, copyNext s h x = .fault f →
       ∃ t, exec (.copyFault h ch k) s = .next t ∧ copiesOf t h ch = (copiesOf s h ch).eraseIdx k ∧ t.mem = s.mem ∧
         ((hart t h).chan ch).fault = some (((hart s h).chan ch).fault.getD f) ∧
         ∀ b, x.bar = some b →
           let old := barrier s place b
           barrier t place b = { old with
             count := min (old.count + 1) 0xFFFFFFFF, flt := true, fcause := if old.flt then old.fcause else f.cause
             finfo := if old.flt then old.finfo else faultInfo f }))

/-- O44. The index engine, the scout and the guard as they issue: each puts one producer to its queue and leaves its count scalar
pending (R255). IXSCAN will push the numbers of the nonzero elements, or rows, in order, SPRED the rows whose score is above the
threshold or NaN, their bits set in its mask (R259, R263); GUARD the rows not computed whose bound is above the row's ε, then the
largest ones while the rest together exceed the layer's ε, the rest rounded up as its bound (R264, R265); IXBMAP and IXRLE walk the
comb (R260); IXCLR leaves one close mark and no producer (R261). -/
def Obligations.IndexInstructions : Prop :=
  ∀ (s : State) (q : QNo) (t : EType) (ta : TReg) (sa sb sc : SReg) (keep : Bool) (rate : BitVec 4) (md : MReg) (n1 : BitVec 10),
    s.slotsOpen →
    let c := me s
    let v := (c.tile ta.toNat).val
    let nz (n : Nat) : Bool := if t.isF then tileElem t v n % 2 ^ (t.bits - 1) != 0 else tileElem t v n != 0
    let theta := Fmt.fp32.value ((c.s sa).toNat % 2 ^ 32)
    let score (r : Nat) : XR := Fmt.fp32.value (tileElem .fp32 v r)
    let starts (i : Instr) (sd : SReg) (ms : List Mark) (w : Work → Prop) : Prop :=
      ∃ u p, exec i s = .next u ∧ ((me u).queue q.toNat).prods.getLast? = some p ∧
        ((me u).queue q.toNat).prods.length = (c.queue q.toNat).prods.length + 1 ∧ p.keep = keep ∧ p.count = sd.toNat ∧ p.pushed = 0 ∧
        w p.work ∧ u.bundle = { s.bundle with marks := s.bundle.marks ++ ms } ∧ u.cores = s.cores ∧ u.mem = s.mem
    starts (.ixscan q false t ta sa sb keep rate) sb [.scalar sb.toNat]
      (· = .list (((List.range (elemCount t)).filter nz).map fun n => (c.s sa).toNat % 2 ^ 32 + n) none 0) ∧
    starts (.ixscan q true t ta sa sb keep rate) sb [.scalar sb.toNat]
      (· = .list (((List.range 16).filter fun r => (List.range t.perRow).any fun j => nz (r * t.perRow + j)).map fun r =>
        (c.s sa).toNat % 2 ^ 32 + r) none 0) ∧
    starts (.ixbmap q sa sc sb keep rate) sb [.scalar sb.toNat] (· = .bitmap (c.s sa).toNat 0 (c.s sc).toNat) ∧
    starts (.ixrle q sa sc sb keep rate) sb [.scalar sb.toNat] (· = .runs (c.s sa).toNat (c.s sc).toNat 0 0) ∧
    starts (.spred q md ta sa sb n1 keep rate) sb [.scalar sb.toNat, .mask md.toNat] (fun w => ∃ m : Mask,
      let picked (r : Nat) : Bool := theta.lt (score r) || (score r).isNaN || theta.isNaN
      w = .list (((List.range (n1.toNat + 1)).filter picked).map fun r => (c.s sa).toNat / 2 ^ 32 + r) (some (md.toNat, m)) 0 ∧
        ∀ j, j < 1024 → m.getLsbD j = (decide (j ≤ n1.toNat) && picked j)) ∧
    starts (.guard q md ta sa sb sc n1 keep rate) sc [.scalar sc.toNat] (fun w => ∃ layer : List Nat,
      let plus (x : XR) : XR := if x.sign then .fin false 0 0 else x
      let eps (v : Word) : XR := let x := Fmt.fp32.value (v.toNat % 2 ^ 32); if x.isNaN then .fin false 0 0 else plus x
      let u (r : Nat) : XR := let x := score (r % 16 * 64 + r / 16); if x.isNaN then .inf false else plus x
      let omitted := (List.range (n1.toNat + 1)).filter fun r => !(c.mask md.toNat).val.getLsbD r
      let first := omitted.filter fun r => (eps (c.s sa)).lt (u r)
      let rest (k : Nat) : List Nat := omitted.filter fun r => !first.contains r && !(layer.take k).contains r
      let sum (k : Nat) : XR := xsum ((rest k).map u)
      w = .list ((first ++ layer).map fun r => (c.s sa).toNat / 2 ^ 32 + r) none
        (rnd { rnd := .rup, sat := false, ftz := false } 0 .fp32 (sum layer.length)).1 ∧
      (∀ k r, layer[k]? = some r → r ∈ rest k ∧ (eps (c.s sb)).lt (sum k) = true ∧
        ∀ o ∈ rest k, (u r).lt (u o) = false ∧ (o < r → (u o).lt (u r) = true)) ∧
      (rest layer.length = [] ∨ (eps (c.s sb)).lt (sum layer.length) = false)) ∧
    ((c.queue q.toNat).claims = [] → ∃ u, exec (.ixclr q) s = .next u ∧
      (me u).queue q.toNat = { items := [.close none], claims := [], prods := [] } ∧ u.cores = s.cores ∧ u.mem = s.mem)

/-- O45. Entries come and go. INDEX_PRODUCER_PUSH of a list appends its next entry, waits while 1,024 entries stand in the queue
(R253), and at its end finishes the producer: its count, in GUARD the rest's bound above it, and SPRED's mask are written and its
queue is closed unless KEEP (R255, R263, R265). IXBMAP pushes the number of the next bit that is set, IXRLE the next number of its
pair, or takes the next pair (R260). A consumer passes the close marks that reach only claims numbered below their bound. IXPOP
takes the entry at the head; IXPEEK looks at the one at its offset and leaves the queue as it is; both give all ones at a close mark
that reaches them, are poisoned with 0x14 at a poison mark, which acts as a close mark from then on (R262), and wait where nothing
has come yet; an IXPEEK beyond 1,023 gives all ones at once (R143). -/
def Obligations.IndexQueues : Prop :=
  ∀ (s : State) (h : Nat) (q : QNo) (sd sa : SReg),
    let x := (hart s h).queue q.toNat
    let y := (me s).queue q.toNat
    let ends (i : QItem) : Prop := i = .close none ∨ ∃ b, i = .close (some b) ∧ s.arrivals < b
    let passed (l : List QItem) : Prop := ∀ i ∈ l, ∃ b, i = .close (some b) ∧ b ≤ s.arrivals
    let before (l : List QItem) (n : Nat) : Prop :=
      (∀ i ∈ l, (∃ v, i = .entry v) ∨ ∃ b, i = .close (some b) ∧ b ≤ s.arrivals) ∧ (l.filter isEntry).length = n
    let fills (i : Instr) (v : Word) (bad : Option Byte) (items : List QItem) : Prop :=
      ∃ t, exec i s = .next t ∧ t.bundle.marks = s.bundle.marks ++ [.scalar sd.toNat] ∧
        t.bundle.fills = s.bundle.fills ++ [(sd.toNat, v, bad)] ∧ (me t).queue q.toNat = { y with items := items }
    let waits (i : Instr) (k : ClaimKind) : Prop :=
      ∃ t, exec i s = .next t ∧ t.bundle.marks = s.bundle.marks ++ [.scalar sd.toNat] ∧ t.bundle.fills = s.bundle.fills ∧
        (me t).queue q.toNat = { y with claims := [{ num := s.arrivals, kind := k }] }
    (∀ p ps, x.claims = [] → x.prods = p :: ps →
      let room : Prop := occupied (hart s h) q.toNat < 1024
      let pushes (e : Nat) (w : Work) (held : Option (Nat × BitVec 128)) : Prop :=
        ∃ t, exec (.indexProducerPush h q.toNat) s = .next t ∧ (hart t h).queue q.toNat =
          { x with items := x.items ++ [.entry (e % 2 ^ 32)], prods := { p with work := w, held := held, pushed := p.pushed + 1 } :: ps }
      let finishes (n : Nat) (f : Ctx → Prop) : Prop :=
        ∃ t, exec (.indexProducerPush h q.toNat) s = .next t ∧ f (hart t h) ∧
          (p.count ≠ 0 → (hart t h).scalar p.count = { val := BitVec.ofNat 64 n, pending := false, poison := none }) ∧
          (hart t h).queue q.toNat = { x with items := if p.keep then x.items else x.items ++ [.close p.bound], prods := ps }
      let waitsFull : Prop := exec (.indexProducerPush h q.toNat) s = .next s
      let byte (a : Nat) : Byte := mget (core s (memberCore h a)).comb (a % 2 ^ 22)
      let calm : Prop := p.held = none ∧ ∀ c g, onItsWay s h c g = false ∧ (core s c).badGranules.contains g = false
      (∀ e es m hi, p.work = .list (e :: es) m hi → (room → pushes e (.list es m hi) p.held) ∧ (¬room → waitsFull)) ∧
      (∀ m hi, p.work = .list [] m hi → finishes (p.pushed + hi * 2 ^ 32) fun c =>
        ∀ r v, m = some (r, v) → r ≠ 0 → c.mask r = { val := v, pending := false, poison := none }) ∧
      (∀ a pos len, p.work = .bitmap a pos len → calm →
        let one (j : Nat) : Bool := (byte (a + j / 8)).getLsbD (j % 8)
        (∀ m, pos ≤ m → m < len → one m = true → (∀ j, pos ≤ j → j < m → one j = false) →
          (room → ∃ g, pushes m (.bitmap a (m + 1) len) (some g)) ∧ (¬room → waitsFull)) ∧
        ((∀ j, pos ≤ j → j < len → one j = false) → finishes p.pushed fun _ => True)) ∧
      (∀ a left start len, p.work = .runs a left start len →
        (0 < len → (room → pushes start (.runs a left (start + 1) (len - 1)) p.held) ∧ (¬room → waitsFull)) ∧
        (len = 0 → left = 0 → finishes p.pushed fun _ => True) ∧
        (len = 0 → 0 < left → calm → a % 8 = 0 → ∃ t g, exec (.indexProducerPush h q.toNat) s = .next t ∧ (hart t h).queue q.toNat =
          { x with prods := { p with
              work := .runs (a + 8) (left - 1) (leNat ((List.range 4).map fun i => byte (a + i))) (leNat ((List.range 4).map fun i => byte (a + 4 + i)))
              held := some g } :: ps }))) ∧
    (s.slotsOpen → y.claims = [] →
      (∀ pre i rest, y.items = pre ++ i :: rest → passed pre →
        (∀ v, i = .entry v → fills (.ixpop q sd) (BitVec.ofNat 64 v) none rest) ∧
        (ends i → fills (.ixpop q sd) (BitVec.allOnes 64) none (i :: rest)) ∧
        (i = .poison → fills (.ixpop q sd) 0 (some 0x14) (.close none :: rest))) ∧
      (passed y.items → waits (.ixpop q sd) (.pop sd.toNat)) ∧
      (1023 < ((me s).s sa).toNat → fills (.ixpeek q sd sa) (BitVec.allOnes 64) none y.items) ∧
      (((me s).s sa).toNat ≤ 1023 →
        (∀ pre i rest n, y.items = pre ++ i :: rest → before pre n → n ≤ ((me s).s sa).toNat →
          (∀ v, i = .entry v → n = ((me s).s sa).toNat → fills (.ixpeek q sd sa) (BitVec.ofNat 64 v) none y.items) ∧
          (ends i → fills (.ixpeek q sd sa) (BitVec.allOnes 64) none y.items) ∧
          (i = .poison → fills (.ixpeek q sd sa) 0 (some 0x14) (pre ++ .close none :: rest))) ∧
        (∀ n, before y.items n → n ≤ ((me s).s sa).toNat → waits (.ixpeek q sd sa) (.peek sd.toNat ((me s).s sa).toNat))))

/-- O46. The digest commands as they issue: a query of s(sb) blocks from the block that holds s(sa) on, its tile empty, DQRY.Q
ending the quantum; a scan, its count and its score tile to come, from the block of s(sa) on, or for HAM from the row, a producer of
its queue where it has one; a rescan in the commit step of the current quantum (R348 to R351). DQRY_COMPLETE of the oldest digest
read of its context whose records may be read, where no drone's sequencer runs (R375): row i of the tile holds the record of the
i-th block with its header, DGSTAMP the last committed quantum. DSCAN_COMPLETE of the oldest scan that pushes nothing, from any unit
on, every unit of it ready: its count is the number of units that pass, its score tile holds their scores and +0 after them, DGSTAMP
is the smallest stamp read; a unit of a record that is not valid, is poisoned, or has no exact sum or sketch, passes. A scan of a
queue pushes the next unit that passes, and at its end fills the count with what it pushed and closes the queue unless KEEP (R344,
R348 to R350, R354). -/
def Obligations.DigestReads : Prop :=
  (∀ (s : State) (kind : DKind) (td ta : TReg) (sa sb sc sd : SReg) (pred : DPred) (score : Option TReg) (keep : Bool) (rate : BitVec 4)
     (n : Nat) (r : Region),
     s.slotsOpen → isStrand s.cur = true → regionAt s ((me s).s sa).toNat = some (n, r) → (hart s s.cur).run = none →
     let block := (((me s).s sa).toNat - r.base) / r.block
     let count := ((me s).s sb).toNat
     let l := (me s).who.launch
     let asks (i : Instr) (q : Option Nat) (ends : Bool) : Prop :=
       ∃ t d, exec i s = .next t ∧ (me t).dqs = (me s).dqs ++ [d] ∧ d.dst = td.toNat ∧ d.kind = kind ∧ d.region = n ∧ d.block = block ∧
         d.count = count ∧ d.q = q ∧
         t.bundle = { s.bundle with marks := s.bundle.marks ++ [.tile td.toNat], endsQ := s.bundle.endsQ || ends } ∧
         t.records = s.records ∧ t.mem = s.mem
     let scans (k : Scan) (t : State) (pushes : Bool) : Prop :=
       k.pred = pred ∧ k.region = n ∧ k.first = (if pred = .ham then (((me s).s sa).toNat - r.base) / r.rowBytes else block) ∧ k.count = count ∧
         k.value = (me s).s sc ∧ k.operand = ((me s).tile ta.toNat).val &&& BitVec.ofNat 32768 (2 ^ 2048 - 1) ∧ k.sd = sd.toNat ∧
         k.score = score.map (·.toNat) ∧ k.scores = [] ∧ k.next = 0 ∧ k.passed = 0 ∧ k.stamp = none ∧ k.push = pushes ∧
         k.qnum = (me s).csr.qnum.toNat ∧
         t.bundle.marks = s.bundle.marks ++ (score.map fun r => Mark.tile r.toNat).toList ++ [.scalar sd.toNat] ∧ t.records = s.records ∧
         t.mem = s.mem
     asks (.dqry kind td sa sb) none false ∧ asks (.dqryQ kind td sa sb) (some (me s).csr.qnum.toNat) true ∧
     (∃ t k, exec (.dscan none pred sa sb sc ta score sd keep rate) s = .next t ∧ (me t).scans = (me s).scans ++ [k] ∧ scans k t false) ∧
     (∀ q : QNo, ∃ t k p, exec (.dscan (some q) pred sa sb sc ta score sd keep rate) s = .next t ∧ (me t).scans = (me s).scans ∧
       ((me t).queue q.toNat).prods.getLast? = some p ∧ p.work = .scan k ∧ p.keep = keep ∧ p.count = sd.toNat ∧ p.pushed = 0 ∧ scans k t true) ∧
     (∃ t, exec (.drefr sa sb) s = .next t ∧ (launch t l).rescans = (launch s l).rescans ++ [((me s).csr.qnum.toNat, n, block, count)] ∧
       t.records = s.records ∧ t.mem = s.mem)) ∧
  (∀ (s : State) (h : Nat), isStrand h = true → (hart s h).run = none → s.channelsFree →
     let now := (launch s (hart s h).who.launch).committed
     let stamped (k : Scan) : Nat := match k.stamp with
       | some o => min o now
       | none => now
     (∀ d ds, (hart s h).dqs = d :: ds → oldestRead (hart s h) d.ord = true → queryReady s h d = true → d.count ≤ 16 →
       ∃ t v, exec (.dqryComplete h) s = .next t ∧ (hart t h).dqs = ds ∧ (hart t h).tile d.dst = { val := v, st := .full } ∧
         (hart t h).csr.dgstamp = BitVec.ofNat 64 now ∧
         ∀ i, i < d.count → bitsOf v (2048 * i) 2048 =
           ((readRecord s (recKey d.region (d.block + i) d.kind.code)).bits d.kind.code now).toNat) ∧
     ∀ (k : Scan) (n : Nat) (r : Region), s.regions.find? (fun e => e.1 == k.region) = some (n, r) →
       let ready (j : Nat) : Prop := scanReady s h { k with next := j } = true
       let block (j : Nat) : Nat := if k.pred = .ham then (k.first + j) / r.rpb else k.first + j
       let row (j : Nat) : Nat := (k.first + j) % r.rpb
       let code : Nat := match k.pred with
         | .overlap | .ub => 1
         | .sumgt => 2
         | .znz => 3
         | .ham => 4
       let x (j : Nat) : Rec := readRecord s (recKey n (block j) code)
       let q (lo w : Nat) : Nat := bitsOf k.operand lo w
       let bound (code : Nat) : XR :=
         if r.efmt ≤ 4 then Fmt.fp32.value code else elemVal (if (typeOf r.efmt).signed then .int64 else .uint64) code
       let w : Nat := if r.efmt ≤ 4 then 32 else 64
       let lo (j g : Nat) : XR := bound (bitsOf (x j).body (2 * w * g) w)
       let hi (j g : Nat) : XR := bound (bitsOf (x j).body (2 * w * g + w) w)
       let theta : XR := Fmt.fp32.value (k.value.toNat % 2 ^ 32)
       let up (v : XR) : XR := Fmt.fp32.value (rnd { rnd := .rup, sat := false, ftz := false } 0 .fp32 v).1
       let times (a b : XR) : XR := if (a.isZero && b.isInf) || (a.isInf && b.isZero) then .fin false 0 0 else XR.mul a b
       let ub (j : Nat) : XR := up (xsum ((List.range r.ng).map fun g =>
         let a := times (Fmt.fp32.value (q (32 * g) 32)) (lo j g)
         let b := times (Fmt.fp32.value (q (32 * g) 32)) (hi j g)
         up (if a.lt b then b else a)))
       let ones (j : Nat) : Nat := (List.range 1984).countP fun i => (x j).body.getLsbD i
       let sum (j : Nat) : XR := (XR.ofInt ((x j).body.extractLsb' 0 96).toInt).scale (-(r.bpoint : Int))
       let dist (j : Nat) : Nat := (List.range 64).countP fun i => (x j).body.getLsbD (64 * row j + i) != k.operand.getLsbD i
       let loose (j : Nat) : Bool := !(x j).valid || (x j).poison || (k.pred == .sumgt && ((x j).ovf || (x j).inv)) ||
         (k.pred == .ham && (x j).body.getLsbD (1920 + row j))
       let test (j : Nat) : Bool := match k.pred with
         | .overlap => (List.range (min r.ng 31)).all fun g => !k.value.getLsbD g ||
             ((lo j g).le (bound (q (2 * w * g + w) w)) && (bound (q (2 * w * g) w)).le (hi j g))
         | .ub => theta.lt (ub j)
         | .znz => ones j != 0
         | .sumgt => theta.lt (sum j)
         | .ham => dist j ≤ min 64 (k.value.toNat % 2 ^ 7)
       let score (j : Nat) : Nat :=
         if loose j then (if k.pred = .ham then 0 else 0x7F800000)
         else match k.pred with
           | .overlap => if test j then 0x3F800000 else 0
           | .ub => (rne32 (ub j)).1.toNat
           | .znz => (rne32 (XR.ofInt (ones j))).1.toNat
           | .sumgt => (rne32 (sum j)).1.toNat
           | .ham => (rne32 (XR.ofInt (dist j))).1.toNat
       let passes (j : Nat) : Bool := loose j || test j
       (∀ ks, (hart s h).scans = k :: ks → oldestRead (hart s h) k.ord = true → k.next < k.count → k.count ≤ 1024 →
         (k.score.isSome = true → k.scores.length = k.next) → (∀ j, k.next ≤ j → j < k.count → ready j) →
         ∃ t, exec (.dscanComplete h 2) s = .next t ∧ (hart t h).scans = ks ∧ (hart t h).csr.dgstamp = BitVec.ofNat 64 (stamped k) ∧
           (let n := k.passed + (List.range (k.count - k.next)).countP fun j => passes (k.next + j)
            k.sd ≠ 0 → (hart t h).scalar k.sd = { val := BitVec.ofNat 64 n, pending := false, poison := none }) ∧
           (k.score = none → (hart t h).tiles = (hart s h).tiles) ∧
           ∀ tr, k.score = some tr → ((hart t h).tile tr).st = .full ∧ ∀ j, j < 1024 → tileElem .fp32 ((hart t h).tile tr).val j =
             if j < k.next then (nth 0 k.scores j).toNat else if j < k.count then score j else 0) ∧
       ∀ qn p ps, qn < 2 → ((hart s h).queue qn).claims = [] → ((hart s h).queue qn).prods = p :: ps → p.work = .scan k →
         let y := (hart s h).queue qn
         let after : Scan := { k with
           next := k.next + 1
           scores := if k.score.isSome then k.scores ++ [BitVec.ofNat 32 (score k.next)] else k.scores
           passed := k.passed + (if passes k.next then 1 else 0)
           stamp := some (stamped k) }
         (k.next < k.count → ready k.next → ∃ t, exec (.indexProducerPush h qn) s = .next t ∧ (hart t h).queue qn =
           if passes k.next = false then { y with prods := { p with work := .scan after } :: ps }
           else if occupied (hart s h) qn < 1024 then
             { y with
               items := y.items ++ [.entry ((k.first + k.next) % 2 ^ 32)]
               prods := { p with work := .scan after, pushed := p.pushed + 1 } :: ps }
           else y) ∧
         (k.next = k.count → oldestRead (hart s h) k.ord = true → ∃ t, exec (.dscanComplete h qn) s = .next t ∧
           (hart t h).queue qn = { y with items := if p.keep then y.items else y.items ++ [.close p.bound], prods := ps } ∧
           (k.sd ≠ 0 → (hart t h).scalar k.sd = { val := BitVec.ofNat 64 p.pushed, pending := false, poison := none }) ∧
           (∀ o, k.stamp = some o → (hart t h).csr.dgstamp = BitVec.ofNat 64 o) ∧
           ∀ tr, k.score = some tr → ((hart t h).tile tr).st = .full ∧ ∀ j, j < 1024 →
             tileElem .fp32 ((hart t h).tile tr).val j = (nth 0 k.scores j).toNat))

/-- O47. The records of every block and kind as REGION builds them (R339): BOUNDS the least and the greatest element of each group,
as codes of the bound's type, all where a group holds a NaN and none where it holds nothing else (R340); SUM the clamped sum of the
elements' entries, in order, with its flags and the count of nonzero elements (R118, R341); ZMAP a bit for each eight elements
(R342); SKETCH the signs of each row's sums under the draws of seed 0 (R343). Every other bit of a body is zero. How a keeper
follows a committed write that changes one element, here the one GST of a quantum that commits, in a region that keeps each kind, no
line bad and no other page over the element's frame (R344): BOUNDS widens the element's group, or to everything under a NaN, and is
TIGHT no longer where the old value was a bound or a NaN (R340); SUM takes the old entry away and adds the new one, clamped, with
its flags and the count (R118, R341); ZMAP has the bit of its eight elements anew (R342); SKETCH marks the row stale, or where the
row is whole that element or did not change computes it anew (R343). No other bit of a record and no other record changes. -/
def Obligations.DigestRecords : Prop :=
  (∀ (s : State) (ha : Word), s.host.devState = 1 → s.host.refused = false → anyRunning s = false → anyStep s = false → s.channelsFree →
     s.badLines = [] → s.regions = [] →
     let bytes := mread s.host.mem ha.toNat 64
     let r := regionOf bytes
     let t := typeOf r.efmt
     let w := t.bits / 8
     let n := r.block / w
     regionFields bytes r = true → regionShape r = true → regionPages s r = true → areaRoom s 0 r = true →
     ∃ u, exec (.region ha) s = .next u ∧ u.regions = [(0, r)] ∧ u.mem = s.mem ∧ ∀ b k, b < r.len / r.block → k ∈ [r.k1, r.k2] → k ≠ 0 →
       let x := record u (recKey 0 b k)
       let code (e : Nat) : Nat := leNat ((List.range w).map fun i => (vbyte s.image (r.base + b * r.block + e * w + i)).getD 0)
       let val (e : Nat) : XR := elemVal t (code e)
       let elems := List.range n
       let zeroFrom (lo : Nat) : Prop := ∀ j, lo ≤ j → j < 1984 → x.body.getLsbD j = false
       x.valid = true ∧ x.poison = false ∧ x.stale = false ∧ (k ≠ 1 → x.tight = true) ∧ (k ≠ 2 → x.inv = false ∧ x.ovf = false) ∧
       (k = 1 →
         let v : Nat := if r.efmt ≤ 4 then 32 else 64
         let enc (e : Nat) : Nat :=
           if r.efmt ≤ 4 then (if (val e).isZero then 0 else (rne32 (val e)).1.toNat) else (BitVec.ofInt 64 (intVal t (code e))).toNat
         (∀ g, g < (r.rowLen + r.g - 1) / r.g →
           let group := elems.filter fun e => e % r.rowLen / r.g == g
           let lo := bitsOf x.body (2 * v * g) v
           let hi := bitsOf x.body (2 * v * g + v) v
           ((∀ e ∈ group, (val e).isNaN = false) → ∃ a ∈ group, ∃ z ∈ group, lo = enc a ∧ hi = enc z ∧
             ∀ e ∈ group, (val e).lt (val a) = false ∧ (val z).lt (val e) = false) ∧
           ((∃ e ∈ group, (val e).isNaN = true) → (∃ e ∈ group, (val e).isNaN = false) → lo = 0xFF800000 ∧ hi = 0x7F800000) ∧
           ((∀ e ∈ group, (val e).isNaN = true) → lo = 0x7F800000 ∧ hi = 0xFF800000)) ∧
         zeroFrom (2 * v * ((r.rowLen + r.g - 1) / r.g)) ∧ (x.tight = !elems.any fun e => (val e).isNaN)) ∧
       (k = 2 →
         let clamp (i : Int) : Int := max (-(2 ^ 95)) (min (2 ^ 95 - 1) i)
         let entry (e : Nat) : Int := match val e with
           | .nan => 0
           | .inf neg => if neg then -(2 ^ 95) else 2 ^ 95 - 1
           | .fin neg m ex =>
             let q : Nat := if 0 ≤ ex + r.bpoint then m * 2 ^ (ex + r.bpoint).toNat else m / 2 ^ (-(ex + r.bpoint)).toNat
             if neg then -(q : Int) else q
         let sum (e : Nat) : Int := (List.range e).foldl (fun a e => clamp (a + clamp (entry e))) 0
         let out (i : Int) : Bool := decide (i < -(2 ^ 95)) || decide (2 ^ 95 - 1 < i)
         (x.body.extractLsb' 0 96).toInt = sum n ∧ bitsOf x.body 96 32 = 0 ∧ bitsOf x.body 128 64 = elems.countP (fun e => !(val e).isZero) ∧
           zeroFrom 192 ∧ (x.inv = elems.any fun e => (val e).isNaN) ∧
           x.ovf = elems.any fun e => (val e).isInf || out (entry e) || out (sum e + clamp (entry e))) ∧
       (k = 3 → ∀ j, j < 1984 → x.body.getLsbD j = (List.range 8).any fun i => decide (8 * j + i < n) && !(val (8 * j + i)).isZero) ∧
       (k = 4 →
         (∀ row p, row < r.block / (r.rowLen * w) → p < 64 →
           x.body.getLsbD (64 * row + p) = (XR.fin false 0 0).lt (xsum ((List.range r.rowLen).map fun c =>
             let v : XR := match val (row * r.rowLen + c) with
               | .nan => .fin false 0 0
               | .inf neg => .fin neg 1 128
               | v => v
             if (draw 0 c).getLsbD p then v.neg else v))) ∧
         zeroFrom (64 * (r.block / (r.rowLen * w))))) ∧
  (∀ (s : State) (l k n a base : Nat) (r : Region) (p : Page) (u : WUnit) (bytes : List Byte), (launch s l).ended = none →
     (launch s l).commit = none → mayCommit s l ((launch s l).committed + 1) = true → s.promos = [] → s.fabric.inbox = [] → anyStep s = false →
     s.badLines = [] → s.badRecords = [] → s.channelsFree → (launch s l).rescans = [] → (launch s l).units = [u] →
     u.q = (launch s l).committed + 1 → u.kind = .gst a bytes →
     let t := typeOf r.efmt
     let w := t.bits / 8
     regionAt s a = some (n, r) → r.efmt ≤ 11 → 1 ≤ r.rowLen → 1 ≤ r.g → regionShape r = true → r.base % r.block = 0 →
     s.regions.Pairwise (fun x y => x.2.base + x.2.len ≤ y.2.base ∨ y.2.base + y.2.len ≤ x.2.base) → k ∈ [r.k1, r.k2] → k ≠ 0 → r.k1 ≠ r.k2 →
     (a - r.base) % w = 0 → bytes.length = w → r.base + r.len ≤ 2 ^ 56 → r.len % r.block = 0 →
     (∀ i, i < w → findPage s.pages (a + i) = some (base, p) ∧ aliasesOf s [] (a + i) = []) → p.rep = 0 → s.remotePage p = false →
     ∃ z, exec (.quantumCommit l) s = .next z ∧ (launch z l).committed = u.q ∧
       let b := (a - r.base) / r.block
       let e := (a - r.base) % r.block / w
       let x := record s (recKey n b k)
       let y := record z (recKey n b k)
       let code (j : Nat) : Nat := leNat ((List.range w).map fun i => (vbyte s.image (r.base + b * r.block + j * w + i)).getD 0)
       let oldCode := code e
       let newCode := leNat bytes
       let val (j : Nat) : XR := elemVal t (if j = e then newCode else code j)
       let old : XR := elemVal t oldCode
       let new : XR := elemVal t newCode
       let same (lo hi : Nat) : Prop := ∀ j, j < 1984 → (j < lo ∨ hi ≤ j) → y.body.getLsbD j = x.body.getLsbD j
       let row := e / r.rowLen
       let sketched : Prop := ∀ q, q < 64 → y.body.getLsbD (64 * row + q) = (XR.fin false 0 0).lt (xsum ((List.range r.rowLen).map fun c =>
         let v : XR := match val (row * r.rowLen + c) with
           | .nan => .fin false 0 0
           | .inf neg => .fin neg 1 128
           | v => v
         if (draw 0 c).getLsbD q then v.neg else v))
       let elsewhere : Prop := ∀ j, j < 1984 → j ≠ 1920 + row → ¬(64 * row ≤ j ∧ j < 64 * row + 64) → y.body.getLsbD j = x.body.getLsbD j
       let stales (stale : Bool) : Prop := y = { x with body := y.body, stale := y.stale } ∧ y.body.getLsbD (1920 + row) = stale ∧
         y.stale = (List.range 64).any fun j => y.body.getLsbD (1920 + j)
       (∀ j, (∀ c ∈ [r.k1, r.k2], c ≠ 0 → j ≠ recKey n b c) → record z j = record s j) ∧
       (oldCode = newCode → k ≠ 4 → y = x) ∧
       (oldCode ≠ newCode → k = 1 →
         let v : Nat := if r.efmt ≤ 4 then 32 else 64
         let g := e % r.rowLen / r.g
         let field (c : Rec) (hi : Nat) : Nat := bitsOf c.body (2 * v * g + hi * v) v
         y = { x with body := y.body, tight := y.tight } ∧ same (2 * v * g) (2 * v * g + 2 * v) ∧
         (r.efmt ≤ 4 →
           let bound (hi : Nat) : XR := Fmt.fp32.value (field x hi)
           let enc (v : XR) : Nat := if v.isZero then 0 else (rne32 v).1.toNat
           y.tight = (x.tight && !(old.isNaN || old.eqv (bound 0) || old.eqv (bound 1))) ∧
           (new.isNaN = true → field y 0 = 0xFF800000 ∧ field y 1 = 0x7F800000) ∧
           (new.isNaN = false → field y 0 = enc (if new.lt (bound 0) then new else bound 0) ∧
             field y 1 = enc (if (bound 1).lt new then new else bound 1))) ∧
         (5 ≤ r.efmt →
           let bound (hi : Nat) : Int := intVal (if t.signed then .int64 else .uint64) (field x hi)
           let i (c : Nat) : Int := intVal t c
           (y.tight = (x.tight && !(i oldCode == bound 0 || i oldCode == bound 1))) ∧
           field y 0 = (BitVec.ofInt 64 (min (bound 0) (i newCode))).toNat ∧ field y 1 = (BitVec.ofInt 64 (max (bound 1) (i newCode))).toNat)) ∧
       (oldCode ≠ newCode → k = 2 →
         let clamp (i : Int) : Int := max (-(2 ^ 95)) (min (2 ^ 95 - 1) i)
         let entry (v : XR) : Int := match v with
           | .nan => 0
           | .inf neg => if neg then -(2 ^ 95) else 2 ^ 95 - 1
           | .fin neg m ex =>
             let q : Nat := if 0 ≤ ex + r.bpoint then m * 2 ^ (ex + r.bpoint).toNat else m / 2 ^ (-(ex + r.bpoint)).toNat
             if neg then -(q : Int) else q
         let out (i : Int) : Bool := decide (i < -(2 ^ 95)) || decide (2 ^ 95 - 1 < i)
         let was := (x.body.extractLsb' 0 96).toInt
         let less := clamp (was - clamp (entry old))
         let one (v : XR) : Nat := if v.isZero then 0 else 1
         (y = { x with body := y.body, ovf := y.ovf, inv := y.inv }) ∧ (y.body.extractLsb' 0 96).toInt = clamp (less + clamp (entry new)) ∧
         bitsOf y.body 128 64 = (bitsOf x.body 128 64 - one old + one new) % 2 ^ 64 ∧
         (∀ j, j < 1984 → (96 ≤ j ∧ j < 128 ∨ 192 ≤ j) → y.body.getLsbD j = x.body.getLsbD j) ∧
         y.inv = (x.inv || old.isNaN || new.isNaN) ∧
         y.ovf = (x.ovf || old.isInf || new.isInf || out (entry old) || out (entry new) || out (was - clamp (entry old)) ||
           out (less + clamp (entry new)))) ∧
       (oldCode ≠ newCode → k = 3 → y = { x with body := y.body } ∧ same (e / 8) (e / 8 + 1) ∧
         y.body.getLsbD (e / 8) =
           (List.range 8).any fun i => decide (e / 8 * 8 + i < r.block / w) && !(val (e / 8 * 8 + i)).isZero) ∧
       (k = 4 → elsewhere ∧
         (oldCode = newCode ∨ r.rowLen = 1 → sketched ∧ stales false) ∧
         (oldCode ≠ newCode → 1 < r.rowLen →
           (∀ q, q < 64 → y.body.getLsbD (64 * row + q) = x.body.getLsbD (64 * row + q)) ∧ stales true)))

/-- O48. RCALL, RSTAT and PROMOTE as they issue (R333, R359, R361 to R363, R370). A call takes the next number, which skips 0, or
with .re the number in sd; its tile, zero without one, its eight payload words, key, quantum and entry go with it, and it leaves its
tile empty and its status scalar pending. An RCALL.Q is a write unit that ends the quantum. An RCALL.R is on its way at once and
enters the queue of a drone, or of a guest context where fewer than 8 calls wait, and else waits in the link. RSTAT gives the status
word of a call, 0 for a number that names none, and .ack marks that call and no other. PROMOTE asks for the copy of a page once. -/
def Obligations.RemoteCallInstructions : Prop :=
  ∀ (s : State) (re nt ack : Bool) (tn : TReg) (sa sb sc sd : SReg), s.slotsOpen →
    let c := me s
    (∀ g, isStrand s.cur = true → callTarget s (c.s sa) = some g →
      let n := if re then (c.s sd).toNat % 2 ^ 16 else c.nextSeq
      let msg (q : Bool) : CallMsg :=
        { caller := s.cur, skey := c.csr.skey, seqNo := n, ordered := q, reissue := re, launch := c.who.launch, qnum := c.csr.qnum
          entry := c.s sb &&& ~~~0x3F#64, payload := (List.range 8).map fun k => (c.scalar (sc.toNat + k)).val
          tile := if nt then 0 else (c.tile tn.toNat).val }
      let asks (t : State) (sent : Option Nat) : Prop :=
        t.bundle.marks = s.bundle.marks ++ [.tile tn.toNat, .scalar sd.toNat] ∧ t.mem = s.mem ∧
        (me t).nextSeq = (if re then c.nextSeq else if c.nextSeq = 65535 then 1 else c.nextSeq + 1) ∧
        (me t).calls = c.calls ++ [{ seqNo := n, tn := tn.toNat, sd := sd.toNat, target := g, sent := sent, reply := none }] ∧
        ((me t).done.map fun d => (d.status, d.acked)) = c.done.map fun d => (d.status, d.acked)
      (∃ t u, exec (.rcallQ re nt tn sa sb sc sd) s = .next t ∧ asks t none ∧ t.bundle.endsQ = true ∧ (me t).qUnits = c.qUnits + 1 ∧
        (launch t c.who.launch).units = (launch s c.who.launch).units ++ [u] ∧ u.kind = .rcall s.cur (msg true) g ∧
        u.key = c.csr.skey ∧ u.q = c.csr.qnum.toNat) ∧
      ((∀ k ∈ c.calls, k.seqNo ≠ n) → (port s g).link = [] → (isGuest g = true → usable s (coreOf g) = true) →
        ∃ t, exec (.rcallR re nt tn sa sb sc sd) s = .next t ∧ asks t (some s.now) ∧ t.bundle.endsQ = s.bundle.endsQ ∧
          (launch t c.who.launch).units = (launch s c.who.launch).units ∧
          port t g = if isDrone g = true ∨ (port s g).queue.length < 8 then { port s g with queue := (port s g).queue ++ [msg false] }
            else { port s g with link := [msg false] })) ∧
    (let n := (c.s sa).toNat % 2 ^ 16
     let shows (d : DoneCall) := (d.status, d.reissued)
     ∃ t, exec (.rstat ack sd sa) s = .next t ∧ t.mem = s.mem ∧
      (me t).flight = c.flight ++ [{ due := c.count + 1, dst := .scalar sd.toNat (((doneCall c n).map (·.status)).getD 0), flags := 0 }] ∧
      (ack = false → (me t).done = c.done) ∧ (me t).done.map shows = c.done.map shows ∧
      (ack = true → ∀ d, doneCall c n = some d → doneCall (me t) n = some { d with acked := true }) ∧
      ∀ k, k ≠ n → doneCall (me t) k = doneCall c k) ∧
    (∀ b p, findPage s.pages (c.s sa).toNat = some (b, p) →
      (promoting s (c.s sa).toNat = false → ∃ t, exec (.promote sa sb sc) s = .next t ∧ t.pages = s.pages ∧ t.mem = s.mem ∧
        t.harts = s.harts ∧ t.promos = s.promos ++
          [{ page := b, frame := (c.s sb).toNat / 2 ^ 16, launch := (c.s sc).toNat / 2 ^ 40 % 2 ^ 24
             node := (c.s sc).toNat / 2 ^ 20 % 2 ^ 20, die := dieOf s.cur, copied := false }]) ∧
      (promoting s (c.s sa).toNat = true → exec (.promote sa sb sc) s = .next s))

/-- O49. The life of a call: it starts in the free target with t0, s1 to s8, key, quantum and entry (R356, R361); its reply fills
the caller's tile and status, a FAULT poisoning the tile with 0x0E (R366, R367); no reply within 2^30 reference cycles makes it
LOST, poisoning with 0x0F (R368); a run of 2^32 reference cycles ends (R361); an acknowledgement frees its cache entry (R369). -/
def Obligations.CallEvents : Prop :=
  ∀ (s : State) (h : Nat),
    (∀ m ms, isDrone h = true → (hart s h).life = .idle → (hart s h).run = none → (port s h).queue = m :: ms → (port s h).link = [] →
      m.payload.length = 8 →
      ∃ t, exec (.remoteCallStart h) s = .next t ∧ (port t h).queue = ms ∧ (hart t h).life = .running ∧ (hart t h).pc = m.entry ∧
        (hart t h).tile 0 = { val := m.tile, st := .full } ∧ (hart t h).csr.skey = m.skey ∧
        (hart t h).csr.qnum = BitVec.ofNat 64 m.qnum.toNat ∧
        (∀ i, i < 8 → ((hart t h).scalar (i + 1)).val = nth 0 m.payload i)) ∧
    (∀ x xs r, isStrand h = true → (hart s h).calls = x :: xs → x.reply = some r → x.sd ≠ 0 →
      ∃ t, exec (.replyArrival h 0) s = .next t ∧ (hart t h).calls = xs ∧
        ((hart t h).scalar x.sd).val = r.state ++ r.cause ++ r.banks ++ r.rval ++ BitVec.ofNat 16 x.seqNo ∧
        ((hart t h).scalar x.sd).pending = false ∧
        (r.state ≠ 0x02 → (hart t h).tile x.tn = { val := r.tile, st := .full }) ∧
        (r.state = 0x02 → ((hart t h).tile x.tn).st = .poisoned 0x0E)) ∧
    (∀ x xs n, isStrand h = true → (hart s h).calls = x :: xs → x.sent = some n → refElapsed s n (2 ^ 30) = true → x.sd ≠ 0 →
      ∃ t, exec (.replyTimeout h 0) s = .next t ∧ (hart t h).calls = xs ∧ ((hart t h).scalar x.sd).val.extractLsb' 48 16 = 0x030F ∧
        ((hart t h).tile x.tn).st = .poisoned 0x0F) ∧
    (∀ k, isDrone h = true → (hart s h).run = some k → refElapsed s k.started (2 ^ 32) = true →
      ∃ t, exec (.callRunLimit h) s = .next t ∧ (hart t h).run = none) ∧
    (∀ a as, s.acks = a :: as → a.target = h → (port s h).link = [] →
      ∃ t, exec (.replyAcknowledgement h 0) s = .next t ∧ t.acks = as ∧ (port t h).queue = (port s h).queue ∧
        ∀ e ∈ (port t h).cache, ¬(e.callerDie = a.callerDie ∧ e.skey = a.skey ∧ e.seqNo = a.seqNo))

/-- O50. The instructions that only a drone accepts, as they issue (R365, R372, R374, R376, R377): LNSEQ starts the sequencer at its
first iteration from the descriptor in the cell store; LNWAIT answers the last cause where no run is in progress and waits
otherwise; DFENCE has nothing left to do once its bundle issues; BMAC starts with its operands and leaves sd pending; RRET replies
with its tile and the low half word of sa. LNSEQ and BMAC read the cell store as it was before the stores of their own bundle
(R382). That DFENCE and LNWAIT have nothing left to do once their bundle issues, and that BMAC takes its vector at issue, are the
model's readings (notes/assumptions/25.md). As a bundle with RRET closes on a drone, the reply, with the failing banks of the call,
stands in every call of the caller under its number; the drone's context is free, its cell store as it was (R365, R366). What a
drone's engines do on their own (R373 to R377): the oldest posted write reaches the array; the sequencer completes with cause 0 once
every iteration is over, or stops with its cause, and every LNWAIT receives it; an ordinary access that arrives while it runs waits,
the sequencer suspends for those that wait and resumes once they are served, counting again for later ones; BMAC completes, writing
sd and ORing the mask of failing banks into BANKS where the call that started it still runs. That a posted write drains whole is the
model's reading (notes/assumptions/25.md), as is which accesses wait (notes/assumptions/61.md). -/
def Obligations.DroneRules : Prop :=
  (∀ (s : State) (sa sb sc sd : SReg) (ta : TReg) (n : BitVec 16), s.slotsOpen → isDrone s.cur = true →
     let d := s.cur - 1152
     let k := drone s d
     let before := s.bundle.cells
     let desc := ((me s).s sa).toNat % 2 ^ 18
     (∃ t r, exec (.lnseq sa) s = .next t ∧ (drone t d).seqr = some r ∧ r.x = BitVec.ofNat 64 (leNat (mread before desc 8)) ∧
       r.y = BitVec.ofNat 64 (leNat (mread before (desc + 8) 8)) ∧ r.out = BitVec.ofNat 64 (leNat (mread before (desc + 16) 8)) ∧
       r.a = BitVec.ofNat 32 (leNat (mread before (desc + 24) 4)) ∧ r.idx = [0, 0, 0, 0, 0] ∧ r.finished = false ∧ r.suspended = false ∧ r.cause = 0 ∧ (drone t d).cells = k.cells ∧ t.mem = s.mem ∧
       t.harts = s.harts) ∧
     (k.seqr = none → ∃ t, exec (.lnwait sd) s = .next t ∧ t.harts = s.harts ∧
       t.bundle.fills = s.bundle.fills ++ [(sd.toNat, k.lastCause.setWidth 64, none)] ∧
       t.bundle.marks = s.bundle.marks ++ [.scalar sd.toNat]) ∧
     (∀ r, k.seqr = some r → r.finished = false → ∃ t, exec (.lnwait sd) s = .next t ∧ t.bundle.fills = s.bundle.fills ∧
       (me t).lnwaits = (me s).lnwaits ++ [sd.toNat] ∧ t.bundle.marks = s.bundle.marks ++ [.scalar sd.toNat]) ∧
     exec .dfence s = .next s ∧
     (∃ t r, exec (.bmac sd sa sb sc n) s = .next t ∧ (drone t d).bmac = some r ∧ r.sd = sd.toNat ∧ r.mat = (me s).s sa ∧
       r.out = (me s).s sb ∧ r.rows = n.toNat ∧
       r.v = (List.range 256).map (fun i => BitVec.ofNat 32 (leNat (mread before (((me s).s sc).toNat % 2 ^ 18 + 4 * i) 4))) ∧ t.bundle.marks = s.bundle.marks ++ [.scalar sd.toNat] ∧
       (drone t d).cells = k.cells ∧ t.mem = s.mem ∧ t.harts = s.harts) ∧
     (let r : Reply := { state := 1, cause := 0, banks := 0, rval := ((me s).s sa).setWidth 16, tile := ((me s).tile ta.toNat).val }
      exec (.rret ta sa) s = .next { s with bundle := { s.bundle with reply := some r } })) ∧
  (∀ (s : State) (d : Nat) (r : Reply) (k : RunCall),
     let b := s.bundle
     let m := k.msg
     let t := closeBundle s
     s.cur = 1152 + d → (hart s s.cur).run = some k → b.reply = some r → b.exits = false → b.yields = false → b.after = none →
     b.returns = false → b.halts = none → m.caller ≠ s.cur → outstanding (hart s m.caller) m = true →
     hart t s.cur = Ctx.reset ∧ (∀ x ∈ (hart t m.caller).calls, x.seqNo = m.seqNo → x.reply = some { r with banks := k.banks ||| r.banks }) ∧
     (∃ x ∈ (hart t m.caller).calls, x.seqNo = m.seqNo) ∧ (drone t d).cells = (drone s d).cells ∧ t.mem = s.mem) ∧
  (∀ (s : State) (d : Nat),
     let h := 1152 + d
     let k := drone s d
     (∀ p ps, k.posted = p :: ps → p.bad = false → s.badLines.contains (p.pa / 64) = false →
       ∃ t, exec (.postedWriteDrain d) s = .next t ∧ (drone t d).posted = ps ∧ t.mem = mwrite s.mem p.pa p.bytes) ∧
     (∀ r, k.seqr = some r → r.finished = false →
       (r.cause = 0 → r.idx = [] → ∃ t, exec (.sequencerComplete d) s = .next t ∧
         (drone t d).seqr = some { r with finished := true } ∧ (drone t d).lastCause = 0 ∧ (drone t d).ordinary = [] ∧ (hart t h).lnwaits = [] ∧
         ∀ w ∈ (hart s h).lnwaits, w ≠ 0 → ((hart t h).scalar w).val = 0 ∧ ((hart t h).scalar w).pending = false) ∧
       (r.cause ≠ 0 → r.owner = none → ∃ t, exec (.sequencerStop d) s = .next t ∧
         (drone t d).seqr = some { r with finished := true } ∧ (drone t d).lastCause = r.cause ∧ (drone t d).ordinary = [] ∧ (hart t h).lnwaits = [] ∧
         ∀ w ∈ (hart s h).lnwaits, w ≠ 0 → ((hart t h).scalar w).val = r.cause.setWidth 64) ∧
       (k.granted.contains .other = false → ∃ t, exec (.ordinaryAccessArrival d) s = .next t ∧ (drone t d).ordinary = k.ordinary ++ [.other] ∧
         (r.suspended = false → r.cols = none → (drone t d).seqr = some { r with cols := some 0 })) ∧
       (r.suspended = false → r.mustSuspend = true → ∃ t, exec (.sequencerSuspend d) s = .next t ∧
         (drone t d).seqr = some { r with suspended := true } ∧ (drone t d).serving = k.ordinary) ∧
       (r.suspended = true → k.serving.filter (accessWaits s) = [] →
         let left := k.serving.foldl List.erase k.ordinary
         ∃ t, exec (.sequencerResume d) s = .next t ∧ (drone t d).ordinary = left ∧ (drone t d).serving = [] ∧
           (drone t d).seqr = some { r with suspended := false, cols := if left.isEmpty then none else some 0 })) ∧
     (∀ r x, k.bmac = some r → (hart s h).run = some x → r.owner = some (x.msg.skey, x.msg.seqNo) → r.sd ≠ 0 →
       ∃ t mask, exec (.bmacComplete d) s = .next t ∧ (drone t d).bmac = none ∧
         (hart t h).scalar r.sd = { val := BitVec.setWidth 64 (mask : BitVec 16), pending := false, poison := none } ∧
         (hart t h).run = some { x with banks := x.banks ||| mask } ∧ (s.badLines = [] → mask = 0)))

/-- O51. The sequencer's column commands, one a turn of `.seqStep` (R373), the checks of their addresses passed and no line bad: the
x operand stands at X + Σ xi·XSTR, the last valid index repeated under PAD 2, no read of it under PAD 1, nothing done under PAD 3; y
at Y + Σ i·YSTR; SCALE-ADD writes A·V + W at OUT + Σ i·OSTR, MAC and DOT add V·W to the accumulator of o0's bank, MAX takes the
larger, all lane by lane with one rounding; the end of a level-0 run writes the accumulator, or its pairwise sum, at o0 and resets
it; the indices go on like an odometer. A failed check stops the run with its cause. BMAC_COMPLETE with no line bad posts, bank
after bank and line after line, the 16 regions of its output: bank k's results y of its rows 16n' + k, each the pairwise sum of the
256 products rounded to fp32, and zeros to the end of its lines (R116, R377). -/
def Obligations.SequencerAndBmac : Prop :=
  (∀ (s : State) (d : Nat) (r : SeqRun),
     let q := settleMsgs { s with turn := none, tick := s.tick + 1, bundle := Bundle.closed }
     let h := 1152 + d
     s.turn = some (.seqStep d) → d < 544 → q.host.devState = 1 → (drone q d).seqr = some r → r.finished = false → r.suspended = false →
     r.cause = 0 → r.mustSuspend = false → r.idx.length = 5 → r.levels.length = 5 → q.badLines = [] →
     let none5 : Level := { count := 1, vlen := 0, pad := 0, xstr := 0, ystr := 0, ostr := 0 }
     let i (n : Nat) : Nat := nth 0 r.idx n
     let lv (n : Nat) : Level := nth none5 r.levels n
     let past (n : Nat) : Prop := n < 5 ∧ (lv n).vlen ≤ i n
     let place (base : Word) (lo : Nat) (stride : Level → Int) (ix : Nat → Nat) : Word :=
       base + BitVec.ofInt 64 ((List.range (5 - lo)).map fun n => (ix (lo + n) : Int) * stride (lv (lo + n))).sum
     let xa := place r.x 0 (·.xstr) fun n => if (lv n).pad = 2 then min (i n) ((lv n).vlen - 1) else i n
     let ya := place r.y 0 (·.ystr) i
     let oa := place r.out 0 (·.ostr) i
     let o0 := place r.out 1 (·.ostr) i
     let byte (a : Word) (j : Nat) : Byte := if a.toNat / 2 ^ 56 = 2 then mget (drone q d).cells (a.toNat % 2 ^ 18 + j)
       else viewReader q.image (engineView q h r.owner) (a.toNat + j)
     let lane (a : Word) (n : Nat) : Nat := leNat ((List.range 4).map fun j => byte a (4 * n + j))
     let laneOf (v : BitVec 512) (n : Nat) : Nat := bitsOf v (32 * n) 32
     let val (c : Nat) : XR := Fmt.fp32.value c
     let acc (t : State) : BitVec 512 := tget 0 (drone t d).accs (bankOf (nearPhys q o0))
     let counted := r.cols.map (· + 1)
     let rounded (a b c : XR) : Nat × BitVec 6 := fpMulAdd { rnd := .rne, sat := false, ftz := false } 0 .fp32 a b c
     let runsOn (z : SeqRun) : Prop := z.phase = 0 ∧
       (∀ m, 1 ≤ m → m < 5 → i m + 1 < (lv m).count → (∀ n, 1 ≤ n → n < m → (lv n).count ≤ i n + 1) →
         z.idx = (List.range 5).map fun n => if n < m then 0 else if n = m then i n + 1 else i n) ∧
       ((∀ m, 1 ≤ m → m < 5 → (lv m).count ≤ i m + 1) → z.idx = [])
     let goesOn (t : State) (x : SeqRun) : Prop := ∃ z, (drone t d).seqr = some z ∧ z = { x with idx := z.idx, phase := z.phase } ∧
       (i 0 + 1 < (lv 0).count → z.idx = (i 0 + 1) :: r.idx.drop 1 ∧ z.phase = 0) ∧
       ((lv 0).count ≤ i 0 + 1 → r.body ≠ 1 → z.idx = r.idx ∧ z.phase = 3) ∧ ((lv 0).count ≤ i 0 + 1 → r.body = 1 → runsOn z)
     let quiet (t : State) : Prop := t.mem = q.mem ∧ t.harts = q.harts ∧ (drone t d).cells = (drone q d).cells ∧ ∀ k, k ≠ d → drone t k = drone q k
     let orAll (f : Nat → BitVec 6) : BitVec 6 := (List.range 16).foldl (fun g n => g ||| f n) 0
     let posts (t : State) (a : Word) (bytes : List Byte) : Prop := ∀ b p, findPage q.pages a.toNat = some (b, p) →
       (drone t d).posted = (drone q d).posted ++
         [{ owner := r.owner, pa := p.frame * 2 ^ 16 + (a.toNat - b), va := a.toNat, bytes := bytes, bad := false }]
     let plain (a : Word) (n : Nat) : Prop := a.toNat / 2 ^ 56 = 0 ∧ seqCheck q h true a n = none ∧ ∀ b p, findPage q.pages a.toNat = some (b, p) → p.rep = 0
     ∃ t, step s = .next t ∧
       (r.phase = 0 → (∃ n, past n ∧ (lv n).pad = 3) → goesOn t r ∧ quiet t ∧ (drone t d).accs = (drone q d).accs) ∧
       (r.phase = 0 → (∀ n, past n → (lv n).pad ≠ 3) →
         let filled : Prop := ∃ n, past n ∧ (lv n).pad = 1
         let takes (x : Nat → Nat) (cols : Option Nat) : Prop := quiet t ∧ ∃ v : BitVec 512, (∀ n, n < 16 → laneOf v n = x n) ∧
           (r.body ≠ 3 → (drone t d).seqr = some { r with v := v, cols := cols, phase := 1 } ∧ (drone t d).accs = (drone q d).accs) ∧
           (r.body = 3 → goesOn t { r with v := v, cols := cols } ∧ ∀ n, n < 16 → laneOf (acc t) n =
             (flushOnly { rnd := .rne, sat := false, ftz := false } .fp32 (fpPick true (val (laneOf (acc q) n)) (val (x n)))).1)
         (filled → takes (fun _ => 0) r.cols) ∧ (¬filled → seqCheck q h false xa 64 = none → takes (lane xa) counted) ∧
         (∀ c, ¬filled → seqCheck q h false xa 64 = some c → (drone t d).seqr = some { r with cause := c, cols := counted })) ∧
       (r.phase = 1 → seqCheck q h false ya 64 = none →
         let mul (n : Nat) : Nat × BitVec 6 := rounded (if r.body = 1 then f32 r.a else val (laneOf r.v n))
           (if r.body = 1 then val (laneOf r.v n) else val (lane ya n)) (if r.body = 1 then val (lane ya n) else val (laneOf (acc q) n))
         let x : SeqRun := { r with flags := r.flags ||| orAll fun n => (mul n).2, cols := counted }
         quiet t ∧
         (r.body = 1 → ∃ v : BitVec 512, (drone t d).seqr = some { x with v := v, phase := 2 } ∧ (drone t d).accs = (drone q d).accs ∧
           ∀ n, n < 16 → laneOf v n = (mul n).1) ∧
         (r.body ≠ 1 → goesOn t x ∧ ∀ n, n < 16 → laneOf (acc t) n = (mul n).1)) ∧
       (r.phase = 2 → plain oa 64 → goesOn t { r with cols := counted } ∧ posts t oa (natBytes r.v.toNat 64) ∧ quiet t) ∧
       (r.phase = 3 →
         let total := pairSum ((List.range 16).map (laneOf (acc q)))
         let x : SeqRun := { r with cols := counted, flags := if r.body = 2 then r.flags ||| total.2 else r.flags }
         plain o0 (if r.body = 2 then 4 else 64) → quiet t ∧
           (∃ z, (drone t d).seqr = some z ∧ z = { x with idx := z.idx, phase := z.phase } ∧ runsOn z) ∧
           posts t o0 (if r.body = 2 then natBytes total.1 4 else natBytes (acc q).toNat 64) ∧
           ∀ n, n < 16 → laneOf (acc t) n = if r.body = 3 then 0xFF800000 else 0)) ∧
  (∀ (s : State) (d : Nat) (r : BmacRun), (drone s d).bmac = some r → s.badLines = [] → r.v.length = 256 → r.rows % 16 = 0 →
     let h := 1152 + d
     let lines := (r.rows + 255) / 256
     let place (k i : Nat) : Word := r.out + BitVec.ofNat 64 (64 * (k * lines + i))
     let byte (a : Word) (j : Nat) : Byte := if a.toNat / 2 ^ 56 = 2 then mget (drone s d).cells (a.toNat % 2 ^ 18 + j)
       else viewReader { s.image with pages := r.pages } (engineView s h r.owner) (a.toNat + j)
     let element (m j : Nat) : Nat := leNat ((List.range 4).map fun i => byte (r.mat + BitVec.ofNat 64 (1024 * m)) (4 * j + i))
     let y (k n : Nat) : Nat := (pairSum ((List.range 256).map fun j =>
       (fpMul { rnd := .rne, sat := false, ftz := false } 0 .fp32 (f32 (nth 0 r.v j)) (Fmt.fp32.value (element (16 * n + k) j))).1)).1
     let line (k i : Nat) : List Byte := (List.range 16).flatMap fun n => natBytes (if 16 * i + n < r.rows / 16 then y k (16 * i + n) else 0) 4
     (∀ k i, k < 16 → i < lines → (place k i).toNat / 2 ^ 56 = 0 ∧ (∃ b p, findPage r.pages (place k i).toNat = some (b, p)) ∧
       ∀ b p, findPage s.pages (place k i).toNat = some (b, p) → p.rep ≠ 2) →
     ∃ t, exec (.bmacComplete d) s = .next t ∧ t.mem = s.mem ∧ (drone t d).bmac = none ∧ (drone t d).cells = (drone s d).cells ∧
       (drone t d).posted.map (fun p => (p.va, p.bytes, p.bad)) = (drone s d).posted.map (fun p => (p.va, p.bytes, p.bad)) ++
         (List.range 16).flatMap fun k => (List.range lines).map fun i => ((place k i).toNat, line k i, false))

/-! ### Strands, scheduling, commits -/

/-- O52. Barriers, quanta, forks, groups and the strand's own state, as the instructions' bundle issues (R251, R252, R276, R298 to
R303, R305, R323). The waits themselves are over then: WAITB and WAITANY take one round of the barrier that serves them, CBAR counts
its round, GBAR, DRAIN and FENCEL have nothing left to do. As a strand's bundle closes: EXIT leaves it exited in its final quantum,
its node, its parent and its mates knowing (R302); QEND ends the quantum (R322), YIELD does not; an effective YIELD asks for a save
where a fresh entry of the pool that may run here has the strand's priority, or more, and a slot is free, and the core takes another
context (R305, which says only that the strand is saved after the bundle commits). That a YIELD saves at its own bundle where no
result of it is exposed, `yielded`, and else at the next effective safe point is the model's reading (notes/assumptions/55.md). -/
def Obligations.StrandInstructions : Prop :=
  (∀ (s : State) (sa sb sd : SReg) (k : BNo) (clr : Bool) (n : BitVec 16) (p g : BitVec 6) (mask : BitVec 8) (disp : BitVec 30),
     s.slotsOpen → isStrand s.cur = true →
     let c := coreOf s.cur
     let x := me s
     let l := x.who.launch
     let b := barrier s c k.toNat
     let ends (i : Instr) (f : Bundle → Bundle) : Prop := exec i s = .next { s with bundle := f s.bundle }
     (∃ t, exec (.bset clr k sa) s = .next t ∧ t.harts = s.harts ∧ t.mem = s.mem ∧ barrier t c k.toNat =
       { fcause := 0, finfo := 0, flt := false, count := if clr then 0 else b.count, target := (x.s sa).toNat % 2 ^ 32, holder := some x.csr.skey } ∧
       ∀ j, j ≠ k.toNat → barrier t c j = barrier s c j) ∧
     (sb = 0 → ∃ t, exec (.binc k sa sb n) s = .next t ∧ t.harts = s.harts ∧
       barrier t c k.toNat = { b with count := min (b.count + ((x.s sa).toNat % 2 ^ 32 + n.toNat)) 0xFFFFFFFF }) ∧
     (chosenBarrier (core s c) x (ctxNo s.cur) (2 ^ k.toNat) = some k.toNat →
       ∃ t, exec (.waitb k) s = .next t ∧ t.harts = s.harts ∧ barrier t c k.toNat = { b with count := b.count - b.target }) ∧
     (chosenBarrier (core s c) x (ctxNo s.cur) mask.toNat = some k.toNat →
       ∃ t, exec (.waitany sd mask) s = .next t ∧ barrier t c k.toNat = { b with count := b.count - b.target } ∧
         (me t).csr.cwpos = BitVec.ofNat 64 ((k.toNat + 1) % 8) ∧
         (me t).flight = x.flight ++ [{ due := x.count + 1, dst := .scalar sd.toNat (BitVec.ofNat 64 k.toNat), flags := 0 }]) ∧
     ends .qend (fun y => { y with endsQ := true }) ∧ ends .exit (fun y => { y with exits := true }) ∧
     ends .yield (fun y => { y with yields := true }) ∧
     exec (.gbar g) s = .next s ∧ exec .drain s = .next s ∧ exec .fencel s = .next s ∧
     exec .cbar s = .next (setMe s { x with rounds := x.rounds + 1 }) ∧ exec .join s = .next (setMe s { x with kids := [] }) ∧
     exec (.prio sa p) s =
       .next (setMe s { x with csr := { x.csr with prio := if sa = 0 then p.setWidth 64 else ((x.s sa).setWidth 6).setWidth 64 } }) ∧
     (∃ t, exec (.gjoin g) s = .next t ∧ x.csr.skey ∈ (group t l (64 * dieOf s.cur + g.toNat)).members ∧ t.mem = s.mem) ∧
     (∃ t, exec (.gleave g) s = .next t ∧ x.csr.skey ∉ (group t l (64 * dieOf s.cur + g.toNat)).members ∧ t.mem = s.mem) ∧
     ((core s c).deque.length < 64 →
       let key := x.csr.skey + BitVec.ofNat 64 ((x.who.forks + 1) * 2 ^ (16 - 4 * x.who.depth))
       let forks (i : Instr) : Prop := ∃ t y, exec i s = .next t ∧ (core t c).deque = (core s c).deque ++ [y] ∧ y.skey = key ∧
         y.pc = x.pc + 64 * disp.signExtend 64 ∧ y.args = x.s sa :: x.s sb :: (List.range 6).map (fun r => (x.scalar (r + 3)).val) ∧
         y.qnum = x.csr.qnum.toNat ∧ y.who.parent = some x.csr.skey ∧ y.who.depth = x.who.depth + 1 ∧
         (me t).who.forks = x.who.forks + 1 ∧ (me t).kids = x.kids ++ [(key, none)] ∧ t.mem = s.mem
       forks (.fork sa sb disp) ∧ forks (.spawng g sa sb disp))) ∧
  (∀ (s : State),
     let h := s.cur
     let b := s.bundle
     let c := me s
     let l := c.who.launch
     let n := c.who.node
     let q := c.csr.qnum.toNat
     let t := closeBundle s
     let x := hart t h
     let slot := freeSlot (launch s l) (dieOf h)
     isStrand h = true → b.after = none → b.returns = false → b.halts = none → b.reply = none →
     (b.exits = true → b.yields = false →
       x.life = .exited ∧ x.stopReq = false ∧ x.csr.qnum = c.csr.qnum ∧ t.mem = s.mem ∧
       (let nd := nodeOf s l n
        nodeOf t l n = { nd with final := max nd.final q, live := nd.live - 1, st := if nd.live ≤ 1 then .completing else nd.st }) ∧
       (∀ m, c.who.mate = some m → (launch t l).exits = (launch s l).exits ++ [(n, m)]) ∧
       ∀ p g, c.who.parent = some p → isStrand g = true → g ≠ h → (hart s g).csr.skey = p → (hart s g).life ≠ .idle →
         (hart s g).wait = .none → (hart t g).kids = (hart s g).kids.map fun k => if k.1 = c.csr.skey then (k.1, some q) else k) ∧
     (b.exits = false →
       (b.endsQ = true → x.csr.qnum = c.csr.qnum + 1 ∧ x.qUnits = 0 ∧ x.qBundles = 0 ∧ x.qFresh = true) ∧
       (b.endsQ = false → c.qBundles + 1 < c.qbLim → x.csr.qnum = c.csr.qnum ∧ x.qUnits = c.qUnits ∧ x.qBundles = c.qBundles + 1) ∧
       (b.yields = false → x.stopReq = c.stopReq) ∧
       (b.yields = true → (core t (coreOf h)).issuing = none ∧
         (b.effective = false ∨ slot = none ∨ ((die s (dieOf h)).pool = [] ∧ ∀ k, (core s k).deque = []) → x.stopReq = c.stopReq) ∧
         (∀ e y k, b.effective = true → slot ≠ none → e ∈ (die s (dieOf h)).pool → e.kind = .fresh y k → usable s (coreOf h) = true →
           reserved s (coreOf h) = false → childMayRun y.who k (coreOf h) = true → c.csr.prio.toNat ≤ e.level → c.csr.prio.toNat ≤ 63 →
           x.stopReq = true ∧ x.yielded = !x.exposed))))

/-- O53. What the core and the die scheduler do with strands (R277, R288 to R294, R300 to R302, R306 to R310): a waiting trap enters
the idle handler; the bundle after SPMAX raises 0x10; a strand whose work is settled ends and frees its context and its barriers,
mates all together; a free context takes a forked strand or a ready node; a staged node starts, or fails where an operand cannot be
read; entries age; the first of a level reserves a cluster; an entry with no request outstanding asks a strand, with its mates, to
stop. A strand asked to stop whose work is settled is saved at its safe point, where no drone's sequencer runs (R375): it leaves its
context with its pc, registers and loop stack for the pool, its slot taken (R308, R309); it resumes in a context that takes it, as
it was but for MIG, its slot free again (R310). That it resumes from the model's own copy and not from the slot's bytes is
notes/assumptions/12.md. -/
def Obligations.SchedulingEvents : Prop :=
  (∀ (s : State) (h d l n : Nat),
     let x := hart s h
     let c := coreOf h
     (∀ y ys, (core s d).handling = false → (core s d).trapQ = y :: ys → ∃ t, exec (.trapEntry d) s = .next t ∧
       (core t d).trapQ = ys ∧ (core t d).handling = true ∧ (core t d).tsrc = BitVec.ofNat 64 y ∧
       (hart t (6 * d + 4)).life = .running ∧ (hart t (6 * d + 4)).pc = (core s d).tvec &&& ~~~0x3F#64) ∧
     (isStrand h = true → x.life = .running → x.stopReq = false → x.csr.spmax.toNat ≤ x.spCount → ∃ t, exec (.safePointOverrun h) s = .next t ∧ (hart t h).life = .trapped ∧
         (hart t h).csr.tcause = 0x10 ∧ (hart t h).csr.tslot = 0 ∧ (hart t h).csr.tpc = x.pc) ∧
     (settled s h = true → x.who.mate = none → ∃ t, exec (.strandEnd h) s = .next t ∧
       hart t h = Ctx.reset ∧ (core t c).barriers = (core s c).barriers.filter (fun b => b.2.holder != some x.csr.skey) ∧ t.mem = s.mem) ∧
     (h ∈ endsWith s h → (∀ g ∈ endsWith s h, settled s g = true) → matesGone s x.who = true → ∃ t, exec (.strandEnd h) s = .next t ∧
       (∀ g ∈ endsWith s h, hart t g = Ctx.reset) ∧ t.mem = s.mem) ∧
     (∀ y, chosenFor s h = some (.own y) → ∃ t, exec (.contextTakeWork h) s = .next t ∧ hart t h = startCtx y ∧
       (core t c).deque = (core s c).deque.erase y) ∧
     (∀ e, chosenFor s h = some (.pool e) → e.kind = .node l n → (nodeOf s l n).desc.cosched = false → (nodeOf s l n).desc.ops = [] →
       ∃ t, exec (.contextTakeWork h) s = .next t ∧ (hart t h).life = .running ∧ (hart t h).pc = (nodeOf s l n).desc.entry ∧
         (hart t h).csr.qnum = BitVec.ofNat 64 (nodeOf s l n).start ∧ (nodeOf t l n).st = .running) ∧
     (∀ ps, (nodeOf s l n).st = .staging ps →
       let ok := (operandGranules (nodeOf s l n).desc).all fun g => stageable s ((nodeOf s l n).staged.getD s.image) g.1
       (ok = true → s.channelsFree → ∃ t, exec (.stagingComplete l n) s = .next t ∧ (nodeOf t l n).st = .running ∧ t.mem = s.mem) ∧
       (ok = false → (launch s l).ended = none → ∃ t, exec (.stagingComplete l n) s = .next t ∧ (nodeOf t l n).st = .failed ∧
         (launch t l).ended = some (.error n))) ∧
     (∃ t, exec (.agingTick d) s = .next t ∧ (die t d).pool = (die s d).pool.map fun e =>
       if e.prio s < 62 ∧ 2 ^ (launch s e.launchOf).age * 10 ≤ (s.now - e.entered) * 7 then { e with level := e.level + 1, entered := s.now }
       else e) ∧
     (∀ e k, (die s d).pool = [e] → reserves s d e = some k →
       ∃ t, exec (.clusterReserve d) s = .next t ∧ (die t d).pool = [{ e with cluster := some k }]) ∧
     (∀ e, (die s d).pool = [e] → asking s e.skey = false → ((coresOfDie d).any fun j => (Asker.entry e).placed s j) = false →
       victim s d (.entry e) = some h → (freeSlot (launch s x.who.launch) d).isSome = true →
       x.csr.prio.toNat + (launch s x.who.launch).margin ≤ e.prio s →
       ∃ t, exec (.preemptRequest d 0) s = .next t ∧ (die t d).pool = [e] ∧ ∀ g,
         (g ∈ requested s h → (hart t g).stopReq = true ∧ (hart t g).askedBy = some e.skey ∧ (hart t g).life = (hart s g).life) ∧
         (g ∉ requested s h → hart t g = hart s g))) ∧
  (∀ (s : State) (h : Nat),
     let x := hart (landDue s h) h
     (∀ slot, isStrand h = true → (hart s h).life = .running → (hart s h).stopReq = true → quiet (landDue s h) h = true →
       atSafePoint (landDue s h) h = true → freeSlot (launch s (hart s h).who.launch) (dieOf h) = some slot →
       s.channelsFree → ∃ t v e, exec (.strandSave h) s = .next t ∧ hart t h = Ctx.reset ∧ (die t (dieOf h)).pool = (die s (dieOf h)).pool ++ [e] ∧
         e.kind = .saved v ∧ v.h = h ∧ v.slot = slot ∧ v.ctx.pc = x.pc ∧ v.ctx.tiles = x.tiles ∧ v.ctx.scalars = x.scalars ∧
         v.ctx.masks = x.masks ∧ v.ctx.fregs = x.fregs ∧ v.ctx.loops = x.loops ∧ v.ctx.csr = x.csr ∧ e.level = x.csr.prio.toNat ∧
         slot ∈ (launch t x.who.launch).usedSlots) ∧
     (∀ e v, chosenFor s h = some (.pool e) → e.kind = .saved v → v.ctx.who.mate = none → s.channelsFree →
       ∃ t, exec (.strandResume h) s = .next t ∧ (hart t h).pc = v.ctx.pc ∧ (hart t h).scalars = v.ctx.scalars ∧
         (hart t h).loops = v.ctx.loops ∧ (hart t h).life = v.ctx.life ∧ (hart t h).csr.skey = v.ctx.csr.skey ∧
         (hart t h).csr.mig = (v.ctx.csr.mig || coreOf v.h != coreOf h) ∧ v.slot ∉ (launch t v.ctx.who.launch).usedSlots))

/-- O54. The next quantum of a launch commits once it may, where no drone's sequencer runs (R375): with no write unit memory stays
as it is; the bytes of its GSTs stand in memory afterwards as if each wrote in the order of the units' keys and of their issue
within a strand, and no other byte changes (R321, R324, R325). A GAMO gives its scalar the old word and leaves the new one (R135); a
PUBLISH of a copy leaves its granule (R246); an RCALL.Q stands in its drone's queue and holds the step open, which completes once
its calls are over (R363). A strand's quantum ends by its count of units or of bundles (R322), and a promotion's copy is done
(R333). -/
def Obligations.Commits : Prop :=
  ∀ (s : State) (l h k : Nat),
    let q := (launch s l).committed + 1
    ((launch s l).ended = none → (launch s l).commit = none → mayCommit s l q = true → s.promos = [] → s.fabric.inbox = [] →
      ((launch s l).units = [] → s.channelsFree → ∃ t, exec (.quantumCommit l) s = .next t ∧ (launch t l).committed = q ∧ t.mem = s.mem) ∧
      (let plain (a n base : Nat) (p : Page) : Prop :=
         (∀ i, i < n → findPage s.pages (a + i) = some (base, p)) ∧ p.rep = 0 ∧ s.remotePage p = false
       let place (a base : Nat) (p : Page) : Nat := p.frame * 2 ^ 16 + (a - base)
       let lands (pa : Nat) (bytes : List Byte) (t : State) : Prop := mread t.mem pa bytes.length = bytes ∧
         ∀ o, (o < pa ∨ pa + bytes.length ≤ o) → mget t.mem o = mget s.mem o
       s.badLines = [] → s.channelsFree →
       (∀ us : List WUnit, us.Perm (launch s l).units → us.Pairwise (fun u v => u.key.toNat < v.key.toNat ∨ (u.key = v.key ∧ u.ord < v.ord)) →
         (∀ u ∈ us, u.q = q ∧ ∃ a bytes base p, u.kind = .gst a bytes ∧ bytes ≠ [] ∧ plain a bytes.length base p) →
         let put (m : List Host.Cell) (u : WUnit) : List Host.Cell := match u.kind with
           | .gst a bytes => (match findPage s.pages a with
             | some (base, p) => mwrite m (place a base p) bytes
             | none => m)
           | _ => m
         ∃ t, exec (.quantumCommit l) s = .next t ∧ (launch t l).committed = q ∧ (∀ w ∈ (launch t l).units, w.q ≠ q) ∧
           ∀ o, mget t.mem o = mget (us.foldl put s.mem) o) ∧
       ∀ u, (launch s l).units = [u] → u.q = q →
         (∀ h dst a n f v w base p, u.kind = .gamo h dst a n f v w → n = 4 ∨ n = 8 → plain a n base p → dst ≠ 0 →
           (hart s h).csr.skey = u.key → (∃ e ∈ (launch s l).nodes, e.2.st = .running) →
           (∀ e ∈ (launch s l).nodes, e.2.st ≠ .completing) →
           let old : Word := BitVec.ofNat 64 (leNat (mread s.mem (place a base p) n))
           ∃ t, exec (.quantumCommit l) s = .next t ∧ (launch t l).committed = q ∧
             (hart t h).scalar dst = { val := old, pending := false, poison := none } ∧
             lands (place a base p) (natBytes (amoResult f n old v w).toNat n) t) ∧
         (∀ y g v base p, u.kind = .publish [y] → tpXform y.tp ≠ 2 → y.shadow = [(g, v)] → plain (16 * g) 16 base p →
           ∃ t, exec (.quantumCommit l) s = .next t ∧ (launch t l).committed = q ∧
             lands (place (16 * g) base p) (natBytes v.toNat 16) t) ∧
         (∀ h m g, u.kind = .rcall h m g → isDrone g = true → (port s g).link = [] → (port s g).queue = [] → (port s g).cache = [] →
           ∃ t y, exec (.quantumCommit l) s = .next t ∧ (launch t l).committed = (launch s l).committed ∧ t.mem = s.mem ∧
             (port t g).queue = [m] ∧ (port t g).link = [] ∧ (launch t l).commit = some y ∧ y.q = q ∧ y.units = [] ∧
             ∃ r, y.calls = [r] ∧ r.h = g ∧ r.seqNo = m.seqNo ∧ r.replied = false))) ∧
    (∀ y, (launch s l).commit = some y → y.units = [] → (∀ r ∈ y.calls, callOver s r = true) → s.channelsFree →
      ∃ t, exec (.quantumCommit l) s = .next t ∧ (launch t l).committed = y.q ∧ (launch t l).commit = none) ∧
    (countsQuantum s h = true →
      let next (t : State) : Prop := hart t h =
        { hart s h with csr := { (hart s h).csr with qnum := (hart s h).csr.qnum + 1 }, qUnits := 0, qBundles := 0, qFresh := true }
      ((hart s h).qwLim ≤ (hart s h).qUnits → ∃ t, exec (.qwQuantumEnd h) s = .next t ∧ next t ∧ t.mem = s.mem) ∧
      ((hart s h).qbLim ≤ (hart s h).qBundles → ∃ t, exec (.qbQuantumEnd h) s = .next t ∧ next t ∧ t.mem = s.mem)) ∧
    (∀ p, s.promos[k]? = some p → (launch s p.launch).ended = none → s.channelsFree →
      ∃ t, exec (.promotionCopyDone k) s = .next t ∧ t.promos[k]? = some { p with copied := true } ∧ t.mem = s.mem)

/-! ### The package and the host -/

/-- O55. Self-tests that fall due: the target's request is met; a target without a lasting fault stays in use, a core's stripe or
bank with one is fenced with its core, a row of DRAM with one is spared (R210, R335, R353, R398). That a row has 1,024 bytes and
that a core is tested where no context of it holds work are the model's choice (notes/assumptions/22.md). Links and messages (R386,
R388), the links being numbered 0 to 15: the flit expected next is accepted, any other flit, and one with a wrong check code, is
answered by a replay request; a request sends the kept flits again from its number on; a lane that fails its test under a pattern is
retired, one that passes stays (R398); a message applied before changes nothing but that it is acknowledged again, a new one waits
for its place while a launch runs; an acknowledged message is no longer kept; a message without an acknowledgement for 2^24
reference cycles is sent again where a route remains, and ends its launch where none does. That numbers count modulo 2^32, that a
message applied before is acknowledged again (R388 says only that it is discarded) and which bits name the node of the error are the
model's choice (notes/assumptions/23.md). -/
def Obligations.SelfTestsAndLinks : Prop :=
  (∀ (s : State) (src pa keeper : Nat),
     (let c := srcCoreOf src
      (core s c).testDue.contains src = true → coreIdle s c = true →
       (hasLasting s src = false → ∃ t, exec (.targetedSelfTest src) s = .next t ∧ (core t c).testDue.contains src = false ∧
         (core t c).fenced = (core s c).fenced ∧ t.host.retired = s.host.retired) ∧
       (hasLasting s src = true → srcKind src = 2 ∨ srcKind src = 3 → ∃ t, exec (.targetedSelfTest src) s = .next t ∧
         (core t c).fenced = true ∧ unitNo src ∈ t.host.retired)) ∧
     (s.rowTests.contains (pa / 1024) = true → (∀ e ∈ s.launches, e.2.commit = none) →
       ∃ t, exec (.rowSelfTest pa) s = .next t ∧ t.rowTests.contains (pa / 1024) = false ∧ t.mem = s.mem ∧ t.badLines = s.badLines ∧
         (s.lastingRows.contains (pa / 1024) = false → t.lastingRows = s.lastingRows ∧ t.host.retired = s.host.retired) ∧
         (s.lastingRows.contains (pa / 1024) = true → t.lastingRows = delNat (pa / 1024) s.lastingRows ∧
           unitNo (srcMem s (1024 * (pa / 1024))) ∈ t.host.retired)) ∧
     ((s.areaTests.any fun k => keeperOf k == keeper) = true → ∃ t, exec (.digestAreaSelfTest keeper) s = .next t ∧
       (∀ k ∈ t.areaTests, keeperOf k ≠ keeper) ∧ t.mem = s.mem ∧ t.records = s.records)) ∧
  (∀ (s : State) (link lane src dst n lseq q key : Nat) (seqNo : BitVec 12) (good : Bool) (payload : BitVec 2048)
     (gs : List (Nat × BitVec 128)) (ns : List (Nat × Nat × Nat)) (ws : List (Nat × Nat × Word)),
     let k := linkOf s link
     (link < 16 → good = true → seqNo.toNat = k.expect → ∃ t, exec (.flitReceive link seqNo good payload) s = .next t ∧
       linkOf t link = { k with expect := (k.expect + 1) % 4096, inbox := k.inbox ++ [payload] }) ∧
     (link < 16 → good = false ∨ seqNo.toNat ≠ k.expect → ∃ t, exec (.flitReceive link seqNo good payload) s = .next t ∧
       linkOf t link = { k with requests := k.requests ++ [k.expect] }) ∧
     (link < 16 → ∃ t, exec (.replayRequest link seqNo) s = .next t ∧
       linkOf t link = { k with replay := (k.history.map fun f => f.1).dropWhile (· != seqNo.toNat) }) ∧
     (link < 16 → lane < 8 → k.retired.contains lane = false →
       let bad := hasLasting s (sourceNo s 4 6 (8 * link + lane))
       ∃ t, exec (.laneRetire link lane) s = .next t ∧ (bad = true → lane ∈ (linkOf t link).retired) ∧ (bad = false → linkOf t link = k)) ∧
     (src < 16 → appliedBefore (tget 0 s.fabric.inSeq src) (n % 2 ^ 32) = true →
       exec (.messageReceive src n lseq q key gs ws ns) s =
         .next { s with fabric := { s.fabric with acks := s.fabric.acks ++ [(src, n)] } }) ∧
     (src < 16 → appliedBefore (tget 0 s.fabric.inSeq src) (n % 2 ^ 32) = false → (∀ m ∈ s.fabric.inbox, ¬(m.peer = src ∧ m.seqNo = n % 2 ^ 32)) →
       anyRunning s = true ∨ anyStep s = true → ∃ t m, exec (.messageReceive src n lseq q key gs ws ns) s = .next t ∧
         t.fabric.inbox = s.fabric.inbox ++ [m] ∧ m.peer = src ∧ m.seqNo = n % 2 ^ 32 ∧ m.granules = gs ∧ m.adds = ws ∧ m.notify = ns ∧
         t.fabric.acks = s.fabric.acks ∧ t.mem = s.mem) ∧
     (∃ t, exec (.messageAck dst n) s = .next t ∧ t.fabric.outbox = s.fabric.outbox.filter (fun m => !(m.peer == dst && m.seqNo == n))) ∧
     (∀ m, s.fabric.outbox = [m] → 2 ^ 24 * 10 ≤ (s.now - m.sent) * 7 →
       (∀ r, routeLink s m.peer = some r → ∃ t, exec (.messageResend 0) s = .next t ∧
         t.fabric.outbox = [{ m with sent := s.now }]) ∧
       (routeLink s m.peer = none → (launch s m.lseq).ended = none →
         ∃ t, exec (.messageResend 0) s = .next t ∧ t.fabric.outbox = [] ∧
           (launch t m.lseq).ended = some (.error (m.key.toNat / 2 ^ 20 % 2 ^ 20)))))

/-- O56. Every command of the Asfort set ends by answering its ring entry: with a command at HEAD, the module in service, no launch
running, no commit step in progress and no drone's sequencer running (R375), the step writes STATUS with its valid bit into the
entry and moves HEAD on by one, whatever the command's arguments (R391, R392). A RESET that is accepted answers too, and HEAD then
stands at its reset value, 0 (R390); that its answer comes before its registers are reset is the model's reading
(notes/assumptions/20.md). -/
def Obligations.CommandsAnswer : Prop :=
  ∀ (s : State) (i : Instr), hostCommand i = true → s.host.devState = 1 → ringBusy s = true → anyRunning s = false → anyStep s = false → s.channelsFree →
    let next := (s.host.head + 1) % 2 ^ (s.host.ringSize.toNat % 32)
    ∃ t, exec i s = .next t ∧ mget t.host.mem (s.host.ringBase.toNat + 64 * s.host.head + 63) = 0x80 ∧
      t.host.head = match i with
        | .reset m _ _ _ => if m.toNat < 16 then 0 else next
        | _ => next

/-- O57. What the commands do (R319, R334, R392 to R402), each with the answer it gives, by a module whose boot was good, no launch
running, no commit step in progress and no drone's sequencer running: MAP and UNMAP change the page entry they name, no other, and
no byte; HOSTCOPY copies, from the device into host memory, or into one page of the device and nowhere else; MONITOR arms, reads and
clears one capture block and leaves every other; ATTEST and CHECKPOINT write their bytes into host memory and change nothing else;
SELFTEST retires the failing units among those it names, and no other, and counts them; a LAUNCH packet that cannot be found is
refused, and changes nothing but its answer. The choices of the model among these clauses: a checkpoint's kind words, its header for
each unit and REFUSED for a buffer that is too short (notes/assumptions/11.md); a report's constants and field sizes (7.md);
HOSTCOPY's direction codes 0 and 1, and ILLEGAL for others (17.md); MONITOR's quantity codes, REFUSED for 7 and above, the layout of
a capture block and what it reads without a sample (13.md); the RESULT of a refused MAP, ILLEGAL for nonzero zero fields and OK for
UNMAP of an absent page (18.md). -/
def Obligations.CommandEffects : Prop :=
  ∀ (s : State) (va w0 w1 attr ha len dir nonce src quantity w origin : Word), s.host.devState = 1 → s.host.refused = false →
    anyRunning s = false → anyStep s = false → s.channelsFree →
    let does (i : Instr) (t : State) (code result : Nat) : Prop := exec i s = .next (answer t (code, result))
    let put (a : Word) (b : List Byte) : State := { s with host := { s.host with mem := mwrite s.host.mem a.toNat b } }
    let p := pageOf w0 w1 attr
    let k := va.toNat / 2 ^ 16
    let entry (q : Tab Page) (k : Nat) (e : Page) : Prop :=
      ∀ j, tget Page.absent q j = if j = k then e else tget Page.absent s.pages j
    (mapIllegal w0 w1 attr = true → does (.map va w0 w1 attr) s 1 0) ∧
    (∀ i, mapIllegal w0 w1 attr = false → mapRefused s va.toNat p = some i → does (.map va w0 w1 attr) s 3 i) ∧
    (mapIllegal w0 w1 attr = false → mapRefused s va.toNat p = none → ∃ q, does (.map va w0 w1 attr) { s with pages := q } 0 0 ∧
      entry q k (if p.present then p else Page.absent)) ∧
    (∀ b e, findPage s.pages va.toNat = some (b, e) → ∃ q, does (.unmap va) { s with pages := q } 0 0 ∧
      entry q (b / 2 ^ 16) Page.absent) ∧
    (findPage s.pages va.toNat = none → does (.unmap va) s 0 0) ∧
    (1 < dir.toNat → does (.hostcopy ha va len dir) s 1 0) ∧
    (∀ i, dir.toNat ≤ 1 → badUnit s va.toNat len.toNat = some i → does (.hostcopy ha va len dir) s 3 i) ∧
    (badUnit s va.toNat len.toNat = none →
      (s.badLines = [] → does (.hostcopy ha va len 1) (put ha (vread (snapImage s) va.toNat len.toNat)) 0 0) ∧
      (∀ b e, (∀ k, k < len.toNat → findPage s.pages (va.toNat + k) = some (b, e)) → e.rep = 0 → s.badLines = [] →
        let pa := e.frame * 2 ^ 16 + (va.toNat - b)
        ∃ t, does (.hostcopy ha va len 0) t 0 0 ∧ t.pages = s.pages ∧ t.host = s.host ∧ t.harts = s.harts ∧ t.cores = s.cores ∧
          ∀ o, mget t.mem o = if pa ≤ o ∧ o < pa + len.toNat then mget s.host.mem (ha.toNat + (o - pa)) else mget s.mem o)) ∧
    (let c := capture s src.toNat
     let set (c : Capture) : State :=
       { s with host := { s.host with captures := tset Capture.reset s.host.captures src.toNat c } }
     let extreme (x : Option Int) : List Byte := natBytes (wordOfInt (x.getD 0)).toNat 8
     (quantity.toNat < 7 → does (.monitorArm src quantity w origin)
       (set { c with quantity := quantity.toNat, w := w.toNat, origin := origin.toInt }) 0 0) ∧
     (7 ≤ quantity.toNat → does (.monitorArm src quantity w origin) s 3 1) ∧
     does (.monitorClear src) (set { c with bins := List.replicate 64 0, low := none, high := none, samples := 0 }) 0 0 ∧
     (c.quantity ≠ 6 → does (.monitorRead src ha) (put ha ((c.bins.flatMap fun b => natBytes b 8) ++ extreme c.low ++ extreme c.high ++
       natBytes c.samples 8 ++ List.replicate 8 0)) 0 0) ∧
     (c.quantity = 6 → ∃ b, does (.monitorRead src ha) (put ha b) 0 0)) ∧
    (let unit (va : Nat) (p : Page) (i : Nat) : List Byte :=
       let bytes := mread s.mem ((p.frame + i) * 2 ^ 16) (2 ^ 16)
       let kind := if p.rep = 2 then 2 else if bytes.all (· == 0) then 1 else 0
       natBytes (va + i * 2 ^ 16) 8 ++ natBytes p.w0.toNat 8 ++ natBytes p.w1.toNat 8 ++ natBytes (checkpointKind kind).toNat 8 ++
         if kind = 0 then bytes else []
     let b := ((presentPages s).filter fun e => !s.remotePage e.2).flatMap fun e =>
       (List.range (e.2.size / 2 ^ 16)).flatMap (unit e.1 e.2)
     (b.length ≤ len.toNat → s.badLines = [] → does (.checkpoint ha len) (put ha b) 0 0) ∧ (s.badLines = [] → len.toNat < b.length → does (.checkpoint ha len) s 3 1)) ∧
    (let b := mread s.host.mem nonce.toNat 32 ++ natBytes Config.serialNumber.toNat 8 ++ natBytes s.host.modno 8 ++
       natBytes s.host.m0.toNat 32 ++ natBytes s.host.m1.toNat 32 ++ natBytes s.host.m2.toNat 32 ++ natBytes s.host.retired.length 8 ++
       natBytes Config.publicKey.toNat 64
     does (.attest nonce ha) (put ha (b ++ natBytes (Config.signReport b).toNat 29792)) 0 0) ∧
    (let named (u : Nat) : Bool := src == BitVec.allOnes 64 || BitVec.ofNat 64 u == src
     let rows := s.lastingRows.map fun r => srcMem s (1024 * r)
     let bad := distinct ((s.lasting.map (unitSrc s)).filter named ++ rows.filter named)
     ∃ t, does (.selftest src) t 0 bad.length ∧ t.mem = s.mem ∧ t.pages = s.pages ∧
       ∀ u, u ∈ t.host.retired ↔ u ∈ s.host.retired ∨ u ∈ bad.map unitNo) ∧
    (globalOk va.toNat 64 = false → does (.launch va) s 3 0xFFFFFFFF)

/-- O58. Commands that are accepted (R286, R289, R221, R337, R334, R395), no launch running, no commit step in progress and no
drone's sequencer running: LAUNCH of a packet in its limits takes the next launch number and gives the launch its nodes, with the
records of the packet, quantum 1 to come; the Asfort MPLOAD stands at the tail of both queues of every core; REGION defines the
lowest free number, a record of no kind deletes its region; TIERSET leaves the page at its new frame with its bytes; RESTORE puts a
page's entry back, and its unit's bytes: zeros, none for a constant one, else those of the record. The lowest free number is
notes/assumptions/19.md, the wrap of launch numbers and the frame taken at once 18.md, the form of a record 11.md: all three the
model's. -/
def Obligations.CommandsAccepted : Prop :=
  ∀ (s : State) (va frame rtn ha len : Word), s.host.devState = 1 → s.host.refused = false → anyRunning s = false →
    anyStep s = false → s.channelsFree →
    let b := mread s.host.mem ha.toNat 64
    (∀ hd, globalOk va.toNat 64 = true → tableAt s (snapImage s) va.toNat 64 = some hd → headerOk hd = true → leNat ((hd.drop 56).take 8) = 0 →
      badNode s (snapImage s) hd 0 = none →
      let l := (s.host.nextLaunch + 1) % 2 ^ 24
      ∃ t, exec (.launch va) s = .next t ∧ t.host.nextLaunch = l ∧ (launch t l).committed = 0 ∧
        (∀ n, n < leNat ((hd.drop 4).take 4) → (nodeOf t l n).desc = (nodeOfPacket s (snapImage s) hd n).desc) ∧ t.mem = s.mem) ∧
    (∀ st n, rtn.toNat < 256 → mploadHeader rtn.toNat (BitVec.ofNat 128 (leNat (mread s.host.mem ha.toNat 16))) = some (st, n) →
      ∃ t, exec (.asfortMpload rtn ha) s = .next t ∧ t.mem = s.mem ∧ ∀ c, c < 192 → ∃ id ws, ws.length = n ∧
        (core t c).mx.hi = (core s c).mx.hi ++ [.load id rtn.toNat st ws] ∧
        (core t c).mx.lo = (core s c).mx.lo ++ [.load id rtn.toNat st ws]) ∧
    (regionFields b (regionOf b) = true → regionShape (regionOf b) = true → regionPages s (regionOf b) = true →
      inRegion s (regionOf b).base (regionOf b).len = false → s.regions = [] → areaRoom s 0 (regionOf b) = true →
      ∃ t, exec (.region ha) s = .next t ∧ t.regions = [(0, regionOf b)] ∧ t.mem = s.mem) ∧
    (∀ n r, s.regions = [(n, r)] → r.base = leNat (b.take 8) → (b.drop 8).all (· == 0) = true →
      ∃ t, exec (.regionDelete ha) s = .next t ∧ t.regions = [] ∧ t.mem = s.mem) ∧
    (∀ base p, findPage s.pages va.toNat = some (base, p) → s.remotePage p = false → frame.toNat % p.size = 0 →
      frameOk frame.toNat p.size = true → Memory.wf s.mem = true → ∃ t, exec (.tierset va frame) s = .next t ∧
        (tget Page.absent t.pages (base / 2 ^ 16)).frame = frame.toNat / 2 ^ 16 ∧
        ∀ o, mget t.mem o = if frame.toNat ≤ o ∧ o < frame.toNat + p.size then mget s.mem (p.frame * 2 ^ 16 + (o - frame.toNat))
          else mget s.mem o) ∧
    (let p : Page := { w0 := BitVec.ofNat 64 (leNat ((b.drop 8).take 8)), w1 := BitVec.ofNat 64 (leNat ((b.drop 16).take 8))
                       modno := s.host.modno, notify := none }
     let va := leNat (b.take 8)
     let base := va / p.size * p.size
     let pa := p.frame * 2 ^ 16 + (va - base)
     let kind : Word := BitVec.ofNat 64 (leNat ((b.drop 24).take 8))
     let restores (f : Nat → Byte) : Prop := ∃ t, exec (.restore ha len) s = .next t ∧ tget Page.absent t.pages (base / 2 ^ 16) = p ∧
       ∀ o, mget t.mem o = if pa ≤ o ∧ o < pa + 2 ^ 16 then f o else mget s.mem o
     p.present = true →
       (len = 32 → kind = checkpointKind 1 → restores fun _ => 0) ∧ (len = 32 → kind = checkpointKind 2 → restores (mget s.mem)) ∧
       (len = 65568 → kind ≠ checkpointKind 1 → kind ≠ checkpointKind 2 →
         restores fun o => mget s.host.mem (ha.toNat + 32 + (o - pa))))

/-- O59. The host's registers, boot, reset and heat (R390, R393, R400): a doorbell sets TAIL, a writable register takes its value in
its bits and no other register changes, a read-only register stays, DOORBELL reads as zero (R9); power-on and RESET boot the module,
into service or into refusal, with every register of BAR 0 but DEVSTATE at its reset value and no launch, and RESET takes the module
number and the route table, and answers ILLEGAL with RESULT 0 for a number above 15; a refused module refuses every command but
RESET and ATTEST; a limit lowers the clock of one of the five dies by 50 MHz, not below 350, and back up to 700; a trip ends every
launch and takes the module out of service. The model's readings are that DRAM keeps its bytes over a boot
(notes/assumptions/20.md), that a RESET of a number above 15 is ILLEGAL with RESULT 0 (79.md), that LAUNCH is refused after a trip
and a module refused by its boot goes out of service too and stays refused (21.md), and that RINGSIZE and EVTSIZE store any value of
their five bits (52.md). -/
def Obligations.HostAndBoot : Prop :=
  ∀ (s : State) (v : BitVec 16) (w modno route p1 p2 : Word) (d : Nat),
    let k := s.host
    let writes (off : Nat) (x : HostIf) : Prop := exec (.registerWrite off w) s = .next { s with host := x }
    let fresh (t : State) : Prop := t.launches = [] ∧ t.pages = [] ∧ t.harts = [] ∧ (t.host.devState = 1 ∨ t.host.devState = 3) ∧
      t.host.refused = decide (t.host.devState = 3) ∧
      barRead t 0x008 = 4 ∧ barRead t 0x028 = 10 ∧ ∀ off ∈ [0x000, 0x010, 0x018, 0x020, 0x030, 0x038, 0x040], barRead t off = 0
    exec (.doorbell v) s = .next { s with host := { k with tail := v.toNat } } ∧
    writes 0x000 { k with ringBase := w } ∧ writes 0x008 { k with ringSize := (w.setWidth 5).setWidth 64 } ∧
    writes 0x010 { k with tail := w.toNat % 2 ^ 16 } ∧ writes 0x020 { k with evtBase := w } ∧
    writes 0x028 { k with evtSize := (w.setWidth 5).setWidth 64 } ∧ writes 0x038 { k with evtHead := w.toNat % 2 ^ 20 } ∧
    (∀ off, off ∉ [0x000, 0x008, 0x010, 0x020, 0x028, 0x038] → writes off k) ∧ barRead s 0x010 = 0 ∧
    (∃ t, exec .powerOn s = .next t ∧ fresh t ∧ t.mem = s.mem) ∧
    (modno.toNat < 16 → ∃ t, exec (.reset modno route p1 p2) s = .next t ∧ fresh t ∧ t.mem = s.mem ∧ t.host.modno = modno.toNat ∧
      t.host.route = route) ∧
    (16 ≤ modno.toNat → exec (.reset modno route p1 p2) s = .next (answer s (1, 0))) ∧
    (∀ i, hostCommand i = true → s.host.refused = true →
      (match i with
        | .reset .. | .attest .. => True
        | _ => exec i s = .next (answer s (3, 0)))) ∧
    (s.host.refused = false → s.host.devState = 2 → exec (.launch w) s = .next (answer s (3, 0xFFFFFFFF))) ∧
    (d < 5 → ∃ t, exec (.thermalLimit d true) s = .next t ∧ (die t d).clock = max 350 ((die s d).clock - 50) ∧ (die t d).hot = true) ∧
    (d < 5 → ∃ t, exec (.thermalLimit d false) s = .next t ∧ (die t d).clock = min 700 ((die s d).clock + 50) ∧ (die t d).hot = false) ∧
    (∃ t, exec .thermalTrip s = .next t ∧ t.host.devState = 2 ∧ t.host.refused = s.host.refused ∧
      (∀ l, (launch t l).ended ≠ none) ∧ t.mem = s.mem)

/-- O60. Nothing stops: every instruction and every event answers a next state in every state, in a bundle and alone, and so does
every step: an instruction that cannot complete traps, blocks or waits (R26: no pattern has an undefined effect). That an event
which is not enabled changes nothing is the model's choice (notes/assumptions/35.md). -/
def Obligations.EverythingGoesOn : Prop :=
  (∀ (i : Instr) (s : State), ∃ t, exec i s = .next t) ∧ ∀ s : State, ∃ t, step s = .next t
end

