-- ==== Sys2Proof/Laws/Channels.lean ====
section
/-!
SUPPORT. Accesses where no drone's sequencer runs (R375): each takes place at once and leaves the channels as they are.
-/
namespace Sys2Proof.Machine

/-- A free channel lets every access pass. -/
theorem passes_free {s : State} (h : s.channelsFree) (d : Nat) (a : Access) : (drone s d).passes a = true := by
  simp [Drone.passes, (h d).1]

/-- An access that finds a free channel leaves it as it is. -/
theorem seekAt_free {s : State} (h : s.channelsFree) (a : Access) (d : Nat) : seekAt a s d = s := by
  simp [seekAt, passes_free h]

/-- An access passes a free channel without a grant to give back. -/
theorem passedAt_free {s : State} (h : s.channelsFree) (a : Access) (d : Nat) : passedAt a s d = s := by
  simp [passedAt, (h d).2]

theorem foldl_seekAt_free {s : State} (h : s.channelsFree) (a : Access) (ds : List Nat) : ds.foldl (seekAt a) s = s := by
  induction ds with
  | nil => rfl
  | cons d ds ih => simpa [seekAt_free h] using ih

theorem foldl_passedAt_free {s : State} (h : s.channelsFree) (a : Access) (ds : List Nat) : ds.foldl (passedAt a) s = s := by
  induction ds with
  | nil => rfl
  | cons d ds ih => simpa [passedAt_free h] using ih

/-- An access to free channels takes place at once. -/
theorem seekAll_free {s : State} (h : s.channelsFree) (ds : List Nat) (a : Access) : seekAll s ds a = (s, true) := by
  simp [seekAll, foldl_seekAt_free h, foldl_passedAt_free h, passes_free h]

/-- What an access does, it does at once where the channels are free. -/
theorem ordinaryAccess_free {s : State} (h : s.channelsFree) (ds : List Nat) (a : Access) (f : State → State) :
    ordinaryAccess s ds a f = f s := by
  simp [ordinaryAccess, seekAll_free h]

/-- The line at a pc is at hand where the channels are free; the grant given back is that of the state examined. -/
theorem afterFetch_free {s : State} (h : s.channelsFree) (c : Nat) (f : State → Exam) (hf : (f s).state.channelsFree) :
    afterFetch s c f = f s := by
  simp only [afterFetch, foldl_seekAt_free h]
  split
  · simp [foldl_passedAt_free hf]
  · simp_all [passes_free h]

/-- A command whose channels are free does at once what it does. -/
theorem commandVia_free {s : State} (h : s.channelsFree) (ds : List Nat) (f : State → Option (State × Ans)) :
    commandVia s ds f = command s f := by
  unfold commandVia command
  split
  · rfl
  · rename_i hc
    simp only [ordinaryAccess_free h]
    cases hf : f s <;> simp_all

end Sys2Proof.Machine
end

