-- ==== Sys2Proof/Laws/Tables.lean ====
section
/-!
SUPPORT. What the operations over sparse tables and byte memories do: a read after a write, and the canonical form that every write
keeps.
-/
namespace Sys2Proof.Machine

/-! ### Reads after writes -/

@[simp] theorem tget_nil {α : Type} (d : α) (k : Nat) : tget d [] k = d := rfl

@[simp] theorem tget_tput_self {α : Type} (d : α) (t : Tab α) (k : Nat) (v : α) : tget d (tput k v t) k = v := by
  induction t with
  | nil => simp [tput, tget]
  | cons e t ih =>
    obtain ⟨j, w⟩ := e
    simp only [tput]
    split
    · simp [tget]
    · split <;> simp_all [tget]

theorem tget_tput_ne {α : Type} (d : α) (t : Tab α) {k n : Nat} (v : α) (h : n ≠ k) : tget d (tput k v t) n = tget d t n := by
  induction t with
  | nil => simp [tput, tget, h]
  | cons e t ih =>
    obtain ⟨j, w⟩ := e
    simp only [tput]
    split
    · simp [tget, h]
    · split
      · subst_vars; simp [tget, h]
      · simp [tget, ih]

@[simp] theorem tget_tdel_self {α : Type} (d : α) (t : Tab α) (k : Nat) : tget d (tdel k t) k = d := by
  induction t with
  | nil => rfl
  | cons e t ih =>
    obtain ⟨j, w⟩ := e
    simp only [tdel]
    split
    · exact ih
    · simp_all [tget]

theorem tget_tdel_ne {α : Type} (d : α) (t : Tab α) {k n : Nat} (h : n ≠ k) : tget d (tdel k t) n = tget d t n := by
  induction t with
  | nil => rfl
  | cons e t ih =>
    obtain ⟨j, w⟩ := e
    simp only [tdel]
    split
    · subst_vars; simp [tget, h, ih]
    · simp [tget, ih]

/-- A read after a write of the same key. -/
@[simp] theorem tget_tset_self {α : Type} [DecidableEq α] (d : α) (t : Tab α) (k : Nat) (v : α) : tget d (tset d t k v) k = v := by
  unfold tset
  split <;> simp_all

/-- A read after a write of another key. -/
theorem tget_tset_ne {α : Type} [DecidableEq α] (d : α) (t : Tab α) {k n : Nat} (v : α) (h : n ≠ k) :
    tget d (tset d t k v) n = tget d t n := by
  unfold tset
  split
  · exact tget_tdel_ne d t h
  · exact tget_tput_ne d t v h

theorem tget_tset {α : Type} [DecidableEq α] (d : α) (t : Tab α) (k n : Nat) (v : α) :
    tget d (tset d t k v) n = if n = k then v else tget d t n := by
  split
  · subst_vars; simp
  · exact tget_tset_ne d t v (by assumption)

/-- Every entry of a written table is the new one or an old one. -/
theorem mem_tset {α : Type} [DecidableEq α] {d : α} {t : Tab α} {k : Nat} {v : α} {e : Nat × α} (h : e ∈ tset d t k v) :
    e = (k, v) ∨ e ∈ t := by
  unfold tset at h
  split at h
  · refine .inr ?_
    rename_i hv; clear hv
    induction t with
    | nil => simp [tdel] at h
    | cons x t ih =>
      obtain ⟨j, w⟩ := x
      simp only [tdel] at h
      split at h
      · exact List.mem_cons_of_mem _ (ih h)
      · rcases List.mem_cons.1 h with rfl | h
        · simp
        · exact List.mem_cons_of_mem _ (ih h)
  · rename_i hv; clear hv
    induction t with
    | nil => simpa [tput] using h
    | cons x t ih =>
      obtain ⟨j, w⟩ := x
      simp only [tput] at h
      split at h
      · rcases List.mem_cons.1 h with rfl | h <;> simp_all
      · split at h
        · rcases List.mem_cons.1 h with rfl | h <;> simp_all
        · rcases List.mem_cons.1 h with rfl | h
          · simp
          · rcases ih h with rfl | h <;> simp_all

/-- What a key reads as stands in the table or is the default. -/
theorem tget_mem {α : Type} (d : α) (t : Tab α) (k : Nat) : (k, tget d t k) ∈ t ∨ tget d t k = d := by
  induction t with
  | nil => exact .inr rfl
  | cons e t ih =>
    obtain ⟨j, w⟩ := e
    simp only [tget]
    split
    · subst_vars; simp
    · rcases ih with h | h <;> simp_all

/-! ### The canonical form -/

/-- Every key of a table is above a bound. -/
def tabAbove {α : Type} (n : Nat) (t : Tab α) : Prop := ∀ e ∈ t, n < e.1

theorem tabWf_cons {α : Type} [DecidableEq α] (d : α) (j : Nat) (w : α) (t : Tab α) :
    tabWf d ((j, w) :: t) = true ↔ w ≠ d ∧ tabWf d t = true ∧ tabAbove j t := by
  induction t generalizing j w with
  | nil => simp [tabWf, tabAbove]
  | cons e t ih =>
    obtain ⟨k, v⟩ := e
    have h := ih k v
    simp only [tabWf, Bool.and_eq_true, decide_eq_true_eq, bne_iff_ne, ne_eq] at *
    constructor
    · rintro ⟨⟨h1, h2⟩, h3⟩
      refine ⟨h2, h3, ?_⟩
      intro e he
      rcases List.mem_cons.1 he with rfl | he
      · exact h1
      · exact Nat.lt_trans h1 ((h.1 h3).2.2 e he)
    · rintro ⟨h1, h2, h3⟩
      exact ⟨⟨h3 (k, v) (by simp), h1⟩, h2⟩

theorem tdel_above {α : Type} {t : Tab α} {k n : Nat} (h : tabAbove n t) : tabAbove n (tdel k t) := by
  induction t with
  | nil => simpa [tdel] using h
  | cons e t ih =>
    obtain ⟨j, w⟩ := e
    have ht : tabAbove n t := fun x hx => h x (List.mem_cons_of_mem _ hx)
    simp only [tdel]
    split
    · exact ih ht
    · intro x hx
      rcases List.mem_cons.1 hx with rfl | hx
      · exact h _ (by simp)
      · exact ih ht x hx

theorem tput_above {α : Type} {t : Tab α} {k n : Nat} {v : α} (h : tabAbove n t) (hk : n < k) : tabAbove n (tput k v t) := by
  induction t with
  | nil => intro x hx; simp only [tput, List.mem_singleton] at hx; subst hx; exact hk
  | cons e t ih =>
    obtain ⟨j, w⟩ := e
    have ht : tabAbove n t := fun x hx => h x (List.mem_cons_of_mem _ hx)
    have hj : n < j := h (j, w) (by simp)
    simp only [tput]
    split
    · intro x hx
      rcases List.mem_cons.1 hx with rfl | hx
      · exact hk
      · exact h x hx
    · split
      · intro x hx
        rcases List.mem_cons.1 hx with rfl | hx
        · exact hk
        · exact ht x hx
      · intro x hx
        rcases List.mem_cons.1 hx with rfl | hx
        · exact hj
        · exact ih ht x hx

/-- A write keeps the canonical form. -/
theorem tabWf_tset {α : Type} [DecidableEq α] {d : α} {t : Tab α} (k : Nat) (v : α) (h : tabWf d t = true) :
    tabWf d (tset d t k v) = true := by
  unfold tset
  split
  · induction t with
    | nil => rfl
    | cons e t ih =>
      obtain ⟨j, w⟩ := e
      obtain ⟨h1, h2, h3⟩ := (tabWf_cons d j w t).1 h
      simp only [tdel]
      split
      · exact ih h2
      · exact (tabWf_cons d j w _).2 ⟨h1, ih h2, tdel_above h3⟩
  · rename_i hv
    induction t with
    | nil => simpa [tput, tabWf] using hv
    | cons e t ih =>
      obtain ⟨j, w⟩ := e
      obtain ⟨h1, h2, h3⟩ := (tabWf_cons d j w t).1 h
      simp only [tput]
      split
      · rename_i hk
        refine (tabWf_cons d k v _).2 ⟨hv, h, ?_⟩
        intro x hx
        rcases List.mem_cons.1 hx with rfl | hx
        · exact hk
        · exact Nat.lt_trans hk (h3 x hx)
      · split
        · subst_vars; exact (tabWf_cons d _ v t).2 ⟨hv, h2, h3⟩
        · exact (tabWf_cons d j w _).2 ⟨h1, ih h2, tput_above h3 (by omega)⟩

/-- Two tables in their canonical form that read alike are equal. -/
theorem tabWf_ext {α : Type} [DecidableEq α] {d : α} {t u : Tab α} (ht : tabWf d t = true) (hu : tabWf d u = true)
    (h : ∀ k, tget d t k = tget d u k) : t = u := by
  have low : ∀ {t : Tab α} {n : Nat}, tabAbove n t → ∀ k, k ≤ n → tget d t k = d := by
    intro t n ha k hk
    rcases tget_mem d t k with hm | hm
    · have := ha _ hm; simp at this; omega
    · exact hm
  induction t generalizing u with
  | nil =>
    cases u with
    | nil => rfl
    | cons e u =>
      obtain ⟨j, w⟩ := e
      have := h j
      simp [tget] at this
      exact absurd this.symm ((tabWf_cons d j w u).1 hu).1
  | cons e t ih =>
    obtain ⟨j, w⟩ := e
    obtain ⟨h1, h2, h3⟩ := (tabWf_cons d j w t).1 ht
    cases u with
    | nil => have := h j; simp [tget] at this; exact absurd this h1
    | cons e' u =>
      obtain ⟨i, v⟩ := e'
      obtain ⟨g1, g2, g3⟩ := (tabWf_cons d i v u).1 hu
      have hij : i = j := by
        rcases Nat.lt_trichotomy i j with hl | hl | hl
        · have := h i
          simp only [tget, if_true, if_neg (Nat.ne_of_lt hl)] at this
          rw [low h3 i (by omega)] at this
          exact absurd this.symm g1
        · exact hl
        · have := h j
          simp only [tget, if_true, if_neg (Nat.ne_of_lt hl)] at this
          rw [low g3 j (by omega)] at this
          exact absurd this h1
      subst hij
      have hv := h i
      simp only [tget, if_true] at hv
      subst hv
      congr 1
      refine ih h2 g2 fun k => ?_
      by_cases hk : k = i
      · subst hk; rw [low h3 k (Nat.le_refl k), low g3 k (Nat.le_refl k)]
      · have := h k; simpa [tget, hk] using this

/-! ### Byte memories -/

@[simp] theorem mget_nil (a : Nat) : mget [] a = 0 := rfl

theorem mget_mset (m : List Host.Cell) (a n : Nat) (b : Byte) : mget (mset m a b) n = if n = a then b else mget m n :=
  tget_tset 0 m a n b

@[simp] theorem mget_mset_self (m : List Host.Cell) (a : Nat) (b : Byte) : mget (mset m a b) a = b := tget_tset_self 0 m a b

theorem memWf_mset {m : List Host.Cell} (a : Nat) (b : Byte) (h : memWf m = true) : memWf (mset m a b) = true :=
  tabWf_tset a b h

theorem memWf_mwrite {m : List Host.Cell} (a : Nat) (bs : List Byte) (h : memWf m = true) : memWf (mwrite m a bs) = true := by
  induction bs generalizing m a with
  | nil => exact h
  | cons b bs ih => exact ih (a + 1) (memWf_mset a b h)

/-- A byte read after a write of several bytes. -/
theorem mget_mwrite (m : List Host.Cell) (a n : Nat) (bs : List Byte) :
    mget (mwrite m a bs) n = if h : a ≤ n ∧ n - a < bs.length then bs[n - a]'h.2 else mget m n := by
  induction bs generalizing m a with
  | nil => simp [mwrite]
  | cons b bs ih =>
    rw [mwrite, ih, mget_mset]
    by_cases h : n = a
    · subst h
      rw [dif_neg (by omega), if_pos rfl, dif_pos (by simp)]
      simp
    · by_cases h1 : a + 1 ≤ n ∧ n - (a + 1) < bs.length
      · rw [dif_pos h1, dif_pos (by simp; omega)]
        have : n - a = (n - (a + 1)) + 1 := by omega
        simp [this]
      · rw [dif_neg h1, if_neg h, dif_neg (by simp; omega)]

/-- A write of several bytes leaves every byte outside them alone. -/
theorem mget_mwrite_outside (m : List Host.Cell) {a n : Nat} {bs : List Byte} (h : n < a ∨ a + bs.length ≤ n) :
    mget (mwrite m a bs) n = mget m n := by
  rw [mget_mwrite, dif_neg (by omega)]

@[simp] theorem mread_length (m : List Host.Cell) (a n : Nat) : (mread m a n).length = n := by
  induction n generalizing a with
  | zero => rfl
  | succ n ih => simp [mread, ih]

@[simp] theorem natBytes_length (v n : Nat) : (natBytes v n).length = n := by
  induction n generalizing v with
  | zero => rfl
  | succ n ih => simp [natBytes, ih]

/-- Reading back a little-endian number. -/
theorem leNat_natBytes (v n : Nat) : leNat (natBytes v n) = v % 256 ^ n := by
  induction n generalizing v with
  | zero => simp [natBytes, leNat, Nat.mod_one]
  | succ n ih =>
    simp only [natBytes, leNat, ih, BitVec.toNat_ofNat, Nat.reducePow]
    rw [Nat.pow_succ, Nat.mul_comm (256 ^ n) 256, Nat.mod_mul]

/-- Reading back the bytes just written. -/
theorem mread_mwrite (m : List Host.Cell) (a : Nat) (bs : List Byte) : mread (mwrite m a bs) a bs.length = bs := by
  have key : ∀ (n off : Nat), off + n = bs.length → mread (mwrite m a bs) (a + off) n = bs.drop off := by
    intro n
    induction n with
    | zero => intro off h; simp [mread, List.drop_eq_nil_of_le (by omega : bs.length ≤ off)]
    | succ n ih =>
      intro off h
      rw [mread, Nat.add_assoc, ih (off + 1) (by omega), mget_mwrite, dif_pos (by omega)]
      have : a + off - a = off := by omega
      simp only [this]
      exact (List.drop_eq_getElem_cons (by omega)).symm
  simpa using key bs.length 0 (by omega)

end Sys2Proof.Machine
end

