-- ==== Sys2Proof/Laws/State.lean ====
section
/-!
SUPPORT. One lemma for each field and each update of the state: what an update leaves alone, true by rfl, and what a read of the updated
table gives. Later proofs cite these and unfold no record update.
-/
namespace Sys2Proof.Machine

/-! ### Updates of one table of the state -/
@[simp] theorem now_setHart (s : State) (h : Nat) (c : Ctx) : (setHart s h c).now = s.now := rfl
@[simp] theorem tick_setHart (s : State) (h : Nat) (c : Ctx) : (setHart s h c).tick = s.tick := rfl
@[simp] theorem turn_setHart (s : State) (h : Nat) (c : Ctx) : (setHart s h c).turn = s.turn := rfl
@[simp] theorem cur_setHart (s : State) (h : Nat) (c : Ctx) : (setHart s h c).cur = s.cur := rfl
@[simp] theorem bundle_setHart (s : State) (h : Nat) (c : Ctx) : (setHart s h c).bundle = s.bundle := rfl
@[simp] theorem arrivals_setHart (s : State) (h : Nat) (c : Ctx) : (setHart s h c).arrivals = s.arrivals := rfl
@[simp] theorem cores_setHart (s : State) (h : Nat) (c : Ctx) : (setHart s h c).cores = s.cores := rfl
@[simp] theorem drones_setHart (s : State) (h : Nat) (c : Ctx) : (setHart s h c).drones = s.drones := rfl
@[simp] theorem ports_setHart (s : State) (h : Nat) (c : Ctx) : (setHart s h c).ports = s.ports := rfl
@[simp] theorem acks_setHart (s : State) (h : Nat) (c : Ctx) : (setHart s h c).acks = s.acks := rfl
@[simp] theorem mem_setHart (s : State) (h : Nat) (c : Ctx) : (setHart s h c).mem = s.mem := rfl
@[simp] theorem pages_setHart (s : State) (h : Nat) (c : Ctx) : (setHart s h c).pages = s.pages := rfl
@[simp] theorem badLines_setHart (s : State) (h : Nat) (c : Ctx) : (setHart s h c).badLines = s.badLines := rfl
@[simp] theorem rowTests_setHart (s : State) (h : Nat) (c : Ctx) : (setHart s h c).rowTests = s.rowTests := rfl
@[simp] theorem rowCorrected_setHart (s : State) (h : Nat) (c : Ctx) : (setHart s h c).rowCorrected = s.rowCorrected := rfl
@[simp] theorem areaTests_setHart (s : State) (h : Nat) (c : Ctx) : (setHart s h c).areaTests = s.areaTests := rfl
@[simp] theorem launches_setHart (s : State) (h : Nat) (c : Ctx) : (setHart s h c).launches = s.launches := rfl
@[simp] theorem dies_setHart (s : State) (h : Nat) (c : Ctx) : (setHart s h c).dies = s.dies := rfl
@[simp] theorem regions_setHart (s : State) (h : Nat) (c : Ctx) : (setHart s h c).regions = s.regions := rfl
@[simp] theorem records_setHart (s : State) (h : Nat) (c : Ctx) : (setHart s h c).records = s.records := rfl
@[simp] theorem badRecords_setHart (s : State) (h : Nat) (c : Ctx) : (setHart s h c).badRecords = s.badRecords := rfl
@[simp] theorem deadRecords_setHart (s : State) (h : Nat) (c : Ctx) : (setHart s h c).deadRecords = s.deadRecords := rfl
@[simp] theorem promos_setHart (s : State) (h : Nat) (c : Ctx) : (setHart s h c).promos = s.promos := rfl
@[simp] theorem freeFrames_setHart (s : State) (h : Nat) (c : Ctx) : (setHart s h c).freeFrames = s.freeFrames := rfl
@[simp] theorem fabric_setHart (s : State) (h : Nat) (c : Ctx) : (setHart s h c).fabric = s.fabric := rfl
@[simp] theorem host_setHart (s : State) (h : Nat) (c : Ctx) : (setHart s h c).host = s.host := rfl
@[simp] theorem lasting_setHart (s : State) (h : Nat) (c : Ctx) : (setHart s h c).lasting = s.lasting := rfl
@[simp] theorem lastingRows_setHart (s : State) (h : Nat) (c : Ctx) : (setHart s h c).lastingRows = s.lastingRows := rfl
@[simp] theorem now_setCore (s : State) (h : Nat) (c : Core) : (setCore s h c).now = s.now := rfl
@[simp] theorem tick_setCore (s : State) (h : Nat) (c : Core) : (setCore s h c).tick = s.tick := rfl
@[simp] theorem turn_setCore (s : State) (h : Nat) (c : Core) : (setCore s h c).turn = s.turn := rfl
@[simp] theorem cur_setCore (s : State) (h : Nat) (c : Core) : (setCore s h c).cur = s.cur := rfl
@[simp] theorem bundle_setCore (s : State) (h : Nat) (c : Core) : (setCore s h c).bundle = s.bundle := rfl
@[simp] theorem arrivals_setCore (s : State) (h : Nat) (c : Core) : (setCore s h c).arrivals = s.arrivals := rfl
@[simp] theorem harts_setCore (s : State) (h : Nat) (c : Core) : (setCore s h c).harts = s.harts := rfl
@[simp] theorem drones_setCore (s : State) (h : Nat) (c : Core) : (setCore s h c).drones = s.drones := rfl
@[simp] theorem ports_setCore (s : State) (h : Nat) (c : Core) : (setCore s h c).ports = s.ports := rfl
@[simp] theorem acks_setCore (s : State) (h : Nat) (c : Core) : (setCore s h c).acks = s.acks := rfl
@[simp] theorem mem_setCore (s : State) (h : Nat) (c : Core) : (setCore s h c).mem = s.mem := rfl
@[simp] theorem pages_setCore (s : State) (h : Nat) (c : Core) : (setCore s h c).pages = s.pages := rfl
@[simp] theorem badLines_setCore (s : State) (h : Nat) (c : Core) : (setCore s h c).badLines = s.badLines := rfl
@[simp] theorem rowTests_setCore (s : State) (h : Nat) (c : Core) : (setCore s h c).rowTests = s.rowTests := rfl
@[simp] theorem rowCorrected_setCore (s : State) (h : Nat) (c : Core) : (setCore s h c).rowCorrected = s.rowCorrected := rfl
@[simp] theorem areaTests_setCore (s : State) (h : Nat) (c : Core) : (setCore s h c).areaTests = s.areaTests := rfl
@[simp] theorem launches_setCore (s : State) (h : Nat) (c : Core) : (setCore s h c).launches = s.launches := rfl
@[simp] theorem dies_setCore (s : State) (h : Nat) (c : Core) : (setCore s h c).dies = s.dies := rfl
@[simp] theorem regions_setCore (s : State) (h : Nat) (c : Core) : (setCore s h c).regions = s.regions := rfl
@[simp] theorem records_setCore (s : State) (h : Nat) (c : Core) : (setCore s h c).records = s.records := rfl
@[simp] theorem badRecords_setCore (s : State) (h : Nat) (c : Core) : (setCore s h c).badRecords = s.badRecords := rfl
@[simp] theorem deadRecords_setCore (s : State) (h : Nat) (c : Core) : (setCore s h c).deadRecords = s.deadRecords := rfl
@[simp] theorem promos_setCore (s : State) (h : Nat) (c : Core) : (setCore s h c).promos = s.promos := rfl
@[simp] theorem freeFrames_setCore (s : State) (h : Nat) (c : Core) : (setCore s h c).freeFrames = s.freeFrames := rfl
@[simp] theorem fabric_setCore (s : State) (h : Nat) (c : Core) : (setCore s h c).fabric = s.fabric := rfl
@[simp] theorem host_setCore (s : State) (h : Nat) (c : Core) : (setCore s h c).host = s.host := rfl
@[simp] theorem lasting_setCore (s : State) (h : Nat) (c : Core) : (setCore s h c).lasting = s.lasting := rfl
@[simp] theorem lastingRows_setCore (s : State) (h : Nat) (c : Core) : (setCore s h c).lastingRows = s.lastingRows := rfl
@[simp] theorem now_setDrone (s : State) (h : Nat) (c : Drone) : (setDrone s h c).now = s.now := rfl
@[simp] theorem tick_setDrone (s : State) (h : Nat) (c : Drone) : (setDrone s h c).tick = s.tick := rfl
@[simp] theorem turn_setDrone (s : State) (h : Nat) (c : Drone) : (setDrone s h c).turn = s.turn := rfl
@[simp] theorem cur_setDrone (s : State) (h : Nat) (c : Drone) : (setDrone s h c).cur = s.cur := rfl
@[simp] theorem bundle_setDrone (s : State) (h : Nat) (c : Drone) : (setDrone s h c).bundle = s.bundle := rfl
@[simp] theorem arrivals_setDrone (s : State) (h : Nat) (c : Drone) : (setDrone s h c).arrivals = s.arrivals := rfl
@[simp] theorem harts_setDrone (s : State) (h : Nat) (c : Drone) : (setDrone s h c).harts = s.harts := rfl
@[simp] theorem cores_setDrone (s : State) (h : Nat) (c : Drone) : (setDrone s h c).cores = s.cores := rfl
@[simp] theorem ports_setDrone (s : State) (h : Nat) (c : Drone) : (setDrone s h c).ports = s.ports := rfl
@[simp] theorem acks_setDrone (s : State) (h : Nat) (c : Drone) : (setDrone s h c).acks = s.acks := rfl
@[simp] theorem mem_setDrone (s : State) (h : Nat) (c : Drone) : (setDrone s h c).mem = s.mem := rfl
@[simp] theorem pages_setDrone (s : State) (h : Nat) (c : Drone) : (setDrone s h c).pages = s.pages := rfl
@[simp] theorem badLines_setDrone (s : State) (h : Nat) (c : Drone) : (setDrone s h c).badLines = s.badLines := rfl
@[simp] theorem rowTests_setDrone (s : State) (h : Nat) (c : Drone) : (setDrone s h c).rowTests = s.rowTests := rfl
@[simp] theorem rowCorrected_setDrone (s : State) (h : Nat) (c : Drone) : (setDrone s h c).rowCorrected = s.rowCorrected := rfl
@[simp] theorem areaTests_setDrone (s : State) (h : Nat) (c : Drone) : (setDrone s h c).areaTests = s.areaTests := rfl
@[simp] theorem launches_setDrone (s : State) (h : Nat) (c : Drone) : (setDrone s h c).launches = s.launches := rfl
@[simp] theorem dies_setDrone (s : State) (h : Nat) (c : Drone) : (setDrone s h c).dies = s.dies := rfl
@[simp] theorem regions_setDrone (s : State) (h : Nat) (c : Drone) : (setDrone s h c).regions = s.regions := rfl
@[simp] theorem records_setDrone (s : State) (h : Nat) (c : Drone) : (setDrone s h c).records = s.records := rfl
@[simp] theorem badRecords_setDrone (s : State) (h : Nat) (c : Drone) : (setDrone s h c).badRecords = s.badRecords := rfl
@[simp] theorem deadRecords_setDrone (s : State) (h : Nat) (c : Drone) : (setDrone s h c).deadRecords = s.deadRecords := rfl
@[simp] theorem promos_setDrone (s : State) (h : Nat) (c : Drone) : (setDrone s h c).promos = s.promos := rfl
@[simp] theorem freeFrames_setDrone (s : State) (h : Nat) (c : Drone) : (setDrone s h c).freeFrames = s.freeFrames := rfl
@[simp] theorem fabric_setDrone (s : State) (h : Nat) (c : Drone) : (setDrone s h c).fabric = s.fabric := rfl
@[simp] theorem host_setDrone (s : State) (h : Nat) (c : Drone) : (setDrone s h c).host = s.host := rfl
@[simp] theorem lasting_setDrone (s : State) (h : Nat) (c : Drone) : (setDrone s h c).lasting = s.lasting := rfl
@[simp] theorem lastingRows_setDrone (s : State) (h : Nat) (c : Drone) : (setDrone s h c).lastingRows = s.lastingRows := rfl
@[simp] theorem now_setPort (s : State) (h : Nat) (c : Port) : (setPort s h c).now = s.now := rfl
@[simp] theorem tick_setPort (s : State) (h : Nat) (c : Port) : (setPort s h c).tick = s.tick := rfl
@[simp] theorem turn_setPort (s : State) (h : Nat) (c : Port) : (setPort s h c).turn = s.turn := rfl
@[simp] theorem cur_setPort (s : State) (h : Nat) (c : Port) : (setPort s h c).cur = s.cur := rfl
@[simp] theorem bundle_setPort (s : State) (h : Nat) (c : Port) : (setPort s h c).bundle = s.bundle := rfl
@[simp] theorem arrivals_setPort (s : State) (h : Nat) (c : Port) : (setPort s h c).arrivals = s.arrivals := rfl
@[simp] theorem harts_setPort (s : State) (h : Nat) (c : Port) : (setPort s h c).harts = s.harts := rfl
@[simp] theorem cores_setPort (s : State) (h : Nat) (c : Port) : (setPort s h c).cores = s.cores := rfl
@[simp] theorem drones_setPort (s : State) (h : Nat) (c : Port) : (setPort s h c).drones = s.drones := rfl
@[simp] theorem acks_setPort (s : State) (h : Nat) (c : Port) : (setPort s h c).acks = s.acks := rfl
@[simp] theorem mem_setPort (s : State) (h : Nat) (c : Port) : (setPort s h c).mem = s.mem := rfl
@[simp] theorem pages_setPort (s : State) (h : Nat) (c : Port) : (setPort s h c).pages = s.pages := rfl
@[simp] theorem badLines_setPort (s : State) (h : Nat) (c : Port) : (setPort s h c).badLines = s.badLines := rfl
@[simp] theorem rowTests_setPort (s : State) (h : Nat) (c : Port) : (setPort s h c).rowTests = s.rowTests := rfl
@[simp] theorem rowCorrected_setPort (s : State) (h : Nat) (c : Port) : (setPort s h c).rowCorrected = s.rowCorrected := rfl
@[simp] theorem areaTests_setPort (s : State) (h : Nat) (c : Port) : (setPort s h c).areaTests = s.areaTests := rfl
@[simp] theorem launches_setPort (s : State) (h : Nat) (c : Port) : (setPort s h c).launches = s.launches := rfl
@[simp] theorem dies_setPort (s : State) (h : Nat) (c : Port) : (setPort s h c).dies = s.dies := rfl
@[simp] theorem regions_setPort (s : State) (h : Nat) (c : Port) : (setPort s h c).regions = s.regions := rfl
@[simp] theorem records_setPort (s : State) (h : Nat) (c : Port) : (setPort s h c).records = s.records := rfl
@[simp] theorem badRecords_setPort (s : State) (h : Nat) (c : Port) : (setPort s h c).badRecords = s.badRecords := rfl
@[simp] theorem deadRecords_setPort (s : State) (h : Nat) (c : Port) : (setPort s h c).deadRecords = s.deadRecords := rfl
@[simp] theorem promos_setPort (s : State) (h : Nat) (c : Port) : (setPort s h c).promos = s.promos := rfl
@[simp] theorem freeFrames_setPort (s : State) (h : Nat) (c : Port) : (setPort s h c).freeFrames = s.freeFrames := rfl
@[simp] theorem fabric_setPort (s : State) (h : Nat) (c : Port) : (setPort s h c).fabric = s.fabric := rfl
@[simp] theorem host_setPort (s : State) (h : Nat) (c : Port) : (setPort s h c).host = s.host := rfl
@[simp] theorem lasting_setPort (s : State) (h : Nat) (c : Port) : (setPort s h c).lasting = s.lasting := rfl
@[simp] theorem lastingRows_setPort (s : State) (h : Nat) (c : Port) : (setPort s h c).lastingRows = s.lastingRows := rfl
@[simp] theorem now_setDie (s : State) (h : Nat) (c : Die) : (setDie s h c).now = s.now := rfl
@[simp] theorem tick_setDie (s : State) (h : Nat) (c : Die) : (setDie s h c).tick = s.tick := rfl
@[simp] theorem turn_setDie (s : State) (h : Nat) (c : Die) : (setDie s h c).turn = s.turn := rfl
@[simp] theorem cur_setDie (s : State) (h : Nat) (c : Die) : (setDie s h c).cur = s.cur := rfl
@[simp] theorem bundle_setDie (s : State) (h : Nat) (c : Die) : (setDie s h c).bundle = s.bundle := rfl
@[simp] theorem arrivals_setDie (s : State) (h : Nat) (c : Die) : (setDie s h c).arrivals = s.arrivals := rfl
@[simp] theorem harts_setDie (s : State) (h : Nat) (c : Die) : (setDie s h c).harts = s.harts := rfl
@[simp] theorem cores_setDie (s : State) (h : Nat) (c : Die) : (setDie s h c).cores = s.cores := rfl
@[simp] theorem drones_setDie (s : State) (h : Nat) (c : Die) : (setDie s h c).drones = s.drones := rfl
@[simp] theorem ports_setDie (s : State) (h : Nat) (c : Die) : (setDie s h c).ports = s.ports := rfl
@[simp] theorem acks_setDie (s : State) (h : Nat) (c : Die) : (setDie s h c).acks = s.acks := rfl
@[simp] theorem mem_setDie (s : State) (h : Nat) (c : Die) : (setDie s h c).mem = s.mem := rfl
@[simp] theorem pages_setDie (s : State) (h : Nat) (c : Die) : (setDie s h c).pages = s.pages := rfl
@[simp] theorem badLines_setDie (s : State) (h : Nat) (c : Die) : (setDie s h c).badLines = s.badLines := rfl
@[simp] theorem rowTests_setDie (s : State) (h : Nat) (c : Die) : (setDie s h c).rowTests = s.rowTests := rfl
@[simp] theorem rowCorrected_setDie (s : State) (h : Nat) (c : Die) : (setDie s h c).rowCorrected = s.rowCorrected := rfl
@[simp] theorem areaTests_setDie (s : State) (h : Nat) (c : Die) : (setDie s h c).areaTests = s.areaTests := rfl
@[simp] theorem launches_setDie (s : State) (h : Nat) (c : Die) : (setDie s h c).launches = s.launches := rfl
@[simp] theorem regions_setDie (s : State) (h : Nat) (c : Die) : (setDie s h c).regions = s.regions := rfl
@[simp] theorem records_setDie (s : State) (h : Nat) (c : Die) : (setDie s h c).records = s.records := rfl
@[simp] theorem badRecords_setDie (s : State) (h : Nat) (c : Die) : (setDie s h c).badRecords = s.badRecords := rfl
@[simp] theorem deadRecords_setDie (s : State) (h : Nat) (c : Die) : (setDie s h c).deadRecords = s.deadRecords := rfl
@[simp] theorem promos_setDie (s : State) (h : Nat) (c : Die) : (setDie s h c).promos = s.promos := rfl
@[simp] theorem freeFrames_setDie (s : State) (h : Nat) (c : Die) : (setDie s h c).freeFrames = s.freeFrames := rfl
@[simp] theorem fabric_setDie (s : State) (h : Nat) (c : Die) : (setDie s h c).fabric = s.fabric := rfl
@[simp] theorem host_setDie (s : State) (h : Nat) (c : Die) : (setDie s h c).host = s.host := rfl
@[simp] theorem lasting_setDie (s : State) (h : Nat) (c : Die) : (setDie s h c).lasting = s.lasting := rfl
@[simp] theorem lastingRows_setDie (s : State) (h : Nat) (c : Die) : (setDie s h c).lastingRows = s.lastingRows := rfl
@[simp] theorem now_setLaunch (s : State) (h : Nat) (c : Launch) : (setLaunch s h c).now = s.now := rfl
@[simp] theorem tick_setLaunch (s : State) (h : Nat) (c : Launch) : (setLaunch s h c).tick = s.tick := rfl
@[simp] theorem turn_setLaunch (s : State) (h : Nat) (c : Launch) : (setLaunch s h c).turn = s.turn := rfl
@[simp] theorem cur_setLaunch (s : State) (h : Nat) (c : Launch) : (setLaunch s h c).cur = s.cur := rfl
@[simp] theorem bundle_setLaunch (s : State) (h : Nat) (c : Launch) : (setLaunch s h c).bundle = s.bundle := rfl
@[simp] theorem arrivals_setLaunch (s : State) (h : Nat) (c : Launch) : (setLaunch s h c).arrivals = s.arrivals := rfl
@[simp] theorem harts_setLaunch (s : State) (h : Nat) (c : Launch) : (setLaunch s h c).harts = s.harts := rfl
@[simp] theorem cores_setLaunch (s : State) (h : Nat) (c : Launch) : (setLaunch s h c).cores = s.cores := rfl
@[simp] theorem drones_setLaunch (s : State) (h : Nat) (c : Launch) : (setLaunch s h c).drones = s.drones := rfl
@[simp] theorem ports_setLaunch (s : State) (h : Nat) (c : Launch) : (setLaunch s h c).ports = s.ports := rfl
@[simp] theorem acks_setLaunch (s : State) (h : Nat) (c : Launch) : (setLaunch s h c).acks = s.acks := rfl
@[simp] theorem mem_setLaunch (s : State) (h : Nat) (c : Launch) : (setLaunch s h c).mem = s.mem := rfl
@[simp] theorem pages_setLaunch (s : State) (h : Nat) (c : Launch) : (setLaunch s h c).pages = s.pages := rfl
@[simp] theorem badLines_setLaunch (s : State) (h : Nat) (c : Launch) : (setLaunch s h c).badLines = s.badLines := rfl
@[simp] theorem rowTests_setLaunch (s : State) (h : Nat) (c : Launch) : (setLaunch s h c).rowTests = s.rowTests := rfl
@[simp] theorem rowCorrected_setLaunch (s : State) (h : Nat) (c : Launch) : (setLaunch s h c).rowCorrected = s.rowCorrected := rfl
@[simp] theorem areaTests_setLaunch (s : State) (h : Nat) (c : Launch) : (setLaunch s h c).areaTests = s.areaTests := rfl
@[simp] theorem dies_setLaunch (s : State) (h : Nat) (c : Launch) : (setLaunch s h c).dies = s.dies := rfl
@[simp] theorem regions_setLaunch (s : State) (h : Nat) (c : Launch) : (setLaunch s h c).regions = s.regions := rfl
@[simp] theorem records_setLaunch (s : State) (h : Nat) (c : Launch) : (setLaunch s h c).records = s.records := rfl
@[simp] theorem badRecords_setLaunch (s : State) (h : Nat) (c : Launch) : (setLaunch s h c).badRecords = s.badRecords := rfl
@[simp] theorem deadRecords_setLaunch (s : State) (h : Nat) (c : Launch) : (setLaunch s h c).deadRecords = s.deadRecords := rfl
@[simp] theorem promos_setLaunch (s : State) (h : Nat) (c : Launch) : (setLaunch s h c).promos = s.promos := rfl
@[simp] theorem freeFrames_setLaunch (s : State) (h : Nat) (c : Launch) : (setLaunch s h c).freeFrames = s.freeFrames := rfl
@[simp] theorem fabric_setLaunch (s : State) (h : Nat) (c : Launch) : (setLaunch s h c).fabric = s.fabric := rfl
@[simp] theorem host_setLaunch (s : State) (h : Nat) (c : Launch) : (setLaunch s h c).host = s.host := rfl
@[simp] theorem lasting_setLaunch (s : State) (h : Nat) (c : Launch) : (setLaunch s h c).lasting = s.lasting := rfl
@[simp] theorem lastingRows_setLaunch (s : State) (h : Nat) (c : Launch) : (setLaunch s h c).lastingRows = s.lastingRows := rfl
@[simp] theorem now_modHart (s : State) (h : Nat) (c : Ctx → Ctx) : (modHart s h c).now = s.now := rfl
@[simp] theorem tick_modHart (s : State) (h : Nat) (c : Ctx → Ctx) : (modHart s h c).tick = s.tick := rfl
@[simp] theorem turn_modHart (s : State) (h : Nat) (c : Ctx → Ctx) : (modHart s h c).turn = s.turn := rfl
@[simp] theorem cur_modHart (s : State) (h : Nat) (c : Ctx → Ctx) : (modHart s h c).cur = s.cur := rfl
@[simp] theorem bundle_modHart (s : State) (h : Nat) (c : Ctx → Ctx) : (modHart s h c).bundle = s.bundle := rfl
@[simp] theorem arrivals_modHart (s : State) (h : Nat) (c : Ctx → Ctx) : (modHart s h c).arrivals = s.arrivals := rfl
@[simp] theorem cores_modHart (s : State) (h : Nat) (c : Ctx → Ctx) : (modHart s h c).cores = s.cores := rfl
@[simp] theorem drones_modHart (s : State) (h : Nat) (c : Ctx → Ctx) : (modHart s h c).drones = s.drones := rfl
@[simp] theorem ports_modHart (s : State) (h : Nat) (c : Ctx → Ctx) : (modHart s h c).ports = s.ports := rfl
@[simp] theorem acks_modHart (s : State) (h : Nat) (c : Ctx → Ctx) : (modHart s h c).acks = s.acks := rfl
@[simp] theorem mem_modHart (s : State) (h : Nat) (c : Ctx → Ctx) : (modHart s h c).mem = s.mem := rfl
@[simp] theorem pages_modHart (s : State) (h : Nat) (c : Ctx → Ctx) : (modHart s h c).pages = s.pages := rfl
@[simp] theorem badLines_modHart (s : State) (h : Nat) (c : Ctx → Ctx) : (modHart s h c).badLines = s.badLines := rfl
@[simp] theorem rowTests_modHart (s : State) (h : Nat) (c : Ctx → Ctx) : (modHart s h c).rowTests = s.rowTests := rfl
@[simp] theorem rowCorrected_modHart (s : State) (h : Nat) (c : Ctx → Ctx) : (modHart s h c).rowCorrected = s.rowCorrected := rfl
@[simp] theorem areaTests_modHart (s : State) (h : Nat) (c : Ctx → Ctx) : (modHart s h c).areaTests = s.areaTests := rfl
@[simp] theorem launches_modHart (s : State) (h : Nat) (c : Ctx → Ctx) : (modHart s h c).launches = s.launches := rfl
@[simp] theorem dies_modHart (s : State) (h : Nat) (c : Ctx → Ctx) : (modHart s h c).dies = s.dies := rfl
@[simp] theorem regions_modHart (s : State) (h : Nat) (c : Ctx → Ctx) : (modHart s h c).regions = s.regions := rfl
@[simp] theorem records_modHart (s : State) (h : Nat) (c : Ctx → Ctx) : (modHart s h c).records = s.records := rfl
@[simp] theorem badRecords_modHart (s : State) (h : Nat) (c : Ctx → Ctx) : (modHart s h c).badRecords = s.badRecords := rfl
@[simp] theorem deadRecords_modHart (s : State) (h : Nat) (c : Ctx → Ctx) : (modHart s h c).deadRecords = s.deadRecords := rfl
@[simp] theorem promos_modHart (s : State) (h : Nat) (c : Ctx → Ctx) : (modHart s h c).promos = s.promos := rfl
@[simp] theorem freeFrames_modHart (s : State) (h : Nat) (c : Ctx → Ctx) : (modHart s h c).freeFrames = s.freeFrames := rfl
@[simp] theorem fabric_modHart (s : State) (h : Nat) (c : Ctx → Ctx) : (modHart s h c).fabric = s.fabric := rfl
@[simp] theorem host_modHart (s : State) (h : Nat) (c : Ctx → Ctx) : (modHart s h c).host = s.host := rfl
@[simp] theorem lasting_modHart (s : State) (h : Nat) (c : Ctx → Ctx) : (modHart s h c).lasting = s.lasting := rfl
@[simp] theorem lastingRows_modHart (s : State) (h : Nat) (c : Ctx → Ctx) : (modHart s h c).lastingRows = s.lastingRows := rfl
@[simp] theorem now_modCore (s : State) (h : Nat) (c : Core → Core) : (modCore s h c).now = s.now := rfl
@[simp] theorem tick_modCore (s : State) (h : Nat) (c : Core → Core) : (modCore s h c).tick = s.tick := rfl
@[simp] theorem turn_modCore (s : State) (h : Nat) (c : Core → Core) : (modCore s h c).turn = s.turn := rfl
@[simp] theorem cur_modCore (s : State) (h : Nat) (c : Core → Core) : (modCore s h c).cur = s.cur := rfl
@[simp] theorem bundle_modCore (s : State) (h : Nat) (c : Core → Core) : (modCore s h c).bundle = s.bundle := rfl
@[simp] theorem arrivals_modCore (s : State) (h : Nat) (c : Core → Core) : (modCore s h c).arrivals = s.arrivals := rfl
@[simp] theorem harts_modCore (s : State) (h : Nat) (c : Core → Core) : (modCore s h c).harts = s.harts := rfl
@[simp] theorem drones_modCore (s : State) (h : Nat) (c : Core → Core) : (modCore s h c).drones = s.drones := rfl
@[simp] theorem ports_modCore (s : State) (h : Nat) (c : Core → Core) : (modCore s h c).ports = s.ports := rfl
@[simp] theorem acks_modCore (s : State) (h : Nat) (c : Core → Core) : (modCore s h c).acks = s.acks := rfl
@[simp] theorem mem_modCore (s : State) (h : Nat) (c : Core → Core) : (modCore s h c).mem = s.mem := rfl
@[simp] theorem pages_modCore (s : State) (h : Nat) (c : Core → Core) : (modCore s h c).pages = s.pages := rfl
@[simp] theorem badLines_modCore (s : State) (h : Nat) (c : Core → Core) : (modCore s h c).badLines = s.badLines := rfl
@[simp] theorem rowTests_modCore (s : State) (h : Nat) (c : Core → Core) : (modCore s h c).rowTests = s.rowTests := rfl
@[simp] theorem rowCorrected_modCore (s : State) (h : Nat) (c : Core → Core) : (modCore s h c).rowCorrected = s.rowCorrected := rfl
@[simp] theorem areaTests_modCore (s : State) (h : Nat) (c : Core → Core) : (modCore s h c).areaTests = s.areaTests := rfl
@[simp] theorem launches_modCore (s : State) (h : Nat) (c : Core → Core) : (modCore s h c).launches = s.launches := rfl
@[simp] theorem dies_modCore (s : State) (h : Nat) (c : Core → Core) : (modCore s h c).dies = s.dies := rfl
@[simp] theorem regions_modCore (s : State) (h : Nat) (c : Core → Core) : (modCore s h c).regions = s.regions := rfl
@[simp] theorem records_modCore (s : State) (h : Nat) (c : Core → Core) : (modCore s h c).records = s.records := rfl
@[simp] theorem badRecords_modCore (s : State) (h : Nat) (c : Core → Core) : (modCore s h c).badRecords = s.badRecords := rfl
@[simp] theorem deadRecords_modCore (s : State) (h : Nat) (c : Core → Core) : (modCore s h c).deadRecords = s.deadRecords := rfl
@[simp] theorem promos_modCore (s : State) (h : Nat) (c : Core → Core) : (modCore s h c).promos = s.promos := rfl
@[simp] theorem freeFrames_modCore (s : State) (h : Nat) (c : Core → Core) : (modCore s h c).freeFrames = s.freeFrames := rfl
@[simp] theorem fabric_modCore (s : State) (h : Nat) (c : Core → Core) : (modCore s h c).fabric = s.fabric := rfl
@[simp] theorem host_modCore (s : State) (h : Nat) (c : Core → Core) : (modCore s h c).host = s.host := rfl
@[simp] theorem lasting_modCore (s : State) (h : Nat) (c : Core → Core) : (modCore s h c).lasting = s.lasting := rfl
@[simp] theorem lastingRows_modCore (s : State) (h : Nat) (c : Core → Core) : (modCore s h c).lastingRows = s.lastingRows := rfl
@[simp] theorem now_modDrone (s : State) (h : Nat) (c : Drone → Drone) : (modDrone s h c).now = s.now := rfl
@[simp] theorem tick_modDrone (s : State) (h : Nat) (c : Drone → Drone) : (modDrone s h c).tick = s.tick := rfl
@[simp] theorem turn_modDrone (s : State) (h : Nat) (c : Drone → Drone) : (modDrone s h c).turn = s.turn := rfl
@[simp] theorem cur_modDrone (s : State) (h : Nat) (c : Drone → Drone) : (modDrone s h c).cur = s.cur := rfl
@[simp] theorem bundle_modDrone (s : State) (h : Nat) (c : Drone → Drone) : (modDrone s h c).bundle = s.bundle := rfl
@[simp] theorem arrivals_modDrone (s : State) (h : Nat) (c : Drone → Drone) : (modDrone s h c).arrivals = s.arrivals := rfl
@[simp] theorem harts_modDrone (s : State) (h : Nat) (c : Drone → Drone) : (modDrone s h c).harts = s.harts := rfl
@[simp] theorem cores_modDrone (s : State) (h : Nat) (c : Drone → Drone) : (modDrone s h c).cores = s.cores := rfl
@[simp] theorem ports_modDrone (s : State) (h : Nat) (c : Drone → Drone) : (modDrone s h c).ports = s.ports := rfl
@[simp] theorem acks_modDrone (s : State) (h : Nat) (c : Drone → Drone) : (modDrone s h c).acks = s.acks := rfl
@[simp] theorem mem_modDrone (s : State) (h : Nat) (c : Drone → Drone) : (modDrone s h c).mem = s.mem := rfl
@[simp] theorem pages_modDrone (s : State) (h : Nat) (c : Drone → Drone) : (modDrone s h c).pages = s.pages := rfl
@[simp] theorem badLines_modDrone (s : State) (h : Nat) (c : Drone → Drone) : (modDrone s h c).badLines = s.badLines := rfl
@[simp] theorem rowTests_modDrone (s : State) (h : Nat) (c : Drone → Drone) : (modDrone s h c).rowTests = s.rowTests := rfl
@[simp] theorem rowCorrected_modDrone (s : State) (h : Nat) (c : Drone → Drone) : (modDrone s h c).rowCorrected = s.rowCorrected := rfl
@[simp] theorem areaTests_modDrone (s : State) (h : Nat) (c : Drone → Drone) : (modDrone s h c).areaTests = s.areaTests := rfl
@[simp] theorem launches_modDrone (s : State) (h : Nat) (c : Drone → Drone) : (modDrone s h c).launches = s.launches := rfl
@[simp] theorem dies_modDrone (s : State) (h : Nat) (c : Drone → Drone) : (modDrone s h c).dies = s.dies := rfl
@[simp] theorem regions_modDrone (s : State) (h : Nat) (c : Drone → Drone) : (modDrone s h c).regions = s.regions := rfl
@[simp] theorem records_modDrone (s : State) (h : Nat) (c : Drone → Drone) : (modDrone s h c).records = s.records := rfl
@[simp] theorem badRecords_modDrone (s : State) (h : Nat) (c : Drone → Drone) : (modDrone s h c).badRecords = s.badRecords := rfl
@[simp] theorem deadRecords_modDrone (s : State) (h : Nat) (c : Drone → Drone) : (modDrone s h c).deadRecords = s.deadRecords := rfl
@[simp] theorem promos_modDrone (s : State) (h : Nat) (c : Drone → Drone) : (modDrone s h c).promos = s.promos := rfl
@[simp] theorem freeFrames_modDrone (s : State) (h : Nat) (c : Drone → Drone) : (modDrone s h c).freeFrames = s.freeFrames := rfl
@[simp] theorem fabric_modDrone (s : State) (h : Nat) (c : Drone → Drone) : (modDrone s h c).fabric = s.fabric := rfl
@[simp] theorem host_modDrone (s : State) (h : Nat) (c : Drone → Drone) : (modDrone s h c).host = s.host := rfl
@[simp] theorem lasting_modDrone (s : State) (h : Nat) (c : Drone → Drone) : (modDrone s h c).lasting = s.lasting := rfl
@[simp] theorem lastingRows_modDrone (s : State) (h : Nat) (c : Drone → Drone) : (modDrone s h c).lastingRows = s.lastingRows := rfl
@[simp] theorem now_modLaunch (s : State) (h : Nat) (c : Launch → Launch) : (modLaunch s h c).now = s.now := rfl
@[simp] theorem tick_modLaunch (s : State) (h : Nat) (c : Launch → Launch) : (modLaunch s h c).tick = s.tick := rfl
@[simp] theorem turn_modLaunch (s : State) (h : Nat) (c : Launch → Launch) : (modLaunch s h c).turn = s.turn := rfl
@[simp] theorem cur_modLaunch (s : State) (h : Nat) (c : Launch → Launch) : (modLaunch s h c).cur = s.cur := rfl
@[simp] theorem bundle_modLaunch (s : State) (h : Nat) (c : Launch → Launch) : (modLaunch s h c).bundle = s.bundle := rfl
@[simp] theorem arrivals_modLaunch (s : State) (h : Nat) (c : Launch → Launch) : (modLaunch s h c).arrivals = s.arrivals := rfl
@[simp] theorem harts_modLaunch (s : State) (h : Nat) (c : Launch → Launch) : (modLaunch s h c).harts = s.harts := rfl
@[simp] theorem cores_modLaunch (s : State) (h : Nat) (c : Launch → Launch) : (modLaunch s h c).cores = s.cores := rfl
@[simp] theorem drones_modLaunch (s : State) (h : Nat) (c : Launch → Launch) : (modLaunch s h c).drones = s.drones := rfl
@[simp] theorem ports_modLaunch (s : State) (h : Nat) (c : Launch → Launch) : (modLaunch s h c).ports = s.ports := rfl
@[simp] theorem acks_modLaunch (s : State) (h : Nat) (c : Launch → Launch) : (modLaunch s h c).acks = s.acks := rfl
@[simp] theorem mem_modLaunch (s : State) (h : Nat) (c : Launch → Launch) : (modLaunch s h c).mem = s.mem := rfl
@[simp] theorem pages_modLaunch (s : State) (h : Nat) (c : Launch → Launch) : (modLaunch s h c).pages = s.pages := rfl
@[simp] theorem badLines_modLaunch (s : State) (h : Nat) (c : Launch → Launch) : (modLaunch s h c).badLines = s.badLines := rfl
@[simp] theorem rowTests_modLaunch (s : State) (h : Nat) (c : Launch → Launch) : (modLaunch s h c).rowTests = s.rowTests := rfl
@[simp] theorem rowCorrected_modLaunch (s : State) (h : Nat) (c : Launch → Launch) : (modLaunch s h c).rowCorrected = s.rowCorrected := rfl
@[simp] theorem areaTests_modLaunch (s : State) (h : Nat) (c : Launch → Launch) : (modLaunch s h c).areaTests = s.areaTests := rfl
@[simp] theorem dies_modLaunch (s : State) (h : Nat) (c : Launch → Launch) : (modLaunch s h c).dies = s.dies := rfl
@[simp] theorem regions_modLaunch (s : State) (h : Nat) (c : Launch → Launch) : (modLaunch s h c).regions = s.regions := rfl
@[simp] theorem records_modLaunch (s : State) (h : Nat) (c : Launch → Launch) : (modLaunch s h c).records = s.records := rfl
@[simp] theorem badRecords_modLaunch (s : State) (h : Nat) (c : Launch → Launch) : (modLaunch s h c).badRecords = s.badRecords := rfl
@[simp] theorem deadRecords_modLaunch (s : State) (h : Nat) (c : Launch → Launch) : (modLaunch s h c).deadRecords = s.deadRecords := rfl
@[simp] theorem promos_modLaunch (s : State) (h : Nat) (c : Launch → Launch) : (modLaunch s h c).promos = s.promos := rfl
@[simp] theorem freeFrames_modLaunch (s : State) (h : Nat) (c : Launch → Launch) : (modLaunch s h c).freeFrames = s.freeFrames := rfl
@[simp] theorem fabric_modLaunch (s : State) (h : Nat) (c : Launch → Launch) : (modLaunch s h c).fabric = s.fabric := rfl
@[simp] theorem host_modLaunch (s : State) (h : Nat) (c : Launch → Launch) : (modLaunch s h c).host = s.host := rfl
@[simp] theorem lasting_modLaunch (s : State) (h : Nat) (c : Launch → Launch) : (modLaunch s h c).lasting = s.lasting := rfl
@[simp] theorem lastingRows_modLaunch (s : State) (h : Nat) (c : Launch → Launch) : (modLaunch s h c).lastingRows = s.lastingRows := rfl
@[simp] theorem now_setMe (s : State) (c : Ctx) : (setMe s c).now = s.now := rfl
@[simp] theorem tick_setMe (s : State) (c : Ctx) : (setMe s c).tick = s.tick := rfl
@[simp] theorem turn_setMe (s : State) (c : Ctx) : (setMe s c).turn = s.turn := rfl
@[simp] theorem cur_setMe (s : State) (c : Ctx) : (setMe s c).cur = s.cur := rfl
@[simp] theorem bundle_setMe (s : State) (c : Ctx) : (setMe s c).bundle = s.bundle := rfl
@[simp] theorem arrivals_setMe (s : State) (c : Ctx) : (setMe s c).arrivals = s.arrivals := rfl
@[simp] theorem cores_setMe (s : State) (c : Ctx) : (setMe s c).cores = s.cores := rfl
@[simp] theorem drones_setMe (s : State) (c : Ctx) : (setMe s c).drones = s.drones := rfl
@[simp] theorem ports_setMe (s : State) (c : Ctx) : (setMe s c).ports = s.ports := rfl
@[simp] theorem acks_setMe (s : State) (c : Ctx) : (setMe s c).acks = s.acks := rfl
@[simp] theorem mem_setMe (s : State) (c : Ctx) : (setMe s c).mem = s.mem := rfl
@[simp] theorem pages_setMe (s : State) (c : Ctx) : (setMe s c).pages = s.pages := rfl
@[simp] theorem badLines_setMe (s : State) (c : Ctx) : (setMe s c).badLines = s.badLines := rfl
@[simp] theorem rowTests_setMe (s : State) (c : Ctx) : (setMe s c).rowTests = s.rowTests := rfl
@[simp] theorem rowCorrected_setMe (s : State) (c : Ctx) : (setMe s c).rowCorrected = s.rowCorrected := rfl
@[simp] theorem areaTests_setMe (s : State) (c : Ctx) : (setMe s c).areaTests = s.areaTests := rfl
@[simp] theorem launches_setMe (s : State) (c : Ctx) : (setMe s c).launches = s.launches := rfl
@[simp] theorem dies_setMe (s : State) (c : Ctx) : (setMe s c).dies = s.dies := rfl
@[simp] theorem regions_setMe (s : State) (c : Ctx) : (setMe s c).regions = s.regions := rfl
@[simp] theorem records_setMe (s : State) (c : Ctx) : (setMe s c).records = s.records := rfl
@[simp] theorem badRecords_setMe (s : State) (c : Ctx) : (setMe s c).badRecords = s.badRecords := rfl
@[simp] theorem deadRecords_setMe (s : State) (c : Ctx) : (setMe s c).deadRecords = s.deadRecords := rfl
@[simp] theorem promos_setMe (s : State) (c : Ctx) : (setMe s c).promos = s.promos := rfl
@[simp] theorem freeFrames_setMe (s : State) (c : Ctx) : (setMe s c).freeFrames = s.freeFrames := rfl
@[simp] theorem fabric_setMe (s : State) (c : Ctx) : (setMe s c).fabric = s.fabric := rfl
@[simp] theorem host_setMe (s : State) (c : Ctx) : (setMe s c).host = s.host := rfl
@[simp] theorem lasting_setMe (s : State) (c : Ctx) : (setMe s c).lasting = s.lasting := rfl
@[simp] theorem lastingRows_setMe (s : State) (c : Ctx) : (setMe s c).lastingRows = s.lastingRows := rfl
@[simp] theorem now_modMe (s : State) (c : Ctx → Ctx) : (modMe s c).now = s.now := rfl
@[simp] theorem tick_modMe (s : State) (c : Ctx → Ctx) : (modMe s c).tick = s.tick := rfl
@[simp] theorem turn_modMe (s : State) (c : Ctx → Ctx) : (modMe s c).turn = s.turn := rfl
@[simp] theorem cur_modMe (s : State) (c : Ctx → Ctx) : (modMe s c).cur = s.cur := rfl
@[simp] theorem bundle_modMe (s : State) (c : Ctx → Ctx) : (modMe s c).bundle = s.bundle := rfl
@[simp] theorem arrivals_modMe (s : State) (c : Ctx → Ctx) : (modMe s c).arrivals = s.arrivals := rfl
@[simp] theorem cores_modMe (s : State) (c : Ctx → Ctx) : (modMe s c).cores = s.cores := rfl
@[simp] theorem drones_modMe (s : State) (c : Ctx → Ctx) : (modMe s c).drones = s.drones := rfl
@[simp] theorem ports_modMe (s : State) (c : Ctx → Ctx) : (modMe s c).ports = s.ports := rfl
@[simp] theorem acks_modMe (s : State) (c : Ctx → Ctx) : (modMe s c).acks = s.acks := rfl
@[simp] theorem mem_modMe (s : State) (c : Ctx → Ctx) : (modMe s c).mem = s.mem := rfl
@[simp] theorem pages_modMe (s : State) (c : Ctx → Ctx) : (modMe s c).pages = s.pages := rfl
@[simp] theorem badLines_modMe (s : State) (c : Ctx → Ctx) : (modMe s c).badLines = s.badLines := rfl
@[simp] theorem rowTests_modMe (s : State) (c : Ctx → Ctx) : (modMe s c).rowTests = s.rowTests := rfl
@[simp] theorem rowCorrected_modMe (s : State) (c : Ctx → Ctx) : (modMe s c).rowCorrected = s.rowCorrected := rfl
@[simp] theorem areaTests_modMe (s : State) (c : Ctx → Ctx) : (modMe s c).areaTests = s.areaTests := rfl
@[simp] theorem launches_modMe (s : State) (c : Ctx → Ctx) : (modMe s c).launches = s.launches := rfl
@[simp] theorem dies_modMe (s : State) (c : Ctx → Ctx) : (modMe s c).dies = s.dies := rfl
@[simp] theorem regions_modMe (s : State) (c : Ctx → Ctx) : (modMe s c).regions = s.regions := rfl
@[simp] theorem records_modMe (s : State) (c : Ctx → Ctx) : (modMe s c).records = s.records := rfl
@[simp] theorem badRecords_modMe (s : State) (c : Ctx → Ctx) : (modMe s c).badRecords = s.badRecords := rfl
@[simp] theorem deadRecords_modMe (s : State) (c : Ctx → Ctx) : (modMe s c).deadRecords = s.deadRecords := rfl
@[simp] theorem promos_modMe (s : State) (c : Ctx → Ctx) : (modMe s c).promos = s.promos := rfl
@[simp] theorem freeFrames_modMe (s : State) (c : Ctx → Ctx) : (modMe s c).freeFrames = s.freeFrames := rfl
@[simp] theorem fabric_modMe (s : State) (c : Ctx → Ctx) : (modMe s c).fabric = s.fabric := rfl
@[simp] theorem host_modMe (s : State) (c : Ctx → Ctx) : (modMe s c).host = s.host := rfl
@[simp] theorem lasting_modMe (s : State) (c : Ctx → Ctx) : (modMe s c).lasting = s.lasting := rfl
@[simp] theorem lastingRows_modMe (s : State) (c : Ctx → Ctx) : (modMe s c).lastingRows = s.lastingRows := rfl
@[simp] theorem now_modMyCore (s : State) (c : Core → Core) : (modMyCore s c).now = s.now := rfl
@[simp] theorem tick_modMyCore (s : State) (c : Core → Core) : (modMyCore s c).tick = s.tick := rfl
@[simp] theorem turn_modMyCore (s : State) (c : Core → Core) : (modMyCore s c).turn = s.turn := rfl
@[simp] theorem cur_modMyCore (s : State) (c : Core → Core) : (modMyCore s c).cur = s.cur := rfl
@[simp] theorem bundle_modMyCore (s : State) (c : Core → Core) : (modMyCore s c).bundle = s.bundle := rfl
@[simp] theorem arrivals_modMyCore (s : State) (c : Core → Core) : (modMyCore s c).arrivals = s.arrivals := rfl
@[simp] theorem harts_modMyCore (s : State) (c : Core → Core) : (modMyCore s c).harts = s.harts := rfl
@[simp] theorem drones_modMyCore (s : State) (c : Core → Core) : (modMyCore s c).drones = s.drones := rfl
@[simp] theorem ports_modMyCore (s : State) (c : Core → Core) : (modMyCore s c).ports = s.ports := rfl
@[simp] theorem acks_modMyCore (s : State) (c : Core → Core) : (modMyCore s c).acks = s.acks := rfl
@[simp] theorem mem_modMyCore (s : State) (c : Core → Core) : (modMyCore s c).mem = s.mem := rfl
@[simp] theorem pages_modMyCore (s : State) (c : Core → Core) : (modMyCore s c).pages = s.pages := rfl
@[simp] theorem badLines_modMyCore (s : State) (c : Core → Core) : (modMyCore s c).badLines = s.badLines := rfl
@[simp] theorem rowTests_modMyCore (s : State) (c : Core → Core) : (modMyCore s c).rowTests = s.rowTests := rfl
@[simp] theorem rowCorrected_modMyCore (s : State) (c : Core → Core) : (modMyCore s c).rowCorrected = s.rowCorrected := rfl
@[simp] theorem areaTests_modMyCore (s : State) (c : Core → Core) : (modMyCore s c).areaTests = s.areaTests := rfl
@[simp] theorem launches_modMyCore (s : State) (c : Core → Core) : (modMyCore s c).launches = s.launches := rfl
@[simp] theorem dies_modMyCore (s : State) (c : Core → Core) : (modMyCore s c).dies = s.dies := rfl
@[simp] theorem regions_modMyCore (s : State) (c : Core → Core) : (modMyCore s c).regions = s.regions := rfl
@[simp] theorem records_modMyCore (s : State) (c : Core → Core) : (modMyCore s c).records = s.records := rfl
@[simp] theorem badRecords_modMyCore (s : State) (c : Core → Core) : (modMyCore s c).badRecords = s.badRecords := rfl
@[simp] theorem deadRecords_modMyCore (s : State) (c : Core → Core) : (modMyCore s c).deadRecords = s.deadRecords := rfl
@[simp] theorem promos_modMyCore (s : State) (c : Core → Core) : (modMyCore s c).promos = s.promos := rfl
@[simp] theorem freeFrames_modMyCore (s : State) (c : Core → Core) : (modMyCore s c).freeFrames = s.freeFrames := rfl
@[simp] theorem fabric_modMyCore (s : State) (c : Core → Core) : (modMyCore s c).fabric = s.fabric := rfl
@[simp] theorem host_modMyCore (s : State) (c : Core → Core) : (modMyCore s c).host = s.host := rfl
@[simp] theorem lasting_modMyCore (s : State) (c : Core → Core) : (modMyCore s c).lasting = s.lasting := rfl
@[simp] theorem lastingRows_modMyCore (s : State) (c : Core → Core) : (modMyCore s c).lastingRows = s.lastingRows := rfl
@[simp] theorem now_land (s : State) (d : Landing) (k : Nat) (g : BitVec 6) : (land s d k g).now = s.now := rfl
@[simp] theorem tick_land (s : State) (d : Landing) (k : Nat) (g : BitVec 6) : (land s d k g).tick = s.tick := rfl
@[simp] theorem turn_land (s : State) (d : Landing) (k : Nat) (g : BitVec 6) : (land s d k g).turn = s.turn := rfl
@[simp] theorem cur_land (s : State) (d : Landing) (k : Nat) (g : BitVec 6) : (land s d k g).cur = s.cur := rfl
@[simp] theorem bundle_land (s : State) (d : Landing) (k : Nat) (g : BitVec 6) : (land s d k g).bundle = s.bundle := rfl
@[simp] theorem arrivals_land (s : State) (d : Landing) (k : Nat) (g : BitVec 6) : (land s d k g).arrivals = s.arrivals := rfl
@[simp] theorem cores_land (s : State) (d : Landing) (k : Nat) (g : BitVec 6) : (land s d k g).cores = s.cores := rfl
@[simp] theorem drones_land (s : State) (d : Landing) (k : Nat) (g : BitVec 6) : (land s d k g).drones = s.drones := rfl
@[simp] theorem ports_land (s : State) (d : Landing) (k : Nat) (g : BitVec 6) : (land s d k g).ports = s.ports := rfl
@[simp] theorem acks_land (s : State) (d : Landing) (k : Nat) (g : BitVec 6) : (land s d k g).acks = s.acks := rfl
@[simp] theorem mem_land (s : State) (d : Landing) (k : Nat) (g : BitVec 6) : (land s d k g).mem = s.mem := rfl
@[simp] theorem pages_land (s : State) (d : Landing) (k : Nat) (g : BitVec 6) : (land s d k g).pages = s.pages := rfl
@[simp] theorem badLines_land (s : State) (d : Landing) (k : Nat) (g : BitVec 6) : (land s d k g).badLines = s.badLines := rfl
@[simp] theorem rowTests_land (s : State) (d : Landing) (k : Nat) (g : BitVec 6) : (land s d k g).rowTests = s.rowTests := rfl
@[simp] theorem rowCorrected_land (s : State) (d : Landing) (k : Nat) (g : BitVec 6) : (land s d k g).rowCorrected = s.rowCorrected := rfl
@[simp] theorem areaTests_land (s : State) (d : Landing) (k : Nat) (g : BitVec 6) : (land s d k g).areaTests = s.areaTests := rfl
@[simp] theorem launches_land (s : State) (d : Landing) (k : Nat) (g : BitVec 6) : (land s d k g).launches = s.launches := rfl
@[simp] theorem dies_land (s : State) (d : Landing) (k : Nat) (g : BitVec 6) : (land s d k g).dies = s.dies := rfl
@[simp] theorem regions_land (s : State) (d : Landing) (k : Nat) (g : BitVec 6) : (land s d k g).regions = s.regions := rfl
@[simp] theorem records_land (s : State) (d : Landing) (k : Nat) (g : BitVec 6) : (land s d k g).records = s.records := rfl
@[simp] theorem badRecords_land (s : State) (d : Landing) (k : Nat) (g : BitVec 6) : (land s d k g).badRecords = s.badRecords := rfl
@[simp] theorem deadRecords_land (s : State) (d : Landing) (k : Nat) (g : BitVec 6) : (land s d k g).deadRecords = s.deadRecords := rfl
@[simp] theorem promos_land (s : State) (d : Landing) (k : Nat) (g : BitVec 6) : (land s d k g).promos = s.promos := rfl
@[simp] theorem freeFrames_land (s : State) (d : Landing) (k : Nat) (g : BitVec 6) : (land s d k g).freeFrames = s.freeFrames := rfl
@[simp] theorem fabric_land (s : State) (d : Landing) (k : Nat) (g : BitVec 6) : (land s d k g).fabric = s.fabric := rfl
@[simp] theorem host_land (s : State) (d : Landing) (k : Nat) (g : BitVec 6) : (land s d k g).host = s.host := rfl
@[simp] theorem lasting_land (s : State) (d : Landing) (k : Nat) (g : BitVec 6) : (land s d k g).lasting = s.lasting := rfl
@[simp] theorem lastingRows_land (s : State) (d : Landing) (k : Nat) (g : BitVec 6) : (land s d k g).lastingRows = s.lastingRows := rfl
@[simp] theorem now_landScalar (s : State) (d : SReg) (v : Word) (k : Nat) (g : BitVec 6) : (landScalar s d v k g).now = s.now := rfl
@[simp] theorem tick_landScalar (s : State) (d : SReg) (v : Word) (k : Nat) (g : BitVec 6) : (landScalar s d v k g).tick = s.tick := rfl
@[simp] theorem turn_landScalar (s : State) (d : SReg) (v : Word) (k : Nat) (g : BitVec 6) : (landScalar s d v k g).turn = s.turn := rfl
@[simp] theorem cur_landScalar (s : State) (d : SReg) (v : Word) (k : Nat) (g : BitVec 6) : (landScalar s d v k g).cur = s.cur := rfl
@[simp] theorem bundle_landScalar (s : State) (d : SReg) (v : Word) (k : Nat) (g : BitVec 6) : (landScalar s d v k g).bundle = s.bundle := rfl
@[simp] theorem arrivals_landScalar (s : State) (d : SReg) (v : Word) (k : Nat) (g : BitVec 6) : (landScalar s d v k g).arrivals = s.arrivals := rfl
@[simp] theorem cores_landScalar (s : State) (d : SReg) (v : Word) (k : Nat) (g : BitVec 6) : (landScalar s d v k g).cores = s.cores := rfl
@[simp] theorem drones_landScalar (s : State) (d : SReg) (v : Word) (k : Nat) (g : BitVec 6) : (landScalar s d v k g).drones = s.drones := rfl
@[simp] theorem ports_landScalar (s : State) (d : SReg) (v : Word) (k : Nat) (g : BitVec 6) : (landScalar s d v k g).ports = s.ports := rfl
@[simp] theorem acks_landScalar (s : State) (d : SReg) (v : Word) (k : Nat) (g : BitVec 6) : (landScalar s d v k g).acks = s.acks := rfl
@[simp] theorem mem_landScalar (s : State) (d : SReg) (v : Word) (k : Nat) (g : BitVec 6) : (landScalar s d v k g).mem = s.mem := rfl
@[simp] theorem pages_landScalar (s : State) (d : SReg) (v : Word) (k : Nat) (g : BitVec 6) : (landScalar s d v k g).pages = s.pages := rfl
@[simp] theorem badLines_landScalar (s : State) (d : SReg) (v : Word) (k : Nat) (g : BitVec 6) : (landScalar s d v k g).badLines = s.badLines := rfl
@[simp] theorem rowTests_landScalar (s : State) (d : SReg) (v : Word) (k : Nat) (g : BitVec 6) : (landScalar s d v k g).rowTests = s.rowTests := rfl
@[simp] theorem rowCorrected_landScalar (s : State) (d : SReg) (v : Word) (k : Nat) (g : BitVec 6) : (landScalar s d v k g).rowCorrected = s.rowCorrected := rfl
@[simp] theorem areaTests_landScalar (s : State) (d : SReg) (v : Word) (k : Nat) (g : BitVec 6) : (landScalar s d v k g).areaTests = s.areaTests := rfl
@[simp] theorem launches_landScalar (s : State) (d : SReg) (v : Word) (k : Nat) (g : BitVec 6) : (landScalar s d v k g).launches = s.launches := rfl
@[simp] theorem dies_landScalar (s : State) (d : SReg) (v : Word) (k : Nat) (g : BitVec 6) : (landScalar s d v k g).dies = s.dies := rfl
@[simp] theorem regions_landScalar (s : State) (d : SReg) (v : Word) (k : Nat) (g : BitVec 6) : (landScalar s d v k g).regions = s.regions := rfl
@[simp] theorem records_landScalar (s : State) (d : SReg) (v : Word) (k : Nat) (g : BitVec 6) : (landScalar s d v k g).records = s.records := rfl
@[simp] theorem badRecords_landScalar (s : State) (d : SReg) (v : Word) (k : Nat) (g : BitVec 6) : (landScalar s d v k g).badRecords = s.badRecords := rfl
@[simp] theorem deadRecords_landScalar (s : State) (d : SReg) (v : Word) (k : Nat) (g : BitVec 6) : (landScalar s d v k g).deadRecords = s.deadRecords := rfl
@[simp] theorem promos_landScalar (s : State) (d : SReg) (v : Word) (k : Nat) (g : BitVec 6) : (landScalar s d v k g).promos = s.promos := rfl
@[simp] theorem freeFrames_landScalar (s : State) (d : SReg) (v : Word) (k : Nat) (g : BitVec 6) : (landScalar s d v k g).freeFrames = s.freeFrames := rfl
@[simp] theorem fabric_landScalar (s : State) (d : SReg) (v : Word) (k : Nat) (g : BitVec 6) : (landScalar s d v k g).fabric = s.fabric := rfl
@[simp] theorem host_landScalar (s : State) (d : SReg) (v : Word) (k : Nat) (g : BitVec 6) : (landScalar s d v k g).host = s.host := rfl
@[simp] theorem lasting_landScalar (s : State) (d : SReg) (v : Word) (k : Nat) (g : BitVec 6) : (landScalar s d v k g).lasting = s.lasting := rfl
@[simp] theorem lastingRows_landScalar (s : State) (d : SReg) (v : Word) (k : Nat) (g : BitVec 6) : (landScalar s d v k g).lastingRows = s.lastingRows := rfl
@[simp] theorem now_markDst (s : State) (m : Mark) : (markDst s m).now = s.now := rfl
@[simp] theorem tick_markDst (s : State) (m : Mark) : (markDst s m).tick = s.tick := rfl
@[simp] theorem turn_markDst (s : State) (m : Mark) : (markDst s m).turn = s.turn := rfl
@[simp] theorem cur_markDst (s : State) (m : Mark) : (markDst s m).cur = s.cur := rfl
@[simp] theorem arrivals_markDst (s : State) (m : Mark) : (markDst s m).arrivals = s.arrivals := rfl
@[simp] theorem harts_markDst (s : State) (m : Mark) : (markDst s m).harts = s.harts := rfl
@[simp] theorem cores_markDst (s : State) (m : Mark) : (markDst s m).cores = s.cores := rfl
@[simp] theorem drones_markDst (s : State) (m : Mark) : (markDst s m).drones = s.drones := rfl
@[simp] theorem ports_markDst (s : State) (m : Mark) : (markDst s m).ports = s.ports := rfl
@[simp] theorem acks_markDst (s : State) (m : Mark) : (markDst s m).acks = s.acks := rfl
@[simp] theorem mem_markDst (s : State) (m : Mark) : (markDst s m).mem = s.mem := rfl
@[simp] theorem pages_markDst (s : State) (m : Mark) : (markDst s m).pages = s.pages := rfl
@[simp] theorem badLines_markDst (s : State) (m : Mark) : (markDst s m).badLines = s.badLines := rfl
@[simp] theorem rowTests_markDst (s : State) (m : Mark) : (markDst s m).rowTests = s.rowTests := rfl
@[simp] theorem rowCorrected_markDst (s : State) (m : Mark) : (markDst s m).rowCorrected = s.rowCorrected := rfl
@[simp] theorem areaTests_markDst (s : State) (m : Mark) : (markDst s m).areaTests = s.areaTests := rfl
@[simp] theorem launches_markDst (s : State) (m : Mark) : (markDst s m).launches = s.launches := rfl
@[simp] theorem dies_markDst (s : State) (m : Mark) : (markDst s m).dies = s.dies := rfl
@[simp] theorem regions_markDst (s : State) (m : Mark) : (markDst s m).regions = s.regions := rfl
@[simp] theorem records_markDst (s : State) (m : Mark) : (markDst s m).records = s.records := rfl
@[simp] theorem badRecords_markDst (s : State) (m : Mark) : (markDst s m).badRecords = s.badRecords := rfl
@[simp] theorem deadRecords_markDst (s : State) (m : Mark) : (markDst s m).deadRecords = s.deadRecords := rfl
@[simp] theorem promos_markDst (s : State) (m : Mark) : (markDst s m).promos = s.promos := rfl
@[simp] theorem freeFrames_markDst (s : State) (m : Mark) : (markDst s m).freeFrames = s.freeFrames := rfl
@[simp] theorem fabric_markDst (s : State) (m : Mark) : (markDst s m).fabric = s.fabric := rfl
@[simp] theorem host_markDst (s : State) (m : Mark) : (markDst s m).host = s.host := rfl
@[simp] theorem lasting_markDst (s : State) (m : Mark) : (markDst s m).lasting = s.lasting := rfl
@[simp] theorem lastingRows_markDst (s : State) (m : Mark) : (markDst s m).lastingRows = s.lastingRows := rfl
@[simp] theorem now_takeDraws (s : State) (n : Nat) : (takeDraws s n).now = s.now := by unfold takeDraws; split <;> rfl
@[simp] theorem tick_takeDraws (s : State) (n : Nat) : (takeDraws s n).tick = s.tick := by unfold takeDraws; split <;> rfl
@[simp] theorem turn_takeDraws (s : State) (n : Nat) : (takeDraws s n).turn = s.turn := by unfold takeDraws; split <;> rfl
@[simp] theorem cur_takeDraws (s : State) (n : Nat) : (takeDraws s n).cur = s.cur := by unfold takeDraws; split <;> rfl
@[simp] theorem arrivals_takeDraws (s : State) (n : Nat) : (takeDraws s n).arrivals = s.arrivals := by unfold takeDraws; split <;> rfl
@[simp] theorem harts_takeDraws (s : State) (n : Nat) : (takeDraws s n).harts = s.harts := by unfold takeDraws; split <;> rfl
@[simp] theorem cores_takeDraws (s : State) (n : Nat) : (takeDraws s n).cores = s.cores := by unfold takeDraws; split <;> rfl
@[simp] theorem drones_takeDraws (s : State) (n : Nat) : (takeDraws s n).drones = s.drones := by unfold takeDraws; split <;> rfl
@[simp] theorem ports_takeDraws (s : State) (n : Nat) : (takeDraws s n).ports = s.ports := by unfold takeDraws; split <;> rfl
@[simp] theorem acks_takeDraws (s : State) (n : Nat) : (takeDraws s n).acks = s.acks := by unfold takeDraws; split <;> rfl
@[simp] theorem mem_takeDraws (s : State) (n : Nat) : (takeDraws s n).mem = s.mem := by unfold takeDraws; split <;> rfl
@[simp] theorem pages_takeDraws (s : State) (n : Nat) : (takeDraws s n).pages = s.pages := by unfold takeDraws; split <;> rfl
@[simp] theorem badLines_takeDraws (s : State) (n : Nat) : (takeDraws s n).badLines = s.badLines := by unfold takeDraws; split <;> rfl
@[simp] theorem rowTests_takeDraws (s : State) (n : Nat) : (takeDraws s n).rowTests = s.rowTests := by unfold takeDraws; split <;> rfl
@[simp] theorem rowCorrected_takeDraws (s : State) (n : Nat) : (takeDraws s n).rowCorrected = s.rowCorrected := by unfold takeDraws; split <;> rfl
@[simp] theorem areaTests_takeDraws (s : State) (n : Nat) : (takeDraws s n).areaTests = s.areaTests := by unfold takeDraws; split <;> rfl
@[simp] theorem launches_takeDraws (s : State) (n : Nat) : (takeDraws s n).launches = s.launches := by unfold takeDraws; split <;> rfl
@[simp] theorem dies_takeDraws (s : State) (n : Nat) : (takeDraws s n).dies = s.dies := by unfold takeDraws; split <;> rfl
@[simp] theorem regions_takeDraws (s : State) (n : Nat) : (takeDraws s n).regions = s.regions := by unfold takeDraws; split <;> rfl
@[simp] theorem records_takeDraws (s : State) (n : Nat) : (takeDraws s n).records = s.records := by unfold takeDraws; split <;> rfl
@[simp] theorem badRecords_takeDraws (s : State) (n : Nat) : (takeDraws s n).badRecords = s.badRecords := by unfold takeDraws; split <;> rfl
@[simp] theorem deadRecords_takeDraws (s : State) (n : Nat) : (takeDraws s n).deadRecords = s.deadRecords := by unfold takeDraws; split <;> rfl
@[simp] theorem promos_takeDraws (s : State) (n : Nat) : (takeDraws s n).promos = s.promos := by unfold takeDraws; split <;> rfl
@[simp] theorem freeFrames_takeDraws (s : State) (n : Nat) : (takeDraws s n).freeFrames = s.freeFrames := by unfold takeDraws; split <;> rfl
@[simp] theorem fabric_takeDraws (s : State) (n : Nat) : (takeDraws s n).fabric = s.fabric := by unfold takeDraws; split <;> rfl
@[simp] theorem host_takeDraws (s : State) (n : Nat) : (takeDraws s n).host = s.host := by unfold takeDraws; split <;> rfl
@[simp] theorem lasting_takeDraws (s : State) (n : Nat) : (takeDraws s n).lasting = s.lasting := by unfold takeDraws; split <;> rfl
@[simp] theorem lastingRows_takeDraws (s : State) (n : Nat) : (takeDraws s n).lastingRows = s.lastingRows := by unfold takeDraws; split <;> rfl

/-! ### What the readers see after an update of another table -/
@[simp] theorem core_setHart (s : State) (h : Nat) (c : Ctx) (n0 : Nat) : core (setHart s h c) n0 = core s n0 := rfl
@[simp] theorem drone_setHart (s : State) (h : Nat) (c : Ctx) (n0 : Nat) : drone (setHart s h c) n0 = drone s n0 := rfl
@[simp] theorem port_setHart (s : State) (h : Nat) (c : Ctx) (n0 : Nat) : port (setHart s h c) n0 = port s n0 := rfl
@[simp] theorem die_setHart (s : State) (h : Nat) (c : Ctx) (n0 : Nat) : die (setHart s h c) n0 = die s n0 := rfl
@[simp] theorem launch_setHart (s : State) (h : Nat) (c : Ctx) (n0 : Nat) : launch (setHart s h c) n0 = launch s n0 := rfl
@[simp] theorem hart_setCore (s : State) (h : Nat) (c : Core) (n0 : Nat) : hart (setCore s h c) n0 = hart s n0 := rfl
@[simp] theorem drone_setCore (s : State) (h : Nat) (c : Core) (n0 : Nat) : drone (setCore s h c) n0 = drone s n0 := rfl
@[simp] theorem port_setCore (s : State) (h : Nat) (c : Core) (n0 : Nat) : port (setCore s h c) n0 = port s n0 := rfl
@[simp] theorem die_setCore (s : State) (h : Nat) (c : Core) (n0 : Nat) : die (setCore s h c) n0 = die s n0 := rfl
@[simp] theorem launch_setCore (s : State) (h : Nat) (c : Core) (n0 : Nat) : launch (setCore s h c) n0 = launch s n0 := rfl
@[simp] theorem me_setCore (s : State) (h : Nat) (c : Core) : me (setCore s h c) = me s := rfl
@[simp] theorem hart_setDrone (s : State) (h : Nat) (c : Drone) (n0 : Nat) : hart (setDrone s h c) n0 = hart s n0 := rfl
@[simp] theorem core_setDrone (s : State) (h : Nat) (c : Drone) (n0 : Nat) : core (setDrone s h c) n0 = core s n0 := rfl
@[simp] theorem port_setDrone (s : State) (h : Nat) (c : Drone) (n0 : Nat) : port (setDrone s h c) n0 = port s n0 := rfl
@[simp] theorem die_setDrone (s : State) (h : Nat) (c : Drone) (n0 : Nat) : die (setDrone s h c) n0 = die s n0 := rfl
@[simp] theorem launch_setDrone (s : State) (h : Nat) (c : Drone) (n0 : Nat) : launch (setDrone s h c) n0 = launch s n0 := rfl
@[simp] theorem me_setDrone (s : State) (h : Nat) (c : Drone) : me (setDrone s h c) = me s := rfl
@[simp] theorem hart_setPort (s : State) (h : Nat) (c : Port) (n0 : Nat) : hart (setPort s h c) n0 = hart s n0 := rfl
@[simp] theorem core_setPort (s : State) (h : Nat) (c : Port) (n0 : Nat) : core (setPort s h c) n0 = core s n0 := rfl
@[simp] theorem drone_setPort (s : State) (h : Nat) (c : Port) (n0 : Nat) : drone (setPort s h c) n0 = drone s n0 := rfl
@[simp] theorem die_setPort (s : State) (h : Nat) (c : Port) (n0 : Nat) : die (setPort s h c) n0 = die s n0 := rfl
@[simp] theorem launch_setPort (s : State) (h : Nat) (c : Port) (n0 : Nat) : launch (setPort s h c) n0 = launch s n0 := rfl
@[simp] theorem me_setPort (s : State) (h : Nat) (c : Port) : me (setPort s h c) = me s := rfl
@[simp] theorem hart_setDie (s : State) (h : Nat) (c : Die) (n0 : Nat) : hart (setDie s h c) n0 = hart s n0 := rfl
@[simp] theorem core_setDie (s : State) (h : Nat) (c : Die) (n0 : Nat) : core (setDie s h c) n0 = core s n0 := rfl
@[simp] theorem drone_setDie (s : State) (h : Nat) (c : Die) (n0 : Nat) : drone (setDie s h c) n0 = drone s n0 := rfl
@[simp] theorem port_setDie (s : State) (h : Nat) (c : Die) (n0 : Nat) : port (setDie s h c) n0 = port s n0 := rfl
@[simp] theorem launch_setDie (s : State) (h : Nat) (c : Die) (n0 : Nat) : launch (setDie s h c) n0 = launch s n0 := rfl
@[simp] theorem me_setDie (s : State) (h : Nat) (c : Die) : me (setDie s h c) = me s := rfl
@[simp] theorem hart_setLaunch (s : State) (h : Nat) (c : Launch) (n0 : Nat) : hart (setLaunch s h c) n0 = hart s n0 := rfl
@[simp] theorem core_setLaunch (s : State) (h : Nat) (c : Launch) (n0 : Nat) : core (setLaunch s h c) n0 = core s n0 := rfl
@[simp] theorem drone_setLaunch (s : State) (h : Nat) (c : Launch) (n0 : Nat) : drone (setLaunch s h c) n0 = drone s n0 := rfl
@[simp] theorem port_setLaunch (s : State) (h : Nat) (c : Launch) (n0 : Nat) : port (setLaunch s h c) n0 = port s n0 := rfl
@[simp] theorem die_setLaunch (s : State) (h : Nat) (c : Launch) (n0 : Nat) : die (setLaunch s h c) n0 = die s n0 := rfl
@[simp] theorem me_setLaunch (s : State) (h : Nat) (c : Launch) : me (setLaunch s h c) = me s := rfl
@[simp] theorem core_modHart (s : State) (h : Nat) (c : Ctx → Ctx) (n0 : Nat) : core (modHart s h c) n0 = core s n0 := rfl
@[simp] theorem drone_modHart (s : State) (h : Nat) (c : Ctx → Ctx) (n0 : Nat) : drone (modHart s h c) n0 = drone s n0 := rfl
@[simp] theorem port_modHart (s : State) (h : Nat) (c : Ctx → Ctx) (n0 : Nat) : port (modHart s h c) n0 = port s n0 := rfl
@[simp] theorem die_modHart (s : State) (h : Nat) (c : Ctx → Ctx) (n0 : Nat) : die (modHart s h c) n0 = die s n0 := rfl
@[simp] theorem launch_modHart (s : State) (h : Nat) (c : Ctx → Ctx) (n0 : Nat) : launch (modHart s h c) n0 = launch s n0 := rfl
@[simp] theorem hart_modCore (s : State) (h : Nat) (c : Core → Core) (n0 : Nat) : hart (modCore s h c) n0 = hart s n0 := rfl
@[simp] theorem drone_modCore (s : State) (h : Nat) (c : Core → Core) (n0 : Nat) : drone (modCore s h c) n0 = drone s n0 := rfl
@[simp] theorem port_modCore (s : State) (h : Nat) (c : Core → Core) (n0 : Nat) : port (modCore s h c) n0 = port s n0 := rfl
@[simp] theorem die_modCore (s : State) (h : Nat) (c : Core → Core) (n0 : Nat) : die (modCore s h c) n0 = die s n0 := rfl
@[simp] theorem launch_modCore (s : State) (h : Nat) (c : Core → Core) (n0 : Nat) : launch (modCore s h c) n0 = launch s n0 := rfl
@[simp] theorem me_modCore (s : State) (h : Nat) (c : Core → Core) : me (modCore s h c) = me s := rfl
@[simp] theorem hart_modDrone (s : State) (h : Nat) (c : Drone → Drone) (n0 : Nat) : hart (modDrone s h c) n0 = hart s n0 := rfl
@[simp] theorem core_modDrone (s : State) (h : Nat) (c : Drone → Drone) (n0 : Nat) : core (modDrone s h c) n0 = core s n0 := rfl
@[simp] theorem port_modDrone (s : State) (h : Nat) (c : Drone → Drone) (n0 : Nat) : port (modDrone s h c) n0 = port s n0 := rfl
@[simp] theorem die_modDrone (s : State) (h : Nat) (c : Drone → Drone) (n0 : Nat) : die (modDrone s h c) n0 = die s n0 := rfl
@[simp] theorem launch_modDrone (s : State) (h : Nat) (c : Drone → Drone) (n0 : Nat) : launch (modDrone s h c) n0 = launch s n0 := rfl
@[simp] theorem me_modDrone (s : State) (h : Nat) (c : Drone → Drone) : me (modDrone s h c) = me s := rfl
@[simp] theorem hart_modLaunch (s : State) (h : Nat) (c : Launch → Launch) (n0 : Nat) : hart (modLaunch s h c) n0 = hart s n0 := rfl
@[simp] theorem core_modLaunch (s : State) (h : Nat) (c : Launch → Launch) (n0 : Nat) : core (modLaunch s h c) n0 = core s n0 := rfl
@[simp] theorem drone_modLaunch (s : State) (h : Nat) (c : Launch → Launch) (n0 : Nat) : drone (modLaunch s h c) n0 = drone s n0 := rfl
@[simp] theorem port_modLaunch (s : State) (h : Nat) (c : Launch → Launch) (n0 : Nat) : port (modLaunch s h c) n0 = port s n0 := rfl
@[simp] theorem die_modLaunch (s : State) (h : Nat) (c : Launch → Launch) (n0 : Nat) : die (modLaunch s h c) n0 = die s n0 := rfl
@[simp] theorem me_modLaunch (s : State) (h : Nat) (c : Launch → Launch) : me (modLaunch s h c) = me s := rfl
@[simp] theorem core_setMe (s : State) (c : Ctx) (n0 : Nat) : core (setMe s c) n0 = core s n0 := rfl
@[simp] theorem drone_setMe (s : State) (c : Ctx) (n0 : Nat) : drone (setMe s c) n0 = drone s n0 := rfl
@[simp] theorem port_setMe (s : State) (c : Ctx) (n0 : Nat) : port (setMe s c) n0 = port s n0 := rfl
@[simp] theorem die_setMe (s : State) (c : Ctx) (n0 : Nat) : die (setMe s c) n0 = die s n0 := rfl
@[simp] theorem launch_setMe (s : State) (c : Ctx) (n0 : Nat) : launch (setMe s c) n0 = launch s n0 := rfl
@[simp] theorem core_modMe (s : State) (c : Ctx → Ctx) (n0 : Nat) : core (modMe s c) n0 = core s n0 := rfl
@[simp] theorem drone_modMe (s : State) (c : Ctx → Ctx) (n0 : Nat) : drone (modMe s c) n0 = drone s n0 := rfl
@[simp] theorem port_modMe (s : State) (c : Ctx → Ctx) (n0 : Nat) : port (modMe s c) n0 = port s n0 := rfl
@[simp] theorem die_modMe (s : State) (c : Ctx → Ctx) (n0 : Nat) : die (modMe s c) n0 = die s n0 := rfl
@[simp] theorem launch_modMe (s : State) (c : Ctx → Ctx) (n0 : Nat) : launch (modMe s c) n0 = launch s n0 := rfl
@[simp] theorem hart_modMyCore (s : State) (c : Core → Core) (n0 : Nat) : hart (modMyCore s c) n0 = hart s n0 := rfl
@[simp] theorem drone_modMyCore (s : State) (c : Core → Core) (n0 : Nat) : drone (modMyCore s c) n0 = drone s n0 := rfl
@[simp] theorem port_modMyCore (s : State) (c : Core → Core) (n0 : Nat) : port (modMyCore s c) n0 = port s n0 := rfl
@[simp] theorem die_modMyCore (s : State) (c : Core → Core) (n0 : Nat) : die (modMyCore s c) n0 = die s n0 := rfl
@[simp] theorem launch_modMyCore (s : State) (c : Core → Core) (n0 : Nat) : launch (modMyCore s c) n0 = launch s n0 := rfl
@[simp] theorem me_modMyCore (s : State) (c : Core → Core) : me (modMyCore s c) = me s := rfl
@[simp] theorem core_land (s : State) (d : Landing) (k : Nat) (g : BitVec 6) (n0 : Nat) : core (land s d k g) n0 = core s n0 := rfl
@[simp] theorem drone_land (s : State) (d : Landing) (k : Nat) (g : BitVec 6) (n0 : Nat) : drone (land s d k g) n0 = drone s n0 := rfl
@[simp] theorem port_land (s : State) (d : Landing) (k : Nat) (g : BitVec 6) (n0 : Nat) : port (land s d k g) n0 = port s n0 := rfl
@[simp] theorem die_land (s : State) (d : Landing) (k : Nat) (g : BitVec 6) (n0 : Nat) : die (land s d k g) n0 = die s n0 := rfl
@[simp] theorem launch_land (s : State) (d : Landing) (k : Nat) (g : BitVec 6) (n0 : Nat) : launch (land s d k g) n0 = launch s n0 := rfl
@[simp] theorem core_landScalar (s : State) (d : SReg) (v : Word) (k : Nat) (g : BitVec 6) (n0 : Nat) : core (landScalar s d v k g) n0 = core s n0 := rfl
@[simp] theorem drone_landScalar (s : State) (d : SReg) (v : Word) (k : Nat) (g : BitVec 6) (n0 : Nat) : drone (landScalar s d v k g) n0 = drone s n0 := rfl
@[simp] theorem port_landScalar (s : State) (d : SReg) (v : Word) (k : Nat) (g : BitVec 6) (n0 : Nat) : port (landScalar s d v k g) n0 = port s n0 := rfl
@[simp] theorem die_landScalar (s : State) (d : SReg) (v : Word) (k : Nat) (g : BitVec 6) (n0 : Nat) : die (landScalar s d v k g) n0 = die s n0 := rfl
@[simp] theorem launch_landScalar (s : State) (d : SReg) (v : Word) (k : Nat) (g : BitVec 6) (n0 : Nat) : launch (landScalar s d v k g) n0 = launch s n0 := rfl
@[simp] theorem hart_markDst (s : State) (m : Mark) (n0 : Nat) : hart (markDst s m) n0 = hart s n0 := rfl
@[simp] theorem core_markDst (s : State) (m : Mark) (n0 : Nat) : core (markDst s m) n0 = core s n0 := rfl
@[simp] theorem drone_markDst (s : State) (m : Mark) (n0 : Nat) : drone (markDst s m) n0 = drone s n0 := rfl
@[simp] theorem port_markDst (s : State) (m : Mark) (n0 : Nat) : port (markDst s m) n0 = port s n0 := rfl
@[simp] theorem die_markDst (s : State) (m : Mark) (n0 : Nat) : die (markDst s m) n0 = die s n0 := rfl
@[simp] theorem launch_markDst (s : State) (m : Mark) (n0 : Nat) : launch (markDst s m) n0 = launch s n0 := rfl
@[simp] theorem me_markDst (s : State) (m : Mark) : me (markDst s m) = me s := rfl
@[simp] theorem hart_takeDraws (s : State) (n : Nat) (n0 : Nat) : hart (takeDraws s n) n0 = hart s n0 := by unfold takeDraws; split <;> rfl
@[simp] theorem core_takeDraws (s : State) (n : Nat) (n0 : Nat) : core (takeDraws s n) n0 = core s n0 := by unfold takeDraws; split <;> rfl
@[simp] theorem drone_takeDraws (s : State) (n : Nat) (n0 : Nat) : drone (takeDraws s n) n0 = drone s n0 := by unfold takeDraws; split <;> rfl
@[simp] theorem port_takeDraws (s : State) (n : Nat) (n0 : Nat) : port (takeDraws s n) n0 = port s n0 := by unfold takeDraws; split <;> rfl
@[simp] theorem die_takeDraws (s : State) (n : Nat) (n0 : Nat) : die (takeDraws s n) n0 = die s n0 := by unfold takeDraws; split <;> rfl
@[simp] theorem launch_takeDraws (s : State) (n : Nat) (n0 : Nat) : launch (takeDraws s n) n0 = launch s n0 := by unfold takeDraws; split <;> rfl
@[simp] theorem me_takeDraws (s : State) (n : Nat) : me (takeDraws s n) = me s := by unfold takeDraws; split <;> rfl
@[simp] theorem hart_bundle (s : State) (b : Bundle) (n : Nat) : hart { s with bundle := b } n = hart s n := rfl
@[simp] theorem hart_cur (s : State) (h n : Nat) : hart { s with cur := h } n = hart s n := rfl
@[simp] theorem hart_mem (s : State) (m : List Host.Cell) (n : Nat) : hart { s with mem := m } n = hart s n := rfl
@[simp] theorem core_bundle (s : State) (b : Bundle) (n : Nat) : core { s with bundle := b } n = core s n := rfl
@[simp] theorem core_cur (s : State) (h n : Nat) : core { s with cur := h } n = core s n := rfl
@[simp] theorem core_mem (s : State) (m : List Host.Cell) (n : Nat) : core { s with mem := m } n = core s n := rfl
@[simp] theorem drone_bundle (s : State) (b : Bundle) (n : Nat) : drone { s with bundle := b } n = drone s n := rfl
@[simp] theorem drone_cur (s : State) (h n : Nat) : drone { s with cur := h } n = drone s n := rfl
@[simp] theorem drone_mem (s : State) (m : List Host.Cell) (n : Nat) : drone { s with mem := m } n = drone s n := rfl
@[simp] theorem port_bundle (s : State) (b : Bundle) (n : Nat) : port { s with bundle := b } n = port s n := rfl
@[simp] theorem port_cur (s : State) (h n : Nat) : port { s with cur := h } n = port s n := rfl
@[simp] theorem port_mem (s : State) (m : List Host.Cell) (n : Nat) : port { s with mem := m } n = port s n := rfl
@[simp] theorem die_bundle (s : State) (b : Bundle) (n : Nat) : die { s with bundle := b } n = die s n := rfl
@[simp] theorem die_cur (s : State) (h n : Nat) : die { s with cur := h } n = die s n := rfl
@[simp] theorem die_mem (s : State) (m : List Host.Cell) (n : Nat) : die { s with mem := m } n = die s n := rfl
@[simp] theorem launch_bundle (s : State) (b : Bundle) (n : Nat) : launch { s with bundle := b } n = launch s n := rfl
@[simp] theorem launch_cur (s : State) (h n : Nat) : launch { s with cur := h } n = launch s n := rfl
@[simp] theorem launch_mem (s : State) (m : List Host.Cell) (n : Nat) : launch { s with mem := m } n = launch s n := rfl
@[simp] theorem me_bundle (s : State) (b : Bundle) : me { s with bundle := b } = me s := rfl

/-! ### A read after an update of the same table -/
theorem hart_setHart (s : State) (h g : Nat) (c : Ctx) : hart (setHart s h c) g = if g = h then c else hart s g := tget_tset _ _ h g c
@[simp] theorem hart_setHart_self (s : State) (h : Nat) (c : Ctx) : hart (setHart s h c) h = c := tget_tset_self _ _ h c
theorem hart_setHart_ne (s : State) (h g : Nat) (c : Ctx) (n : g ≠ h) : hart (setHart s h c) g = hart s g := tget_tset_ne _ _ c n
theorem hart_modHart (s : State) (h g : Nat) (f : Ctx → Ctx) : hart (modHart s h f) g = if g = h then f (hart s h) else hart s g :=
  tget_tset _ _ h g _
@[simp] theorem hart_modHart_self (s : State) (h : Nat) (f : Ctx → Ctx) : hart (modHart s h f) h = f (hart s h) := tget_tset_self _ _ h _
theorem hart_modHart_ne (s : State) (h g : Nat) (f : Ctx → Ctx) (n : g ≠ h) : hart (modHart s h f) g = hart s g := tget_tset_ne _ _ _ n
theorem core_setCore (s : State) (h g : Nat) (c : Core) : core (setCore s h c) g = if g = h then c else core s g := tget_tset _ _ h g c
@[simp] theorem core_setCore_self (s : State) (h : Nat) (c : Core) : core (setCore s h c) h = c := tget_tset_self _ _ h c
theorem core_setCore_ne (s : State) (h g : Nat) (c : Core) (n : g ≠ h) : core (setCore s h c) g = core s g := tget_tset_ne _ _ c n
theorem core_modCore (s : State) (h g : Nat) (f : Core → Core) : core (modCore s h f) g = if g = h then f (core s h) else core s g :=
  tget_tset _ _ h g _
@[simp] theorem core_modCore_self (s : State) (h : Nat) (f : Core → Core) : core (modCore s h f) h = f (core s h) := tget_tset_self _ _ h _
theorem core_modCore_ne (s : State) (h g : Nat) (f : Core → Core) (n : g ≠ h) : core (modCore s h f) g = core s g := tget_tset_ne _ _ _ n
theorem drone_setDrone (s : State) (h g : Nat) (c : Drone) : drone (setDrone s h c) g = if g = h then c else drone s g := tget_tset _ _ h g c
@[simp] theorem drone_setDrone_self (s : State) (h : Nat) (c : Drone) : drone (setDrone s h c) h = c := tget_tset_self _ _ h c
theorem drone_setDrone_ne (s : State) (h g : Nat) (c : Drone) (n : g ≠ h) : drone (setDrone s h c) g = drone s g := tget_tset_ne _ _ c n
theorem drone_modDrone (s : State) (h g : Nat) (f : Drone → Drone) : drone (modDrone s h f) g = if g = h then f (drone s h) else drone s g :=
  tget_tset _ _ h g _
@[simp] theorem drone_modDrone_self (s : State) (h : Nat) (f : Drone → Drone) : drone (modDrone s h f) h = f (drone s h) := tget_tset_self _ _ h _
theorem drone_modDrone_ne (s : State) (h g : Nat) (f : Drone → Drone) (n : g ≠ h) : drone (modDrone s h f) g = drone s g := tget_tset_ne _ _ _ n
theorem launch_setLaunch (s : State) (h g : Nat) (c : Launch) : launch (setLaunch s h c) g = if g = h then c else launch s g := tget_tset _ _ h g c
@[simp] theorem launch_setLaunch_self (s : State) (h : Nat) (c : Launch) : launch (setLaunch s h c) h = c := tget_tset_self _ _ h c
theorem launch_setLaunch_ne (s : State) (h g : Nat) (c : Launch) (n : g ≠ h) : launch (setLaunch s h c) g = launch s g := tget_tset_ne _ _ c n
theorem launch_modLaunch (s : State) (h g : Nat) (f : Launch → Launch) : launch (modLaunch s h f) g = if g = h then f (launch s h) else launch s g :=
  tget_tset _ _ h g _
@[simp] theorem launch_modLaunch_self (s : State) (h : Nat) (f : Launch → Launch) : launch (modLaunch s h f) h = f (launch s h) := tget_tset_self _ _ h _
theorem launch_modLaunch_ne (s : State) (h g : Nat) (f : Launch → Launch) (n : g ≠ h) : launch (modLaunch s h f) g = launch s g := tget_tset_ne _ _ _ n
@[simp] theorem port_setPort_self (s : State) (h : Nat) (c : Port) : port (setPort s h c) h = c := tget_tset_self _ _ h c
theorem port_setPort_ne (s : State) (h g : Nat) (c : Port) (n : g ≠ h) : port (setPort s h c) g = port s g := tget_tset_ne _ _ c n
@[simp] theorem die_setDie_self (s : State) (h : Nat) (c : Die) : die (setDie s h c) h = c := tget_tset_self _ _ h c
theorem die_setDie_ne (s : State) (h g : Nat) (c : Die) (n : g ≠ h) : die (setDie s h c) g = die s g := tget_tset_ne _ _ c n
@[simp] theorem me_setMe (s : State) (c : Ctx) : me (setMe s c) = c := tget_tset_self _ _ _ c
@[simp] theorem me_modMe (s : State) (f : Ctx → Ctx) : me (modMe s f) = f (me s) := tget_tset_self _ _ _ _
@[simp] theorem me_land (s : State) (d : Landing) (k : Nat) (g : BitVec 6) :
    me (land s d k g) = { me s with flight := (me s).flight ++ [{ due := (me s).count + k, dst := d, flags := g }] } :=
  me_modMe s _
@[simp] theorem me_landScalar (s : State) (d : SReg) (v : Word) (k : Nat) (g : BitVec 6) :
    me (landScalar s d v k g) =
      { me s with flight := (me s).flight ++ [{ due := (me s).count + k, dst := .scalar d.toNat v, flags := g }] } :=
  me_modMe s _

/-! ### Registers of a context -/

@[simp] theorem Ctx.life_setTile (c : Ctx) (r : Nat) (v : TileReg) : (c.setTile r v).life = c.life := rfl
@[simp] theorem Ctx.who_setTile (c : Ctx) (r : Nat) (v : TileReg) : (c.setTile r v).who = c.who := rfl
@[simp] theorem Ctx.pc_setTile (c : Ctx) (r : Nat) (v : TileReg) : (c.setTile r v).pc = c.pc := rfl
@[simp] theorem Ctx.count_setTile (c : Ctx) (r : Nat) (v : TileReg) : (c.setTile r v).count = c.count := rfl
@[simp] theorem Ctx.scalars_setTile (c : Ctx) (r : Nat) (v : TileReg) : (c.setTile r v).scalars = c.scalars := rfl
@[simp] theorem Ctx.masks_setTile (c : Ctx) (r : Nat) (v : TileReg) : (c.setTile r v).masks = c.masks := rfl
@[simp] theorem Ctx.params_setTile (c : Ctx) (r : Nat) (v : TileReg) : (c.setTile r v).params = c.params := rfl
@[simp] theorem Ctx.fregs_setTile (c : Ctx) (r : Nat) (v : TileReg) : (c.setTile r v).fregs = c.fregs := rfl
@[simp] theorem Ctx.latches_setTile (c : Ctx) (r : Nat) (v : TileReg) : (c.setTile r v).latches = c.latches := rfl
@[simp] theorem Ctx.flight_setTile (c : Ctx) (r : Nat) (v : TileReg) : (c.setTile r v).flight = c.flight := rfl
@[simp] theorem Ctx.loops_setTile (c : Ctx) (r : Nat) (v : TileReg) : (c.setTile r v).loops = c.loops := rfl
@[simp] theorem Ctx.csr_setTile (c : Ctx) (r : Nat) (v : TileReg) : (c.setTile r v).csr = c.csr := rfl
@[simp] theorem Ctx.qUnits_setTile (c : Ctx) (r : Nat) (v : TileReg) : (c.setTile r v).qUnits = c.qUnits := rfl
@[simp] theorem Ctx.qBundles_setTile (c : Ctx) (r : Nat) (v : TileReg) : (c.setTile r v).qBundles = c.qBundles := rfl
@[simp] theorem Ctx.qwLim_setTile (c : Ctx) (r : Nat) (v : TileReg) : (c.setTile r v).qwLim = c.qwLim := rfl
@[simp] theorem Ctx.qbLim_setTile (c : Ctx) (r : Nat) (v : TileReg) : (c.setTile r v).qbLim = c.qbLim := rfl
@[simp] theorem Ctx.qFresh_setTile (c : Ctx) (r : Nat) (v : TileReg) : (c.setTile r v).qFresh = c.qFresh := rfl
@[simp] theorem Ctx.wait_setTile (c : Ctx) (r : Nat) (v : TileReg) : (c.setTile r v).wait = c.wait := rfl
@[simp] theorem Ctx.kids_setTile (c : Ctx) (r : Nat) (v : TileReg) : (c.setTile r v).kids = c.kids := rfl
@[simp] theorem Ctx.rounds_setTile (c : Ctx) (r : Nat) (v : TileReg) : (c.setTile r v).rounds = c.rounds := rfl
@[simp] theorem Ctx.stopReq_setTile (c : Ctx) (r : Nat) (v : TileReg) : (c.setTile r v).stopReq = c.stopReq := rfl
@[simp] theorem Ctx.askedBy_setTile (c : Ctx) (r : Nat) (v : TileReg) : (c.setTile r v).askedBy = c.askedBy := rfl
@[simp] theorem Ctx.leaving_setTile (c : Ctx) (r : Nat) (v : TileReg) : (c.setTile r v).leaving = c.leaving := rfl
@[simp] theorem Ctx.yielded_setTile (c : Ctx) (r : Nat) (v : TileReg) : (c.setTile r v).yielded = c.yielded := rfl
@[simp] theorem Ctx.skip_setTile (c : Ctx) (r : Nat) (v : TileReg) : (c.setTile r v).skip = c.skip := rfl
@[simp] theorem Ctx.spCount_setTile (c : Ctx) (r : Nat) (v : TileReg) : (c.setTile r v).spCount = c.spCount := rfl
@[simp] theorem Ctx.loads_setTile (c : Ctx) (r : Nat) (v : TileReg) : (c.setTile r v).loads = c.loads := rfl
@[simp] theorem Ctx.gloads_setTile (c : Ctx) (r : Nat) (v : TileReg) : (c.setTile r v).gloads = c.gloads := rfl
@[simp] theorem Ctx.dqs_setTile (c : Ctx) (r : Nat) (v : TileReg) : (c.setTile r v).dqs = c.dqs := rfl
@[simp] theorem Ctx.scans_setTile (c : Ctx) (r : Nat) (v : TileReg) : (c.setTile r v).scans = c.scans := rfl
@[simp] theorem Ctx.fops_setTile (c : Ctx) (r : Nat) (v : TileReg) : (c.setTile r v).fops = c.fops := rfl
@[simp] theorem Ctx.remotes_setTile (c : Ctx) (r : Nat) (v : TileReg) : (c.setTile r v).remotes = c.remotes := rfl
@[simp] theorem Ctx.calls_setTile (c : Ctx) (r : Nat) (v : TileReg) : (c.setTile r v).calls = c.calls := rfl
@[simp] theorem Ctx.done_setTile (c : Ctx) (r : Nat) (v : TileReg) : (c.setTile r v).done = c.done := rfl
@[simp] theorem Ctx.nextSeq_setTile (c : Ctx) (r : Nat) (v : TileReg) : (c.setTile r v).nextSeq = c.nextSeq := rfl
@[simp] theorem Ctx.lnwaits_setTile (c : Ctx) (r : Nat) (v : TileReg) : (c.setTile r v).lnwaits = c.lnwaits := rfl
@[simp] theorem Ctx.channels_setTile (c : Ctx) (r : Nat) (v : TileReg) : (c.setTile r v).channels = c.channels := rfl
@[simp] theorem Ctx.queues_setTile (c : Ctx) (r : Nat) (v : TileReg) : (c.setTile r v).queues = c.queues := rfl
@[simp] theorem Ctx.mfsub_setTile (c : Ctx) (r : Nat) (v : TileReg) : (c.setTile r v).mfsub = c.mfsub := rfl
@[simp] theorem Ctx.mfrtn_setTile (c : Ctx) (r : Nat) (v : TileReg) : (c.setTile r v).mfrtn = c.mfrtn := rfl
@[simp] theorem Ctx.run_setTile (c : Ctx) (r : Nat) (v : TileReg) : (c.setTile r v).run = c.run := rfl
@[simp] theorem Ctx.life_setParam (c : Ctx) (r : Nat) (v : Word) : (c.setParam r v).life = c.life := rfl
@[simp] theorem Ctx.who_setParam (c : Ctx) (r : Nat) (v : Word) : (c.setParam r v).who = c.who := rfl
@[simp] theorem Ctx.pc_setParam (c : Ctx) (r : Nat) (v : Word) : (c.setParam r v).pc = c.pc := rfl
@[simp] theorem Ctx.count_setParam (c : Ctx) (r : Nat) (v : Word) : (c.setParam r v).count = c.count := rfl
@[simp] theorem Ctx.tiles_setParam (c : Ctx) (r : Nat) (v : Word) : (c.setParam r v).tiles = c.tiles := rfl
@[simp] theorem Ctx.scalars_setParam (c : Ctx) (r : Nat) (v : Word) : (c.setParam r v).scalars = c.scalars := rfl
@[simp] theorem Ctx.masks_setParam (c : Ctx) (r : Nat) (v : Word) : (c.setParam r v).masks = c.masks := rfl
@[simp] theorem Ctx.fregs_setParam (c : Ctx) (r : Nat) (v : Word) : (c.setParam r v).fregs = c.fregs := rfl
@[simp] theorem Ctx.latches_setParam (c : Ctx) (r : Nat) (v : Word) : (c.setParam r v).latches = c.latches := rfl
@[simp] theorem Ctx.flight_setParam (c : Ctx) (r : Nat) (v : Word) : (c.setParam r v).flight = c.flight := rfl
@[simp] theorem Ctx.loops_setParam (c : Ctx) (r : Nat) (v : Word) : (c.setParam r v).loops = c.loops := rfl
@[simp] theorem Ctx.csr_setParam (c : Ctx) (r : Nat) (v : Word) : (c.setParam r v).csr = c.csr := rfl
@[simp] theorem Ctx.qUnits_setParam (c : Ctx) (r : Nat) (v : Word) : (c.setParam r v).qUnits = c.qUnits := rfl
@[simp] theorem Ctx.qBundles_setParam (c : Ctx) (r : Nat) (v : Word) : (c.setParam r v).qBundles = c.qBundles := rfl
@[simp] theorem Ctx.qwLim_setParam (c : Ctx) (r : Nat) (v : Word) : (c.setParam r v).qwLim = c.qwLim := rfl
@[simp] theorem Ctx.qbLim_setParam (c : Ctx) (r : Nat) (v : Word) : (c.setParam r v).qbLim = c.qbLim := rfl
@[simp] theorem Ctx.qFresh_setParam (c : Ctx) (r : Nat) (v : Word) : (c.setParam r v).qFresh = c.qFresh := rfl
@[simp] theorem Ctx.wait_setParam (c : Ctx) (r : Nat) (v : Word) : (c.setParam r v).wait = c.wait := rfl
@[simp] theorem Ctx.kids_setParam (c : Ctx) (r : Nat) (v : Word) : (c.setParam r v).kids = c.kids := rfl
@[simp] theorem Ctx.rounds_setParam (c : Ctx) (r : Nat) (v : Word) : (c.setParam r v).rounds = c.rounds := rfl
@[simp] theorem Ctx.stopReq_setParam (c : Ctx) (r : Nat) (v : Word) : (c.setParam r v).stopReq = c.stopReq := rfl
@[simp] theorem Ctx.askedBy_setParam (c : Ctx) (r : Nat) (v : Word) : (c.setParam r v).askedBy = c.askedBy := rfl
@[simp] theorem Ctx.leaving_setParam (c : Ctx) (r : Nat) (v : Word) : (c.setParam r v).leaving = c.leaving := rfl
@[simp] theorem Ctx.yielded_setParam (c : Ctx) (r : Nat) (v : Word) : (c.setParam r v).yielded = c.yielded := rfl
@[simp] theorem Ctx.skip_setParam (c : Ctx) (r : Nat) (v : Word) : (c.setParam r v).skip = c.skip := rfl
@[simp] theorem Ctx.spCount_setParam (c : Ctx) (r : Nat) (v : Word) : (c.setParam r v).spCount = c.spCount := rfl
@[simp] theorem Ctx.loads_setParam (c : Ctx) (r : Nat) (v : Word) : (c.setParam r v).loads = c.loads := rfl
@[simp] theorem Ctx.gloads_setParam (c : Ctx) (r : Nat) (v : Word) : (c.setParam r v).gloads = c.gloads := rfl
@[simp] theorem Ctx.dqs_setParam (c : Ctx) (r : Nat) (v : Word) : (c.setParam r v).dqs = c.dqs := rfl
@[simp] theorem Ctx.scans_setParam (c : Ctx) (r : Nat) (v : Word) : (c.setParam r v).scans = c.scans := rfl
@[simp] theorem Ctx.fops_setParam (c : Ctx) (r : Nat) (v : Word) : (c.setParam r v).fops = c.fops := rfl
@[simp] theorem Ctx.remotes_setParam (c : Ctx) (r : Nat) (v : Word) : (c.setParam r v).remotes = c.remotes := rfl
@[simp] theorem Ctx.calls_setParam (c : Ctx) (r : Nat) (v : Word) : (c.setParam r v).calls = c.calls := rfl
@[simp] theorem Ctx.done_setParam (c : Ctx) (r : Nat) (v : Word) : (c.setParam r v).done = c.done := rfl
@[simp] theorem Ctx.nextSeq_setParam (c : Ctx) (r : Nat) (v : Word) : (c.setParam r v).nextSeq = c.nextSeq := rfl
@[simp] theorem Ctx.lnwaits_setParam (c : Ctx) (r : Nat) (v : Word) : (c.setParam r v).lnwaits = c.lnwaits := rfl
@[simp] theorem Ctx.channels_setParam (c : Ctx) (r : Nat) (v : Word) : (c.setParam r v).channels = c.channels := rfl
@[simp] theorem Ctx.queues_setParam (c : Ctx) (r : Nat) (v : Word) : (c.setParam r v).queues = c.queues := rfl
@[simp] theorem Ctx.mfsub_setParam (c : Ctx) (r : Nat) (v : Word) : (c.setParam r v).mfsub = c.mfsub := rfl
@[simp] theorem Ctx.mfrtn_setParam (c : Ctx) (r : Nat) (v : Word) : (c.setParam r v).mfrtn = c.mfrtn := rfl
@[simp] theorem Ctx.run_setParam (c : Ctx) (r : Nat) (v : Word) : (c.setParam r v).run = c.run := rfl
@[simp] theorem Ctx.life_setFreg (c : Ctx) (r : Nat) (v : FuncReg) : (c.setFreg r v).life = c.life := rfl
@[simp] theorem Ctx.who_setFreg (c : Ctx) (r : Nat) (v : FuncReg) : (c.setFreg r v).who = c.who := rfl
@[simp] theorem Ctx.pc_setFreg (c : Ctx) (r : Nat) (v : FuncReg) : (c.setFreg r v).pc = c.pc := rfl
@[simp] theorem Ctx.count_setFreg (c : Ctx) (r : Nat) (v : FuncReg) : (c.setFreg r v).count = c.count := rfl
@[simp] theorem Ctx.tiles_setFreg (c : Ctx) (r : Nat) (v : FuncReg) : (c.setFreg r v).tiles = c.tiles := rfl
@[simp] theorem Ctx.scalars_setFreg (c : Ctx) (r : Nat) (v : FuncReg) : (c.setFreg r v).scalars = c.scalars := rfl
@[simp] theorem Ctx.masks_setFreg (c : Ctx) (r : Nat) (v : FuncReg) : (c.setFreg r v).masks = c.masks := rfl
@[simp] theorem Ctx.params_setFreg (c : Ctx) (r : Nat) (v : FuncReg) : (c.setFreg r v).params = c.params := rfl
@[simp] theorem Ctx.latches_setFreg (c : Ctx) (r : Nat) (v : FuncReg) : (c.setFreg r v).latches = c.latches := rfl
@[simp] theorem Ctx.flight_setFreg (c : Ctx) (r : Nat) (v : FuncReg) : (c.setFreg r v).flight = c.flight := rfl
@[simp] theorem Ctx.loops_setFreg (c : Ctx) (r : Nat) (v : FuncReg) : (c.setFreg r v).loops = c.loops := rfl
@[simp] theorem Ctx.csr_setFreg (c : Ctx) (r : Nat) (v : FuncReg) : (c.setFreg r v).csr = c.csr := rfl
@[simp] theorem Ctx.qUnits_setFreg (c : Ctx) (r : Nat) (v : FuncReg) : (c.setFreg r v).qUnits = c.qUnits := rfl
@[simp] theorem Ctx.qBundles_setFreg (c : Ctx) (r : Nat) (v : FuncReg) : (c.setFreg r v).qBundles = c.qBundles := rfl
@[simp] theorem Ctx.qwLim_setFreg (c : Ctx) (r : Nat) (v : FuncReg) : (c.setFreg r v).qwLim = c.qwLim := rfl
@[simp] theorem Ctx.qbLim_setFreg (c : Ctx) (r : Nat) (v : FuncReg) : (c.setFreg r v).qbLim = c.qbLim := rfl
@[simp] theorem Ctx.qFresh_setFreg (c : Ctx) (r : Nat) (v : FuncReg) : (c.setFreg r v).qFresh = c.qFresh := rfl
@[simp] theorem Ctx.wait_setFreg (c : Ctx) (r : Nat) (v : FuncReg) : (c.setFreg r v).wait = c.wait := rfl
@[simp] theorem Ctx.kids_setFreg (c : Ctx) (r : Nat) (v : FuncReg) : (c.setFreg r v).kids = c.kids := rfl
@[simp] theorem Ctx.rounds_setFreg (c : Ctx) (r : Nat) (v : FuncReg) : (c.setFreg r v).rounds = c.rounds := rfl
@[simp] theorem Ctx.stopReq_setFreg (c : Ctx) (r : Nat) (v : FuncReg) : (c.setFreg r v).stopReq = c.stopReq := rfl
@[simp] theorem Ctx.askedBy_setFreg (c : Ctx) (r : Nat) (v : FuncReg) : (c.setFreg r v).askedBy = c.askedBy := rfl
@[simp] theorem Ctx.leaving_setFreg (c : Ctx) (r : Nat) (v : FuncReg) : (c.setFreg r v).leaving = c.leaving := rfl
@[simp] theorem Ctx.yielded_setFreg (c : Ctx) (r : Nat) (v : FuncReg) : (c.setFreg r v).yielded = c.yielded := rfl
@[simp] theorem Ctx.skip_setFreg (c : Ctx) (r : Nat) (v : FuncReg) : (c.setFreg r v).skip = c.skip := rfl
@[simp] theorem Ctx.spCount_setFreg (c : Ctx) (r : Nat) (v : FuncReg) : (c.setFreg r v).spCount = c.spCount := rfl
@[simp] theorem Ctx.loads_setFreg (c : Ctx) (r : Nat) (v : FuncReg) : (c.setFreg r v).loads = c.loads := rfl
@[simp] theorem Ctx.gloads_setFreg (c : Ctx) (r : Nat) (v : FuncReg) : (c.setFreg r v).gloads = c.gloads := rfl
@[simp] theorem Ctx.dqs_setFreg (c : Ctx) (r : Nat) (v : FuncReg) : (c.setFreg r v).dqs = c.dqs := rfl
@[simp] theorem Ctx.scans_setFreg (c : Ctx) (r : Nat) (v : FuncReg) : (c.setFreg r v).scans = c.scans := rfl
@[simp] theorem Ctx.fops_setFreg (c : Ctx) (r : Nat) (v : FuncReg) : (c.setFreg r v).fops = c.fops := rfl
@[simp] theorem Ctx.remotes_setFreg (c : Ctx) (r : Nat) (v : FuncReg) : (c.setFreg r v).remotes = c.remotes := rfl
@[simp] theorem Ctx.calls_setFreg (c : Ctx) (r : Nat) (v : FuncReg) : (c.setFreg r v).calls = c.calls := rfl
@[simp] theorem Ctx.done_setFreg (c : Ctx) (r : Nat) (v : FuncReg) : (c.setFreg r v).done = c.done := rfl
@[simp] theorem Ctx.nextSeq_setFreg (c : Ctx) (r : Nat) (v : FuncReg) : (c.setFreg r v).nextSeq = c.nextSeq := rfl
@[simp] theorem Ctx.lnwaits_setFreg (c : Ctx) (r : Nat) (v : FuncReg) : (c.setFreg r v).lnwaits = c.lnwaits := rfl
@[simp] theorem Ctx.channels_setFreg (c : Ctx) (r : Nat) (v : FuncReg) : (c.setFreg r v).channels = c.channels := rfl
@[simp] theorem Ctx.queues_setFreg (c : Ctx) (r : Nat) (v : FuncReg) : (c.setFreg r v).queues = c.queues := rfl
@[simp] theorem Ctx.mfsub_setFreg (c : Ctx) (r : Nat) (v : FuncReg) : (c.setFreg r v).mfsub = c.mfsub := rfl
@[simp] theorem Ctx.mfrtn_setFreg (c : Ctx) (r : Nat) (v : FuncReg) : (c.setFreg r v).mfrtn = c.mfrtn := rfl
@[simp] theorem Ctx.run_setFreg (c : Ctx) (r : Nat) (v : FuncReg) : (c.setFreg r v).run = c.run := rfl
@[simp] theorem Ctx.life_setChan (c : Ctx) (r : Nat) (v : Channel) : (c.setChan r v).life = c.life := rfl
@[simp] theorem Ctx.who_setChan (c : Ctx) (r : Nat) (v : Channel) : (c.setChan r v).who = c.who := rfl
@[simp] theorem Ctx.pc_setChan (c : Ctx) (r : Nat) (v : Channel) : (c.setChan r v).pc = c.pc := rfl
@[simp] theorem Ctx.count_setChan (c : Ctx) (r : Nat) (v : Channel) : (c.setChan r v).count = c.count := rfl
@[simp] theorem Ctx.tiles_setChan (c : Ctx) (r : Nat) (v : Channel) : (c.setChan r v).tiles = c.tiles := rfl
@[simp] theorem Ctx.scalars_setChan (c : Ctx) (r : Nat) (v : Channel) : (c.setChan r v).scalars = c.scalars := rfl
@[simp] theorem Ctx.masks_setChan (c : Ctx) (r : Nat) (v : Channel) : (c.setChan r v).masks = c.masks := rfl
@[simp] theorem Ctx.params_setChan (c : Ctx) (r : Nat) (v : Channel) : (c.setChan r v).params = c.params := rfl
@[simp] theorem Ctx.fregs_setChan (c : Ctx) (r : Nat) (v : Channel) : (c.setChan r v).fregs = c.fregs := rfl
@[simp] theorem Ctx.latches_setChan (c : Ctx) (r : Nat) (v : Channel) : (c.setChan r v).latches = c.latches := rfl
@[simp] theorem Ctx.flight_setChan (c : Ctx) (r : Nat) (v : Channel) : (c.setChan r v).flight = c.flight := rfl
@[simp] theorem Ctx.loops_setChan (c : Ctx) (r : Nat) (v : Channel) : (c.setChan r v).loops = c.loops := rfl
@[simp] theorem Ctx.csr_setChan (c : Ctx) (r : Nat) (v : Channel) : (c.setChan r v).csr = c.csr := rfl
@[simp] theorem Ctx.qUnits_setChan (c : Ctx) (r : Nat) (v : Channel) : (c.setChan r v).qUnits = c.qUnits := rfl
@[simp] theorem Ctx.qBundles_setChan (c : Ctx) (r : Nat) (v : Channel) : (c.setChan r v).qBundles = c.qBundles := rfl
@[simp] theorem Ctx.qwLim_setChan (c : Ctx) (r : Nat) (v : Channel) : (c.setChan r v).qwLim = c.qwLim := rfl
@[simp] theorem Ctx.qbLim_setChan (c : Ctx) (r : Nat) (v : Channel) : (c.setChan r v).qbLim = c.qbLim := rfl
@[simp] theorem Ctx.qFresh_setChan (c : Ctx) (r : Nat) (v : Channel) : (c.setChan r v).qFresh = c.qFresh := rfl
@[simp] theorem Ctx.wait_setChan (c : Ctx) (r : Nat) (v : Channel) : (c.setChan r v).wait = c.wait := rfl
@[simp] theorem Ctx.kids_setChan (c : Ctx) (r : Nat) (v : Channel) : (c.setChan r v).kids = c.kids := rfl
@[simp] theorem Ctx.rounds_setChan (c : Ctx) (r : Nat) (v : Channel) : (c.setChan r v).rounds = c.rounds := rfl
@[simp] theorem Ctx.stopReq_setChan (c : Ctx) (r : Nat) (v : Channel) : (c.setChan r v).stopReq = c.stopReq := rfl
@[simp] theorem Ctx.askedBy_setChan (c : Ctx) (r : Nat) (v : Channel) : (c.setChan r v).askedBy = c.askedBy := rfl
@[simp] theorem Ctx.leaving_setChan (c : Ctx) (r : Nat) (v : Channel) : (c.setChan r v).leaving = c.leaving := rfl
@[simp] theorem Ctx.yielded_setChan (c : Ctx) (r : Nat) (v : Channel) : (c.setChan r v).yielded = c.yielded := rfl
@[simp] theorem Ctx.skip_setChan (c : Ctx) (r : Nat) (v : Channel) : (c.setChan r v).skip = c.skip := rfl
@[simp] theorem Ctx.spCount_setChan (c : Ctx) (r : Nat) (v : Channel) : (c.setChan r v).spCount = c.spCount := rfl
@[simp] theorem Ctx.loads_setChan (c : Ctx) (r : Nat) (v : Channel) : (c.setChan r v).loads = c.loads := rfl
@[simp] theorem Ctx.gloads_setChan (c : Ctx) (r : Nat) (v : Channel) : (c.setChan r v).gloads = c.gloads := rfl
@[simp] theorem Ctx.dqs_setChan (c : Ctx) (r : Nat) (v : Channel) : (c.setChan r v).dqs = c.dqs := rfl
@[simp] theorem Ctx.scans_setChan (c : Ctx) (r : Nat) (v : Channel) : (c.setChan r v).scans = c.scans := rfl
@[simp] theorem Ctx.fops_setChan (c : Ctx) (r : Nat) (v : Channel) : (c.setChan r v).fops = c.fops := rfl
@[simp] theorem Ctx.remotes_setChan (c : Ctx) (r : Nat) (v : Channel) : (c.setChan r v).remotes = c.remotes := rfl
@[simp] theorem Ctx.calls_setChan (c : Ctx) (r : Nat) (v : Channel) : (c.setChan r v).calls = c.calls := rfl
@[simp] theorem Ctx.done_setChan (c : Ctx) (r : Nat) (v : Channel) : (c.setChan r v).done = c.done := rfl
@[simp] theorem Ctx.nextSeq_setChan (c : Ctx) (r : Nat) (v : Channel) : (c.setChan r v).nextSeq = c.nextSeq := rfl
@[simp] theorem Ctx.lnwaits_setChan (c : Ctx) (r : Nat) (v : Channel) : (c.setChan r v).lnwaits = c.lnwaits := rfl
@[simp] theorem Ctx.queues_setChan (c : Ctx) (r : Nat) (v : Channel) : (c.setChan r v).queues = c.queues := rfl
@[simp] theorem Ctx.mfsub_setChan (c : Ctx) (r : Nat) (v : Channel) : (c.setChan r v).mfsub = c.mfsub := rfl
@[simp] theorem Ctx.mfrtn_setChan (c : Ctx) (r : Nat) (v : Channel) : (c.setChan r v).mfrtn = c.mfrtn := rfl
@[simp] theorem Ctx.run_setChan (c : Ctx) (r : Nat) (v : Channel) : (c.setChan r v).run = c.run := rfl
@[simp] theorem Ctx.life_setQueue (c : Ctx) (r : Nat) (v : IQueue) : (c.setQueue r v).life = c.life := rfl
@[simp] theorem Ctx.who_setQueue (c : Ctx) (r : Nat) (v : IQueue) : (c.setQueue r v).who = c.who := rfl
@[simp] theorem Ctx.pc_setQueue (c : Ctx) (r : Nat) (v : IQueue) : (c.setQueue r v).pc = c.pc := rfl
@[simp] theorem Ctx.count_setQueue (c : Ctx) (r : Nat) (v : IQueue) : (c.setQueue r v).count = c.count := rfl
@[simp] theorem Ctx.tiles_setQueue (c : Ctx) (r : Nat) (v : IQueue) : (c.setQueue r v).tiles = c.tiles := rfl
@[simp] theorem Ctx.scalars_setQueue (c : Ctx) (r : Nat) (v : IQueue) : (c.setQueue r v).scalars = c.scalars := rfl
@[simp] theorem Ctx.masks_setQueue (c : Ctx) (r : Nat) (v : IQueue) : (c.setQueue r v).masks = c.masks := rfl
@[simp] theorem Ctx.params_setQueue (c : Ctx) (r : Nat) (v : IQueue) : (c.setQueue r v).params = c.params := rfl
@[simp] theorem Ctx.fregs_setQueue (c : Ctx) (r : Nat) (v : IQueue) : (c.setQueue r v).fregs = c.fregs := rfl
@[simp] theorem Ctx.latches_setQueue (c : Ctx) (r : Nat) (v : IQueue) : (c.setQueue r v).latches = c.latches := rfl
@[simp] theorem Ctx.flight_setQueue (c : Ctx) (r : Nat) (v : IQueue) : (c.setQueue r v).flight = c.flight := rfl
@[simp] theorem Ctx.loops_setQueue (c : Ctx) (r : Nat) (v : IQueue) : (c.setQueue r v).loops = c.loops := rfl
@[simp] theorem Ctx.csr_setQueue (c : Ctx) (r : Nat) (v : IQueue) : (c.setQueue r v).csr = c.csr := rfl
@[simp] theorem Ctx.qUnits_setQueue (c : Ctx) (r : Nat) (v : IQueue) : (c.setQueue r v).qUnits = c.qUnits := rfl
@[simp] theorem Ctx.qBundles_setQueue (c : Ctx) (r : Nat) (v : IQueue) : (c.setQueue r v).qBundles = c.qBundles := rfl
@[simp] theorem Ctx.qwLim_setQueue (c : Ctx) (r : Nat) (v : IQueue) : (c.setQueue r v).qwLim = c.qwLim := rfl
@[simp] theorem Ctx.qbLim_setQueue (c : Ctx) (r : Nat) (v : IQueue) : (c.setQueue r v).qbLim = c.qbLim := rfl
@[simp] theorem Ctx.qFresh_setQueue (c : Ctx) (r : Nat) (v : IQueue) : (c.setQueue r v).qFresh = c.qFresh := rfl
@[simp] theorem Ctx.wait_setQueue (c : Ctx) (r : Nat) (v : IQueue) : (c.setQueue r v).wait = c.wait := rfl
@[simp] theorem Ctx.kids_setQueue (c : Ctx) (r : Nat) (v : IQueue) : (c.setQueue r v).kids = c.kids := rfl
@[simp] theorem Ctx.rounds_setQueue (c : Ctx) (r : Nat) (v : IQueue) : (c.setQueue r v).rounds = c.rounds := rfl
@[simp] theorem Ctx.stopReq_setQueue (c : Ctx) (r : Nat) (v : IQueue) : (c.setQueue r v).stopReq = c.stopReq := rfl
@[simp] theorem Ctx.askedBy_setQueue (c : Ctx) (r : Nat) (v : IQueue) : (c.setQueue r v).askedBy = c.askedBy := rfl
@[simp] theorem Ctx.leaving_setQueue (c : Ctx) (r : Nat) (v : IQueue) : (c.setQueue r v).leaving = c.leaving := rfl
@[simp] theorem Ctx.yielded_setQueue (c : Ctx) (r : Nat) (v : IQueue) : (c.setQueue r v).yielded = c.yielded := rfl
@[simp] theorem Ctx.skip_setQueue (c : Ctx) (r : Nat) (v : IQueue) : (c.setQueue r v).skip = c.skip := rfl
@[simp] theorem Ctx.spCount_setQueue (c : Ctx) (r : Nat) (v : IQueue) : (c.setQueue r v).spCount = c.spCount := rfl
@[simp] theorem Ctx.loads_setQueue (c : Ctx) (r : Nat) (v : IQueue) : (c.setQueue r v).loads = c.loads := rfl
@[simp] theorem Ctx.gloads_setQueue (c : Ctx) (r : Nat) (v : IQueue) : (c.setQueue r v).gloads = c.gloads := rfl
@[simp] theorem Ctx.dqs_setQueue (c : Ctx) (r : Nat) (v : IQueue) : (c.setQueue r v).dqs = c.dqs := rfl
@[simp] theorem Ctx.scans_setQueue (c : Ctx) (r : Nat) (v : IQueue) : (c.setQueue r v).scans = c.scans := rfl
@[simp] theorem Ctx.fops_setQueue (c : Ctx) (r : Nat) (v : IQueue) : (c.setQueue r v).fops = c.fops := rfl
@[simp] theorem Ctx.remotes_setQueue (c : Ctx) (r : Nat) (v : IQueue) : (c.setQueue r v).remotes = c.remotes := rfl
@[simp] theorem Ctx.calls_setQueue (c : Ctx) (r : Nat) (v : IQueue) : (c.setQueue r v).calls = c.calls := rfl
@[simp] theorem Ctx.done_setQueue (c : Ctx) (r : Nat) (v : IQueue) : (c.setQueue r v).done = c.done := rfl
@[simp] theorem Ctx.nextSeq_setQueue (c : Ctx) (r : Nat) (v : IQueue) : (c.setQueue r v).nextSeq = c.nextSeq := rfl
@[simp] theorem Ctx.lnwaits_setQueue (c : Ctx) (r : Nat) (v : IQueue) : (c.setQueue r v).lnwaits = c.lnwaits := rfl
@[simp] theorem Ctx.channels_setQueue (c : Ctx) (r : Nat) (v : IQueue) : (c.setQueue r v).channels = c.channels := rfl
@[simp] theorem Ctx.mfsub_setQueue (c : Ctx) (r : Nat) (v : IQueue) : (c.setQueue r v).mfsub = c.mfsub := rfl
@[simp] theorem Ctx.mfrtn_setQueue (c : Ctx) (r : Nat) (v : IQueue) : (c.setQueue r v).mfrtn = c.mfrtn := rfl
@[simp] theorem Ctx.run_setQueue (c : Ctx) (r : Nat) (v : IQueue) : (c.setQueue r v).run = c.run := rfl
@[simp] theorem Ctx.life_setScalar (c : Ctx) (r : Nat) (v : ScalarReg) : (c.setScalar r v).life = c.life := by
  unfold Ctx.setScalar; split <;> rfl
@[simp] theorem Ctx.who_setScalar (c : Ctx) (r : Nat) (v : ScalarReg) : (c.setScalar r v).who = c.who := by
  unfold Ctx.setScalar; split <;> rfl
@[simp] theorem Ctx.pc_setScalar (c : Ctx) (r : Nat) (v : ScalarReg) : (c.setScalar r v).pc = c.pc := by
  unfold Ctx.setScalar; split <;> rfl
@[simp] theorem Ctx.count_setScalar (c : Ctx) (r : Nat) (v : ScalarReg) : (c.setScalar r v).count = c.count := by
  unfold Ctx.setScalar; split <;> rfl
@[simp] theorem Ctx.tiles_setScalar (c : Ctx) (r : Nat) (v : ScalarReg) : (c.setScalar r v).tiles = c.tiles := by
  unfold Ctx.setScalar; split <;> rfl
@[simp] theorem Ctx.masks_setScalar (c : Ctx) (r : Nat) (v : ScalarReg) : (c.setScalar r v).masks = c.masks := by
  unfold Ctx.setScalar; split <;> rfl
@[simp] theorem Ctx.params_setScalar (c : Ctx) (r : Nat) (v : ScalarReg) : (c.setScalar r v).params = c.params := by
  unfold Ctx.setScalar; split <;> rfl
@[simp] theorem Ctx.fregs_setScalar (c : Ctx) (r : Nat) (v : ScalarReg) : (c.setScalar r v).fregs = c.fregs := by
  unfold Ctx.setScalar; split <;> rfl
@[simp] theorem Ctx.latches_setScalar (c : Ctx) (r : Nat) (v : ScalarReg) : (c.setScalar r v).latches = c.latches := by
  unfold Ctx.setScalar; split <;> rfl
@[simp] theorem Ctx.flight_setScalar (c : Ctx) (r : Nat) (v : ScalarReg) : (c.setScalar r v).flight = c.flight := by
  unfold Ctx.setScalar; split <;> rfl
@[simp] theorem Ctx.loops_setScalar (c : Ctx) (r : Nat) (v : ScalarReg) : (c.setScalar r v).loops = c.loops := by
  unfold Ctx.setScalar; split <;> rfl
@[simp] theorem Ctx.csr_setScalar (c : Ctx) (r : Nat) (v : ScalarReg) : (c.setScalar r v).csr = c.csr := by
  unfold Ctx.setScalar; split <;> rfl
@[simp] theorem Ctx.qUnits_setScalar (c : Ctx) (r : Nat) (v : ScalarReg) : (c.setScalar r v).qUnits = c.qUnits := by
  unfold Ctx.setScalar; split <;> rfl
@[simp] theorem Ctx.qBundles_setScalar (c : Ctx) (r : Nat) (v : ScalarReg) : (c.setScalar r v).qBundles = c.qBundles := by
  unfold Ctx.setScalar; split <;> rfl
@[simp] theorem Ctx.qwLim_setScalar (c : Ctx) (r : Nat) (v : ScalarReg) : (c.setScalar r v).qwLim = c.qwLim := by
  unfold Ctx.setScalar; split <;> rfl
@[simp] theorem Ctx.qbLim_setScalar (c : Ctx) (r : Nat) (v : ScalarReg) : (c.setScalar r v).qbLim = c.qbLim := by
  unfold Ctx.setScalar; split <;> rfl
@[simp] theorem Ctx.qFresh_setScalar (c : Ctx) (r : Nat) (v : ScalarReg) : (c.setScalar r v).qFresh = c.qFresh := by
  unfold Ctx.setScalar; split <;> rfl
@[simp] theorem Ctx.wait_setScalar (c : Ctx) (r : Nat) (v : ScalarReg) : (c.setScalar r v).wait = c.wait := by
  unfold Ctx.setScalar; split <;> rfl
@[simp] theorem Ctx.kids_setScalar (c : Ctx) (r : Nat) (v : ScalarReg) : (c.setScalar r v).kids = c.kids := by
  unfold Ctx.setScalar; split <;> rfl
@[simp] theorem Ctx.rounds_setScalar (c : Ctx) (r : Nat) (v : ScalarReg) : (c.setScalar r v).rounds = c.rounds := by
  unfold Ctx.setScalar; split <;> rfl
@[simp] theorem Ctx.stopReq_setScalar (c : Ctx) (r : Nat) (v : ScalarReg) : (c.setScalar r v).stopReq = c.stopReq := by
  unfold Ctx.setScalar; split <;> rfl
@[simp] theorem Ctx.askedBy_setScalar (c : Ctx) (r : Nat) (v : ScalarReg) : (c.setScalar r v).askedBy = c.askedBy := by
  unfold Ctx.setScalar; split <;> rfl
@[simp] theorem Ctx.leaving_setScalar (c : Ctx) (r : Nat) (v : ScalarReg) : (c.setScalar r v).leaving = c.leaving := by
  unfold Ctx.setScalar; split <;> rfl
@[simp] theorem Ctx.yielded_setScalar (c : Ctx) (r : Nat) (v : ScalarReg) : (c.setScalar r v).yielded = c.yielded := by
  unfold Ctx.setScalar; split <;> rfl
@[simp] theorem Ctx.skip_setScalar (c : Ctx) (r : Nat) (v : ScalarReg) : (c.setScalar r v).skip = c.skip := by
  unfold Ctx.setScalar; split <;> rfl
@[simp] theorem Ctx.spCount_setScalar (c : Ctx) (r : Nat) (v : ScalarReg) : (c.setScalar r v).spCount = c.spCount := by
  unfold Ctx.setScalar; split <;> rfl
@[simp] theorem Ctx.loads_setScalar (c : Ctx) (r : Nat) (v : ScalarReg) : (c.setScalar r v).loads = c.loads := by
  unfold Ctx.setScalar; split <;> rfl
@[simp] theorem Ctx.gloads_setScalar (c : Ctx) (r : Nat) (v : ScalarReg) : (c.setScalar r v).gloads = c.gloads := by
  unfold Ctx.setScalar; split <;> rfl
@[simp] theorem Ctx.dqs_setScalar (c : Ctx) (r : Nat) (v : ScalarReg) : (c.setScalar r v).dqs = c.dqs := by
  unfold Ctx.setScalar; split <;> rfl
@[simp] theorem Ctx.scans_setScalar (c : Ctx) (r : Nat) (v : ScalarReg) : (c.setScalar r v).scans = c.scans := by
  unfold Ctx.setScalar; split <;> rfl
@[simp] theorem Ctx.fops_setScalar (c : Ctx) (r : Nat) (v : ScalarReg) : (c.setScalar r v).fops = c.fops := by
  unfold Ctx.setScalar; split <;> rfl
@[simp] theorem Ctx.remotes_setScalar (c : Ctx) (r : Nat) (v : ScalarReg) : (c.setScalar r v).remotes = c.remotes := by
  unfold Ctx.setScalar; split <;> rfl
@[simp] theorem Ctx.calls_setScalar (c : Ctx) (r : Nat) (v : ScalarReg) : (c.setScalar r v).calls = c.calls := by
  unfold Ctx.setScalar; split <;> rfl
@[simp] theorem Ctx.done_setScalar (c : Ctx) (r : Nat) (v : ScalarReg) : (c.setScalar r v).done = c.done := by
  unfold Ctx.setScalar; split <;> rfl
@[simp] theorem Ctx.nextSeq_setScalar (c : Ctx) (r : Nat) (v : ScalarReg) : (c.setScalar r v).nextSeq = c.nextSeq := by
  unfold Ctx.setScalar; split <;> rfl
@[simp] theorem Ctx.lnwaits_setScalar (c : Ctx) (r : Nat) (v : ScalarReg) : (c.setScalar r v).lnwaits = c.lnwaits := by
  unfold Ctx.setScalar; split <;> rfl
@[simp] theorem Ctx.channels_setScalar (c : Ctx) (r : Nat) (v : ScalarReg) : (c.setScalar r v).channels = c.channels := by
  unfold Ctx.setScalar; split <;> rfl
@[simp] theorem Ctx.queues_setScalar (c : Ctx) (r : Nat) (v : ScalarReg) : (c.setScalar r v).queues = c.queues := by
  unfold Ctx.setScalar; split <;> rfl
@[simp] theorem Ctx.mfsub_setScalar (c : Ctx) (r : Nat) (v : ScalarReg) : (c.setScalar r v).mfsub = c.mfsub := by
  unfold Ctx.setScalar; split <;> rfl
@[simp] theorem Ctx.mfrtn_setScalar (c : Ctx) (r : Nat) (v : ScalarReg) : (c.setScalar r v).mfrtn = c.mfrtn := by
  unfold Ctx.setScalar; split <;> rfl
@[simp] theorem Ctx.run_setScalar (c : Ctx) (r : Nat) (v : ScalarReg) : (c.setScalar r v).run = c.run := by
  unfold Ctx.setScalar; split <;> rfl
@[simp] theorem Ctx.life_setMask (c : Ctx) (r : Nat) (v : MaskReg) : (c.setMask r v).life = c.life := by
  unfold Ctx.setMask; split <;> rfl
@[simp] theorem Ctx.who_setMask (c : Ctx) (r : Nat) (v : MaskReg) : (c.setMask r v).who = c.who := by
  unfold Ctx.setMask; split <;> rfl
@[simp] theorem Ctx.pc_setMask (c : Ctx) (r : Nat) (v : MaskReg) : (c.setMask r v).pc = c.pc := by
  unfold Ctx.setMask; split <;> rfl
@[simp] theorem Ctx.count_setMask (c : Ctx) (r : Nat) (v : MaskReg) : (c.setMask r v).count = c.count := by
  unfold Ctx.setMask; split <;> rfl
@[simp] theorem Ctx.tiles_setMask (c : Ctx) (r : Nat) (v : MaskReg) : (c.setMask r v).tiles = c.tiles := by
  unfold Ctx.setMask; split <;> rfl
@[simp] theorem Ctx.scalars_setMask (c : Ctx) (r : Nat) (v : MaskReg) : (c.setMask r v).scalars = c.scalars := by
  unfold Ctx.setMask; split <;> rfl
@[simp] theorem Ctx.params_setMask (c : Ctx) (r : Nat) (v : MaskReg) : (c.setMask r v).params = c.params := by
  unfold Ctx.setMask; split <;> rfl
@[simp] theorem Ctx.fregs_setMask (c : Ctx) (r : Nat) (v : MaskReg) : (c.setMask r v).fregs = c.fregs := by
  unfold Ctx.setMask; split <;> rfl
@[simp] theorem Ctx.latches_setMask (c : Ctx) (r : Nat) (v : MaskReg) : (c.setMask r v).latches = c.latches := by
  unfold Ctx.setMask; split <;> rfl
@[simp] theorem Ctx.flight_setMask (c : Ctx) (r : Nat) (v : MaskReg) : (c.setMask r v).flight = c.flight := by
  unfold Ctx.setMask; split <;> rfl
@[simp] theorem Ctx.loops_setMask (c : Ctx) (r : Nat) (v : MaskReg) : (c.setMask r v).loops = c.loops := by
  unfold Ctx.setMask; split <;> rfl
@[simp] theorem Ctx.csr_setMask (c : Ctx) (r : Nat) (v : MaskReg) : (c.setMask r v).csr = c.csr := by
  unfold Ctx.setMask; split <;> rfl
@[simp] theorem Ctx.qUnits_setMask (c : Ctx) (r : Nat) (v : MaskReg) : (c.setMask r v).qUnits = c.qUnits := by
  unfold Ctx.setMask; split <;> rfl
@[simp] theorem Ctx.qBundles_setMask (c : Ctx) (r : Nat) (v : MaskReg) : (c.setMask r v).qBundles = c.qBundles := by
  unfold Ctx.setMask; split <;> rfl
@[simp] theorem Ctx.qwLim_setMask (c : Ctx) (r : Nat) (v : MaskReg) : (c.setMask r v).qwLim = c.qwLim := by
  unfold Ctx.setMask; split <;> rfl
@[simp] theorem Ctx.qbLim_setMask (c : Ctx) (r : Nat) (v : MaskReg) : (c.setMask r v).qbLim = c.qbLim := by
  unfold Ctx.setMask; split <;> rfl
@[simp] theorem Ctx.qFresh_setMask (c : Ctx) (r : Nat) (v : MaskReg) : (c.setMask r v).qFresh = c.qFresh := by
  unfold Ctx.setMask; split <;> rfl
@[simp] theorem Ctx.wait_setMask (c : Ctx) (r : Nat) (v : MaskReg) : (c.setMask r v).wait = c.wait := by
  unfold Ctx.setMask; split <;> rfl
@[simp] theorem Ctx.kids_setMask (c : Ctx) (r : Nat) (v : MaskReg) : (c.setMask r v).kids = c.kids := by
  unfold Ctx.setMask; split <;> rfl
@[simp] theorem Ctx.rounds_setMask (c : Ctx) (r : Nat) (v : MaskReg) : (c.setMask r v).rounds = c.rounds := by
  unfold Ctx.setMask; split <;> rfl
@[simp] theorem Ctx.stopReq_setMask (c : Ctx) (r : Nat) (v : MaskReg) : (c.setMask r v).stopReq = c.stopReq := by
  unfold Ctx.setMask; split <;> rfl
@[simp] theorem Ctx.askedBy_setMask (c : Ctx) (r : Nat) (v : MaskReg) : (c.setMask r v).askedBy = c.askedBy := by
  unfold Ctx.setMask; split <;> rfl
@[simp] theorem Ctx.leaving_setMask (c : Ctx) (r : Nat) (v : MaskReg) : (c.setMask r v).leaving = c.leaving := by
  unfold Ctx.setMask; split <;> rfl
@[simp] theorem Ctx.yielded_setMask (c : Ctx) (r : Nat) (v : MaskReg) : (c.setMask r v).yielded = c.yielded := by
  unfold Ctx.setMask; split <;> rfl
@[simp] theorem Ctx.skip_setMask (c : Ctx) (r : Nat) (v : MaskReg) : (c.setMask r v).skip = c.skip := by
  unfold Ctx.setMask; split <;> rfl
@[simp] theorem Ctx.spCount_setMask (c : Ctx) (r : Nat) (v : MaskReg) : (c.setMask r v).spCount = c.spCount := by
  unfold Ctx.setMask; split <;> rfl
@[simp] theorem Ctx.loads_setMask (c : Ctx) (r : Nat) (v : MaskReg) : (c.setMask r v).loads = c.loads := by
  unfold Ctx.setMask; split <;> rfl
@[simp] theorem Ctx.gloads_setMask (c : Ctx) (r : Nat) (v : MaskReg) : (c.setMask r v).gloads = c.gloads := by
  unfold Ctx.setMask; split <;> rfl
@[simp] theorem Ctx.dqs_setMask (c : Ctx) (r : Nat) (v : MaskReg) : (c.setMask r v).dqs = c.dqs := by
  unfold Ctx.setMask; split <;> rfl
@[simp] theorem Ctx.scans_setMask (c : Ctx) (r : Nat) (v : MaskReg) : (c.setMask r v).scans = c.scans := by
  unfold Ctx.setMask; split <;> rfl
@[simp] theorem Ctx.fops_setMask (c : Ctx) (r : Nat) (v : MaskReg) : (c.setMask r v).fops = c.fops := by
  unfold Ctx.setMask; split <;> rfl
@[simp] theorem Ctx.remotes_setMask (c : Ctx) (r : Nat) (v : MaskReg) : (c.setMask r v).remotes = c.remotes := by
  unfold Ctx.setMask; split <;> rfl
@[simp] theorem Ctx.calls_setMask (c : Ctx) (r : Nat) (v : MaskReg) : (c.setMask r v).calls = c.calls := by
  unfold Ctx.setMask; split <;> rfl
@[simp] theorem Ctx.done_setMask (c : Ctx) (r : Nat) (v : MaskReg) : (c.setMask r v).done = c.done := by
  unfold Ctx.setMask; split <;> rfl
@[simp] theorem Ctx.nextSeq_setMask (c : Ctx) (r : Nat) (v : MaskReg) : (c.setMask r v).nextSeq = c.nextSeq := by
  unfold Ctx.setMask; split <;> rfl
@[simp] theorem Ctx.lnwaits_setMask (c : Ctx) (r : Nat) (v : MaskReg) : (c.setMask r v).lnwaits = c.lnwaits := by
  unfold Ctx.setMask; split <;> rfl
@[simp] theorem Ctx.channels_setMask (c : Ctx) (r : Nat) (v : MaskReg) : (c.setMask r v).channels = c.channels := by
  unfold Ctx.setMask; split <;> rfl
@[simp] theorem Ctx.queues_setMask (c : Ctx) (r : Nat) (v : MaskReg) : (c.setMask r v).queues = c.queues := by
  unfold Ctx.setMask; split <;> rfl
@[simp] theorem Ctx.mfsub_setMask (c : Ctx) (r : Nat) (v : MaskReg) : (c.setMask r v).mfsub = c.mfsub := by
  unfold Ctx.setMask; split <;> rfl
@[simp] theorem Ctx.mfrtn_setMask (c : Ctx) (r : Nat) (v : MaskReg) : (c.setMask r v).mfrtn = c.mfrtn := by
  unfold Ctx.setMask; split <;> rfl
@[simp] theorem Ctx.run_setMask (c : Ctx) (r : Nat) (v : MaskReg) : (c.setMask r v).run = c.run := by
  unfold Ctx.setMask; split <;> rfl
@[simp] theorem Ctx.life_orFlags (c : Ctx) (g : BitVec 6) : (c.orFlags g).life = c.life := rfl
@[simp] theorem Ctx.who_orFlags (c : Ctx) (g : BitVec 6) : (c.orFlags g).who = c.who := rfl
@[simp] theorem Ctx.pc_orFlags (c : Ctx) (g : BitVec 6) : (c.orFlags g).pc = c.pc := rfl
@[simp] theorem Ctx.count_orFlags (c : Ctx) (g : BitVec 6) : (c.orFlags g).count = c.count := rfl
@[simp] theorem Ctx.tiles_orFlags (c : Ctx) (g : BitVec 6) : (c.orFlags g).tiles = c.tiles := rfl
@[simp] theorem Ctx.scalars_orFlags (c : Ctx) (g : BitVec 6) : (c.orFlags g).scalars = c.scalars := rfl
@[simp] theorem Ctx.masks_orFlags (c : Ctx) (g : BitVec 6) : (c.orFlags g).masks = c.masks := rfl
@[simp] theorem Ctx.params_orFlags (c : Ctx) (g : BitVec 6) : (c.orFlags g).params = c.params := rfl
@[simp] theorem Ctx.fregs_orFlags (c : Ctx) (g : BitVec 6) : (c.orFlags g).fregs = c.fregs := rfl
@[simp] theorem Ctx.latches_orFlags (c : Ctx) (g : BitVec 6) : (c.orFlags g).latches = c.latches := rfl
@[simp] theorem Ctx.flight_orFlags (c : Ctx) (g : BitVec 6) : (c.orFlags g).flight = c.flight := rfl
@[simp] theorem Ctx.loops_orFlags (c : Ctx) (g : BitVec 6) : (c.orFlags g).loops = c.loops := rfl
@[simp] theorem Ctx.qUnits_orFlags (c : Ctx) (g : BitVec 6) : (c.orFlags g).qUnits = c.qUnits := rfl
@[simp] theorem Ctx.qBundles_orFlags (c : Ctx) (g : BitVec 6) : (c.orFlags g).qBundles = c.qBundles := rfl
@[simp] theorem Ctx.qwLim_orFlags (c : Ctx) (g : BitVec 6) : (c.orFlags g).qwLim = c.qwLim := rfl
@[simp] theorem Ctx.qbLim_orFlags (c : Ctx) (g : BitVec 6) : (c.orFlags g).qbLim = c.qbLim := rfl
@[simp] theorem Ctx.qFresh_orFlags (c : Ctx) (g : BitVec 6) : (c.orFlags g).qFresh = c.qFresh := rfl
@[simp] theorem Ctx.wait_orFlags (c : Ctx) (g : BitVec 6) : (c.orFlags g).wait = c.wait := rfl
@[simp] theorem Ctx.kids_orFlags (c : Ctx) (g : BitVec 6) : (c.orFlags g).kids = c.kids := rfl
@[simp] theorem Ctx.rounds_orFlags (c : Ctx) (g : BitVec 6) : (c.orFlags g).rounds = c.rounds := rfl
@[simp] theorem Ctx.stopReq_orFlags (c : Ctx) (g : BitVec 6) : (c.orFlags g).stopReq = c.stopReq := rfl
@[simp] theorem Ctx.askedBy_orFlags (c : Ctx) (g : BitVec 6) : (c.orFlags g).askedBy = c.askedBy := rfl
@[simp] theorem Ctx.leaving_orFlags (c : Ctx) (g : BitVec 6) : (c.orFlags g).leaving = c.leaving := rfl
@[simp] theorem Ctx.yielded_orFlags (c : Ctx) (g : BitVec 6) : (c.orFlags g).yielded = c.yielded := rfl
@[simp] theorem Ctx.skip_orFlags (c : Ctx) (g : BitVec 6) : (c.orFlags g).skip = c.skip := rfl
@[simp] theorem Ctx.spCount_orFlags (c : Ctx) (g : BitVec 6) : (c.orFlags g).spCount = c.spCount := rfl
@[simp] theorem Ctx.loads_orFlags (c : Ctx) (g : BitVec 6) : (c.orFlags g).loads = c.loads := rfl
@[simp] theorem Ctx.gloads_orFlags (c : Ctx) (g : BitVec 6) : (c.orFlags g).gloads = c.gloads := rfl
@[simp] theorem Ctx.dqs_orFlags (c : Ctx) (g : BitVec 6) : (c.orFlags g).dqs = c.dqs := rfl
@[simp] theorem Ctx.scans_orFlags (c : Ctx) (g : BitVec 6) : (c.orFlags g).scans = c.scans := rfl
@[simp] theorem Ctx.fops_orFlags (c : Ctx) (g : BitVec 6) : (c.orFlags g).fops = c.fops := rfl
@[simp] theorem Ctx.remotes_orFlags (c : Ctx) (g : BitVec 6) : (c.orFlags g).remotes = c.remotes := rfl
@[simp] theorem Ctx.calls_orFlags (c : Ctx) (g : BitVec 6) : (c.orFlags g).calls = c.calls := rfl
@[simp] theorem Ctx.done_orFlags (c : Ctx) (g : BitVec 6) : (c.orFlags g).done = c.done := rfl
@[simp] theorem Ctx.nextSeq_orFlags (c : Ctx) (g : BitVec 6) : (c.orFlags g).nextSeq = c.nextSeq := rfl
@[simp] theorem Ctx.lnwaits_orFlags (c : Ctx) (g : BitVec 6) : (c.orFlags g).lnwaits = c.lnwaits := rfl
@[simp] theorem Ctx.channels_orFlags (c : Ctx) (g : BitVec 6) : (c.orFlags g).channels = c.channels := rfl
@[simp] theorem Ctx.queues_orFlags (c : Ctx) (g : BitVec 6) : (c.orFlags g).queues = c.queues := rfl
@[simp] theorem Ctx.mfsub_orFlags (c : Ctx) (g : BitVec 6) : (c.orFlags g).mfsub = c.mfsub := rfl
@[simp] theorem Ctx.mfrtn_orFlags (c : Ctx) (g : BitVec 6) : (c.orFlags g).mfrtn = c.mfrtn := rfl
@[simp] theorem Ctx.run_orFlags (c : Ctx) (g : BitVec 6) : (c.orFlags g).run = c.run := rfl
@[simp] theorem Ctx.tile_setTile_self (c : Ctx) (r : Nat) (v : TileReg) : (c.setTile r v).tile r = v := tget_tset_self _ _ r v
theorem Ctx.tile_setTile (c : Ctx) (r n : Nat) (v : TileReg) : (c.setTile r v).tile n = if n = r then v else c.tile n := tget_tset _ _ r n v
@[simp] theorem Ctx.param_setParam_self (c : Ctx) (r : Nat) (v : Word) : (c.setParam r v).param r = v := tget_tset_self _ _ r v
theorem Ctx.param_setParam (c : Ctx) (r n : Nat) (v : Word) : (c.setParam r v).param n = if n = r then v else c.param n := tget_tset _ _ r n v
@[simp] theorem Ctx.freg_setFreg_self (c : Ctx) (r : Nat) (v : FuncReg) : (c.setFreg r v).freg r = v := tget_tset_self _ _ r v
theorem Ctx.freg_setFreg (c : Ctx) (r n : Nat) (v : FuncReg) : (c.setFreg r v).freg n = if n = r then v else c.freg n := tget_tset _ _ r n v
@[simp] theorem Ctx.chan_setChan_self (c : Ctx) (r : Nat) (v : Channel) : (c.setChan r v).chan r = v := tget_tset_self _ _ r v
theorem Ctx.chan_setChan (c : Ctx) (r n : Nat) (v : Channel) : (c.setChan r v).chan n = if n = r then v else c.chan n := tget_tset _ _ r n v
@[simp] theorem Ctx.queue_setQueue_self (c : Ctx) (r : Nat) (v : IQueue) : (c.setQueue r v).queue r = v := tget_tset_self _ _ r v
theorem Ctx.queue_setQueue (c : Ctx) (r n : Nat) (v : IQueue) : (c.setQueue r v).queue n = if n = r then v else c.queue n := tget_tset _ _ r n v
@[simp] theorem Ctx.scalar_zero (c : Ctx) : c.scalar 0 = ScalarReg.zero := rfl
@[simp] theorem Ctx.setScalar_zero (c : Ctx) (v : ScalarReg) : c.setScalar 0 v = c := rfl
@[simp] theorem Ctx.setMask_zero (c : Ctx) (v : MaskReg) : c.setMask 0 v = c := rfl
theorem Ctx.scalar_setScalar (c : Ctx) (r n : Nat) (v : ScalarReg) :
    (c.setScalar r v).scalar n = if n = r ∧ r ≠ 0 then v else c.scalar n := by
  unfold Ctx.setScalar Ctx.scalar
  by_cases hr : r = 0
  · simp [hr]
  · by_cases hn : n = 0
    · simp [hr, hn]; omega
    · simp [hr, hn, tget_tset]
theorem Ctx.mask_setMask (c : Ctx) (r n : Nat) (v : MaskReg) :
    (c.setMask r v).mask n = if n = r ∧ r ≠ 0 then v else c.mask n := by
  unfold Ctx.setMask Ctx.mask
  by_cases hr : r = 0
  · simp [hr]
  · by_cases hn : n = 0
    · simp [hr, hn]; omega
    · simp [hr, hn, tget_tset]

end Sys2Proof.Machine
end

