-- ==== Sys2Proof/Laws/Dispatch.lean ====
section
/-!
SUPPORT. The arms of the dispatch as equations, one for each constructor of `Instr`, true by rfl: later proofs rewrite with them and never
unfold the dispatch.
-/
namespace Sys2Proof.Machine

@[simp] theorem exec_nop (slot : Slot) (s : State) : exec (.nop slot) s = execNop slot s := rfl
@[simp] theorem exec_ill (slot : Slot) (s : State) : exec (.ill slot) s = execIll slot s := rfl
@[simp] theorem exec_add (sd : SReg) (sa : SReg) (sb : SReg) (s : State) : exec (.add sd sa sb) s = execAdd sd sa sb s := rfl
@[simp] theorem exec_sub (sd : SReg) (sa : SReg) (sb : SReg) (s : State) : exec (.sub sd sa sb) s = execSub sd sa sb s := rfl
@[simp] theorem exec_and (sd : SReg) (sa : SReg) (sb : SReg) (s : State) : exec (.and sd sa sb) s = execAnd sd sa sb s := rfl
@[simp] theorem exec_or (sd : SReg) (sa : SReg) (sb : SReg) (s : State) : exec (.or sd sa sb) s = execOr sd sa sb s := rfl
@[simp] theorem exec_xor (sd : SReg) (sa : SReg) (sb : SReg) (s : State) : exec (.xor sd sa sb) s = execXor sd sa sb s := rfl
@[simp] theorem exec_shl (sd : SReg) (sa : SReg) (sb : SReg) (s : State) : exec (.shl sd sa sb) s = execShl sd sa sb s := rfl
@[simp] theorem exec_shr (sd : SReg) (sa : SReg) (sb : SReg) (s : State) : exec (.shr sd sa sb) s = execShr sd sa sb s := rfl
@[simp] theorem exec_sar (sd : SReg) (sa : SReg) (sb : SReg) (s : State) : exec (.sar sd sa sb) s = execSar sd sa sb s := rfl
@[simp] theorem exec_mul (sd : SReg) (sa : SReg) (sb : SReg) (s : State) : exec (.mul sd sa sb) s = execMul sd sa sb s := rfl
@[simp] theorem exec_mulh (sd : SReg) (sa : SReg) (sb : SReg) (s : State) : exec (.mulh sd sa sb) s = execMulh sd sa sb s := rfl
@[simp] theorem exec_mulhu (sd : SReg) (sa : SReg) (sb : SReg) (s : State) : exec (.mulhu sd sa sb) s = execMulhu sd sa sb s := rfl
@[simp] theorem exec_div (sd : SReg) (sa : SReg) (sb : SReg) (s : State) : exec (.div sd sa sb) s = execDiv sd sa sb s := rfl
@[simp] theorem exec_divu (sd : SReg) (sa : SReg) (sb : SReg) (s : State) : exec (.divu sd sa sb) s = execDivu sd sa sb s := rfl
@[simp] theorem exec_rem (sd : SReg) (sa : SReg) (sb : SReg) (s : State) : exec (.rem sd sa sb) s = execRem sd sa sb s := rfl
@[simp] theorem exec_remu (sd : SReg) (sa : SReg) (sb : SReg) (s : State) : exec (.remu sd sa sb) s = execRemu sd sa sb s := rfl
@[simp] theorem exec_min (sd : SReg) (sa : SReg) (sb : SReg) (s : State) : exec (.min sd sa sb) s = execMin sd sa sb s := rfl
@[simp] theorem exec_max (sd : SReg) (sa : SReg) (sb : SReg) (s : State) : exec (.max sd sa sb) s = execMax sd sa sb s := rfl
@[simp] theorem exec_minu (sd : SReg) (sa : SReg) (sb : SReg) (s : State) : exec (.minu sd sa sb) s = execMinu sd sa sb s := rfl
@[simp] theorem exec_maxu (sd : SReg) (sa : SReg) (sb : SReg) (s : State) : exec (.maxu sd sa sb) s = execMaxu sd sa sb s := rfl
@[simp] theorem exec_sel (sd : SReg) (sa : SReg) (sb : SReg) (sc : SReg) (s : State) : exec (.sel sd sa sb sc) s = execSel sd sa sb sc s := rfl
@[simp] theorem exec_cmp (cc : ICond) (sd : SReg) (sa : SReg) (sb : SReg) (s : State) : exec (.cmp cc sd sa sb) s = execCmp cc sd sa sb s := rfl
@[simp] theorem exec_clz (sd : SReg) (sa : SReg) (s : State) : exec (.clz sd sa) s = execClz sd sa s := rfl
@[simp] theorem exec_popc (sd : SReg) (sa : SReg) (s : State) : exec (.popc sd sa) s = execPopc sd sa s := rfl
@[simp] theorem exec_brev (sd : SReg) (sa : SReg) (s : State) : exec (.brev sd sa) s = execBrev sd sa s := rfl
@[simp] theorem exec_addi (sd : SReg) (sa : SReg) (imm : BitVec 32) (s : State) : exec (.addi sd sa imm) s = execAddi sd sa imm s := rfl
@[simp] theorem exec_andi (sd : SReg) (sa : SReg) (imm : BitVec 32) (s : State) : exec (.andi sd sa imm) s = execAndi sd sa imm s := rfl
@[simp] theorem exec_ori (sd : SReg) (sa : SReg) (imm : BitVec 32) (s : State) : exec (.ori sd sa imm) s = execOri sd sa imm s := rfl
@[simp] theorem exec_xori (sd : SReg) (sa : SReg) (imm : BitVec 32) (s : State) : exec (.xori sd sa imm) s = execXori sd sa imm s := rfl
@[simp] theorem exec_shli (sd : SReg) (sa : SReg) (amt : BitVec 6) (s : State) : exec (.shli sd sa amt) s = execShli sd sa amt s := rfl
@[simp] theorem exec_shri (sd : SReg) (sa : SReg) (amt : BitVec 6) (s : State) : exec (.shri sd sa amt) s = execShri sd sa amt s := rfl
@[simp] theorem exec_sari (sd : SReg) (sa : SReg) (amt : BitVec 6) (s : State) : exec (.sari sd sa amt) s = execSari sd sa amt s := rfl
@[simp] theorem exec_li (sd : SReg) (imm : BitVec 32) (s : State) : exec (.li sd imm) s = execLi sd imm s := rfl
@[simp] theorem exec_lih (sd : SReg) (imm : BitVec 32) (s : State) : exec (.lih sd imm) s = execLih sd imm s := rfl
@[simp] theorem exec_cmpi (cc : ICond) (sd : SReg) (sa : SReg) (imm : BitVec 28) (s : State) : exec (.cmpi cc sd sa imm) s = execCmpi cc sd sa imm s := rfl
@[simp] theorem exec_fadd (sd : SReg) (sa : SReg) (sb : SReg) (s : State) : exec (.fadd sd sa sb) s = execFadd sd sa sb s := rfl
@[simp] theorem exec_fsub (sd : SReg) (sa : SReg) (sb : SReg) (s : State) : exec (.fsub sd sa sb) s = execFsub sd sa sb s := rfl
@[simp] theorem exec_fmul (sd : SReg) (sa : SReg) (sb : SReg) (s : State) : exec (.fmul sd sa sb) s = execFmul sd sa sb s := rfl
@[simp] theorem exec_ffma (sd : SReg) (sa : SReg) (sb : SReg) (sc : SReg) (s : State) : exec (.ffma sd sa sb sc) s = execFfma sd sa sb sc s := rfl
@[simp] theorem exec_fmin (sd : SReg) (sa : SReg) (sb : SReg) (s : State) : exec (.fmin sd sa sb) s = execFmin sd sa sb s := rfl
@[simp] theorem exec_fmax (sd : SReg) (sa : SReg) (sb : SReg) (s : State) : exec (.fmax sd sa sb) s = execFmax sd sa sb s := rfl
@[simp] theorem exec_fcmp (cc : FCond) (sd : SReg) (sa : SReg) (sb : SReg) (s : State) : exec (.fcmp cc sd sa sb) s = execFcmp cc sd sa sb s := rfl
@[simp] theorem exec_fcvt (k : FCvt) (sd : SReg) (sa : SReg) (s : State) : exec (.fcvt k sd sa) s = execFcvt k sd sa s := rfl
@[simp] theorem exec_j (disp : BitVec 32) (s : State) : exec (.j disp) s = execJ disp s := rfl
@[simp] theorem exec_jr (sa : SReg) (s : State) : exec (.jr sa) s = execJr sa s := rfl
@[simp] theorem exec_call (f1 : SReg) (disp : BitVec 32) (s : State) : exec (.call f1 disp) s = execCall f1 disp s := rfl
@[simp] theorem exec_callr (sd : SReg) (sa : SReg) (s : State) : exec (.callr sd sa) s = execCallr sd sa s := rfl
@[simp] theorem exec_ret (sa : SReg) (s : State) : exec (.ret sa) s = execRet sa s := rfl
@[simp] theorem exec_bz (f1 : SReg) (disp : BitVec 32) (s : State) : exec (.bz f1 disp) s = execBz f1 disp s := rfl
@[simp] theorem exec_bnz (f1 : SReg) (disp : BitVec 32) (s : State) : exec (.bnz f1 disp) s = execBnz f1 disp s := rfl
@[simp] theorem exec_bcmp (cc : ICond) (f1 : SReg) (f2 : SReg) (disp : BitVec 32) (s : State) : exec (.bcmp cc f1 f2 disp) s = execBcmp cc f1 f2 disp s := rfl
@[simp] theorem exec_loop (sa : SReg) (last : BitVec 21) (s : State) : exec (.loop sa last) s = execLoop sa last s := rfl
@[simp] theorem exec_loopi (count : BitVec 16) (last : BitVec 21) (s : State) : exec (.loopi count last) s = execLoopi count last s := rfl
@[simp] theorem exec_gld (size : BitVec 2) (sd : SReg) (base : SReg) (disp : BitVec 32) (s : State) : exec (.gld size sd base disp) s = execGld size sd base disp s := rfl
@[simp] theorem exec_gldQ (size : BitVec 2) (sd : SReg) (base : SReg) (disp : BitVec 32) (s : State) : exec (.gldQ size sd base disp) s = execGldQ size sd base disp s := rfl
@[simp] theorem exec_gst (size : BitVec 2) (sd : SReg) (base : SReg) (disp : BitVec 32) (s : State) : exec (.gst size sd base disp) s = execGst size sd base disp s := rfl
@[simp] theorem exec_gamo (f : AFunc) (size : BitVec 2) (sd : SReg) (base : SReg) (disp : BitVec 32) (sv : SReg) (s : State) : exec (.gamo f size sd base disp sv) s = execGamo f size sd base disp sv s := rfl
@[simp] theorem exec_globalLoadComplete (h : Nat) (k : Nat) (s : State) : exec (.globalLoadComplete h k) s = execGlobalLoadComplete h k s := rfl
@[simp] theorem exec_csrr (sd : SReg) (n : BitVec 12) (s : State) : exec (.csrr sd n) s = execCsrr sd n s := rfl
@[simp] theorem exec_csrw (n : BitVec 12) (sa : SReg) (s : State) : exec (.csrw n sa) s = execCsrw n sa s := rfl
@[simp] theorem exec_svc (n : BitVec 32) (s : State) : exec (.svc n) s = execSvc n s := rfl
@[simp] theorem exec_brk (n : BitVec 32) (s : State) : exec (.brk n) s = execBrk n s := rfl
@[simp] theorem exec_tret (s : State) : exec (.tret) s = execTret s := rfl
@[simp] theorem exec_tsc (sd : SReg) (s : State) : exec (.tsc sd) s = execTsc sd s := rfl
@[simp] theorem exec_ixpop (q : QNo) (sd : SReg) (s : State) : exec (.ixpop q sd) s = execIxpop q sd s := rfl
@[simp] theorem exec_ixpeek (q : QNo) (sd : SReg) (sa : SReg) (s : State) : exec (.ixpeek q sd sa) s = execIxpeek q sd sa s := rfl
@[simp] theorem exec_vadd (u : VUnit) (td : TReg) (m : MReg) (a : TSrc) (b : BSrc) (t : EType) (s : State) : exec (.vadd u td m a b t) s = execVadd u td m a b t s := rfl
@[simp] theorem exec_vsub (u : VUnit) (td : TReg) (m : MReg) (a : TSrc) (b : BSrc) (t : EType) (s : State) : exec (.vsub u td m a b t) s = execVsub u td m a b t s := rfl
@[simp] theorem exec_vmul (u : VUnit) (td : TReg) (m : MReg) (a : TSrc) (b : BSrc) (t : EType) (s : State) : exec (.vmul u td m a b t) s = execVmul u td m a b t s := rfl
@[simp] theorem exec_vfma (u : VUnit) (td : TReg) (m : MReg) (a : TSrc) (b : BSrc) (c : TSrc) (t : EType) (s : State) : exec (.vfma u td m a b c t) s = execVfma u td m a b c t s := rfl
@[simp] theorem exec_vfms (u : VUnit) (td : TReg) (m : MReg) (a : TSrc) (b : BSrc) (c : TSrc) (t : EType) (s : State) : exec (.vfms u td m a b c t) s = execVfms u td m a b c t s := rfl
@[simp] theorem exec_vfnma (u : VUnit) (td : TReg) (m : MReg) (a : TSrc) (b : BSrc) (c : TSrc) (t : EType) (s : State) : exec (.vfnma u td m a b c t) s = execVfnma u td m a b c t s := rfl
@[simp] theorem exec_vmin (u : VUnit) (td : TReg) (m : MReg) (a : TSrc) (b : BSrc) (t : EType) (s : State) : exec (.vmin u td m a b t) s = execVmin u td m a b t s := rfl
@[simp] theorem exec_vmax (u : VUnit) (td : TReg) (m : MReg) (a : TSrc) (b : BSrc) (t : EType) (s : State) : exec (.vmax u td m a b t) s = execVmax u td m a b t s := rfl
@[simp] theorem exec_vabs (u : VUnit) (td : TReg) (m : MReg) (a : TSrc) (t : EType) (s : State) : exec (.vabs u td m a t) s = execVabs u td m a t s := rfl
@[simp] theorem exec_vneg (u : VUnit) (td : TReg) (m : MReg) (a : TSrc) (t : EType) (s : State) : exec (.vneg u td m a t) s = execVneg u td m a t s := rfl
@[simp] theorem exec_vcmp (u : VUnit) (cc : FCond) (md : MReg) (m : MReg) (a : TSrc) (b : BSrc) (t : EType) (s : State) : exec (.vcmp u cc md m a b t) s = execVcmp u cc md m a b t s := rfl
@[simp] theorem exec_vsel (u : VUnit) (td : TReg) (m : MReg) (a : TSrc) (b : BSrc) (t : EType) (s : State) : exec (.vsel u td m a b t) s = execVsel u td m a b t s := rfl
@[simp] theorem exec_vclamp (u : VUnit) (td : TReg) (m : MReg) (a : TSrc) (b : BSrc) (c : TSrc) (t : EType) (s : State) : exec (.vclamp u td m a b c t) s = execVclamp u td m a b c t s := rfl
@[simp] theorem exec_viadd (u : VUnit) (td : TReg) (m : MReg) (a : TSrc) (b : BSrc) (t : EType) (s : State) : exec (.viadd u td m a b t) s = execViadd u td m a b t s := rfl
@[simp] theorem exec_visub (u : VUnit) (td : TReg) (m : MReg) (a : TSrc) (b : BSrc) (t : EType) (s : State) : exec (.visub u td m a b t) s = execVisub u td m a b t s := rfl
@[simp] theorem exec_vimul (u : VUnit) (td : TReg) (m : MReg) (a : TSrc) (b : BSrc) (t : EType) (s : State) : exec (.vimul u td m a b t) s = execVimul u td m a b t s := rfl
@[simp] theorem exec_vimulh (u : VUnit) (td : TReg) (m : MReg) (a : TSrc) (b : BSrc) (t : EType) (s : State) : exec (.vimulh u td m a b t) s = execVimulh u td m a b t s := rfl
@[simp] theorem exec_vshl (u : VUnit) (td : TReg) (m : MReg) (a : TSrc) (b : BSrc) (t : EType) (s : State) : exec (.vshl u td m a b t) s = execVshl u td m a b t s := rfl
@[simp] theorem exec_vshr (u : VUnit) (td : TReg) (m : MReg) (a : TSrc) (b : BSrc) (t : EType) (s : State) : exec (.vshr u td m a b t) s = execVshr u td m a b t s := rfl
@[simp] theorem exec_vsar (u : VUnit) (td : TReg) (m : MReg) (a : TSrc) (b : BSrc) (t : EType) (s : State) : exec (.vsar u td m a b t) s = execVsar u td m a b t s := rfl
@[simp] theorem exec_vand (u : VUnit) (td : TReg) (m : MReg) (a : TSrc) (b : BSrc) (t : EType) (s : State) : exec (.vand u td m a b t) s = execVand u td m a b t s := rfl
@[simp] theorem exec_vor (u : VUnit) (td : TReg) (m : MReg) (a : TSrc) (b : BSrc) (t : EType) (s : State) : exec (.vor u td m a b t) s = execVor u td m a b t s := rfl
@[simp] theorem exec_vxor (u : VUnit) (td : TReg) (m : MReg) (a : TSrc) (b : BSrc) (t : EType) (s : State) : exec (.vxor u td m a b t) s = execVxor u td m a b t s := rfl
@[simp] theorem exec_vnot (u : VUnit) (td : TReg) (m : MReg) (a : TSrc) (t : EType) (s : State) : exec (.vnot u td m a t) s = execVnot u td m a t s := rfl
@[simp] theorem exec_vicmp (u : VUnit) (cc : VICond) (md : MReg) (m : MReg) (a : TSrc) (b : BSrc) (t : EType) (s : State) : exec (.vicmp u cc md m a b t) s = execVicmp u cc md m a b t s := rfl
@[simp] theorem exec_vimin (u : VUnit) (td : TReg) (m : MReg) (a : TSrc) (b : BSrc) (t : EType) (s : State) : exec (.vimin u td m a b t) s = execVimin u td m a b t s := rfl
@[simp] theorem exec_vimax (u : VUnit) (td : TReg) (m : MReg) (a : TSrc) (b : BSrc) (t : EType) (s : State) : exec (.vimax u td m a b t) s = execVimax u td m a b t s := rfl
@[simp] theorem exec_vpopc (u : VUnit) (td : TReg) (m : MReg) (a : TSrc) (t : EType) (s : State) : exec (.vpopc u td m a t) s = execVpopc u td m a t s := rfl
@[simp] theorem exec_vclz (u : VUnit) (td : TReg) (m : MReg) (a : TSrc) (t : EType) (s : State) : exec (.vclz u td m a t) s = execVclz u td m a t s := rfl
@[simp] theorem exec_vcvt (u : VUnit) (td : TReg) (m : MReg) (a : TSrc) (t : EType) (src : EType) (part : BitVec 3) (s : State) : exec (.vcvt u td m a t src part) s = execVcvt u td m a t src part s := rfl
@[simp] theorem exec_vpack (u : VUnit) (scale : Bool) (td : TReg) (a : TSrc) (t : EType) (ktype : BitVec 2) (q : BitVec 3) (s : State) : exec (.vpack u scale td a t ktype q) s = execVpack u scale td a t ktype q s := rfl
@[simp] theorem exec_vunpack (u : VUnit) (td : TReg) (m : MReg) (a : TSrc) (b : TSrc) (t : EType) (xv : BitVec 2) (q : BitVec 3) (s : State) : exec (.vunpack u td m a b t xv q) s = execVunpack u td m a b t xv q s := rfl
@[simp] theorem exec_vmov (u : VUnit) (td : TReg) (m : MReg) (a : TSrc) (t : EType) (s : State) : exec (.vmov u td m a t) s = execVmov u td m a t s := rfl
@[simp] theorem exec_vmovs (u : VUnit) (td : TReg) (m : MReg) (sb : SReg) (t : EType) (s : State) : exec (.vmovs u td m sb t) s = execVmovs u td m sb t s := rfl
@[simp] theorem exec_vmovi (u : VUnit) (td : TReg) (m : MReg) (imm : BitVec 32) (t : EType) (s : State) : exec (.vmovi u td m imm t) s = execVmovi u td m imm t s := rfl
@[simp] theorem exec_vext (u : VUnit) (sd : SReg) (a : TSrc) (sb : SReg) (t : EType) (s : State) : exec (.vext u sd a sb t) s = execVext u sd a sb t s := rfl
@[simp] theorem exec_vins (u : VUnit) (td : TReg) (a : TSrc) (sb : SReg) (sc : SReg) (t : EType) (s : State) : exec (.vins u td a sb sc t) s = execVins u td a sb sc t s := rfl
@[simp] theorem exec_viota (u : VUnit) (td : TReg) (m : MReg) (sb : Option SReg) (t : EType) (s : State) : exec (.viota u td m sb t) s = execViota u td m sb t s := rfl
@[simp] theorem exec_vrotr (u : VUnit) (td : TReg) (m : MReg) (a : TSrc) (k : RotAmt) (t : EType) (s : State) : exec (.vrotr u td m a k t) s = execVrotr u td m a k t s := rfl
@[simp] theorem exec_vrotc (u : VUnit) (td : TReg) (m : MReg) (a : TSrc) (k : RotAmt) (t : EType) (s : State) : exec (.vrotc u td m a k t) s = execVrotc u td m a k t s := rfl
@[simp] theorem exec_vbcr (u : VUnit) (td : TReg) (m : MReg) (a : TSrc) (k : RotAmt) (t : EType) (s : State) : exec (.vbcr u td m a k t) s = execVbcr u td m a k t s := rfl
@[simp] theorem exec_vbcc (u : VUnit) (td : TReg) (m : MReg) (a : TSrc) (k : RotAmt) (t : EType) (s : State) : exec (.vbcc u td m a k t) s = execVbcc u td m a k t s := rfl
@[simp] theorem exec_vredr (u : VUnit) (op : RedOp) (td : TReg) (m : MReg) (a : TSrc) (t : EType) (s : State) : exec (.vredr u op td m a t) s = execVredr u op td m a t s := rfl
@[simp] theorem exec_vredc (u : VUnit) (op : RedOp) (td : TReg) (m : MReg) (a : TSrc) (t : EType) (s : State) : exec (.vredc u op td m a t) s = execVredc u op td m a t s := rfl
@[simp] theorem exec_vperm (u : VUnit) (td : TReg) (m : MReg) (a : TSrc) (b : TSrc) (t : EType) (s : State) : exec (.vperm u td m a b t) s = execVperm u td m a b t s := rfl
@[simp] theorem exec_vrcp (u : VUnit) (td : TReg) (m : MReg) (a : TSrc) (t : EType) (s : State) : exec (.vrcp u td m a t) s = execVrcp u td m a t s := rfl
@[simp] theorem exec_vrsq (u : VUnit) (td : TReg) (m : MReg) (a : TSrc) (t : EType) (s : State) : exec (.vrsq u td m a t) s = execVrsq u td m a t s := rfl
@[simp] theorem exec_vexp2 (u : VUnit) (td : TReg) (m : MReg) (a : TSrc) (t : EType) (s : State) : exec (.vexp2 u td m a t) s = execVexp2 u td m a t s := rfl
@[simp] theorem exec_vlog2 (u : VUnit) (td : TReg) (m : MReg) (a : TSrc) (t : EType) (s : State) : exec (.vlog2 u td m a t) s = execVlog2 u td m a t s := rfl
@[simp] theorem exec_vmerge (u : VUnit) (desc : Bool) (idx : Bool) (hi : Bool) (td : TReg) (m : MReg) (a : TSrc) (b : TSrc) (t : EType) (s : State) : exec (.vmerge u desc idx hi td m a b t) s = execVmerge u desc idx hi td m a b t s := rfl
@[simp] theorem exec_vsort (u : VUnit) (desc : Bool) (idx : Bool) (td : TReg) (m : MReg) (a : TSrc) (t : EType) (s : State) : exec (.vsort u desc idx td m a t) s = execVsort u desc idx td m a t s := rfl
@[simp] theorem exec_vtopk (u : VUnit) (least : Bool) (idx : Bool) (td : TReg) (m : MReg) (a : TSrc) (k : BitVec 8) (t : EType) (s : State) : exec (.vtopk u least idx td m a k t) s = execVtopk u least idx td m a k t s := rfl
@[simp] theorem exec_vbound (u : VUnit) (td : TReg) (m : MReg) (a : TSrc) (b : TSrc) (c : TSrc) (g : BitVec 8) (s : State) : exec (.vbound u td m a b c g) s = execVbound u td m a b c g s := rfl
@[simp] theorem exec_mand (u : VUnit) (md : MReg) (ma : MReg) (mb : MReg) (s : State) : exec (.mand u md ma mb) s = execMand u md ma mb s := rfl
@[simp] theorem exec_mor (u : VUnit) (md : MReg) (ma : MReg) (mb : MReg) (s : State) : exec (.mor u md ma mb) s = execMor u md ma mb s := rfl
@[simp] theorem exec_mxor (u : VUnit) (md : MReg) (ma : MReg) (mb : MReg) (s : State) : exec (.mxor u md ma mb) s = execMxor u md ma mb s := rfl
@[simp] theorem exec_mnot (u : VUnit) (md : MReg) (ma : MReg) (s : State) : exec (.mnot u md ma) s = execMnot u md ma s := rfl
@[simp] theorem exec_mpopc (u : VUnit) (sd : SReg) (ma : MReg) (t : EType) (s : State) : exec (.mpopc u sd ma t) s = execMpopc u sd ma t s := rfl
@[simp] theorem exec_mfirst (u : VUnit) (sd : SReg) (ma : MReg) (t : EType) (s : State) : exec (.mfirst u sd ma t) s = execMfirst u sd ma t s := rfl
@[simp] theorem exec_mset (u : VUnit) (md : MReg) (k : MSetKind) (s : State) : exec (.mset u md k) s = execMset u md k s := rfl
@[simp] theorem exec_cheval (clamp : Bool) (td : TReg) (m : MReg) (fa : FReg) (b : BSrc) (s : State) : exec (.cheval clamp td m fa b) s = execCheval clamp td m fa b s := rfl
@[simp] theorem exec_chfit (fd : FReg) (ta : TSrc) (sc : SReg) (n : BitVec 8) (s : State) : exec (.chfit fd ta sc n) s = execChfit fd ta sc n s := rfl
@[simp] theorem exec_chadd (fd : FReg) (fa : FReg) (fb : FReg) (s : State) : exec (.chadd fd fa fb) s = execChadd fd fa fb s := rfl
@[simp] theorem exec_chsub (fd : FReg) (fa : FReg) (fb : FReg) (s : State) : exec (.chsub fd fa fb) s = execChsub fd fa fb s := rfl
@[simp] theorem exec_chmul (fd : FReg) (fa : FReg) (fb : FReg) (s : State) : exec (.chmul fd fa fb) s = execChmul fd fa fb s := rfl
@[simp] theorem exec_chscl (addv : Bool) (fd : FReg) (fa : FReg) (sb : SReg) (s : State) : exec (.chscl addv fd fa sb) s = execChscl addv fd fa sb s := rfl
@[simp] theorem exec_chcmp (fd : FReg) (fa : FReg) (fb : FReg) (n : BitVec 8) (s : State) : exec (.chcmp fd fa fb n) s = execChcmp fd fa fb n s := rfl
@[simp] theorem exec_chint (fd : FReg) (fa : FReg) (s : State) : exec (.chint fd fa) s = execChint fd fa s := rfl
@[simp] theorem exec_chdif (fd : FReg) (fa : FReg) (s : State) : exec (.chdif fd fa) s = execChdif fd fa s := rfl
@[simp] theorem exec_chroot (td : TReg) (sb : SReg) (fa : FReg) (row : BitVec 4) (s : State) : exec (.chroot td sb fa row) s = execChroot td sb fa row s := rfl
@[simp] theorem exec_chtrn (fd : FReg) (fa : FReg) (tol : Option SReg) (n : BitVec 8) (s : State) : exec (.chtrn fd fa tol n) s = execChtrn fd fa tol n s := rfl
@[simp] theorem exec_chdom (k : ChDom) (s : State) : exec (.chdom k) s = execChdom k s := rfl
@[simp] theorem exec_chmov (k : ChMov) (s : State) : exec (.chmov k) s = execChmov k s := rfl
@[simp] theorem exec_chfree (fd : FReg) (s : State) : exec (.chfree fd) s = execChfree fd s := rfl
@[simp] theorem exec_functionOpComplete (h : Nat) (s : State) : exec (.functionOpComplete h) s = execFunctionOpComplete h s := rfl
@[simp] theorem exec_mcall (lo : Bool) (acc : Bool) (out : Bool) (tn : TReg) (rtn : BitVec 8) (s : State) : exec (.mcall lo acc out tn rtn) s = execMcall lo acc out tn rtn s := rfl
@[simp] theorem exec_msetp (p : PReg) (sa : SReg) (s : State) : exec (.msetp p sa) s = execMsetp p sa s := rfl
@[simp] theorem exec_msetpi (p : PReg) (imm : BitVec 38) (s : State) : exec (.msetpi p imm) s = execMsetpi p imm s := rfl
@[simp] theorem exec_mstat (sd : SReg) (lo : Bool) (s : State) : exec (.mstat sd lo) s = execMstat sd lo s := rfl
@[simp] theorem exec_mpload (rtn : BitVec 8) (ta : TReg) (s : State) : exec (.mpload rtn ta) s = execMpload rtn ta s := rfl
@[simp] theorem exec_mcancel (lo : Bool) (s : State) : exec (.mcancel lo) s = execMcancel lo s := rfl
@[simp] theorem exec_matrixCallStart (core : Nat) (s : State) : exec (.matrixCallStart core) s = execMatrixCallStart core s := rfl
@[simp] theorem exec_matrixCallResume (core : Nat) (s : State) : exec (.matrixCallResume core) s = execMatrixCallResume core s := rfl
@[simp] theorem exec_mploadApply (core : Nat) (s : State) : exec (.mploadApply core) s = execMploadApply core s := rfl
@[simp] theorem exec_agset (g : BitVec 3) (pb : BitVec 3) (w : Bool) (pe : Bool) (pl : BitVec 2) (px : BitVec 3) (off : BitVec 24) (pitch : BitVec 20) (s0 : BitVec 20) (s1 : BitVec 20) (s2 : BitVec 20) (s : State) : exec (.agset g pb w pe pl px off pitch s0 s1 s2) s = execAgset g pb w pe pl px off pitch s0 s1 s2 s := rfl
@[simp] theorem exec_agmc (g : BitVec 3) (mode : BitVec 2) (members : BitVec 8) (src : BitVec 3) (s : State) : exec (.agmc g mode members src) s = execAgmc g mode members src s := rfl
@[simp] theorem exec_mzero (s : State) : exec (.mzero) s = execMzero s := rfl
@[simp] theorem exec_mma (fa : BitVec 4) (fb : BitVec 4) (xv : BitVec 2) (s : State) : exec (.mma fa fb xv) s = execMma fa fb xv s := rfl
@[simp] theorem exec_mloop (l : BitVec 2) (src : BitVec 2) (p : BitVec 3) (last : BitVec 12) (count : BitVec 16) (s : State) : exec (.mloop l src p last count) s = execMloop l src p last count s := rfl
@[simp] theorem exec_mend (l : BitVec 2) (s : State) : exec (.mend l) s = execMend l s := rfl
@[simp] theorem exec_mout (s : State) : exec (.mout) s = execMout s := rfl
@[simp] theorem exec_mcount (l : BitVec 2) (p : BitVec 3) (rd : Bool) (cap : BitVec 16) (off : BitVec 24) (s : State) : exec (.mcount l p rd cap off) s = execMcount l p rd cap off s := rfl
@[simp] theorem exec_myield (s : State) : exec (.myield) s = execMyield s := rfl
@[simp] theorem exec_mstop (s : State) : exec (.mstop) s = execMstop s := rfl
@[simp] theorem exec_multicastTimeout (core : Nat) (s : State) : exec (.multicastTimeout core) s = execMulticastTimeout core s := rfl
@[simp] theorem exec_ldt (clr : Bool) (wt : Bool) (td : TReg) (base : SReg) (stride : SReg) (rows : BitVec 4) (disp : BitVec 32) (s : State) : exec (.ldt clr wt td base stride rows disp) s = execLdt clr wt td base stride rows disp s := rfl
@[simp] theorem exec_ldrw (clr : Bool) (wt : Bool) (td : TReg) (base : SReg) (srow : SReg) (rows : BitVec 4) (disp : BitVec 32) (s : State) : exec (.ldrw clr wt td base srow rows disp) s = execLdrw clr wt td base srow rows disp s := rfl
@[simp] theorem exec_ldg (clr : Bool) (wt : Bool) (td : TReg) (base : SReg) (sp : SReg) (rows : BitVec 4) (disp : BitVec 28) (q : QNo) (s : State) : exec (.ldg clr wt td base sp rows disp q) s = execLdg clr wt td base sp rows disp q s := rfl
@[simp] theorem exec_ldx (clr : Bool) (wt : Bool) (d : Bool) (td : TReg) (base : SReg) (tx : TReg) (s : State) : exec (.ldx clr wt d td base tx) s = execLdx clr wt d td base tx s := rfl
@[simp] theorem exec_lds (clr : Bool) (wt : Bool) (size : BitVec 2) (sd : SReg) (base : SReg) (disp : BitVec 32) (s : State) : exec (.lds clr wt size sd base disp) s = execLds clr wt size sd base disp s := rfl
@[simp] theorem exec_ldf (clr : Bool) (wt : Bool) (fd : FReg) (base : SReg) (disp : BitVec 32) (s : State) : exec (.ldf clr wt fd base disp) s = execLdf clr wt fd base disp s := rfl
@[simp] theorem exec_ldm (clr : Bool) (wt : Bool) (md : MReg) (base : SReg) (disp : BitVec 32) (s : State) : exec (.ldm clr wt md base disp) s = execLdm clr wt md base disp s := rfl
@[simp] theorem exec_stt (fill : Bool) (ta : TReg) (base : SReg) (stride : SReg) (rows : BitVec 4) (disp : BitVec 32) (s : State) : exec (.stt fill ta base stride rows disp) s = execStt fill ta base stride rows disp s := rfl
@[simp] theorem exec_strw (fill : Bool) (ta : TReg) (base : SReg) (srow : SReg) (rows : BitVec 4) (disp : BitVec 32) (s : State) : exec (.strw fill ta base srow rows disp) s = execStrw fill ta base srow rows disp s := rfl
@[simp] theorem exec_stx (fill : Bool) (d : Bool) (ta : TReg) (base : SReg) (tx : TReg) (s : State) : exec (.stx fill d ta base tx) s = execStx fill d ta base tx s := rfl
@[simp] theorem exec_sts (fill : Bool) (size : BitVec 2) (sa : SReg) (base : SReg) (disp : BitVec 32) (s : State) : exec (.sts fill size sa base disp) s = execSts fill size sa base disp s := rfl
@[simp] theorem exec_stf (fill : Bool) (fa : FReg) (base : SReg) (disp : BitVec 32) (s : State) : exec (.stf fill fa base disp) s = execStf fill fa base disp s := rfl
@[simp] theorem exec_stm (fill : Bool) (ma : MReg) (base : SReg) (disp : BitVec 32) (s : State) : exec (.stm fill ma base disp) s = execStm fill ma base disp s := rfl
@[simp] theorem exec_scor (fill : Bool) (d : Bool) (ta : TReg) (base : SReg) (tx : TReg) (s : State) : exec (.scor fill d ta base tx) s = execScor fill d ta base tx s := rfl
@[simp] theorem exec_scadd (fill : Bool) (d : Bool) (ta : TReg) (base : SReg) (tx : TReg) (s : State) : exec (.scadd fill d ta base tx) s = execScadd fill d ta base tx s := rfl
@[simp] theorem exec_scmax (fill : Bool) (uns : Bool) (d : Bool) (ta : TReg) (base : SReg) (tx : TReg) (s : State) : exec (.scmax fill uns d ta base tx) s = execScmax fill uns d ta base tx s := rfl
@[simp] theorem exec_scmin (fill : Bool) (uns : Bool) (d : Bool) (ta : TReg) (base : SReg) (tx : TReg) (s : State) : exec (.scmin fill uns d ta base tx) s = execScmin fill uns d ta base tx s := rfl
@[simp] theorem exec_sete (base : SReg) (stride : SReg) (rows : BitVec 4) (disp : BitVec 32) (s : State) : exec (.sete base stride rows disp) s = execSete base stride rows disp s := rfl
@[simp] theorem exec_setf (base : SReg) (stride : SReg) (rows : BitVec 4) (disp : BitVec 32) (s : State) : exec (.setf base stride rows disp) s = execSetf base stride rows disp s := rfl
@[simp] theorem exec_loadComplete (h : Nat) (k : Nat) (s : State) : exec (.loadComplete h k) s = execLoadComplete h k s := rfl
@[simp] theorem exec_remoteAccessPerform (h : Nat) (k : Nat) (s : State) : exec (.remoteAccessPerform h k) s = execRemoteAccessPerform h k s := rfl
@[simp] theorem exec_copy (ch : BitVec 3) (n : BitVec 6) (sa : SReg) (sb : SReg) (snap : Bool) (asof : Option SReg) (gather : Option QNo) (bar : Option BNo) (s : State) : exec (.copy ch n sa sb snap asof gather bar) s = execCopy ch n sa sb snap asof gather bar s := rfl
@[simp] theorem exec_cbatch (ch : BitVec 3) (s : State) : exec (.cbatch ch) s = execCbatch ch s := rfl
@[simp] theorem exec_cwait (ch : BitVec 3) (m : BitVec 4) (s : State) : exec (.cwait ch m) s = execCwait ch m s := rfl
@[simp] theorem exec_publish (ch : BitVec 3) (s : State) : exec (.publish ch) s = execPublish ch s := rfl
@[simp] theorem exec_ctset (n : BitVec 6) (ta : TReg) (s : State) : exec (.ctset n ta) s = execCtset n ta s := rfl
@[simp] theorem exec_ctsetCode (k : BitVec 2) (ta : TReg) (s : State) : exec (.ctsetCode k ta) s = execCtsetCode k ta s := rfl
@[simp] theorem exec_cstat (sd : SReg) (ch : BitVec 3) (sel : BitVec 2) (clr : Bool) (s : State) : exec (.cstat sd ch sel clr) s = execCstat sd ch sel clr s := rfl
@[simp] theorem exec_copyComplete (h : Nat) (ch : Nat) (k : Nat) (s : State) : exec (.copyComplete h ch k) s = execCopyComplete h ch k s := rfl
@[simp] theorem exec_copyFault (h : Nat) (ch : Nat) (k : Nat) (s : State) : exec (.copyFault h ch k) s = execCopyFault h ch k s := rfl
@[simp] theorem exec_ixscan (q : QNo) (row : Bool) (t : EType) (ta : TReg) (sa : SReg) (sb : SReg) (keep : Bool) (rate : BitVec 4) (s : State) : exec (.ixscan q row t ta sa sb keep rate) s = execIxscan q row t ta sa sb keep rate s := rfl
@[simp] theorem exec_ixbmap (q : QNo) (sa : SReg) (sc : SReg) (sb : SReg) (keep : Bool) (rate : BitVec 4) (s : State) : exec (.ixbmap q sa sc sb keep rate) s = execIxbmap q sa sc sb keep rate s := rfl
@[simp] theorem exec_ixrle (q : QNo) (sa : SReg) (sc : SReg) (sb : SReg) (keep : Bool) (rate : BitVec 4) (s : State) : exec (.ixrle q sa sc sb keep rate) s = execIxrle q sa sc sb keep rate s := rfl
@[simp] theorem exec_ixclr (q : QNo) (s : State) : exec (.ixclr q) s = execIxclr q s := rfl
@[simp] theorem exec_spred (q : QNo) (md : MReg) (ta : TReg) (sa : SReg) (sb : SReg) (n1 : BitVec 10) (keep : Bool) (rate : BitVec 4) (s : State) : exec (.spred q md ta sa sb n1 keep rate) s = execSpred q md ta sa sb n1 keep rate s := rfl
@[simp] theorem exec_guard (q : QNo) (ma : MReg) (tu : TReg) (sa : SReg) (sb : SReg) (sc : SReg) (n1 : BitVec 10) (keep : Bool) (rate : BitVec 4) (s : State) : exec (.guard q ma tu sa sb sc n1 keep rate) s = execGuard q ma tu sa sb sc n1 keep rate s := rfl
@[simp] theorem exec_indexProducerPush (h : Nat) (q : Nat) (s : State) : exec (.indexProducerPush h q) s = execIndexProducerPush h q s := rfl
@[simp] theorem exec_dqry (kind : DKind) (td : TReg) (sa : SReg) (sb : SReg) (s : State) : exec (.dqry kind td sa sb) s = execDqry kind td sa sb s := rfl
@[simp] theorem exec_dqryQ (kind : DKind) (td : TReg) (sa : SReg) (sb : SReg) (s : State) : exec (.dqryQ kind td sa sb) s = execDqryQ kind td sa sb s := rfl
@[simp] theorem exec_dqryComplete (h : Nat) (s : State) : exec (.dqryComplete h) s = execDqryComplete h s := rfl
@[simp] theorem exec_dscan (q : Option QNo) (pred : DPred) (sa : SReg) (sb : SReg) (sc : SReg) (ta : TReg) (score : Option TReg) (sd : SReg) (keep : Bool) (rate : BitVec 4) (s : State) : exec (.dscan q pred sa sb sc ta score sd keep rate) s = execDscan q pred sa sb sc ta score sd keep rate s := rfl
@[simp] theorem exec_drefr (sa : SReg) (sb : SReg) (s : State) : exec (.drefr sa sb) s = execDrefr sa sb s := rfl
@[simp] theorem exec_rcallR (re : Bool) (nt : Bool) (tn : TReg) (sa : SReg) (sb : SReg) (sc : SReg) (sd : SReg) (s : State) : exec (.rcallR re nt tn sa sb sc sd) s = execRcallR re nt tn sa sb sc sd s := rfl
@[simp] theorem exec_rcallQ (re : Bool) (nt : Bool) (tn : TReg) (sa : SReg) (sb : SReg) (sc : SReg) (sd : SReg) (s : State) : exec (.rcallQ re nt tn sa sb sc sd) s = execRcallQ re nt tn sa sb sc sd s := rfl
@[simp] theorem exec_rstat (ack : Bool) (sd : SReg) (sa : SReg) (s : State) : exec (.rstat ack sd sa) s = execRstat ack sd sa s := rfl
@[simp] theorem exec_promote (sa : SReg) (sb : SReg) (sc : SReg) (s : State) : exec (.promote sa sb sc) s = execPromote sa sb sc s := rfl
@[simp] theorem exec_remoteCallStart (h : Nat) (s : State) : exec (.remoteCallStart h) s = execRemoteCallStart h s := rfl
@[simp] theorem exec_replyArrival (h : Nat) (k : Nat) (s : State) : exec (.replyArrival h k) s = execReplyArrival h k s := rfl
@[simp] theorem exec_replyTimeout (h : Nat) (k : Nat) (s : State) : exec (.replyTimeout h k) s = execReplyTimeout h k s := rfl
@[simp] theorem exec_callRunLimit (h : Nat) (s : State) : exec (.callRunLimit h) s = execCallRunLimit h s := rfl
@[simp] theorem exec_lnseq (sa : SReg) (s : State) : exec (.lnseq sa) s = execLnseq sa s := rfl
@[simp] theorem exec_lnwait (sd : SReg) (s : State) : exec (.lnwait sd) s = execLnwait sd s := rfl
@[simp] theorem exec_dfence (s : State) : exec (.dfence) s = execDfence s := rfl
@[simp] theorem exec_bmac (sd : SReg) (sa : SReg) (sb : SReg) (sc : SReg) (n : BitVec 16) (s : State) : exec (.bmac sd sa sb sc n) s = execBmac sd sa sb sc n s := rfl
@[simp] theorem exec_rret (ta : TReg) (sa : SReg) (s : State) : exec (.rret ta sa) s = execRret ta sa s := rfl
@[simp] theorem exec_sequencerComplete (d : Nat) (s : State) : exec (.sequencerComplete d) s = execSequencerComplete d s := rfl
@[simp] theorem exec_sequencerStop (d : Nat) (s : State) : exec (.sequencerStop d) s = execSequencerStop d s := rfl
@[simp] theorem exec_sequencerSuspend (d : Nat) (s : State) : exec (.sequencerSuspend d) s = execSequencerSuspend d s := rfl
@[simp] theorem exec_sequencerResume (d : Nat) (s : State) : exec (.sequencerResume d) s = execSequencerResume d s := rfl
@[simp] theorem exec_ordinaryAccessArrival (d : Nat) (s : State) : exec (.ordinaryAccessArrival d) s = execOrdinaryAccessArrival d s := rfl
@[simp] theorem exec_bmacComplete (d : Nat) (s : State) : exec (.bmacComplete d) s = execBmacComplete d s := rfl
@[simp] theorem exec_postedWriteDrain (d : Nat) (s : State) : exec (.postedWriteDrain d) s = execPostedWriteDrain d s := rfl
@[simp] theorem exec_bset (clr : Bool) (k : BNo) (sa : SReg) (s : State) : exec (.bset clr k sa) s = execBset clr k sa s := rfl
@[simp] theorem exec_binc (k : BNo) (sa : SReg) (sb : SReg) (n : BitVec 16) (s : State) : exec (.binc k sa sb n) s = execBinc k sa sb n s := rfl
@[simp] theorem exec_waitb (k : BNo) (s : State) : exec (.waitb k) s = execWaitb k s := rfl
@[simp] theorem exec_waitany (sd : SReg) (mask : BitVec 8) (s : State) : exec (.waitany sd mask) s = execWaitany sd mask s := rfl
@[simp] theorem exec_qend (s : State) : exec (.qend) s = execQend s := rfl
@[simp] theorem exec_fork (sa : SReg) (sb : SReg) (disp : BitVec 30) (s : State) : exec (.fork sa sb disp) s = execFork sa sb disp s := rfl
@[simp] theorem exec_join (s : State) : exec (.join) s = execJoin s := rfl
@[simp] theorem exec_exit (s : State) : exec (.exit) s = execExit s := rfl
@[simp] theorem exec_yield (s : State) : exec (.yield) s = execYield s := rfl
@[simp] theorem exec_gjoin (g : BitVec 6) (s : State) : exec (.gjoin g) s = execGjoin g s := rfl
@[simp] theorem exec_gleave (g : BitVec 6) (s : State) : exec (.gleave g) s = execGleave g s := rfl
@[simp] theorem exec_gbar (g : BitVec 6) (s : State) : exec (.gbar g) s = execGbar g s := rfl
@[simp] theorem exec_cbar (s : State) : exec (.cbar) s = execCbar s := rfl
@[simp] theorem exec_drain (s : State) : exec (.drain) s = execDrain s := rfl
@[simp] theorem exec_prio (sa : SReg) (n : BitVec 6) (s : State) : exec (.prio sa n) s = execPrio sa n s := rfl
@[simp] theorem exec_spawng (g : BitVec 6) (sa : SReg) (sb : SReg) (disp : BitVec 30) (s : State) : exec (.spawng g sa sb disp) s = execSpawng g sa sb disp s := rfl
@[simp] theorem exec_fencel (s : State) : exec (.fencel) s = execFencel s := rfl
@[simp] theorem exec_halt (sa : SReg) (s : State) : exec (.halt sa) s = execHalt sa s := rfl
@[simp] theorem exec_strandEnd (h : Nat) (s : State) : exec (.strandEnd h) s = execStrandEnd h s := rfl
@[simp] theorem exec_trapEntry (core : Nat) (s : State) : exec (.trapEntry core) s = execTrapEntry core s := rfl
@[simp] theorem exec_safePointOverrun (h : Nat) (s : State) : exec (.safePointOverrun h) s = execSafePointOverrun h s := rfl
@[simp] theorem exec_quantumCommit (l : Nat) (s : State) : exec (.quantumCommit l) s = execQuantumCommit l s := rfl
@[simp] theorem exec_qwQuantumEnd (h : Nat) (s : State) : exec (.qwQuantumEnd h) s = execQwQuantumEnd h s := rfl
@[simp] theorem exec_qbQuantumEnd (h : Nat) (s : State) : exec (.qbQuantumEnd h) s = execQbQuantumEnd h s := rfl
@[simp] theorem exec_promotionCopyDone (k : Nat) (s : State) : exec (.promotionCopyDone k) s = execPromotionCopyDone k s := rfl
@[simp] theorem exec_contextTakeWork (h : Nat) (s : State) : exec (.contextTakeWork h) s = execContextTakeWork h s := rfl
@[simp] theorem exec_stagingComplete (l : Nat) (n : Nat) (s : State) : exec (.stagingComplete l n) s = execStagingComplete l n s := rfl
@[simp] theorem exec_agingTick (die : Nat) (s : State) : exec (.agingTick die) s = execAgingTick die s := rfl
@[simp] theorem exec_clusterReserve (die : Nat) (s : State) : exec (.clusterReserve die) s = execClusterReserve die s := rfl
@[simp] theorem exec_preemptRequest (die : Nat) (k : Nat) (s : State) : exec (.preemptRequest die k) s = execPreemptRequest die k s := rfl
@[simp] theorem exec_strandSave (h : Nat) (s : State) : exec (.strandSave h) s = execStrandSave h s := rfl
@[simp] theorem exec_strandResume (h : Nat) (s : State) : exec (.strandResume h) s = execStrandResume h s := rfl
@[simp] theorem exec_targetedSelfTest (src : Nat) (s : State) : exec (.targetedSelfTest src) s = execTargetedSelfTest src s := rfl
@[simp] theorem exec_rowSelfTest (pa : Nat) (s : State) : exec (.rowSelfTest pa) s = execRowSelfTest pa s := rfl
@[simp] theorem exec_digestAreaSelfTest (keeper : Nat) (s : State) : exec (.digestAreaSelfTest keeper) s = execDigestAreaSelfTest keeper s := rfl
@[simp] theorem exec_flitReceive (link : Nat) (seqNo : BitVec 12) (good : Bool) (payload : BitVec 2048) (s : State) : exec (.flitReceive link seqNo good payload) s = execFlitReceive link seqNo good payload s := rfl
@[simp] theorem exec_replayRequest (link : Nat) (seqNo : BitVec 12) (s : State) : exec (.replayRequest link seqNo) s = execReplayRequest link seqNo s := rfl
@[simp] theorem exec_laneRetire (link : Nat) (lane : Nat) (s : State) : exec (.laneRetire link lane) s = execLaneRetire link lane s := rfl
@[simp] theorem exec_messageReceive (src : Nat) (seqNo : Nat) (lseq : Nat) (q : Nat) (key : Nat) (granules : List (Nat × BitVec 128)) (adds : List (Nat × Nat × Word)) (notify : List (Nat × Nat × Nat)) (s : State) : exec (.messageReceive src seqNo lseq q key granules adds notify) s = execMessageReceive src seqNo lseq q key granules adds notify s := rfl
@[simp] theorem exec_messageAck (dst : Nat) (seqNo : Nat) (s : State) : exec (.messageAck dst seqNo) s = execMessageAck dst seqNo s := rfl
@[simp] theorem exec_messageResend (k : Nat) (s : State) : exec (.messageResend k) s = execMessageResend k s := rfl
@[simp] theorem exec_doorbell (v : BitVec 16) (s : State) : exec (.doorbell v) s = execDoorbell v s := rfl
@[simp] theorem exec_registerWrite (off : Nat) (v : Word) (s : State) : exec (.registerWrite off v) s = execRegisterWrite off v s := rfl
@[simp] theorem exec_launch (packet : Word) (s : State) : exec (.launch packet) s = execLaunch packet s := rfl
@[simp] theorem exec_map (va : Word) (w0 : Word) (w1 : Word) (attr : Word) (s : State) : exec (.map va w0 w1 attr) s = execMap va w0 w1 attr s := rfl
@[simp] theorem exec_unmap (va : Word) (s : State) : exec (.unmap va) s = execUnmap va s := rfl
@[simp] theorem exec_hostcopy (ha : Word) (va : Word) (len : Word) (dir : Word) (s : State) : exec (.hostcopy ha va len dir) s = execHostcopy ha va len dir s := rfl
@[simp] theorem exec_asfortMpload (rtn : Word) (ha : Word) (s : State) : exec (.asfortMpload rtn ha) s = execAsfortMpload rtn ha s := rfl
@[simp] theorem exec_region (ha : Word) (s : State) : exec (.region ha) s = execRegion ha s := rfl
@[simp] theorem exec_regionDelete (ha : Word) (s : State) : exec (.regionDelete ha) s = execRegionDelete ha s := rfl
@[simp] theorem exec_tierset (va : Word) (frame : Word) (s : State) : exec (.tierset va frame) s = execTierset va frame s := rfl
@[simp] theorem exec_checkpoint (ha : Word) (len : Word) (s : State) : exec (.checkpoint ha len) s = execCheckpoint ha len s := rfl
@[simp] theorem exec_restore (ha : Word) (len : Word) (s : State) : exec (.restore ha len) s = execRestore ha len s := rfl
@[simp] theorem exec_monitorArm (src : Word) (quantity : Word) (w : Word) (origin : Word) (s : State) : exec (.monitorArm src quantity w origin) s = execMonitorArm src quantity w origin s := rfl
@[simp] theorem exec_monitorRead (src : Word) (ha : Word) (s : State) : exec (.monitorRead src ha) s = execMonitorRead src ha s := rfl
@[simp] theorem exec_monitorClear (src : Word) (s : State) : exec (.monitorClear src) s = execMonitorClear src s := rfl
@[simp] theorem exec_selftest (src : Word) (s : State) : exec (.selftest src) s = execSelftest src s := rfl
@[simp] theorem exec_attest (nonce : Word) (report : Word) (s : State) : exec (.attest nonce report) s = execAttest nonce report s := rfl
@[simp] theorem exec_reset (modno : Word) (route : Word) (matrixLib : Word) (droneLib : Word) (s : State) : exec (.reset modno route matrixLib droneLib) s = execReset modno route matrixLib droneLib s := rfl
@[simp] theorem exec_powerOn (s : State) : exec (.powerOn) s = execPowerOn s := rfl
@[simp] theorem exec_thermalLimit (die : Nat) (hot : Bool) (s : State) : exec (.thermalLimit die hot) s = execThermalLimit die hot s := rfl
@[simp] theorem exec_thermalTrip (s : State) : exec (.thermalTrip) s = execThermalTrip s := rfl
@[simp] theorem exec_foragerGranuleWrite (h : Nat) (ch : Nat) (k : Nat) (s : State) : exec (.foragerGranuleWrite h ch k) s = execForagerGranuleWrite h ch k s := rfl
@[simp] theorem exec_dscanComplete (h : Nat) (q : Nat) (s : State) : exec (.dscanComplete h q) s = execDscanComplete h q s := rfl
@[simp] theorem exec_replyAcknowledgement (h : Nat) (k : Nat) (s : State) : exec (.replyAcknowledgement h k) s = execReplyAcknowledgement h k s := rfl

end Sys2Proof.Machine
end

