-- ==== Sys2Proof/Laws/Issue.lean ====
section
/-!
SUPPORT. What it is to issue an instruction: in an open bundle its slot takes effect; where none is open it is a whole bundle of its own.
-/
namespace Sys2Proof.Machine

@[simp] theorem isOpen_openBundle (s : State) (m : Mode) (is : List Instr) : (openBundle s m is).bundle.isOpen = true := rfl
@[simp] theorem mode_openBundle (s : State) (m : Mode) (is : List Instr) : (openBundle s m is).bundle.mode = m := rfl
@[simp] theorem cur_openBundle (s : State) (m : Mode) (is : List Instr) : (openBundle s m is).cur = s.cur := rfl
@[simp] theorem mem_openBundle (s : State) (m : Mode) (is : List Instr) : (openBundle s m is).mem = s.mem := rfl
@[simp] theorem cores_openBundle (s : State) (m : Mode) (is : List Instr) : (openBundle s m is).cores = s.cores := rfl

/-- In an open bundle an instruction has the effect of its slot. -/
theorem issue_open (i : Instr) (eff : State → State) {s : State} (h : s.bundle.isOpen = true) : issue i eff s = .next (eff s) := by
  simp [issue, h]

/-- Where no bundle is open an instruction that its checks let go is opened, takes effect, and closes. -/
theorem issue_alone (i : Instr) (eff : State → State) {s : State} (h : s.bundle.isOpen = false)
    (hv : (examineAlone s i).verdict = .go) (hi : (examineAlone s i).instrs = [i]) :
    issue i eff s = .next (closeBundle (eff (openBundle (examineAlone s i).state (examineAlone s i).mode [i]))) := by
  simp [issue, h, hv, hi]

/-- An instruction whose checks block it leaves its bundle for later. -/
theorem issue_blocked (i : Instr) (eff : State → State) {s : State} (h : s.bundle.isOpen = false)
    (hv : (examineAlone s i).verdict = .block) : issue i eff s = .next (blockBundle (examineAlone s i).state s.cur) := by
  simp [issue, h, hv]

/-- An instruction whose checks trap takes the trap. -/
theorem issue_traps (i : Instr) (eff : State → State) {s : State} {x : Trap} (h : s.bundle.isOpen = false)
    (hv : (examineAlone s i).verdict = .trap x) : issue i eff s = .next (trapBundle (examineAlone s i).state s.cur x) := by
  simp [issue, h, hv]

/-- Issuing always answers a next state. -/
theorem issue_next (i : Instr) (eff : State → State) (s : State) : ∃ t, issue i eff s = .next t := by
  unfold issue
  split
  · exact ⟨_, rfl⟩
  · dsimp only
    split
    · exact ⟨_, rfl⟩
    · exact ⟨_, rfl⟩
    · split <;> exact ⟨_, rfl⟩

/-- Every instruction of a slot is issued: an effect of its own stands between the opening and the closing of its bundle. -/
theorem exec_issues {t : Slot} (i : Instr) (h : slotOf i = some t) : ∃ eff, ∀ s, exec i s = issue i eff s := match i, h with
  | .nop slot, _ => ⟨_, fun s => (exec_nop slot s).trans rfl⟩
  | .ill slot, _ => ⟨_, fun s => (exec_ill slot s).trans rfl⟩
  | .add sd sa sb, _ => ⟨_, fun s => (exec_add sd sa sb s).trans rfl⟩
  | .sub sd sa sb, _ => ⟨_, fun s => (exec_sub sd sa sb s).trans rfl⟩
  | .and sd sa sb, _ => ⟨_, fun s => (exec_and sd sa sb s).trans rfl⟩
  | .or sd sa sb, _ => ⟨_, fun s => (exec_or sd sa sb s).trans rfl⟩
  | .xor sd sa sb, _ => ⟨_, fun s => (exec_xor sd sa sb s).trans rfl⟩
  | .shl sd sa sb, _ => ⟨_, fun s => (exec_shl sd sa sb s).trans rfl⟩
  | .shr sd sa sb, _ => ⟨_, fun s => (exec_shr sd sa sb s).trans rfl⟩
  | .sar sd sa sb, _ => ⟨_, fun s => (exec_sar sd sa sb s).trans rfl⟩
  | .mul sd sa sb, _ => ⟨_, fun s => (exec_mul sd sa sb s).trans rfl⟩
  | .mulh sd sa sb, _ => ⟨_, fun s => (exec_mulh sd sa sb s).trans rfl⟩
  | .mulhu sd sa sb, _ => ⟨_, fun s => (exec_mulhu sd sa sb s).trans rfl⟩
  | .div sd sa sb, _ => ⟨_, fun s => (exec_div sd sa sb s).trans rfl⟩
  | .divu sd sa sb, _ => ⟨_, fun s => (exec_divu sd sa sb s).trans rfl⟩
  | .rem sd sa sb, _ => ⟨_, fun s => (exec_rem sd sa sb s).trans rfl⟩
  | .remu sd sa sb, _ => ⟨_, fun s => (exec_remu sd sa sb s).trans rfl⟩
  | .min sd sa sb, _ => ⟨_, fun s => (exec_min sd sa sb s).trans rfl⟩
  | .max sd sa sb, _ => ⟨_, fun s => (exec_max sd sa sb s).trans rfl⟩
  | .minu sd sa sb, _ => ⟨_, fun s => (exec_minu sd sa sb s).trans rfl⟩
  | .maxu sd sa sb, _ => ⟨_, fun s => (exec_maxu sd sa sb s).trans rfl⟩
  | .sel sd sa sb sc, _ => ⟨_, fun s => (exec_sel sd sa sb sc s).trans rfl⟩
  | .cmp cc sd sa sb, _ => ⟨_, fun s => (exec_cmp cc sd sa sb s).trans rfl⟩
  | .clz sd sa, _ => ⟨_, fun s => (exec_clz sd sa s).trans rfl⟩
  | .popc sd sa, _ => ⟨_, fun s => (exec_popc sd sa s).trans rfl⟩
  | .brev sd sa, _ => ⟨_, fun s => (exec_brev sd sa s).trans rfl⟩
  | .addi sd sa imm, _ => ⟨_, fun s => (exec_addi sd sa imm s).trans rfl⟩
  | .andi sd sa imm, _ => ⟨_, fun s => (exec_andi sd sa imm s).trans rfl⟩
  | .ori sd sa imm, _ => ⟨_, fun s => (exec_ori sd sa imm s).trans rfl⟩
  | .xori sd sa imm, _ => ⟨_, fun s => (exec_xori sd sa imm s).trans rfl⟩
  | .shli sd sa amt, _ => ⟨_, fun s => (exec_shli sd sa amt s).trans rfl⟩
  | .shri sd sa amt, _ => ⟨_, fun s => (exec_shri sd sa amt s).trans rfl⟩
  | .sari sd sa amt, _ => ⟨_, fun s => (exec_sari sd sa amt s).trans rfl⟩
  | .li sd imm, _ => ⟨_, fun s => (exec_li sd imm s).trans rfl⟩
  | .lih sd imm, _ => ⟨_, fun s => (exec_lih sd imm s).trans rfl⟩
  | .cmpi cc sd sa imm, _ => ⟨_, fun s => (exec_cmpi cc sd sa imm s).trans rfl⟩
  | .fadd sd sa sb, _ => ⟨_, fun s => (exec_fadd sd sa sb s).trans rfl⟩
  | .fsub sd sa sb, _ => ⟨_, fun s => (exec_fsub sd sa sb s).trans rfl⟩
  | .fmul sd sa sb, _ => ⟨_, fun s => (exec_fmul sd sa sb s).trans rfl⟩
  | .ffma sd sa sb sc, _ => ⟨_, fun s => (exec_ffma sd sa sb sc s).trans rfl⟩
  | .fmin sd sa sb, _ => ⟨_, fun s => (exec_fmin sd sa sb s).trans rfl⟩
  | .fmax sd sa sb, _ => ⟨_, fun s => (exec_fmax sd sa sb s).trans rfl⟩
  | .fcmp cc sd sa sb, _ => ⟨_, fun s => (exec_fcmp cc sd sa sb s).trans rfl⟩
  | .fcvt k sd sa, _ => ⟨_, fun s => (exec_fcvt k sd sa s).trans rfl⟩
  | .j disp, _ => ⟨_, fun s => (exec_j disp s).trans rfl⟩
  | .jr sa, _ => ⟨_, fun s => (exec_jr sa s).trans rfl⟩
  | .call f1 disp, _ => ⟨_, fun s => (exec_call f1 disp s).trans rfl⟩
  | .callr sd sa, _ => ⟨_, fun s => (exec_callr sd sa s).trans rfl⟩
  | .ret sa, _ => ⟨_, fun s => (exec_ret sa s).trans rfl⟩
  | .bz f1 disp, _ => ⟨_, fun s => (exec_bz f1 disp s).trans rfl⟩
  | .bnz f1 disp, _ => ⟨_, fun s => (exec_bnz f1 disp s).trans rfl⟩
  | .bcmp cc f1 f2 disp, _ => ⟨_, fun s => (exec_bcmp cc f1 f2 disp s).trans rfl⟩
  | .loop sa last, _ => ⟨_, fun s => (exec_loop sa last s).trans rfl⟩
  | .loopi count last, _ => ⟨_, fun s => (exec_loopi count last s).trans rfl⟩
  | .gld size sd base disp, _ => ⟨_, fun s => (exec_gld size sd base disp s).trans rfl⟩
  | .gldQ size sd base disp, _ => ⟨_, fun s => (exec_gldQ size sd base disp s).trans rfl⟩
  | .gst size sd base disp, _ => ⟨_, fun s => (exec_gst size sd base disp s).trans rfl⟩
  | .gamo f size sd base disp sv, _ => ⟨_, fun s => (exec_gamo f size sd base disp sv s).trans rfl⟩
  | .globalLoadComplete .., h => nomatch h
  | .csrr sd n, _ => ⟨_, fun s => (exec_csrr sd n s).trans rfl⟩
  | .csrw n sa, _ => ⟨_, fun s => (exec_csrw n sa s).trans rfl⟩
  | .svc n, _ => ⟨_, fun s => (exec_svc n s).trans rfl⟩
  | .brk n, _ => ⟨_, fun s => (exec_brk n s).trans rfl⟩
  | .tret, _ => ⟨_, fun s => (exec_tret s).trans rfl⟩
  | .tsc sd, _ => ⟨_, fun s => (exec_tsc sd s).trans rfl⟩
  | .ixpop q sd, _ => ⟨_, fun s => (exec_ixpop q sd s).trans rfl⟩
  | .ixpeek q sd sa, _ => ⟨_, fun s => (exec_ixpeek q sd sa s).trans rfl⟩
  | .vadd u td m a b t, _ => ⟨_, fun s => (exec_vadd u td m a b t s).trans rfl⟩
  | .vsub u td m a b t, _ => ⟨_, fun s => (exec_vsub u td m a b t s).trans rfl⟩
  | .vmul u td m a b t, _ => ⟨_, fun s => (exec_vmul u td m a b t s).trans rfl⟩
  | .vfma u td m a b c t, _ => ⟨_, fun s => (exec_vfma u td m a b c t s).trans rfl⟩
  | .vfms u td m a b c t, _ => ⟨_, fun s => (exec_vfms u td m a b c t s).trans rfl⟩
  | .vfnma u td m a b c t, _ => ⟨_, fun s => (exec_vfnma u td m a b c t s).trans rfl⟩
  | .vmin u td m a b t, _ => ⟨_, fun s => (exec_vmin u td m a b t s).trans rfl⟩
  | .vmax u td m a b t, _ => ⟨_, fun s => (exec_vmax u td m a b t s).trans rfl⟩
  | .vabs u td m a t, _ => ⟨_, fun s => (exec_vabs u td m a t s).trans rfl⟩
  | .vneg u td m a t, _ => ⟨_, fun s => (exec_vneg u td m a t s).trans rfl⟩
  | .vcmp u cc md m a b t, _ => ⟨_, fun s => (exec_vcmp u cc md m a b t s).trans rfl⟩
  | .vsel u td m a b t, _ => ⟨_, fun s => (exec_vsel u td m a b t s).trans rfl⟩
  | .vclamp u td m a b c t, _ => ⟨_, fun s => (exec_vclamp u td m a b c t s).trans rfl⟩
  | .viadd u td m a b t, _ => ⟨_, fun s => (exec_viadd u td m a b t s).trans rfl⟩
  | .visub u td m a b t, _ => ⟨_, fun s => (exec_visub u td m a b t s).trans rfl⟩
  | .vimul u td m a b t, _ => ⟨_, fun s => (exec_vimul u td m a b t s).trans rfl⟩
  | .vimulh u td m a b t, _ => ⟨_, fun s => (exec_vimulh u td m a b t s).trans rfl⟩
  | .vshl u td m a b t, _ => ⟨_, fun s => (exec_vshl u td m a b t s).trans rfl⟩
  | .vshr u td m a b t, _ => ⟨_, fun s => (exec_vshr u td m a b t s).trans rfl⟩
  | .vsar u td m a b t, _ => ⟨_, fun s => (exec_vsar u td m a b t s).trans rfl⟩
  | .vand u td m a b t, _ => ⟨_, fun s => (exec_vand u td m a b t s).trans rfl⟩
  | .vor u td m a b t, _ => ⟨_, fun s => (exec_vor u td m a b t s).trans rfl⟩
  | .vxor u td m a b t, _ => ⟨_, fun s => (exec_vxor u td m a b t s).trans rfl⟩
  | .vnot u td m a t, _ => ⟨_, fun s => (exec_vnot u td m a t s).trans rfl⟩
  | .vicmp u cc md m a b t, _ => ⟨_, fun s => (exec_vicmp u cc md m a b t s).trans rfl⟩
  | .vimin u td m a b t, _ => ⟨_, fun s => (exec_vimin u td m a b t s).trans rfl⟩
  | .vimax u td m a b t, _ => ⟨_, fun s => (exec_vimax u td m a b t s).trans rfl⟩
  | .vpopc u td m a t, _ => ⟨_, fun s => (exec_vpopc u td m a t s).trans rfl⟩
  | .vclz u td m a t, _ => ⟨_, fun s => (exec_vclz u td m a t s).trans rfl⟩
  | .vcvt u td m a t src part, _ => ⟨_, fun s => (exec_vcvt u td m a t src part s).trans rfl⟩
  | .vpack u scale td a t ktype q, _ => ⟨_, fun s => (exec_vpack u scale td a t ktype q s).trans rfl⟩
  | .vunpack u td m a b t xv q, _ => ⟨_, fun s => (exec_vunpack u td m a b t xv q s).trans rfl⟩
  | .vmov u td m a t, _ => ⟨_, fun s => (exec_vmov u td m a t s).trans rfl⟩
  | .vmovs u td m sb t, _ => ⟨_, fun s => (exec_vmovs u td m sb t s).trans rfl⟩
  | .vmovi u td m imm t, _ => ⟨_, fun s => (exec_vmovi u td m imm t s).trans rfl⟩
  | .vext u sd a sb t, _ => ⟨_, fun s => (exec_vext u sd a sb t s).trans rfl⟩
  | .vins u td a sb sc t, _ => ⟨_, fun s => (exec_vins u td a sb sc t s).trans rfl⟩
  | .viota u td m sb t, _ => ⟨_, fun s => (exec_viota u td m sb t s).trans rfl⟩
  | .vrotr u td m a k t, _ => ⟨_, fun s => (exec_vrotr u td m a k t s).trans rfl⟩
  | .vrotc u td m a k t, _ => ⟨_, fun s => (exec_vrotc u td m a k t s).trans rfl⟩
  | .vbcr u td m a k t, _ => ⟨_, fun s => (exec_vbcr u td m a k t s).trans rfl⟩
  | .vbcc u td m a k t, _ => ⟨_, fun s => (exec_vbcc u td m a k t s).trans rfl⟩
  | .vredr u op td m a t, _ => ⟨_, fun s => (exec_vredr u op td m a t s).trans rfl⟩
  | .vredc u op td m a t, _ => ⟨_, fun s => (exec_vredc u op td m a t s).trans rfl⟩
  | .vperm u td m a b t, _ => ⟨_, fun s => (exec_vperm u td m a b t s).trans rfl⟩
  | .vrcp u td m a t, _ => ⟨_, fun s => (exec_vrcp u td m a t s).trans rfl⟩
  | .vrsq u td m a t, _ => ⟨_, fun s => (exec_vrsq u td m a t s).trans rfl⟩
  | .vexp2 u td m a t, _ => ⟨_, fun s => (exec_vexp2 u td m a t s).trans rfl⟩
  | .vlog2 u td m a t, _ => ⟨_, fun s => (exec_vlog2 u td m a t s).trans rfl⟩
  | .vmerge u desc idx hi td m a b t, _ => ⟨_, fun s => (exec_vmerge u desc idx hi td m a b t s).trans rfl⟩
  | .vsort u desc idx td m a t, _ => ⟨_, fun s => (exec_vsort u desc idx td m a t s).trans rfl⟩
  | .vtopk u least idx td m a k t, _ => ⟨_, fun s => (exec_vtopk u least idx td m a k t s).trans rfl⟩
  | .vbound u td m a b c g, _ => ⟨_, fun s => (exec_vbound u td m a b c g s).trans rfl⟩
  | .mand u md ma mb, _ => ⟨_, fun s => (exec_mand u md ma mb s).trans rfl⟩
  | .mor u md ma mb, _ => ⟨_, fun s => (exec_mor u md ma mb s).trans rfl⟩
  | .mxor u md ma mb, _ => ⟨_, fun s => (exec_mxor u md ma mb s).trans rfl⟩
  | .mnot u md ma, _ => ⟨_, fun s => (exec_mnot u md ma s).trans rfl⟩
  | .mpopc u sd ma t, _ => ⟨_, fun s => (exec_mpopc u sd ma t s).trans rfl⟩
  | .mfirst u sd ma t, _ => ⟨_, fun s => (exec_mfirst u sd ma t s).trans rfl⟩
  | .mset u md k, _ => ⟨_, fun s => (exec_mset u md k s).trans rfl⟩
  | .cheval clamp td m fa b, _ => ⟨_, fun s => (exec_cheval clamp td m fa b s).trans rfl⟩
  | .chfit fd ta sc n, _ => ⟨_, fun s => (exec_chfit fd ta sc n s).trans rfl⟩
  | .chadd fd fa fb, _ => ⟨_, fun s => (exec_chadd fd fa fb s).trans rfl⟩
  | .chsub fd fa fb, _ => ⟨_, fun s => (exec_chsub fd fa fb s).trans rfl⟩
  | .chmul fd fa fb, _ => ⟨_, fun s => (exec_chmul fd fa fb s).trans rfl⟩
  | .chscl addv fd fa sb, _ => ⟨_, fun s => (exec_chscl addv fd fa sb s).trans rfl⟩
  | .chcmp fd fa fb n, _ => ⟨_, fun s => (exec_chcmp fd fa fb n s).trans rfl⟩
  | .chint fd fa, _ => ⟨_, fun s => (exec_chint fd fa s).trans rfl⟩
  | .chdif fd fa, _ => ⟨_, fun s => (exec_chdif fd fa s).trans rfl⟩
  | .chroot td sb fa row, _ => ⟨_, fun s => (exec_chroot td sb fa row s).trans rfl⟩
  | .chtrn fd fa tol n, _ => ⟨_, fun s => (exec_chtrn fd fa tol n s).trans rfl⟩
  | .chdom k, _ => ⟨_, fun s => (exec_chdom k s).trans rfl⟩
  | .chmov k, _ => ⟨_, fun s => (exec_chmov k s).trans rfl⟩
  | .chfree fd, _ => ⟨_, fun s => (exec_chfree fd s).trans rfl⟩
  | .functionOpComplete .., h => nomatch h
  | .mcall lo acc out tn rtn, _ => ⟨_, fun s => (exec_mcall lo acc out tn rtn s).trans rfl⟩
  | .msetp p sa, _ => ⟨_, fun s => (exec_msetp p sa s).trans rfl⟩
  | .msetpi p imm, _ => ⟨_, fun s => (exec_msetpi p imm s).trans rfl⟩
  | .mstat sd lo, _ => ⟨_, fun s => (exec_mstat sd lo s).trans rfl⟩
  | .mpload rtn ta, _ => ⟨_, fun s => (exec_mpload rtn ta s).trans rfl⟩
  | .mcancel lo, _ => ⟨_, fun s => (exec_mcancel lo s).trans rfl⟩
  | .matrixCallStart .., h => nomatch h
  | .matrixCallResume .., h => nomatch h
  | .mploadApply .., h => nomatch h
  | .agset .., h => nomatch h
  | .agmc .., h => nomatch h
  | .mzero .., h => nomatch h
  | .mma .., h => nomatch h
  | .mloop .., h => nomatch h
  | .mend .., h => nomatch h
  | .mout .., h => nomatch h
  | .mcount .., h => nomatch h
  | .myield .., h => nomatch h
  | .mstop .., h => nomatch h
  | .multicastTimeout .., h => nomatch h
  | .ldt clr wt td base stride rows disp, _ => ⟨_, fun s => (exec_ldt clr wt td base stride rows disp s).trans rfl⟩
  | .ldrw clr wt td base srow rows disp, _ => ⟨_, fun s => (exec_ldrw clr wt td base srow rows disp s).trans rfl⟩
  | .ldg clr wt td base sp rows disp q, _ => ⟨_, fun s => (exec_ldg clr wt td base sp rows disp q s).trans rfl⟩
  | .ldx clr wt d td base tx, _ => ⟨_, fun s => (exec_ldx clr wt d td base tx s).trans rfl⟩
  | .lds clr wt size sd base disp, _ => ⟨_, fun s => (exec_lds clr wt size sd base disp s).trans rfl⟩
  | .ldf clr wt fd base disp, _ => ⟨_, fun s => (exec_ldf clr wt fd base disp s).trans rfl⟩
  | .ldm clr wt md base disp, _ => ⟨_, fun s => (exec_ldm clr wt md base disp s).trans rfl⟩
  | .stt fill ta base stride rows disp, _ => ⟨_, fun s => (exec_stt fill ta base stride rows disp s).trans rfl⟩
  | .strw fill ta base srow rows disp, _ => ⟨_, fun s => (exec_strw fill ta base srow rows disp s).trans rfl⟩
  | .stx fill d ta base tx, _ => ⟨_, fun s => (exec_stx fill d ta base tx s).trans rfl⟩
  | .sts fill size sa base disp, _ => ⟨_, fun s => (exec_sts fill size sa base disp s).trans rfl⟩
  | .stf fill fa base disp, _ => ⟨_, fun s => (exec_stf fill fa base disp s).trans rfl⟩
  | .stm fill ma base disp, _ => ⟨_, fun s => (exec_stm fill ma base disp s).trans rfl⟩
  | .scor fill d ta base tx, _ => ⟨_, fun s => (exec_scor fill d ta base tx s).trans rfl⟩
  | .scadd fill d ta base tx, _ => ⟨_, fun s => (exec_scadd fill d ta base tx s).trans rfl⟩
  | .scmax fill uns d ta base tx, _ => ⟨_, fun s => (exec_scmax fill uns d ta base tx s).trans rfl⟩
  | .scmin fill uns d ta base tx, _ => ⟨_, fun s => (exec_scmin fill uns d ta base tx s).trans rfl⟩
  | .sete base stride rows disp, _ => ⟨_, fun s => (exec_sete base stride rows disp s).trans rfl⟩
  | .setf base stride rows disp, _ => ⟨_, fun s => (exec_setf base stride rows disp s).trans rfl⟩
  | .loadComplete .., h => nomatch h
  | .remoteAccessPerform .., h => nomatch h
  | .copy ch n sa sb snap asof gather bar, _ => ⟨_, fun s => (exec_copy ch n sa sb snap asof gather bar s).trans rfl⟩
  | .cbatch ch, _ => ⟨_, fun s => (exec_cbatch ch s).trans rfl⟩
  | .cwait ch m, _ => ⟨_, fun s => (exec_cwait ch m s).trans rfl⟩
  | .publish ch, _ => ⟨_, fun s => (exec_publish ch s).trans rfl⟩
  | .ctset n ta, _ => ⟨_, fun s => (exec_ctset n ta s).trans rfl⟩
  | .ctsetCode k ta, _ => ⟨_, fun s => (exec_ctsetCode k ta s).trans rfl⟩
  | .cstat sd ch sel clr, _ => ⟨_, fun s => (exec_cstat sd ch sel clr s).trans rfl⟩
  | .copyComplete .., h => nomatch h
  | .copyFault .., h => nomatch h
  | .ixscan q row t ta sa sb keep rate, _ => ⟨_, fun s => (exec_ixscan q row t ta sa sb keep rate s).trans rfl⟩
  | .ixbmap q sa sc sb keep rate, _ => ⟨_, fun s => (exec_ixbmap q sa sc sb keep rate s).trans rfl⟩
  | .ixrle q sa sc sb keep rate, _ => ⟨_, fun s => (exec_ixrle q sa sc sb keep rate s).trans rfl⟩
  | .ixclr q, _ => ⟨_, fun s => (exec_ixclr q s).trans rfl⟩
  | .spred q md ta sa sb n1 keep rate, _ => ⟨_, fun s => (exec_spred q md ta sa sb n1 keep rate s).trans rfl⟩
  | .guard q ma tu sa sb sc n1 keep rate, _ => ⟨_, fun s => (exec_guard q ma tu sa sb sc n1 keep rate s).trans rfl⟩
  | .indexProducerPush .., h => nomatch h
  | .dqry kind td sa sb, _ => ⟨_, fun s => (exec_dqry kind td sa sb s).trans rfl⟩
  | .dqryQ kind td sa sb, _ => ⟨_, fun s => (exec_dqryQ kind td sa sb s).trans rfl⟩
  | .dqryComplete .., h => nomatch h
  | .dscan q pred sa sb sc ta score sd keep rate, _ => ⟨_, fun s => (exec_dscan q pred sa sb sc ta score sd keep rate s).trans rfl⟩
  | .drefr sa sb, _ => ⟨_, fun s => (exec_drefr sa sb s).trans rfl⟩
  | .rcallR re nt tn sa sb sc sd, _ => ⟨_, fun s => (exec_rcallR re nt tn sa sb sc sd s).trans rfl⟩
  | .rcallQ re nt tn sa sb sc sd, _ => ⟨_, fun s => (exec_rcallQ re nt tn sa sb sc sd s).trans rfl⟩
  | .rstat ack sd sa, _ => ⟨_, fun s => (exec_rstat ack sd sa s).trans rfl⟩
  | .promote sa sb sc, _ => ⟨_, fun s => (exec_promote sa sb sc s).trans rfl⟩
  | .remoteCallStart .., h => nomatch h
  | .replyArrival .., h => nomatch h
  | .replyTimeout .., h => nomatch h
  | .callRunLimit .., h => nomatch h
  | .lnseq sa, _ => ⟨_, fun s => (exec_lnseq sa s).trans rfl⟩
  | .lnwait sd, _ => ⟨_, fun s => (exec_lnwait sd s).trans rfl⟩
  | .dfence, _ => ⟨_, fun s => (exec_dfence s).trans rfl⟩
  | .bmac sd sa sb sc n, _ => ⟨_, fun s => (exec_bmac sd sa sb sc n s).trans rfl⟩
  | .rret ta sa, _ => ⟨_, fun s => (exec_rret ta sa s).trans rfl⟩
  | .sequencerComplete .., h => nomatch h
  | .sequencerStop .., h => nomatch h
  | .sequencerSuspend .., h => nomatch h
  | .sequencerResume .., h => nomatch h
  | .ordinaryAccessArrival .., h => nomatch h
  | .bmacComplete .., h => nomatch h
  | .postedWriteDrain .., h => nomatch h
  | .bset clr k sa, _ => ⟨_, fun s => (exec_bset clr k sa s).trans rfl⟩
  | .binc k sa sb n, _ => ⟨_, fun s => (exec_binc k sa sb n s).trans rfl⟩
  | .waitb k, _ => ⟨_, fun s => (exec_waitb k s).trans rfl⟩
  | .waitany sd mask, _ => ⟨_, fun s => (exec_waitany sd mask s).trans rfl⟩
  | .qend, _ => ⟨_, fun s => (exec_qend s).trans rfl⟩
  | .fork sa sb disp, _ => ⟨_, fun s => (exec_fork sa sb disp s).trans rfl⟩
  | .join, _ => ⟨_, fun s => (exec_join s).trans rfl⟩
  | .exit, _ => ⟨_, fun s => (exec_exit s).trans rfl⟩
  | .yield, _ => ⟨_, fun s => (exec_yield s).trans rfl⟩
  | .gjoin g, _ => ⟨_, fun s => (exec_gjoin g s).trans rfl⟩
  | .gleave g, _ => ⟨_, fun s => (exec_gleave g s).trans rfl⟩
  | .gbar g, _ => ⟨_, fun s => (exec_gbar g s).trans rfl⟩
  | .cbar, _ => ⟨_, fun s => (exec_cbar s).trans rfl⟩
  | .drain, _ => ⟨_, fun s => (exec_drain s).trans rfl⟩
  | .prio sa n, _ => ⟨_, fun s => (exec_prio sa n s).trans rfl⟩
  | .spawng g sa sb disp, _ => ⟨_, fun s => (exec_spawng g sa sb disp s).trans rfl⟩
  | .fencel, _ => ⟨_, fun s => (exec_fencel s).trans rfl⟩
  | .halt sa, _ => ⟨_, fun s => (exec_halt sa s).trans rfl⟩
  | .strandEnd .., h => nomatch h
  | .trapEntry .., h => nomatch h
  | .safePointOverrun .., h => nomatch h
  | .quantumCommit .., h => nomatch h
  | .qwQuantumEnd .., h => nomatch h
  | .qbQuantumEnd .., h => nomatch h
  | .promotionCopyDone .., h => nomatch h
  | .contextTakeWork .., h => nomatch h
  | .stagingComplete .., h => nomatch h
  | .agingTick .., h => nomatch h
  | .clusterReserve .., h => nomatch h
  | .preemptRequest .., h => nomatch h
  | .strandSave .., h => nomatch h
  | .strandResume .., h => nomatch h
  | .targetedSelfTest .., h => nomatch h
  | .rowSelfTest .., h => nomatch h
  | .digestAreaSelfTest .., h => nomatch h
  | .flitReceive .., h => nomatch h
  | .replayRequest .., h => nomatch h
  | .laneRetire .., h => nomatch h
  | .messageReceive .., h => nomatch h
  | .messageAck .., h => nomatch h
  | .messageResend .., h => nomatch h
  | .doorbell .., h => nomatch h
  | .registerWrite .., h => nomatch h
  | .launch .., h => nomatch h
  | .map .., h => nomatch h
  | .unmap .., h => nomatch h
  | .hostcopy .., h => nomatch h
  | .asfortMpload .., h => nomatch h
  | .region .., h => nomatch h
  | .regionDelete .., h => nomatch h
  | .tierset .., h => nomatch h
  | .checkpoint .., h => nomatch h
  | .restore .., h => nomatch h
  | .monitorArm .., h => nomatch h
  | .monitorRead .., h => nomatch h
  | .monitorClear .., h => nomatch h
  | .selftest .., h => nomatch h
  | .attest .., h => nomatch h
  | .reset .., h => nomatch h
  | .powerOn .., h => nomatch h
  | .thermalLimit .., h => nomatch h
  | .thermalTrip .., h => nomatch h
  | .foragerGranuleWrite .., h => nomatch h
  | .dscanComplete .., h => nomatch h
  | .replyAcknowledgement .., h => nomatch h

end Sys2Proof.Machine
end

