-- ==== Sys2Proof/Laws/Tiles.lean ====
section
/-!
SUPPORT. Elements of tiles: an element of a tile made from elements, of a merge under a mask, and of the mask of R78 itself.
-/
namespace Sys2Proof.Machine

theorem pack_lt (w : Nat) (l : List Nat) : pack w l < 2 ^ (w * l.length) := by
  induction l with
  | nil => simp [pack]
  | cons c cs ih =>
    have h1 : c % 2 ^ w < 2 ^ w := Nat.mod_lt _ (Nat.two_pow_pos w)
    have h2 : 2 ^ (w * (c :: cs).length) = 2 ^ w * 2 ^ (w * cs.length) := by
      rw [← Nat.pow_add]; congr 1; simp [Nat.mul_add]; omega
    rw [pack, Nat.shiftLeft_eq, h2]
    have h3 : (pack w cs + 1) * 2 ^ w ≤ 2 ^ (w * cs.length) * 2 ^ w := Nat.mul_le_mul_right _ ih
    rw [Nat.mul_comm (2 ^ w)]
    have h4 : (pack w cs + 1) * 2 ^ w = pack w cs * 2 ^ w + 2 ^ w := by rw [Nat.add_mul, Nat.one_mul]
    omega

/-- The n-th field of a packed list. -/
theorem pack_field (w : Nat) (l : List Nat) (n : Nat) (h : n < l.length) : pack w l / 2 ^ (n * w) % 2 ^ w = l[n] % 2 ^ w := by
  induction l generalizing n with
  | nil => simp at h
  | cons c cs ih =>
    rw [pack, Nat.shiftLeft_eq]
    have hp : 0 < 2 ^ w := Nat.two_pow_pos w
    cases n with
    | zero => simp [Nat.add_mod]
    | succ n =>
      have h2 : 2 ^ ((n + 1) * w) = 2 ^ w * 2 ^ (n * w) := by rw [← Nat.pow_add]; congr 1; rw [Nat.add_mul]; omega
      rw [h2, ← Nat.div_div_eq_div_mul, Nat.add_mul_div_right _ _ hp, Nat.div_eq_of_lt (Nat.mod_lt _ hp), Nat.zero_add]
      simpa using ih n (by simpa using h)

/-- Every element type fills the tile exactly. -/
theorem elemCount_mul_bits (t : EType) : elemCount t * t.bits = 32768 := by cases t <;> rfl

theorem elem_fits (t : EType) {n : Nat} (h : n < elemCount t) : n * t.bits + t.bits ≤ 32768 := by
  rw [← elemCount_mul_bits t, ← Nat.succ_mul]; exact Nat.mul_le_mul_right _ h

theorem bits_pos (t : EType) : 0 < t.bits := by cases t <;> decide

/-- An element of a tile made from a list of elements. -/
theorem tileElem_tileOf (t : EType) (l : List Nat) (n : Nat) (hl : l.length = elemCount t) (h : n < l.length) :
    tileElem t (tileOf t.bits l) n = l[n] % 2 ^ t.bits := by
  have hlt : pack t.bits l < 2 ^ 32768 := by
    have := pack_lt t.bits l
    rw [hl, Nat.mul_comm, elemCount_mul_bits] at this; exact this
  rw [tileElem, bitsOf, tileOf, BitVec.toNat_ofNat, Nat.mod_eq_of_lt hlt, Nat.shiftRight_eq_div_pow]
  exact pack_field t.bits l n h

theorem tileElem_lt (t : EType) (v : Tile) (n : Nat) : tileElem t v n < 2 ^ t.bits := Nat.mod_lt _ (Nat.two_pow_pos _)

/-- The bits of an element. -/
theorem testBit_tileElem (t : EType) (v : Tile) (n k : Nat) :
    (tileElem t v n).testBit k = (decide (k < t.bits) && v.getLsbD (n * t.bits + k)) := by
  rw [tileElem, bitsOf, Nat.testBit_mod_two_pow, Nat.testBit_shiftRight, BitVec.getLsbD]

/-- The bits of the mask of R78: all the bits of an element that the mask governs. -/
theorem getLsbD_elemMask (t : EType) (m : Mask) (n k : Nat) (h : n < elemCount t) (hk : k < t.bits) :
    (elemMask t m).getLsbD (n * t.bits + k) = govern t m n := by
  have h1 := tileElem_tileOf t ((List.range (elemCount t)).map fun n => if govern t m n then 2 ^ t.bits - 1 else 0) n (by simp)
    (by simpa using h)
  have h2 := congrArg (fun x => x.testBit k) h1
  simp only [testBit_tileElem, hk, decide_true, Bool.true_and, List.getElem_map, List.getElem_range] at h2
  rw [elemMask, h2, Nat.testBit_mod_two_pow]
  split <;> simp_all [Nat.testBit_two_pow_sub_one]

/-- A merge under the mask of R78, element by element. -/
theorem tileElem_mergeBits (t : EType) (old new : Tile) (m : Mask) (n : Nat) (h : n < elemCount t) :
    tileElem t (mergeBits old new (elemMask t m)) n = if govern t m n then tileElem t new n else tileElem t old n := by
  refine Nat.eq_of_testBit_eq fun k => ?_
  have e : ∀ b : Bool, (if b then tileElem t new n else tileElem t old n).testBit k =
      if b then (tileElem t new n).testBit k else (tileElem t old n).testBit k := by intro b; cases b <;> rfl
  rw [e, testBit_tileElem, testBit_tileElem, testBit_tileElem]
  by_cases hk : k < t.bits
  · have := elem_fits t h
    have hlt : n * t.bits + k < 32768 := by omega
    simp only [hk, decide_true, Bool.true_and, mergeBits, BitVec.getLsbD_or, BitVec.getLsbD_and, BitVec.getLsbD_not,
      getLsbD_elemMask t m n k h hk, hlt]
    cases govern t m n <;> simp
  · simp [hk]

/-- The elements read from a tile. -/
theorem unpack_length (w n v : Nat) : (unpack w n v).length = n := by
  induction n generalizing v with
  | zero => rfl
  | succ n ih => simp [unpack, ih]

theorem unpack_get (w n v k : Nat) (h : k < (unpack w n v).length) : (unpack w n v)[k] = v / 2 ^ (k * w) % 2 ^ w := by
  induction n generalizing v k with
  | zero => simp [unpack] at h
  | succ n ih =>
    cases k with
    | zero => simp [unpack]
    | succ k =>
      have h' : k < (unpack w n (v >>> w)).length := by simpa [unpack] using h
      have := ih (v >>> w) k h'
      have e : (unpack w (n + 1) v)[k + 1] = (unpack w n (v >>> w))[k] := rfl
      rw [e, this, Nat.shiftRight_eq_div_pow, Nat.div_div_eq_div_mul, ← Nat.pow_add]
      congr 3; rw [Nat.add_mul]; omega

@[simp] theorem tileElems_length (t : EType) (v : Tile) : (tileElems t v).length = elemCount t := unpack_length _ _ _

theorem tileElems_get (t : EType) (v : Tile) (n : Nat) (h : n < (tileElems t v).length) : (tileElems t v)[n] = tileElem t v n := by
  rw [tileElem, bitsOf, Nat.shiftRight_eq_div_pow]; exact unpack_get _ _ _ n h

end Sys2Proof.Machine
end

