-- ==== Sys2Proof/Tests/Slice0.lean ====
section
/-!
SUPPORT. Tests: well-formed and ill-formed terms, words decoded by hand from the spec's encodings, single instructions on small
states, and for every statement with hypotheses a concrete state that meets them.
-/
namespace Sys2Proof.Tests

set_option Elab.async false

open Sys2Proof Sys2Proof.Machine

/-! ### Ill-formed terms, one for each check of `Instr.wf` and `Instr.inRange` -/

/-- A tile source without H and E. -/
def src (r : TReg) : TSrc := .reg false false r
/-- An instruction is refused by the checks. -/
abbrev bad (i : Instr) : Prop := i.wf = false

/-- R129: an end of zero, a count of zero. -/
theorem test_wf_loops : bad (.loop 1 0) ∧ bad (.loopi 0 1) ∧ bad (.loopi 1 0) ∧ WellFormed (.loopi 1 1) := by decide
/-- R135: sizes 0 and 1. R85: CSR numbers that are not assigned. -/
theorem test_wf_scalar : bad (.gamo .add 0 1 2 0 3) ∧ bad (.gamo .add 1 1 2 0 3) ∧ WellFormed (.gamo .add 2 1 2 0 3) ∧
    bad (.csrr 1 0x16) ∧ bad (.csrw 0x1F 1) ∧ WellFormed (.csrr 1 0x15) := by decide
/-- R147, R148 to R154: the type columns F, I and B of the vector arithmetic. -/
theorem test_wf_types : bad (.vadd .va 1 0 (src 1) (.scalar 1) .int32) ∧ bad (.vfma .va 1 0 (src 1) (.scalar 1) (src 2) .uint8) ∧
    bad (.vabs .va 1 0 (src 1) .int64) ∧ bad (.vcmp .va .eq 1 0 (src 1) (.scalar 1) .int16) ∧
    bad (.vsel .va 1 0 (src 1) (.scalar 1) .mxe2m1) ∧ bad (.vclamp .va 1 0 (src 1) (.scalar 1) (src 2) .k4) ∧
    bad (.viadd .va 1 0 (src 1) (.scalar 1) .fp32) ∧ bad (.vshl .va 1 0 (src 1) (.scalar 1) .fp16) ∧
    bad (.vand .va 1 0 (src 1) (.scalar 1) .mxe4m3) ∧ bad (.vnot .va 1 0 (src 1) .k4) ∧
    bad (.vicmp .va .eq 1 0 (src 1) (.scalar 1) .bf16) ∧ bad (.vimin .va 1 0 (src 1) (.scalar 1) .bf16) ∧
    bad (.vpopc .va 1 0 (src 1) .fp32) := by decide
/-- R155 to R157: parts of conversions, the block formats of VPACK and VUNPACK. -/
theorem test_wf_conversions : bad (.vcvt .va 1 0 (src 1) .fp32 .fp16 2) ∧ WellFormed (.vcvt .va 1 0 (src 1) .fp32 .fp16 1) ∧
    bad (.vcvt .va 1 0 (src 1) .k4 .fp32 0) ∧ bad (.vpack .va false 1 (src 1) .fp32 0 0) ∧
    bad (.vpack .va false 1 (src 1) .mxe2m1 1 0) ∧ bad (.vunpack .va 1 0 (src 1) (src 2) .mxe4m3 0 4) ∧
    bad (.vunpack .va 1 0 (src 1) (src 2) .mxe4m3 1 0) := by decide
/-- R158 to R162: immediates that do not fit, amounts past the row, combining steps of the wrong type. -/
theorem test_wf_moves : bad (.vmov .va 1 0 (src 1) .k4) ∧ bad (.vmovi .va 1 0 0x100 .uint8) ∧ WellFormed (.vmovi .va 1 0 0xFF .uint8) ∧
    bad (.vext .va 1 (src 1) 2 .k4) ∧ bad (.viota .va 1 0 none .fp32) ∧ bad (.vrotr .va 1 0 (src 1) (.imm 64) .fp32) ∧
    WellFormed (.vrotr .va 1 0 (src 1) (.imm 63) .fp32) ∧ bad (.vbcc .va 1 0 (src 1) (.imm 16) .fp32) ∧
    bad (.vredr .va .and 1 0 (src 1) .fp32) ∧ bad (.vperm .va 1 0 (src 1) (src 2) .k4) := by decide
/-- R163 to R169: functions, sorting, VTOPK's count, VBOUND's groups, the mask forms. -/
theorem test_wf_special : bad (.vrcp .va 1 0 (src 1) .int32) ∧ bad (.vsort .va true true 1 0 (src 1) .fp16) ∧
    bad (.vmerge .va true true true 1 0 (src 1) (src 2) .int8) ∧
    bad (.vtopk .va true true 1 0 (src 1) 0 .fp32) ∧ bad (.vtopk .va true true 1 0 (src 1) 65 .fp32) ∧
    WellFormed (.vtopk .va true true 1 0 (src 1) 64 .fp32) ∧ bad (.vbound .va 1 0 (src 1) (src 2) (src 3) 0) ∧
    bad (.vbound .va 1 0 (src 1) (src 2) (src 3) 33) ∧ bad (.mpopc .va 1 2 .k4) ∧ bad (.mset .va 1 (.pre .k4 2)) ∧
    bad (.mset .va 1 (.rowpre .mxe2m1 2)) := by decide
/-- R180, R181, R188, R189: the counts of the function instructions. -/
theorem test_wf_functions : bad (.chfit 1 (src 1) 2 0) ∧ bad (.chfit 1 (src 1) 2 65) ∧ WellFormed (.chfit 1 (src 1) 2 64) ∧
    bad (.chcmp 1 2 3 65) ∧ bad (.chtrn 1 2 none 65) ∧ bad (.chdom (.pts 1 2 0)) ∧ bad (.chdom (.pts 1 2 65)) := by decide
/-- R239, R248, R259, R346, R359, R377, R252, R305: the CP and SY slots. -/
theorem test_wf_engines : bad (.copy 0 1 2 3 false (some 0) none none) ∧ bad (.cstat 1 0 3 true) ∧ WellFormed (.cstat 1 0 3 false) ∧
    bad (.ixscan 0 false .k4 1 2 3 false 0) ∧ bad (.dscan none .ub 1 2 3 4 none 5 true 0) ∧
    bad (.dscan none .znz 1 2 3 4 none 5 false 0) ∧ bad (.rcallR false true 1 2 3 4 0) ∧ bad (.bmac 1 2 3 4 15) ∧
    bad (.bmac 1 2 3 4 24) ∧ WellFormed (.bmac 1 2 3 4 16) ∧ bad (.waitany 1 0) ∧ bad (.prio 1 1) ∧ WellFormed (.prio 0 63) := by decide
/-- R88, R359: the first of eight payload scalars is at most s24; a slot holds only its own instructions. -/
theorem test_wf_in_slot : ¬ WellFormedIn .cp (.rcallR false true 1 2 3 25 4) ∧ WellFormedIn .cp (.rcallR false true 1 2 3 24 4) ∧
    ¬ WellFormedIn .va (.add 1 2 3) := by decide

/-! ### Words written out from the encodings -/

/-- SC: the worked encodings of chapters 01 and 05. -/
theorem test_decode_sc : decodeSlot .sc 0x2018400000004000 = .ok (.addi 3 1 1) ∧
    decodeSlot .sc 0x5120800000003000 = .ok (.gst 3 4 2 0) ∧ decodeSlot .sc 0x29187FFFFFEC8000 = .ok (.cmpi .lt 3 1 0xFFFFFFB) ∧
    decodeSlot .sc 0x6300000000000000 = .ok .tret := by decide +kernel
/-- VA and VB: chapters 06 and 07. -/
theorem test_decode_v : decodeSlot .va 0x120A005300007800 = .ok (.vimul .va 5 0 (src 5) (.scalar 6) .int64) ∧
    decodeSlot .vb 0x1B02005380007B00 = .ok (.vicmp .vb .ge 1 0 (src 5) (.scalar 7) .int64) ∧
    decodeSlot .vb 0x6406002008000000 = .ok (.chmul 3 2 2) ∧
    decodeSlot .vb 0x600A004580000800 = .ok (.cheval false 5 0 4 (.scalar 11)) := by decide +kernel
/-- MX: chapter 09. -/
theorem test_decode_mx : decodeSlot .mx 0x0340000000000002 = .ok (.msetpi 4 2) ∧ decodeSlot .mx 0x0201000000000000 = .ok (.msetp 0 2) := by
  decide +kernel
/-- LD: chapter 08. -/
theorem test_decode_ld : decodeSlot .ld 0x0350901E00000001 = .ok (.ldg false false 40 9 0 15 0 1) := by decide +kernel
/-- CP: chapters 10, 11, 13, 18 and 19. -/
theorem test_decode_cp : decodeSlot .cp 0x0310000000000000 = .ok (.cwait 1 0) ∧
    decodeSlot .cp 0x1010464007000000 = .ok (.ixscan 1 false .fp16 7 3 4 false 0) ∧
    decodeSlot .cp 0x2900280000150000 = .ok (.rstat false 21 20) ∧ decodeSlot .cp 0x3200000000000000 = .ok .dfence ∧
    decodeSlot .cp 0x2800085808940000 = .ok (.rcallQ false false 8 4 5 16 20) := by decide +kernel
/-- SY: chapters 13 and 15. -/
theorem test_decode_sy : decodeSlot .sy 0x0800000000000000 = .ok .exit ∧ decodeSlot .sy 0x0E00000000000000 = .ok .drain ∧
    decodeSlot .sy 0x1100000000000000 = .ok .fencel ∧ decodeSlot .sy 0x0500000000000000 = .ok .qend ∧
    decodeSlot .sy 0x0424280000000000 = .ok (.waitany 5 0x24) := by decide +kernel
/-- The micro-operations: R223. -/
theorem test_decode_micro :
    decodeMicro 0x01000000000000010004000000000000 = some (.agset 0 0 false false 0 0 0 16 1024 0 0) ∧
    decodeMicro 0x04330000000000000000000000000000 = some (.mma 3 3 0) := by decide +kernel
/-- Reserved opcodes and nonzero zero fields are illegal (R23, R26). -/
theorem test_decode_illegal : decodeSlot .sc 0xFE00000000000000 = .illegal ∧ decodeSlot .sc 0x0000000000000001 = .illegal ∧
    decodeSlot .sy 0x0D00000000010000 = .illegal := by decide +kernel

/-! ### Small states -/

def reg (v : Word) : ScalarReg := { val := v, pending := false, poison := none }
/-- A strand of launch 1 in quantum 1, in the middle of it. -/
def strand : Ctx :=
  { Ctx.reset with
    life := .running
    who := { Ident.none with launch := 1 }
    pc := 0x10000
    count := 5
    scalars := [(1, reg 7), (2, reg 9)]
    csr := { Csrs.reset with spmax := 1024, skey := 77, qnum := 1 }
    qBundles := 1
    qFresh := false }
def live : Launch := { Launch.none with ended := none }
/-- A machine with one context: context `h` is `c`, a running launch 1, no turn named. -/
def one (h : Nat) (c : Ctx) : State :=
  { State.reset with turn := none, cur := h, harts := [(h, c)], launches := [(1, live)], host := { HostIf.reset with devState := 1 } }
def opened (s : State) : State := { s with bundle := { Bundle.closed with isOpen := true } }
/-- Core 0, strand context 0, a bundle open. -/
def s0 : State := opened (one 0 strand)
/-- Drone 0, a bundle open. -/
def d0 : State := opened (one 1152 strand)
/-- A page of 64 KiB, present, readable, writable, executable, with frame number `f`. -/
def plain (f : Nat) : Page := { w0 := BitVec.ofNat 64 (2 ^ 63 + 2 ^ 62 + 2 ^ 61 + 2 ^ 60 + f * 2 ^ 16), w1 := 0, modno := 0, notify := none }
/-- The next state, where there is one. -/
def nextOf (o : Out) : Option State := match o with
  | .next t => some t
  | _ => none
/-- What `f` reads in the next state of an instruction. -/
def after {α : Type} (i : Instr) (s : State) (f : State → α) : Option α := (nextOf (exec i s)).map f
/-- The results an instruction of the current context puts in flight: (bundles, register, value), the scalar ones. -/
def flights (i : Instr) (s : State) : Option (List (Nat × Nat × Word)) :=
  after i s fun t => (me t).flight.filterMap fun f => match f.dst with
    | .scalar r v => some (f.due - (me s).count, r, v)
    | _ => none
/-- Element `n` of the tile that an instruction puts in flight. -/
def elemOf (i : Instr) (s : State) (t : EType) (n : Nat) : Option Nat :=
  (after i s fun u => (me u).flight.findSome? fun f => match f.dst with
    | .tile _ v _ => some (tileElem t v n)
    | _ => none).join
/-- The mask that an instruction puts in flight. -/
def maskRes (i : Instr) (s : State) : Option Mask :=
  (after i s fun u => (me u).flight.findSome? fun f => match f.dst with
    | .mask _ v => some v
    | _ => none).join

/-! ### States that meet the hypotheses of the statements -/

/-- Where no drone has left its reset, no channel has a sequencer. -/
theorem calm_of_drones (s : State) (h : s.drones = []) : s.channelsFree := fun _ => by
  simp only [drone, h]
  exact ⟨rfl, rfl⟩

/-- The first bundle placed after reset. -/
def p0 : State := State.reset.withFetchWord 512 0x2018400000004000
theorem witness_DecodeEncode : WellFormedIn .sc (.addi 31 31 0xFFFFFFFF) ∧ WellFormedIn .sy (.nop .sy) ∧
    WellFormedIn .cp (.rcallQ true true 127 31 31 24 31) := by decide
theorem witness_MicroDecodeEncode : (decodeMode 0xD8).isSome = true ∧ (decodeMode 0xDA).isSome = false ∧ (decodeMode 0x60).isSome = false := by decide
/-- A bundle of core 0 that goes. -/
def p1 : State := { p0 with cores := [(0, { Core.reset with issuing := some 0 })] }
theorem witness_StepRunsDecoded_bundle :
    let q := settleMsgs { p1 with turn := none, tick := p1.tick + 1, bundle := Bundle.closed }
    let r := beforeIssue q (6 * 0 + 0)
    p1.turn = some (.core 0) ∧ q.host.devState = 1 ∧ (Machine.core q 0).faulted = false ∧ (Machine.core q 0).issuing = some 0 ∧
      (hart q (6 * 0 + 0)).life = .running ∧ early q (6 * 0 + 0) = none ∧
      (match fetch r 0 with
      | .ok b => (judge r 0 (decodeMode (modeByte b)) (skipSlots (hart r 0) (decodeBundle b))).2 == .go
      | .error _ => false) = true := by decide +kernel
theorem witness_StepRunsDecoded_calm :
    (settleMsgs { p1 with turn := none, tick := p1.tick + 1, bundle := Bundle.closed }).channelsFree := calm_of_drones _ (by decide +kernel)
theorem witness_StepRunsDecoded_event :
    let s := { one 0 strand with turn := some (.event (.agingTick 0)) }
    s.turn = some (.event (.agingTick 0)) ∧ isEvent (.agingTick 0) = true ∧ (0 : Nat) < 192 ∧
      (settleMsgs { s with turn := none, tick := s.tick + 1, bundle := Bundle.closed }).host.devState = 1 := by decide +kernel
theorem witness_StepRunsDecoded_alone : slotOf (.add 3 1 2) = some .sc ∧ (one 0 strand).bundle.isOpen = false ∧
    (examineAlone (one 0 strand) (.add 3 1 2)).verdict = .go ∧ (examineAlone (one 0 strand) (.add 3 1 2)).instrs = [.add 3 1 2] := by
  decide +kernel
/-- ILL alone traps, and an ADD of a pending scalar blocks; a turn of the first core, or drone, that is not there. -/
theorem witness_StepRunsDecoded_others : (examineAlone (one 0 strand) (.ill .sc)).verdict = .trap { cause := 1, slots := 1, info := 0 } ∧
    (examineAlone (one 0 { strand with scalars := [(1, { reg 7 with pending := true })] }) (.add 3 1 2)).verdict = .block ∧
    ({ one 0 strand with turn := some (.core 192) } : State).turn = some (.core 192) ∧
    ({ one 0 strand with turn := some (.drone 544) } : State).turn = some (.drone 544) := by decide +kernel
/-- The hypothesis of every statement about an instruction in an open bundle, on a core and on a drone. -/
theorem witness_slotsOpen : s0.slotsOpen ∧ isStrand s0.cur = true ∧ isDrone s0.cur = false ∧ d0.slotsOpen ∧ isDrone d0.cur = true := by
  decide
theorem witness_NopsDoNothing : s0.slotsOpen ∧ (match runSlots [.nop .sc] s0 with
    | .next r => r.bundle.isOpen
    | _ => false) = true ∧ fld (0x00000000000000FF : Word) 56 8 = 0 := by decide +kernel
theorem witness_StepKeepsMemories : (∀ m ∈ p0.memories, Memory.wf m = true) ∧ (nextOf (step p0)).isSome = true := by decide +kernel
/-- A result that is due and one that is not. -/
def withFlight (due : Nat) : State :=
  one 0 { strand with flight := [{ due := due, dst := .scalar (3 : SReg).toNat 42, flags := 0 }] }
theorem witness_LandingRules : (hart (withFlight 5) 0).flight = [{ due := 5, dst := .scalar (3 : SReg).toNat 42, flags := 0 }] ∧
    (3 : SReg) ≠ 0 ∧ 5 ≤ (hart (withFlight 5) 0).count ∧ (hart (withFlight 6) 0).count < 6 ∧ 63 < elemCount .mxe2m1 := by decide
theorem witness_ComputationFrame : s0.slotsOpen ∧ computes (.vsort .vb true true 1 0 (src 2) .fp32) = true ∧ computes (.mstat 1 true) = true := by
  decide
theorem witness_IntegerResults : s0.slotsOpen := rfl
theorem witness_DivisionRules : s0.slotsOpen ∧ (me s0).s 3 = 0 ∧ (me s0).s 1 ≠ 0 ∧
    (let s := opened (one 0 { strand with scalars := [(1, reg 0x8000000000000000), (2, reg 0xFFFFFFFFFFFFFFFF)] })
     s.slotsOpen ∧ ((me s).s 1).toInt = -2 ^ 63 ∧ ((me s).s 2).toInt = -1) := by decide
theorem witness_ScalarFloatResults : s0.slotsOpen := rfl
/-- The largest finite codes of the three formats, and a mode without FTZ. -/
theorem witness_RoundingRules : (0x7F7FFFFF % 2 ^ (Fmt.fp32.bits - 1) ≤ Fmt.fp32.maxCode ∧ 0x7F7FFFFF < 2 ^ Fmt.fp32.bits) ∧
    (0xFBFF % 2 ^ (Fmt.fp16.bits - 1) ≤ Fmt.fp16.maxCode ∧ 0xFBFF < 2 ^ Fmt.fp16.bits) ∧
    (0xFF7F % 2 ^ (Fmt.bf16.bits - 1) ≤ Fmt.bf16.maxCode ∧ 0xFF7F < 2 ^ Fmt.bf16.bits) ∧ RMode.rne.ftz = false ∧
    RMode.rne.sat = false ∧ Fmt.fp16.hasInf = true := by decide
/-- A tie above the code 1 of fp32, at the largest code of fp16, and a magnitude that both lie past it. -/
theorem witness_RoundingRules_modes : 1 ≤ Fmt.fp32.maxCode ∧ Fmt.fp32.value 1 = .fin false 1 (-149) ∧ 0 < 1 ∧ 1 < 2 ^ 1 ∧
    Fmt.fp16.value Fmt.fp16.maxCode = .fin false 2047 5 ∧ XR.lt (.fin false 2048 5) (.fin false (2047 + 1) 5) = false ∧
    ({ RMode.rne with ftz := true } : RMode).ftz = true := by decide +kernel
theorem witness_BranchesAndLoopEntries : s0.slotsOpen ∧ (me s0).s 1 ≠ 0 ∧ (me s0).s 3 = 0 ∧ (0xFFFF : BitVec 16) ≠ 0 ∧
    (Instr.loopi 0xFFFF 1).wf = true := by decide
/-- A context at the last bundle of two loops that share it, and within them. -/
def looping (remaining : Nat) (pc : Word) : Ctx :=
  { strand with pc := pc, loops := [{ start := 0x10000, last := 0x10040, remaining := remaining }, { start := 0xFFC0, last := 0x10040, remaining := 2 }] }
theorem witness_LoopStack :
    let b := Bundle.closed
    let e : LoopEnt := { start := 0x10000, last := 0x10040, remaining := 2 }
    b.pushed = none ∧ b.skipLoop = none ∧ b.target = none ∧ { b with target := some 64 }.target = some 64 ∧ b.branch = false ∧
      { b with pushed := some e }.pushed = some e ∧ { b with skipLoop := some 64 }.skipLoop = some 64 ∧
      (∀ x ∈ [e].drop 0, x.start.toNat ≤ (0x10040 : Word).toNat ∧ (0x10040 : Word).toNat ≤ x.last.toNat) ∧
      (looping 2 0x10040).loops.head? = some e ∧ e.last = (looping 2 0x10040).pc ∧ 1 < e.remaining ∧
      ((looping 1 0x10040).loops.head?.map (·.remaining)) = some 1 ∧ e.last ≠ (looping 2 0x10000).pc ∧ strand.loops = [] := by decide
theorem witness_CsrRules : s0.slotsOpen ∧ 0x15 ∈ [0x01, 0x02, 0x03, 0x04, 0x0C, 0x0F, 0x10, 0x11, 0x15] ∧ (3 : Nat) < 4 ∧ (0x7F : Nat) < 0x80 ∧
    (hart (one 3 strand) (6 * coreOf 4 + 3)).life ≠ .trapped ∧ (31 : Nat) < 32 ∧
    (hart (one 3 { strand with life := .trapped }) (6 * coreOf 4 + 3)).life = .trapped := by decide
theorem witness_TrapEntry : isStrand 3 = true ∧ (Machine.core (one 3 strand) (coreOf 3)).handling = false ∧
    (Machine.core (one 3 strand) (coreOf 3)).trapQ = [] ∧
    (Machine.core { one 3 strand with cores := [(0, { Core.reset with handling := true, trapQ := [1] })] } (coreOf 3)).handling = true := by decide
theorem witness_TrapReturn :
    let s : State := { one 3 { strand with life := .trapped } with cores := [(0, { Core.reset with tsrc := 3, handling := true })] }
    (Machine.core s 0).tsrc = BitVec.ofNat 64 3 ∧ (Machine.core s 0).trapQ = [] ∧ (hart s (6 * 0 + 3)).life = .trapped ∧
      (hart s (6 * 0 + 3)).leaving = false := by decide
/-- The hypotheses that SVC's and ADD's statements share. -/
theorem witness_SystemInstructions :
    let s := one 0 strand
    let c := hart s 0
    let k := Machine.core s (coreOf 0)
    s0.slotsOpen ∧ isStrand s.cur = true ∧ s.bundle.isOpen = false ∧ s.bundle.mode = Mode.zero ∧ c.life = .running ∧ c.flight = [] ∧
      c.loops = [] ∧ c.skip = 0 ∧ c.stopReq = false ∧ c.spCount < c.csr.spmax.toNat ∧ runAheadBlocked s c = false ∧
      k.handling = false ∧ k.trapQ = [] ∧ k.waiters = [] := by decide
/-- Core 191's handler at the close of a bundle, its trap that of context 3. -/
def handling (b : Bundle) : State :=
  { one 1150 Ctx.reset with
    harts := [(1149, { strand with life := .trapped, csr := { strand.csr with tpc := 0x1007F } }), (1150, { Ctx.reset with life := .running })]
    bundle := b
    cores := [(191, { Core.reset with tsrc := 3, tskip := 5, handling := true, issuing := some 4 })] }
theorem witness_SystemInstructions_close :
    let s (b : Bundle) := handling b
    191 < 192 ∧ (s Bundle.closed).cur = 6 * 191 + 4 ∧ (Machine.core (s Bundle.closed) 191).tsrc = BitVec.ofNat 64 3 ∧
      (Machine.core (s Bundle.closed) 191).trapQ = [] ∧ (hart (s Bundle.closed) (6 * 191 + 3)).life = .trapped ∧
      (hart (s Bundle.closed) (6 * 191 + 3)).leaving = false ∧ (launch (s Bundle.closed) (hart (s Bundle.closed) (6 * 191 + 3)).who.launch).ended = none ∧
      (let b := { Bundle.closed with returns := true }
       b.exits = false ∧ b.yields = false ∧ b.after = none ∧ b.reply = none ∧ b.returns = true ∧ b.halts = none) ∧
      (let b := { Bundle.closed with halts := some 9 }
       b.exits = false ∧ b.yields = false ∧ b.after = none ∧ b.reply = none ∧ b.halts = some 9) := by decide
theorem witness_IllTraps : (one 0 strand).bundle.isOpen = false ∧ early (one 0 strand) (one 0 strand).cur = none ∧
    (hart (beforeIssue (one 0 strand) 0) 0).skip = 0 ∧ fld (0xFF00000000000001 : Word) 56 8 = 0xFF := by decide +kernel
/-- Context 0 over every state of an operand: register 1 pending, busy or empty, register 2 poisoned. -/
def operands : State :=
  let f := FuncReg.zero.fn
  one 0 { strand with
    scalars := [(1, { reg 7 with pending := true }), (2, { reg 7 with poison := some 0x14 }), (3, reg 5)]
    tiles := [(1, { val := 0, st := .empty }), (2, { val := 0, st := .poisoned 0x13 }), (3, { val := 0, st := .full })]
    masks := [(1, { val := 1, pending := true, poison := none }), (2, { val := 1, pending := false, poison := some 0x14 })]
    fregs := [(1, { fn := f, st := .busy }), (2, { fn := f, st := .poisoned 0x0B })] }
/-- Two faulting slots, the SC slot's a poisoned scalar and VA's an empty tile under E = 1. -/
def faulting : List SlotIn :=
  let y (t : Slot) (i : Instr) : SlotIn := { slot := t, sp := false, dec := .ok i, raw := some i }
  [y .sc (.add 3 2 3), y .va (.vmov .va 3 0 (.reg false true 1) .fp32)]
theorem witness_TrapsAsJudged_bundle :
    decodeFaults 0 (hart operands 0) (some Mode.zero) faulting = [] ∧ instrsOf faulting = [.add 3 2 3, .vmov .va 3 0 (.reg false true 1) .fp32] ∧
    (∀ i ∈ instrsOf faulting, isWait i = false) ∧ (faulting.map fun y => y.slot.index).Nodup ∧ (hart operands 0).stopReq = false ∧
    runAheadBlocked operands (hart operands 0) = false ∧
    (∀ i ∈ instrsOf faulting, (useIn 0 i).blocks (hart operands 0) = false ∧ engineBlocks operands 0 i = false) ∧
    issueTrap operands 0 (.add 3 2 3) = some (5, BitVec.ofNat 64 (0x14 * 2 ^ 56 + 2 ^ 8 + 2)) ∧
    (faulting.map fun y => match y.dec with
      | .ok i => (issueTrap operands 0 i).isSome
      | _ => false) = [true, true] ∧ Slot.sc.index < Slot.va.index ∧
    (useIn 0 (.add 3 1 3)).blocks (hart operands 0) = true ∧
    decodeFaults 0 (hart operands 0) (some Mode.zero) [{ slot := .sc, sp := false, dec := .ok (.add 3 1 3), raw := some (.add 3 1 3) }] = [] := by
  decide +kernel
theorem witness_TrapsAsJudged_operands :
    let c := hart operands 0
    (c.scalar (1 : SReg).toNat).pending = true ∧ (c.scalar (2 : SReg).toNat).poison = some 0x14 ∧ (c.scalar (3 : SReg).toNat).poison = none ∧
      (c.tile (1 : TReg).toNat).st = .empty ∧ (c.tile (2 : TReg).toNat).st = .poisoned 0x13 ∧ (c.tile (3 : TReg).toNat).st = .full ∧
      (1 : MReg) ≠ 0 ∧ (c.mask (1 : MReg).toNat).pending = true ∧ (c.mask (2 : MReg).toNat).poison = some 0x14 ∧
      (c.freg (1 : FReg).toNat).st = .busy ∧ (c.freg (2 : FReg).toNat).st = .poisoned 0x0B := by decide
/-- Addresses at the edges of R131's cases: the first past the space, the last of it, one misaligned, one with no page; a page of another
module, one that only reads, one that is compressed, one that is open to all. -/
theorem witness_TrapsAsJudged_access :
    let p := plain 3
    let off : Page := { p with modno := 5 }
    let ro : Page := { p with w0 := BitVec.ofNat 64 (2 ^ 63 + 2 ^ 62 + 3 * 2 ^ 16) }
    let cp : Page := { p with w0 := p.w0 ||| 0x0400000000000000 }
    let s (p : Page) (v : Word) : State := { one 0 { strand with scalars := [(1, reg v)] } with pages := [(2, p)] }
    let a (v : Word) : Word := (hart (s p v) 0).s 1 + (0 : BitVec 32).signExtend 64
    isStrand 0 = true ∧ 2 ^ 56 ≤ (a (2 ^ 56)).toNat ∧ (a (2 ^ 56 - 1)).toNat < 2 ^ 56 ∧ (a (2 ^ 56 - 1)).toNat % 2 ^ (2 : BitVec 2).toNat ≠ 0 ∧
      (a 0x30000).toNat % 2 ^ (3 : BitVec 2).toNat = 0 ∧ findPage (s p 0).pages (a 0x30000).toNat = none ∧
      findPage (s off 0).pages (a 0x20000).toNat = some (0x20000, off) ∧ (s off 0).remotePage off = true ∧ (s ro 0).remotePage ro = false ∧
      (ro.rd, ro.wr) = (true, false) ∧ (s p 0).remotePage p = false ∧ (p.rd, p.wr, p.rep) = (true, true, 0) ∧
      (cp.rd, cp.wr, cp.rep) = (true, true, 1) ∧ (1 : BitVec 2).toNat < 2 := by
  decide +kernel
theorem witness_TrapsAsJudged_rights : 1151 < 1152 ∧ 1151 % 6 ≠ 4 ∧ 0x40 ≤ (0x40 : BitVec 12).toNat ∧ 0x40 ≤ (0xFFF : BitVec 12).toNat ∧ 191 < 192 ∧
    isStrand 0 = true ∧ (1 : SReg) ≠ 0 ∧ 63 < ((hart (one 0 { strand with scalars := [(1, reg 64)] }) 0).s 1).toNat ∧ ((hart (one 0 { strand with scalars := [(1, reg 64)] }) 0).s 1).toNat < 2 ^ 56 ∧
    (hart s0 0).csr.skey ∉ (group s0 (hart s0 0).who.launch (64 * dieOf 0 + (63 : BitVec 6).toNat)).members := by decide +kernel
/-- A bundle with a decode fault; quantum 4 with none committed blocks, quantum 1 does not, a reached SPMAX traps, the rest issues; the
hypotheses of the ADD. -/
theorem witness_BundlesIssue :
    let s := one 0 strand
    let c := hart s 0
    let far := one 0 { strand with csr := { strand.csr with qnum := 4 } }
    let overrun := one 0 { strand with spCount := 1024 }
    isStrand 0 = true ∧ c.stopReq = false ∧
      (trapOf (decodeFaults 0 c (some Mode.zero) (skipSlots c (decodeBundle 0xFF00000000000000)))).isSome = true ∧
      decodeFaults 0 (hart far 0) (some Mode.zero) (decodeBundle 0) = [] ∧
      (launch far (hart far 0).who.launch).committed + 3 < (hart far 0).csr.qnum.toNat ∧
      c.csr.qnum.toNat ≤ (launch s c.who.launch).committed + 3 ∧ (hart overrun 0).csr.spmax.toNat ≤ (hart overrun 0).spCount ∧
      c.spCount < c.csr.spmax.toNat ∧ c.qFresh = false ∧ c.qBundles + 1 < c.qbLim ∧ (Machine.core s (coreOf 0)).waiters = [] ∧
      (∀ r ∈ [(3 : SReg), 1, 2], (c.scalar r.toNat).pending = false) ∧ (∀ r ∈ [(1 : SReg), 2], (c.scalar r.toNat).poison = none) := by
  decide +kernel
theorem witness_GlobalAccesses : s0.slotsOpen ∧ isStrand s0.cur = true ∧ (0xFFFFFFFF : Word).toNat < 2 ^ (8 * 4) ∧
    (BitVec.allOnes 64).toNat < 2 ^ (8 * 8) := by decide
/-- A load of 8 bytes at the start of a page, and a GLD.Q of quantum 3 with none committed. -/
def loading (q : Option Nat) : State :=
  { one 0 { strand with gloads := [{ dst := 4, addr := 0x20000, size := 8, q := q, launch := 1, key := 77, ord := 0, base := 0x20000, page := plain 3 }] } with
    pages := [(2, plain 3)], mem := [(0x30000, 0xAB)] }
theorem witness_GlobalLoadCompletes :
    ∀ g, (hart (loading none) 0).gloads = [g] → findPage (gloadImage (loading none) g).pages g.addr = some (0x20000, plain 3) ∧
      (plain 3).rep = 0 ∧ vbad (gloadImage (loading none) g) g.addr g.size = false ∧ (∀ k, forwarded (loading none) g k = none) ∧
      gloadReady (loading none) g = true ∧ (loading none).channelsFree := by
  intro g h
  simp only [loading, one, hart, tget, if_true, List.cons.injEq, and_true] at h
  subst h
  exact ⟨by decide +kernel, by decide +kernel, by decide +kernel, fun k => rfl, by decide +kernel, fun _ => ⟨rfl, rfl⟩⟩
theorem witness_GlobalLoadCompletes_ordered :
    ((hart (loading (some 3)) 0).gloads.all fun g => g.q == some 3 && decide ((launch (loading (some 3)) g.launch).committed + 1 < 3)) = true := by
  decide
/-- No sequencer runs, or one on the channel that keeps the bytes. -/
theorem witness_GlobalLoadCompletes_waits :
    let r : SeqRun := { owner := none, x := 0, y := 0, out := 0, a := 0, body := 0, aw := 0, levels := [], idx := [0, 0, 0, 0, 0], phase := 0, v := 0,
                        flags := 0, cols := none, suspended := false, cause := 0, finished := false }
    let s := { loading none with drones := [(0, { Drone.reset with seqr := some r })] }
    ∀ g, (hart s 0).gloads = [g] → gloadReady s g = true ∧ 0 ∈ channelsOf { s with pages := (gloadImage s g).pages } g.addr g.size ∧
      (drone s 0).seqr = some r ∧ r.finished = false ∧ r.suspended = false ∧ (drone s 0).granted.contains (.gld 0 g.dst) = false := by
  intro r s g h
  simp only [s, loading, one, hart, tget, if_true, List.cons.injEq, and_true] at h
  subst h
  exact ⟨by decide +kernel, by decide +kernel, by decide +kernel, by decide, by decide, by decide⟩
theorem witness_VectorIntegers : s0.slotsOpen ∧ EType.isI .uint8 = true ∧ EType.isB .fp16 = true ∧
    (intMin .int8 ≤ 127 ∧ (127 : Int) ≤ intMax .int8 ∧ (-129 : Int) < intMin .int8 ∧ intMax .int8 < 128) := by decide
theorem witness_VectorFloats : s0.slotsOpen ∧ EType.isF .bf16 = true ∧ EType.isB .int64 = true ∧ EType.isB .uint8 = true ∧
    64 * (3 : BitVec 3).toNat + 64 ≤ EType.perRow .mxe4m3 ∧ 64 * (7 : BitVec 3).toNat + 64 ≤ EType.perRow .mxe2m1 := by decide
/-- Elements of 1, which is a power of two and an integer, at the ends of the statement's ranges. -/
theorem witness_SpecialValues : (0 : Nat) < 1 ∧ (0 : Nat) < 2 ^ 100 ∧ (1 : Nat) < 2 ^ 64 ∧ (-200 : Int) ≤ 0 ∧ (11 : Int) + (1 : Nat).log2 < 12 ∧
    (12 : Int) ≤ 11 + (3 : Nat).log2 ∧ (1 : ℝ) * ((1 : ℕ) : ℝ) * (2 : ℝ) ^ (0 : ℤ) = ((1 : ℤ) : ℝ) ∧
    Real.logb 2 (((1 : ℕ) : ℝ) * (2 : ℝ) ^ (0 : ℤ)) = ((0 : ℤ) : ℝ) := by
  refine ⟨by decide, by decide, by decide, by decide, by decide, by decide, by norm_num, by norm_num⟩
theorem witness_VectorCompares : s0.slotsOpen ∧ EType.isF .fp32 = true ∧ EType.isI .int64 = true ∧
    fld (0x1B02005380007E00 : Word) 56 8 = 0x1B ∧ 6 ≤ (fld (0x1B02005380007E00 : Word) 8 3).toNat := by decide
theorem witness_VpermPermutes : s0.slotsOpen := rfl
theorem witness_VectorMoves : s0.slotsOpen ∧ EType.bits .uint8 < 32 ∧
    (0x100 : BitVec 32) ≠ ((0x100 : BitVec 32).setWidth (EType.bits .uint8)).setWidth 32 ∧
    (0x100 : BitVec 32) ≠ ((0x100 : BitVec 32).setWidth (EType.bits .uint8)).signExtend 32 ∧
    EType.perRow .fp32 ≤ (64 : BitVec 8).toNat ∧ 16 ≤ (16 : BitVec 8).toNat ∧
    0x30 ≤ (fld (0x3300000000000801 : Word) 56 8).toNat ∧ (fld (0x3300000000000801 : Word) 56 8).toNat ≤ 0x33 ∧
    fld (0x3300000000000801 : Word) 11 1 = 1 ∧ fld (0x3300000000000801 : Word) 0 8 ≠ 0 := by decide
theorem witness_VsortSorts : s0.slotsOpen ∧ EType.isK .fp32 = true ∧ (0 : BitVec 8).toNat = 0 ∧ EType.perRow .fp32 < (65 : BitVec 8).toNat := by
  decide
theorem witness_IntegerReductions : s0.slotsOpen ∧ EType.isI .uint64 = true ∧ EType.isF .fp16 = true := by decide
/-- A mask whose first governing bit stands at element 1, and an empty one. -/
theorem witness_MaskResults : s0.slotsOpen ∧ EType.isB .fp16 = true ∧ 1 < elemCount .fp32 ∧ govern .fp32 (2 : Mask) 1 = true ∧
    (∀ k, k < 1 → govern .fp32 (2 : Mask) k = false) ∧ (∀ n, n < elemCount .int64 → govern .int64 (0 : Mask) n = false) := by decide +kernel

/-! ### The function unit, the matrix unit -/

/-- A point outside the domain on either side. -/
theorem witness_FunctionStarts : s0.slotsOpen ∧ d0.slotsOpen ∧ ((me s0).freg (15 : FReg).toNat).fn.coeffs = [] ∧
    (let f := ((me s0).freg 15).fn
     (XR.fin true 2 0).lt (f32 f.lo) = true ∧ (f32 f.hi).lt (XR.fin false 2 0) = true ∧ XR.fin false 2 0 ≠ .nan) := by decide +kernel
/-- The function 0 on [-1, 1]: its domain and coefficients fit a tile, none of its roots is NaN, and its first and last samples are zero. -/
theorem witness_FunctionStarts_roots :
    let f : ChebFn := { lo := 0xBF800000, hi := 0x3F800000, coeffs := [0] }
    let s := opened (one 0 { strand with fregs := [(1, { fn := f, st := .ready })] })
    let lo := f32 f.lo
    let x (j : Nat) := (rne32 (XR.add false lo (XR.div (XR.mul (XR.add false (f32 f.hi) lo.neg) (XR.ofInt j)) (XR.ofInt (4 * 1 : Nat))))).1
    s.slotsOpen ∧ ((me s).freg (1 : FReg).toNat).fn = f ∧ f.coeffs.length = 1 ∧ f.coeffs.length ≤ 64 ∧
      ((rootsOf f).1.all fun x => !(f32 x).isNaN) = true ∧ 4 ≤ 4 * f.coeffs.length ∧ (f32 (evalRne f (f32 (x 0))).1).isZero = true ∧
      (f32 (evalRne f (f32 (x 4))).1).isZero = true := by decide +kernel
/-- A context whose function unit holds two operations: one with three results, one for s0. -/
def computing : State :=
  one 0 { strand with fops := [{ freg := some (15, { lo := 0, hi := 1, coeffs := [5] }), tile := some (127, 1, 1), scalar := some (31, 9), flags := 0x3F },
    { freg := none, tile := none, scalar := none, flags := 0 }] }
theorem witness_FunctionCompletes : ∃ o os f v b w, (hart computing 0).fops = o :: os ∧ o.freg = some (15, f) ∧ o.tile = some (127, v, b) ∧
    o.scalar = some (31, w) ∧ 31 ≠ 0 ∧ (1151 : Nat) ≠ 0 :=
  ⟨_, _, _, _, _, _, rfl, rfl, rfl, rfl, by decide, by decide⟩
theorem witness_ChfreeClears : s0.slotsOpen ∧ (me s0).fops = [] ∧ 15 ≠ (0 : FReg).toNat ∧ 15 < 16 := by decide

/-- A matrix call of context `h` with routine `rtn`. -/
def mcallOf (h rtn : Nat) (out : Bool) : MCall :=
  { h := h, tbase := 4, rtn := rtn, out := out, params := List.replicate 8 0, xv := [0, 0, 0, 0], acc := 0 }
def unitOf (c : Nat) (m : MatrixUnit) : State := { s0 with cores := [(c, { Core.reset with mx := m })] }
/-- A load that ends at the last micro-word, of routine 255. -/
theorem witness_MatrixInstructions : s0.slotsOpen ∧ (0xFF : BitVec 8).toNat = 255 ∧
    mploadHeader 255 (BitVec.ofNat 128 (4095 + 2 ^ 12)) = some (4095, 1) ∧ mploadHeader 64 (BitVec.ofNat 128 (2048 + 255 * 2 ^ 12)) = some (2048, 255) ∧
    (let s := { s0 with harts := [(0, { strand with tiles := [(5, { val := BitVec.ofNat 32768 (2048 + 255 * 2 ^ 12), st := .full })] })] }
     mploadHeader 64 (BitVec.ofNat 128 (bitsOf ((me s).tile 5).val 0 128)) = some (2048, 255)) ∧
    (3 : Nat) < 4 := by decide +kernel
/-- The calls of its context that MCANCEL ends at once: none, one that waits, one that runs with its tiles not filled, and not one in the
middle of an MMA, with a line sent or a generator waiting. -/
theorem witness_MatrixInstructions_cancel :
    let found (s : State) : List (Nat × Bool) :=
      ((Machine.core s 0).mx.lo.filterMap fun i => match i with
        | .call k => if k.h == s.cur then some (k.rtn, false) else none
        | .load .. => none) ++
        (((Machine.core s 0).mx.running.toList ++ (Machine.core s 0).mx.suspended.toList).filter fun r => r.call.h == s.cur && r.lo == true &&
          (r.sent.isEmpty && r.lines.isEmpty && r.stalled.isEmpty)).map fun r => (r.call.rtn, r.filled)
    let s (lo : List MItem) (r : Option MRun) := unitOf 0 { MatrixUnit.reset with lo := lo, running := r }
    found (s [.call (mcallOf 1 5 true)] (some (startRun (mcallOf 2 1 true) true 16))) = [] ∧ found (s [.call (mcallOf 0 5 true)] none) = [(5, false)] ∧
      found (s [] (some (startRun (mcallOf 0 1 true) true 16))) = [(1, false)] ∧ (s [] none).slotsOpen ∧
      found (s [] (some { startRun (mcallOf 0 1 true) true 16 with sent := [0] })) = [] ∧
      found (s [] (some { startRun (mcallOf 0 1 true) true 16 with stalled := [(1, 1)] })) = [] := by decide +kernel
theorem witness_MatrixEvents :
    (let m := { MatrixUnit.reset with hi := [.call (mcallOf 6 26 true)], suspended := some (startRun (mcallOf 7 1 true) true 16) }
     (Machine.core (unitOf 1 m) 1).mx = m ∧ m.running = none ∧ (Machine.core (unitOf 1 m) 1).faulted = false ∧ routineEntry m 26 = some 416) ∧
    (let m := { MatrixUnit.reset with lo := [.call (mcallOf 6 0 true)] }
     (Machine.core (unitOf 1 m) 1).mx = m ∧ m.hi = [] ∧ m.suspended = none ∧ routineEntry m 0 = some 0) ∧
    (let m := { MatrixUnit.reset with hi := [.call (mcallOf 6 27 true)] }
     (Machine.core (unitOf 1 m) 1).mx = m ∧ routineEntry m 27 = none) ∧
    (let m := { MatrixUnit.reset with suspended := some (startRun (mcallOf 7 1 true) true 16) }
     (Machine.core (unitOf 1 m) 1).mx = m ∧ m.running = none ∧ m.hi = []) ∧
    (let m := { MatrixUnit.reset with hi := [.load 3 255 4095 [7]], lo := [.load 3 255 4095 [7]] }
     (Machine.core (unitOf 1 m) 1).mx = m ∧ m.suspended = none ∧ ([7] : List MicroWord)[0]? = some 7) ∧
    (let r := { startRun (mcallOf 6 1 true) false 16 with stalled := [(0, 1)] }
     let s := { unitOf 1 { MatrixUnit.reset with running := some r } with now := 23967452 }
     (Machine.core s 1).mx.running = some r ∧ coreOf r.call.h = 1 ∧ (0, 0 + 1) ∈ r.stalled ∧ refElapsed s 0 (2 ^ 24) = true ∧
       refElapsed { s with now := 23967451 } 0 (2 ^ 24) = false) := by decide +kernel
/-- A running call, low or high, of the four-tile form or not, with level 2 active in its second round and a set count address. -/
def runOf (lo out filled : Bool) : MRun :=
  { startRun (mcallOf 0 1 out) lo 16 with active := [(2, 10)], cnt := [0, 0, 3], idx := [0, 0, 1], filled := filled }
def runs (r : MRun) (hi : List MItem) : State := unitOf 0 { MatrixUnit.reset with hi := hi, running := some r }
/-- The count word of a call whose parameter 7 is the last word of the own comb. -/
def counting (r : MRun) (y : Reread) : MRun :=
  { r with call := { r.call with params := [0, 0x2FFFFFFFF, 0, 0, 0, 0, 0, 0x3FFFFC] }, reread := [((4 : Nat) + 2, y)] }
theorem witness_MicroOperations :
    let w := runOf true true false
    let s := runs w [.call (mcallOf 0 2 true)]
    (Machine.core s s.cur).mx.running = some w ∧ coreOf w.call.h = s.cur ∧ w.cancelled = false ∧
      ({ w with cancelled := true } : MRun).cancelled = true ∧ (4 : BitVec 3).toNat ≤ 4 ∧ ¬(5 : BitVec 3).toNat ≤ 4 ∧
      (w.lo && (headCall (Machine.core s s.cur).mx.hi).isSome) = true ∧
      ((runOf false true false).lo && (headCall (Machine.core (runs (runOf false true false) []) 0).mx.hi).isSome) = false ∧
      w.call.out = true ∧ w.filled = false ∧ (runOf true true true).filled = true ∧ (runOf true false false).call.out = false := by
  decide +kernel
/-- The roles of AGMC: to others and from another, to none and from itself, in a cluster and not; to itself, of generator 4, mode 3. -/
theorem witness_MicroOperations_roles :
    let w := runOf true true false
    let s := { runs w [] with harts := [(0, { strand with who := { strand.who with cluster := some 0 } })] }
    let wrong (g : BitVec 3) (mode : BitVec 2) (members : BitVec 8) : Prop :=
      4 ≤ g.toNat ∨ mode = 3 ∨ (mode = 1 ∧ members.getLsbD (memberOf s.cur) = true)
    let away (mode : BitVec 2) (members : BitVec 8) (src : BitVec 3) : Prop := (mode = 1 ∧ members ≠ 0) ∨ (mode = 2 ∧ src.toNat ≠ memberOf s.cur)
    (Machine.core s s.cur).mx.running = some w ∧ inCluster s w.call.h = true ∧ inCluster (runs w []) w.call.h = false ∧
      (¬wrong 3 1 0xFE ∧ away 1 0xFE 0) ∧ (¬wrong 3 2 0 ∧ away 2 0 7) ∧ (¬wrong 0 1 0 ∧ ¬away 1 0 0) ∧ (¬wrong 0 2 0xFF ∧ ¬away 2 0xFF 0) ∧
      (¬wrong 0 0 0xFF ∧ ¬away 0 0xFF 7) ∧ wrong 0 1 1 ∧ wrong 4 0 0 ∧ wrong 0 3 0 := by decide +kernel
/-- Level 1 free and level 2 active; counts 0 and not, of the word, of a parameter's low 32 bits, and kept; a second read that waits for its
MLOOP and one whose word is not 0; rounds that remain and that do not. -/
theorem witness_MicroOperations_loops :
    let w := counting (runOf true true false) { addr := 0x3FFFFC, cap := 0xFFFF }
    let s := runs w []
    let k (src : BitVec 2) (n : BitVec 16) (l : Nat) : Nat :=
      if src = 0 then n.toNat else if src = 1 then (nth 0 w.call.params (1 : BitVec 3).toNat).toNat % 2 ^ 32 else nth 0 w.cnt l
    (Machine.core s s.cur).mx.running = some w ∧ coreOf w.call.h = s.cur ∧ w.cancelled = false ∧
      (1 : BitVec 2) ≠ 3 ∧ (∀ e ∈ w.active, e.1 ≠ (1 : BitVec 2).toNat) ∧ ¬(∀ e ∈ w.active, e.1 ≠ (2 : BitVec 2).toNat) ∧
      k 0 0 1 = 0 ∧ k 0 0xFFFF 1 = 0xFFFF ∧ k 1 0 1 = 2 ^ 32 - 1 ∧ k 2 0 1 = 0 ∧ k 2 0 2 = 3 ∧
      w.active = ((2 : BitVec 2).toNat, 10) :: [] ∧ w.reread = [(4 + (2 : BitVec 2).toNat, { addr := 0x3FFFFC, cap := 0xFFFF })] ∧
      countWord s w.call.h 0x3FFFFC = some (0, 0x3FFFFC, 0) ∧ onItsWay s w.call.h 0 (granule 0x3FFFFC) = false ∧
      (Machine.core s 0).badGranules.contains (granule 0x3FFFFC) = false ∧ (runOf true true false).reread = [] ∧
      nth 0 w.idx 2 + 1 < nth 0 w.cnt 2 ∧ nth 0 (setNth (min 0 0xFFFF) w.cnt (2 : BitVec 2).toNat) 2 ≤ nth 0 w.idx 2 + 1 ∧
      ({ w with reread := [((1 : BitVec 2).toNat, { addr := 0, cap := 1 })] } : MRun).reread = [((1 : BitVec 2).toNat, { addr := 0, cap := 1 })] ∧
      ({ w with active := [] } : MRun).active = [] ∧ (1 : BitVec 2).toNat ≠ 2 ∧
      countWord s w.call.h (nth 0 w.call.params (7 : BitVec 3).toNat + (0 : BitVec 24).signExtend 64) = some (0, 0x3FFFFC, 0) ∧
      countWord s w.call.h (nth 0 w.call.params (7 : BitVec 3).toNat + (1 : BitVec 24).signExtend 64) = none := by decide +kernel
/-- MOUT's generator not set, its 64 rows of 256 bytes up to the end of the own comb, and 16 bytes past it. -/
theorem witness_MicroOperations_rows :
    let w := runOf true false false
    let at' (b : Word) : MRun := { w with gens := [(4, { Gen.unset with set := true, base := b, pitch := 256 })] }
    let s := runs (at' 0x3FC000) []
    w.call.out = false ∧ (genOf w 4).set = false ∧ (genOf (at' 0x3FC000) 4).set = true ∧ (Machine.core s s.cur).mx.running = some (at' 0x3FC000) ∧
      (∀ n, n < 64 → windowBad s 0 (lineAddr (at' 0x3FC000) (genOf (at' 0x3FC000) 4) n) 256 16 = false ∧
        memberCore 0 (lineAddr (at' 0x3FC000) (genOf (at' 0x3FC000) 4) n).toNat = s.cur) ∧
      windowBad s 0 (lineAddr (at' 0x3FC010) (genOf (at' 0x3FC010) 4) 63) 256 16 = true ∧ (Machine.core s s.cur).badGranules = [] ∧
      (∀ e ∈ s.harts, e.2.loads = []) := by decide +kernel
/-- A step whose generators 0 and 1 read 64 lines of 16 bytes from offset 0 and from 1 KiB on, 2 and 3 64 scale bytes each. -/
def stepping : MRun :=
  { startRun (mcallOf 0 1 true) false 16 with
    gens := [(0, { Gen.unset with set := true, pitch := 16 }), (1, { Gen.unset with set := true, base := 1024, pitch := 16 }),
      (2, { Gen.unset with set := true, base := 2048, pitch := 1 }), (3, { Gen.unset with set := true, base := 4096, pitch := 1 })] }
/-- Pairs of integers, of 8-bit and of 16-bit floats, of k4 with mxe2m1 under XV 3; two pairs of two families; XV 1 without k4. -/
theorem witness_MatrixSteps :
    let s := runs stepping []
    let athand (g n al : Nat) : Prop := (genOf stepping g).mode = 0 ∧ askLines s stepping g n al = (s, stepping) ∧
      readLines s stepping g n al = .ready (List.replicate 64 (List.replicate n 0))
    let pair (fa fb : BitVec 4) : Bool := [[1, 2], [3, 4], [10, 11], [12, 13], [14]].any fun l => l.contains fa && l.contains fb
    (Machine.core s s.cur).mx.running = some stepping ∧ stepping.cancelled = false ∧ coreOf stepping.call.h = s.cur ∧ athand 0 16 16 ∧ athand 1 16 16 ∧
      athand 2 1 1 ∧ athand 3 1 1 ∧
      pair 10 11 ∧ pair 1 2 ∧ pair 4 3 ∧ pair 13 12 ∧ pair 14 14 ∧ ¬pair 13 14 ∧ ¬pair 2 3 ∧ ¬pair 0 0 ∧
      ((3 : BitVec 2) = 0 ∨ (13 : BitVec 4) = 13 ∨ (12 : BitVec 4) = 13) ∧ ¬((1 : BitVec 2) = 0 ∨ (12 : BitVec 4) = 13 ∨ (12 : BitVec 4) = 13) := by
  decide +kernel
/-- Lines of 32 bytes for a pair of format 14. -/
theorem witness_MatrixSteps_wide :
    let r : MRun := { stepping with gens := [(0, { Gen.unset with set := true, base := 0x3FF800, pitch := 32 }), (1, { Gen.unset with set := true, pitch := 32 })] }
    let s := runs r []
    askLines s r 0 32 16 = (s, r) ∧ readLines s r 0 32 16 = .ready (List.replicate 64 (List.replicate 32 0)) ∧
      readLines s r 1 32 16 = .ready (List.replicate 64 (List.replicate 32 0)) := by decide +kernel

/-! ### The comb -/

theorem witness_LoadsBegin : s0.slotsOpen ∧ isDrone s0.cur = false ∧ (me s0).loads = [] ∧ ((me s0).queue (1 : QNo).toNat).items = [] := by decide
/-- An LDS of the last 8 bytes of the own comb. -/
theorem witness_LoadsBegin_reads :
    let s := { s0 with harts := [(0, { strand with scalars := [(1, reg 0x3FFFF8)] })] }
    let a := ((me s).s 1 + (0 : BitVec 32).signExtend 64).toNat
    s.slotsOpen ∧ isDrone s.cur = false ∧ s.cur < 1152 ∧ (me s).loads = [] ∧ memberCore s.cur a = coreOf s.cur ∧
      a % 2 ^ (3 : BitVec 2).toNat = 0 ∧ (Machine.core s (coreOf s.cur)).badGranules.contains (a % 2 ^ 22 / 16) = false ∧ (31 : SReg) ≠ 0 := by decide
theorem witness_StoresWrite :
    let i := Instr.sts false 3 1 0 0x3FFFF8
    s0.slotsOpen ∧ isDrone s0.cur = false ∧ storeRanges s0 i = [(0x3FFFF8, natBytes 7 8)] ∧ memberCore s0.cur 0x3FFFF8 = coreOf s0.cur ∧
      (Machine.core s0 (coreOf s0.cur)).badGranules = [] := by decide +kernel
/-- Sixteen rows up to the end of the own comb, a word for it, and a row and four bytes for the next member of the cluster. -/
theorem witness_StoresWrite_rows :
    let s := opened (one 0 { strand with scalars := [(1, reg 0x3FF000), (2, reg 0x400010)] })
    let ok (p : Nat × List Byte) : Bool :=
      memberCore 0 p.1 != coreOf 0 && p.2.length != 0 && (p.1 % 16 == 0 && p.2.length % 16 == 0 || decide (p.1 % 16 + p.2.length ≤ 16))
    s.slotsOpen ∧ isDrone s.cur = false ∧ (∀ e ∈ s.harts, e.2.loads = []) ∧ (Machine.core s 0).badGranules = [] ∧
      ((storeRanges s (.stt true 3 1 0 15 0)).map fun p => (memberCore s.cur p.1, p.2.length)) = List.replicate 16 (coreOf s.cur, 256) ∧
      ((storeRanges s (.stt true 3 1 0 15 0)).getLast?.map fun p => p.1 % 2 ^ 22 + p.2.length) = some (2 ^ 22) ∧
      (storeRanges s (.stt true 3 2 0 0 0)).all ok = true ∧ (storeRanges s (.sts true 2 1 2 0)).all ok = true ∧
      storeRanges s (.sts true 2 1 2 0) ≠ [] ∧ storeRanges s (.stt true 3 2 0 0 0) ≠ [] := by decide +kernel
/-- The last drone with s1 the last 8 bytes of its cell store, s2 those of a page, s3 those of global memory, s4 sixteen rows' start at the
end of the cell store. -/
def cells : State :=
  { opened (one 1695 { strand with scalars := [(1, reg (BitVec.ofNat 64 (2 ^ 57 + 0x3FFF8))), (2, reg 0x2FFF8), (3, reg (BitVec.ofNat 64 (2 ^ 56 - 8))),
      (4, reg (BitVec.ofNat 64 (2 ^ 57 + 0x3F000)))] }) with
    pages := [(2, plain 3)] }
theorem witness_LoadsBegin_drone :
    let s := cells
    let near (x : Word) (n : Nat) : Prop := (x.toNat / 2 ^ 56 = 2 ∧ x.toNat % 2 ^ 18 + n ≤ 2 ^ 18) ∨ x.toNat + n ≤ 2 ^ 56
    let a (r : SReg) : Word := (me s).s r + (0 : BitVec 32).signExtend 64
    s.slotsOpen ∧ isDrone s.cur = true ∧ (me s).loads = [] ∧ s.badLines = [] ∧ (31 : SReg) ≠ 0 ∧ (15 : MReg) ≠ 0 ∧
      near (a 1) (2 ^ (3 : BitVec 2).toNat) ∧ near (a 3) (2 ^ (3 : BitVec 2).toNat) ∧ near (a 2) 128 ∧ near (a 4) 128 ∧
      (∀ r, r ≤ (15 : BitVec 4).toNat → near (a 4 + BitVec.ofNat 64 r * 256) 256) ∧ (me s).run = none := by decide +kernel
theorem witness_StoresWrite_drone :
    let s := cells
    s.slotsOpen ∧ isDrone s.cur = true ∧ s.badLines = [] ∧
      storeRanges s (.sts false 3 2 1 0) = [(2 ^ 57 + 0x3FFF8, natBytes 0x2FFF8 8)] ∧ (2 ^ 57 + 0x3FFF8) / 2 ^ 56 = 2 ∧
      (2 ^ 57 + 0x3FFF8) % 2 ^ 18 + 8 ≤ 2 ^ 18 ∧
      storeRanges s (.sts false 3 1 2 0) = [(0x2FFF8, natBytes (2 ^ 57 + 0x3FFF8) 8)] ∧ 0x2FFF8 + 8 ≤ 2 ^ 56 ∧ (plain 3).rep = 0 ∧
      (∀ j, j < 8 → findPage s.pages (0x2FFF8 + j) = some (0x20000, plain 3)) ∧
      ((storeRanges s (.stt false 3 4 0 15 0)).all fun p => p.1 / 2 ^ 56 == 2 && decide (p.1 % 2 ^ 18 + p.2.length ≤ 2 ^ 18)) = true := by
  decide +kernel
/-- Element 1,023 of the index tile is 4, all others are skipped; the word there is the last but none before it of its granule. -/
def scattering : State :=
  { s0 with harts := [(0, { strand with scalars := [(1, reg 0x3FFFF8)], tiles := [(2, { val := tileOf 32 (List.replicate 1023 0xFFFFFFFF ++ [4]), st := .full }),
    (3, { val := tileOf 64 (4 :: List.replicate 511 (2 ^ 64 - 1)), st := .full })] })] }
theorem witness_ScattersApply : scattering.slotsOpen ∧ isDrone scattering.cur = false ∧
    scatterIdx ((me scattering).tile (2 : TReg).toNat).val false = [(4, 1023)] ∧ scatterIdx ((me scattering).tile (3 : TReg).toNat).val true = [(4, 0)] ∧
    memberCore scattering.cur ((me scattering).s 1 + BitVec.ofNat 64 4).toNat = coreOf scattering.cur ∧ (Machine.core scattering 0).badGranules = [] := by
  decide +kernel
/-- Sixteen rows up to the end of the own comb. -/
theorem witness_GranulesAndMembers_states : s0.slotsOpen ∧ isDrone s0.cur = false ∧ (∀ e ∈ s0.harts, e.2.loads = []) ∧
    ∀ r, r ≤ (15 : BitVec 4).toNat →
      let a := ((me s0).s 0 + (0x3FF000 : BitVec 32).signExtend 64 + BitVec.ofNat 64 r * 256).toNat
      memberCore s0.cur a = coreOf s0.cur ∧ a % 2 ^ 22 + 256 ≤ 2 ^ 22 ∧ a % 16 = 0 := by decide +kernel
theorem witness_GranulesAndMembers_remote :
    (hart (one 6 { strand with remotes := [.store 7 0x3FFFF0 [1, 2] false, .binc 7 7 9] }) 6).remotes = [.store 7 0x3FFFF0 [1, 2] false, .binc 7 7 9] ∧
      (Machine.core s0 7).badGranules.contains (0x3FFFF0 / 16) = false ∧
      (hart (one 6 { strand with remotes := [.binc 7 7 9] }) 6).remotes = [.binc 7 7 9] ∧ 0 ≠ 7 ∧ (Machine.core s0 7).faulted = false ∧
      (remotePlace (.binc 7 7 9)).1 = 7 ∧
      (Machine.core { s0 with cores := [(7, { Core.reset with faulted := true })] } (remotePlace (.binc 7 7 9)).1).faulted = true := by decide

/-! ### The forager, the index queues -/

/-- A template that copies one row of `n` granules as raw bytes from the comb to the comb, or to global memory. -/
def rawTemplate (n : Nat) (toComb : Bool) : Line :=
  BitVec.ofNat 512 (16 * n * 2 ^ 80 + 2 ^ 21 + (if toComb then 2 ^ 22 else 0))
def copyOf (tp : Line) (dst : Word) (row : Nat) : Copy :=
  { id := 1, tp := tp, src := 0x40, dst := dst, snap := false, asof := none, gather := none, bar := none, batch := 0, qnum := 1, launch := 1,
    phase := .running, row := row, col := 0, image := none, stream := none, shadow := [], held := none, moved := [], upto := 0 }
/-- Context 0 with one copy in channel 7. -/
def copying (x : Copy) : State :=
  { one 0 { strand with channels := [(7, { Channel.reset with copies := [x] })] } with pages := [(2, plain 3)], mem := [(0x30000, 0xAB)] }
theorem witness_ForagerInstructions : s0.slotsOpen ∧ isStrand s0.cur = true ∧ 62 ≠ (63 : BitVec 6).toNat ∧
    (let f : CFault := { cause := 2, sub := 7, addr := 0xFFFFFFFFFFFFFF }
     ({ Channel.reset with fault := some f } : Channel).fault = some f) := by decide
/-- A gathering COPY of four rows over queue 1, which holds two entries, or six. -/
theorem witness_ForagerInstructions_gather :
    let s (n : Nat) := opened (one 0 { strand with queues := [(1, { IQueue.reset with items := ((List.range n).map (· + 10)).map .entry })] })
    (s 2).slotsOpen ∧ isStrand (s 2).cur = true ∧ ((me (s 2)).queue (1 : QNo).toNat).items = [10, 11].map .entry ∧
      ((me (s 2)).queue (1 : QNo).toNat).claims = [] ∧ (∀ k ∈ ((me (s 2)).chan 7).copies, k.id ≠ (s 2).arrivals) ∧
      ((me (s 6)).queue (1 : QNo).toNat).items = [10, 11, 12, 13, 14, 15].map .entry := by decide
/-- A channel's record at the ends of CSTAT's fields. -/
theorem witness_ForagerInstructions_record :
    let y : Channel := { Channel.reset with copies := [copyOf 0 0 0], closed := List.replicate 255 4, opened := true, moved := 0xFFFF }
    (y.copies.filter Copy.pending).length < 2 ^ 16 ∧ y.closed.length < 2 ^ 8 ∧ y.moved < 2 ^ 16 ∧ (0 : BitVec 2) = 0 ∧ (3 : BitVec 2) = 3 := by
  decide +kernel
theorem witness_CopyEvents :
    isStrand 0 = true ∧
    (let x := copyOf (rawTemplate 1 true) 0x3FFFF0 0
     templateOk x.tp = true ∧ runningCopy (copying x) 0 7 0 = some x ∧
       copyNext (copying x) 0 x = .write 0x3FFFF0 (List.replicate 16 0) (some 0x40) 16 ∧ tpXform x.tp = 0 ∧ tpDstSp x.tp = true ∧
       (0x3FFFF0 : Word).toNat % 16 = 0 ∧ (List.replicate 16 (0 : Byte)).length = 16) ∧
    (let x := copyOf (rawTemplate 1 false) 0x2FFF0 0
     runningCopy (copying x) 0 7 0 = some x ∧ copyNext (copying x) 0 x = .write 0x2FFF0 (List.replicate 16 0) (some 0x40) 16 ∧
       tpXform x.tp = 0 ∧ tpDstSp x.tp = false) ∧
    (let x := copyOf (rawTemplate 1 true) 0x3FFFF0 1
     runningCopy (copying x) 0 7 0 = some x ∧ copyNext (copying x) 0 x = .done ∧ tpDstSp x.tp = true ∧ x.bar = none) ∧
    (let x := copyOf (rawTemplate 1 false) 0x30000 0
     let f : CFault := { cause := 0x07, sub := 0x02, addr := 0x30000 }
     runningCopy (copying x) 0 7 0 = some x ∧ copyNext (copying x) 0 x = .fault f ∧ x.bar = none) := by decide +kernel
/-- XFORM `x`, SCL and ADD with SCALE 2 and BIAS 1, from uint8 to fp32, one row of four elements. -/
def convertTemplate (x : Nat) (toComb : Bool) : Line :=
  BitVec.ofNat 512 (x + 2 ^ 3 + 2 ^ 4 + 11 * 2 ^ 8 + 4 * 2 ^ 80 + 2 ^ 21 + (if toComb then 2 ^ 22 else 0) + 0x40000000 * 2 ^ 256 + 0x3F800000 * 2 ^ 288)
/-- Converting and adding to the last granule of the own comb, converting to the last of a page; copies with a barrier that are done, in the
comb of another member and in global memory, and one that faults. -/
theorem witness_CopyEvents_forms :
    let four : List Byte := [0, 0, 0, 0]
    let put (x : Copy) : Copy := { x with bar := some 7 }
    (let x := copyOf (convertTemplate 1 true) 0x3FFFF0 0
     runningCopy (copying x) 0 7 0 = some x ∧ copyNext (copying x) 0 x = .write 0x3FFFF0 four (some 0x40) 4 ∧ tpXform x.tp = 1 ∧ tpDstSp x.tp = true ∧
       four.length = 16 / ((typeOf (tpDfmt x.tp)).bits / 8) * ((typeOf (tpSfmt x.tp)).bits / 8) ∧ (0x3FFFF0 : Word).toNat % 16 = 0 ∧
       (Machine.core (copying x) (memberCore 0 0x3FFFF0)).badGranules = []) ∧
    (let x := copyOf (convertTemplate 2 true) 0x3FFFF0 0
     runningCopy (copying x) 0 7 0 = some x ∧ copyNext (copying x) 0 x = .write 0x3FFFF0 four (some 0x40) 4 ∧ tpXform x.tp = 2) ∧
    (let x := copyOf (convertTemplate 1 false) 0x2FFF0 0
     runningCopy (copying x) 0 7 0 = some x ∧ copyNext (copying x) 0 x = .write 0x2FFF0 four (some 0x40) 4 ∧ tpDstSp x.tp = false) ∧
    (let x := put (copyOf (rawTemplate 1 true) 0x7FFFF0 1)
     runningCopy (copying x) 0 7 0 = some x ∧ copyNext (copying x) 0 x = .done ∧ tpDstSp x.tp = true ∧ x.bar = some 7) ∧
    (let x := put (copyOf (rawTemplate 1 false) 0x20000 1)
     runningCopy (copying x) 0 7 0 = some x ∧ copyNext (copying x) 0 x = .done ∧ tpDstSp x.tp = false) ∧
    (let x := put (copyOf (rawTemplate 1 false) 0x30000 0)
     runningCopy (copying x) 0 7 0 = some x ∧ copyNext (copying x) 0 x = .fault { cause := 0x07, sub := 0x02, addr := 0x30000 } ∧
       x.bar = some 7) := by decide +kernel
theorem witness_CopyEvents_calm (x : Copy) : (copying x).channelsFree := fun _ => ⟨rfl, rfl⟩
theorem witness_IndexInstructions : s0.slotsOpen ∧ ((me s0).queue (1 : QNo).toNat).claims = [] := by decide
/-- Context 0 with queue 1. -/
def queued (y : IQueue) : State := opened (one 0 { strand with queues := [(1, y)] })
def producer (es : List Nat) : Producer := { work := .list es none 0, held := none, keep := false, rate := 1, count := 31, pushed := 3, bound := none }
theorem witness_IndexQueues_push :
    (let y := { IQueue.reset with items := List.replicate 1023 (.entry 0), prods := [producer [0x1FFFFFFFF]] }
     (me (queued y)).queue (1 : QNo).toNat = y ∧ y.claims = [] ∧ y.prods = producer [0x1FFFFFFFF] :: [] ∧
       (producer [0x1FFFFFFFF]).work = .list (0x1FFFFFFFF :: []) none 0 ∧ occupied (hart (queued y) 0) (1 : QNo).toNat = 1023) ∧
    (let y := { IQueue.reset with items := List.replicate 1024 (.entry 0), prods := [producer [5]] }
     (me (queued y)).queue (1 : QNo).toNat = y ∧ ¬occupied (hart (queued y) 0) (1 : QNo).toNat < 1024) ∧
    (let y := { IQueue.reset with prods := [producer []] }
     (me (queued y)).queue (1 : QNo).toNat = y ∧ (producer []).work = .list [] none 0 ∧ (producer []).count ≠ 0) := by decide +kernel
/-- Context 0 with no load and no store under way has none on its way to any granule. -/
theorem nothing_on_its_way (s : State) (h c g : Nat) (hr : (hart s h).remotes = []) : onItsWay s h c g = false := by
  simp only [onItsWay, hr, List.any_nil]
/-- A producer of queue 1: a bitmap of 8 bits in the last byte of the own comb, a pair of words before it, and their ends. -/
def indexing (p : Producer) (n : Nat) : State :=
  { queued { IQueue.reset with items := List.replicate n (.entry 0), prods := [p] } with
    cores := [(0, { Core.reset with comb := [(0x3FFFF8, 5), (0x3FFFFF, 0x80)] })] }
theorem witness_IndexQueues_producers :
    let of (w : Work) : Producer := { producer [] with work := w }
    let byte (s : State) (a : Nat) : Byte := mget (Machine.core s (memberCore 0 a)).comb (a % 2 ^ 22)
    let room (s : State) : Prop := occupied (hart s 0) (1 : QNo).toNat < 1024
    (∀ w ∈ [Work.bitmap 0x3FFFFF 0 8, .bitmap 0x3FFFFF 8 8, .runs 0x3FFFF8 1 0xFFFFFFFF 1, .runs 0x3FFFF8 0 7 0, .runs 0x3FFFF8 1 7 0,
        .list [] (some (5, 3)) 0x7F800000], ((hart (indexing (of w) 0) 0).queue (1 : QNo).toNat).prods = of w :: [] ∧
      ((hart (indexing (of w) 0) 0).queue (1 : QNo).toNat).claims = [] ∧ room (indexing (of w) 1023) ∧ ¬room (indexing (of w) 1024) ∧ (of w).held = none) ∧
    (let s := indexing (of (.bitmap 0x3FFFFF 0 8)) 0
     (byte s (0x3FFFFF + 7 / 8)).getLsbD (7 % 8) = true ∧ (∀ j, j < 7 → (byte s (0x3FFFFF + j / 8)).getLsbD (j % 8) = false)) ∧
    0x3FFFF8 % 8 = 0 ∧ leNat ((List.range 4).map fun i => byte (indexing (of (.runs 0x3FFFF8 1 7 0)) 0) (0x3FFFF8 + i)) = 5 := by decide +kernel
/-- The memory around such a producer is calm. -/
theorem witness_IndexQueues_calm (p : Producer) (n : Nat) :
    ∀ c g, onItsWay (indexing p n) 0 c g = false ∧ (Machine.core (indexing p n) c).badGranules.contains g = false := fun c g => by
  refine ⟨nothing_on_its_way _ 0 c g rfl, ?_⟩
  by_cases h : c = 0 <;> simp [Machine.core, indexing, tget, h, Core.reset]
/-- Two close marks that are passed and one that is not, numbered around the next claim, which is 0; entries, a poison mark and the ends of
IXPEEK's range. -/
theorem witness_IndexQueues_claims :
    let y := { IQueue.reset with items := [.close (some 0), .entry 9, .close (some 0), .entry 8, .close (some 1), .poison] }
    let s := { queued y with harts := [(0, { strand with queues := [(1, y)], scalars := [(1, reg 1024), (2, reg 1023), (3, reg 1)] })] }
    s.slotsOpen ∧ s.arrivals = 0 ∧ (me s).queue (1 : QNo).toNat = y ∧ y.claims = [] ∧
      y.items = [.close (some 0)] ++ .entry 9 :: [.close (some 0), .entry 8, .close (some 1), .poison] ∧
      y.items = [.close (some 0), .entry 9, .close (some 0)] ++ .entry 8 :: [.close (some 1), .poison] ∧
      ([QItem.close (some 0), .entry 9, .close (some 0)].filter isEntry).length = ((me s).s 3).toNat ∧ ((me s).s 3).toNat ≤ 1023 ∧
      y.items = [.close (some 0), .entry 9, .close (some 0), .entry 8] ++ .close (some 1) :: [.poison] ∧
      ([QItem.close (some 0), .entry 9, .close (some 0), .entry 8].filter isEntry).length ≤ ((me s).s 2).toNat ∧ ((me s).s 2).toNat ≤ 1023 ∧
      s.arrivals < 1 ∧ 1023 < ((me s).s 1).toNat := by decide +kernel

/-! ### Digests and remote calls -/

/-- A region of two blocks of 512 bytes of fp32, in rows of 16, that keeps BOUNDS and SUM. -/
def region0 : Region := { base := 0x20000, len := 1024, bsz := 0, efmt := 0, rowLen := 16, g := 16, k1 := 1, k2 := 2, bpoint := 0 }
/-- Context 0 over that region: s1 is an address of its last block, s2 a count of 1. -/
def digesting : State :=
  { opened (one 0 { strand with scalars := [(1, reg 0x203FF), (2, reg 1)] }) with pages := [(2, plain 3)], regions := [(0, region0)] }
theorem witness_DigestReads_commands : digesting.slotsOpen ∧ isStrand digesting.cur = true ∧
    regionAt digesting ((me digesting).s 1).toNat = some (0, region0) ∧ (hart digesting digesting.cur).run = none := by decide
theorem witness_DigestReads_calm (x : Ctx) : ({ digesting with harts := [(0, x)] } : State).channelsFree := calm_of_drones _ rfl
/-- A scan of 1,024 rows, its last unit to come, of a region of 64 blocks that keeps SKETCH and ZMAP. -/
def region1 : Region := { base := 0x20000, len := 0x8000, bsz := 0, efmt := 0, rowLen := 8, g := 1, k1 := 4, k2 := 3, bpoint := 0 }
def scanOf (pred : DPred) (count next : Nat) : Scan :=
  { ord := 0, pred := pred, region := 0, first := 0, count := count, next := next, operand := 0, value := 64, push := false, score := some 9,
    scores := List.replicate next 0, sd := 31, passed := next, stamp := some 0, qnum := 1 }
def scanning (k : Scan) (r : Region) : State :=
  { digesting with harts := [(0, { strand with scans := [k] })], regions := [(0, r)] }
/-- Sixteen records are wanted, none of which may be awaited; scans of one unit, and of 1,024 from the first, and the last, on. -/
theorem witness_DigestReads_completions :
    let d : DQuery := { ord := 0, dst := 127, kind := .bounds, region := 0, block := 0, count := 16, q := none, qnum := 1 }
    let s := { digesting with harts := [(0, { strand with dqs := [d] })] }
    let ready (k : Scan) (r : Region) (j : Nat) : Bool := scanReady (scanning k r) 0 { k with next := j }
    let fits (k : Scan) (r : Region) : Prop := (scanning k r).regions.find? (fun e => e.1 == k.region) = some (0, r) ∧
      (hart (scanning k r) 0).run = none ∧ (hart (scanning k r) 0).scans = k :: [] ∧ oldestRead (hart (scanning k r) 0) k.ord = true ∧
      k.next < k.count ∧ k.count ≤ 1024 ∧ k.scores.length = k.next ∧ k.sd ≠ 0
    isStrand 0 = true ∧ (hart s 0).run = none ∧ (hart s 0).dqs = d :: [] ∧ oldestRead (hart s 0) d.ord = true ∧ queryReady s 0 d = true ∧
      d.count ≤ 16 ∧ 15 < d.count ∧
      (∀ p ∈ [DPred.overlap, .ub, .sumgt, .znz, .ham], fits (scanOf p 1 0) region0 ∧ ready (scanOf p 1 0) region0 0 = true) ∧
      (fits (scanOf .ham 1024 0) region1 ∧ ∀ j, j < 1024 → ready (scanOf .ham 1024 0) region1 j = true) ∧
      fits (scanOf .ham 1024 1023) region1 ∧ ready (scanOf .ham 1024 1023) region1 1023 = true := by decide +kernel
/-- A scan of queue 1, over the records of every block of a region of two blocks, with a unit to come, and at its end. -/
theorem witness_DigestReads_queue :
    let p (k : Scan) : Producer := { producer [] with work := .scan k }
    let s (k : Scan) (n : Nat) : State := { indexing (p k) n with regions := [(0, region0)] }
    (∀ k ∈ [scanOf .overlap 1 0, scanOf .sumgt 2 1], k.next < k.count ∧ scanReady (s k 0) 0 k = true ∧ ((hart (s k 0) 0).queue 1).claims = [] ∧
      ((hart (s k 0) 0).queue 1).prods = p k :: [] ∧ (p k).work = .scan k ∧ occupied (hart (s k 1023) 0) 1 < 1024 ∧
      ¬occupied (hart (s k 1024) 0) 1 < 1024 ∧ (s k 0).regions.find? (fun e => e.1 == k.region) = some (0, region0)) ∧
    (let k := scanOf .sumgt 2 2
     k.next = k.count ∧ oldestRead (hart (s k 0) 0) k.ord = true ∧ ((hart (s k 0) 0).queue 1).prods = p k :: []) := by decide +kernel
theorem witness_DigestReads_calm_scans (k : Scan) (r : Region) : (scanning k r).channelsFree := calm_of_drones _ rfl
/-- Context 0 with s1 an address that a drone keeps, on a page that is present. -/
theorem witness_RemoteCallInstructions :
    let s := digesting
    ∃ g, callTarget s ((me s).s 1) = some g ∧ isDrone g = true ∧ isGuest g = false ∧ (port s g).link = [] ∧ (me s).calls = [] ∧ s.slotsOpen ∧
      isStrand s.cur = true ∧ findPage s.pages ((me s).s 1).toNat = some (0x20000, plain 3) ∧ promoting s ((me s).s 1).toNat = false :=
  ⟨(callTarget digesting 0x203FF).getD 0, by decide +kernel⟩
/-- The guest context of core 191, with 7 and with 8 calls waiting; a call that is completed; a page whose promotion is outstanding. -/
theorem witness_RemoteCallInstructions_guest :
    let x : Word := BitVec.ofNat 64 (2 ^ 56 + 3 * 2 ^ 28 + 47 * 2 ^ 22)
    let s := opened (one 0 { strand with scalars := [(1, reg x)], done := [{ status := 0x0100000000000005, acked := false, reissued := false }] })
    callTarget s ((me s).s 1) = some 1151 ∧ isGuest 1151 = true ∧ isDrone 1151 = false ∧ usable s (coreOf 1151) = true ∧ (port s 1151).link = [] ∧
      (port s 1151).queue.length < 8 ∧ (doneCall (me s) 5).isSome = true ∧ (6 : Nat) ≠ 5 ∧
      promoting { digesting with promos := [{ page := 0x20000, frame := 5, launch := 1, node := 0, die := 0, copied := false }] } 0x203FF = true := by
  decide +kernel
/-- The largest sequence number, and the first one after it. -/
theorem witness_RemoteCallInstructions_wrap : (65535 : Nat) = 65535 ∧ (1 : Nat) ≠ 65535 := by decide
def message : CallMsg :=
  { caller := 0, skey := 77, seqNo := 65535, ordered := true, reissue := false, launch := 1, qnum := 1, entry := 0x10000,
    payload := List.replicate 8 5, tile := 1 }
def outgoing (reply : Option Reply) : RCall := { seqNo := 65535, tn := 127, sd := 31, target := 1152, sent := some 0, reply := reply }
def replyOf (state : Byte) : Reply := { state := state, cause := 0, banks := 0xFFFF, rval := 0xFFFF, tile := 3 }
theorem witness_CallEvents :
    (let s := { State.reset with ports := [(1167, { Port.reset with queue := [message] })] }
     isDrone 1167 = true ∧ (hart s 1167).life = .idle ∧ (hart s 1167).run = none ∧ (port s 1167).queue = message :: [] ∧
       (port s 1167).link = [] ∧ message.payload.length = 8 ∧ (7 : Nat) < 8) ∧
    (let s := one 0 { strand with calls := [outgoing (some (replyOf 1))] }
     let s' := one 0 { strand with calls := [outgoing (some (replyOf 2))] }
     isStrand 0 = true ∧ (hart s 0).calls = outgoing (some (replyOf 1)) :: [] ∧ (31 : Nat) ≠ 0 ∧ (replyOf 1).state ≠ 0x02 ∧
       (hart s' 0).calls = outgoing (some (replyOf 2)) :: [] ∧ (replyOf 2).state = 0x02) ∧
    (let s := { one 0 { strand with calls := [outgoing none] } with now := 1533916892 }
     (hart s 0).calls = outgoing none :: [] ∧ (outgoing none).sent = some 0 ∧ refElapsed s 0 (2 ^ 30) = true ∧
       refElapsed { s with now := 1533916891 } 0 (2 ^ 30) = false) ∧
    (let k : RunCall := { msg := message, started := 0, banks := 0 }
     let s := { one 1167 { strand with run := some k } with now := 6135667566 }
     (hart s 1167).run = some k ∧ refElapsed s k.started (2 ^ 32) = true ∧ refElapsed { s with now := 6135667565 } 0 (2 ^ 32) = false) ∧
    (let a : AckMsg := { target := 1152, callerDie := 0, skey := 77, seqNo := 65535 }
     let e : CacheEnt := { callerDie := 0, skey := 77, seqNo := 65535, reply := none, others := [] }
     let s := { State.reset with acks := [a], ports := [(1152, { Port.reset with cache := [e] })] }
     s.acks = a :: [] ∧ a.target = 1152 ∧ (port s 1152).link = [] ∧ (port s 1152).cache = [e]) := by decide +kernel

/-! ### Drones -/

/-- A run of the sequencer at its start, of the call of `owner`. -/
def seqOf (owner : Option (Word × Nat)) : SeqRun :=
  { owner := owner, x := 0, y := 0, out := 0, a := 0, body := 0, aw := 0, levels := [], idx := [0, 0, 0, 0, 0], phase := 0, v := 0, flags := 0,
    cols := none, suspended := false, cause := 0, finished := false }
/-- The last drone with the given engine state, whose context waits for the sequencer twice. -/
def droning (k : Drone) (c : Ctx) : State := { opened (one 1167 { c with lnwaits := [31, 0] }) with drones := [(15, k)] }
theorem witness_DroneRules_instructions : d0.slotsOpen ∧ isDrone d0.cur = true ∧ (drone d0 (d0.cur - 1152)).seqr = none ∧
    (droning { Drone.reset with seqr := some (seqOf none) } strand).slotsOpen ∧
    isDrone 1167 = true ∧ (drone (droning { Drone.reset with seqr := some (seqOf none) } strand) 15).seqr = some (seqOf none) ∧
    (seqOf none).finished = false := by decide +kernel
theorem witness_DroneRules_arrival : (drone (droning { Drone.reset with seqr := some (seqOf none) } strand) 15).granted.contains .other = false := by decide
theorem witness_DroneRules_events :
    (let p : Posted := { owner := none, pa := 2 ^ 42 - 64, va := 0, bytes := [1], bad := false }
     let s := droning { Drone.reset with posted := [p] } strand
     (drone s 15).posted = p :: [] ∧ p.bad = false ∧ s.badLines.contains (p.pa / 64) = false) ∧
    (let r := { seqOf none with idx := [] }
     let s := droning { Drone.reset with seqr := some r } strand
     (drone s 15).seqr = some r ∧ r.finished = false ∧ r.cause = 0 ∧ r.idx = [] ∧ 31 ∈ (hart s 1167).lnwaits ∧ 31 ≠ 0) ∧
    (let r := { seqOf none with cause := 0xFF }
     let s := droning { Drone.reset with seqr := some r } strand
     (drone s 15).seqr = some r ∧ r.cause ≠ 0 ∧ r.owner = none) ∧
    (let r := { seqOf none with aw := 63, cols := some 63, idx := [1, 0, 0, 0, 0] }
     let s := droning { Drone.reset with seqr := some r, ordinary := [.other] } strand
     (drone s 15).seqr = some r ∧ r.suspended = false ∧ (seqOf none).cols = none ∧ r.mustSuspend = true) ∧
    (let r := { seqOf none with suspended := true }
     let s := droning { Drone.reset with seqr := some r, ordinary := [.other, .other, .step 1], serving := [.other, .other] } strand
     (drone s 15).seqr = some r ∧ r.suspended = true ∧ (drone s 15).serving.filter (accessWaits s) = [] ∧
       (drone s 15).serving.foldl List.erase (drone s 15).ordinary = [.step 1]) ∧
    (let b : BmacRun := { owner := some (77, 65535), sd := 31, mat := 0, out := 0, v := List.replicate 256 0, rows := 1, pages := [] }
     let k : RunCall := { msg := message, started := 0, banks := 0xFFFF }
     let s := droning { Drone.reset with bmac := some b } { strand with run := some k }
     (drone s 15).bmac = some b ∧ (hart s 1167).run = some k ∧ b.owner = some (k.msg.skey, k.msg.seqNo) ∧ b.sd ≠ 0 ∧ s.badLines = []) := by decide +kernel

/-! ### Strands and the schedulers -/

/-- Context 0 beside a barrier 7 whose count has reached its target. -/
def atBarrier : State :=
  { s0 with cores := [(0, { Core.reset with barriers := [(7, { Barrier.reset with count := 5, target := 5, holder := some 77 })] })] }
theorem witness_StrandInstructions : atBarrier.slotsOpen ∧ isStrand atBarrier.cur = true ∧
    chosenBarrier (Machine.core atBarrier 0) (me atBarrier) (ctxNo atBarrier.cur) (2 ^ (7 : BNo).toNat) = some (7 : BNo).toNat ∧
    chosenBarrier (Machine.core atBarrier 0) (me atBarrier) (ctxNo atBarrier.cur) (0xFF : BitVec 8).toNat = some (7 : BNo).toNat ∧
    (Machine.core atBarrier 0).deque.length < 64 ∧ (0 : SReg) = 0 := by decide +kernel
/-- A node of launch 1 without operands, and one with 16 bytes of them at `a`. -/
def nodeRec (ops : List (Nat × Nat × Nat)) : NodeRec :=
  { entry := 0x10000, preds := 0, succs := [], kind := 0, prio := 8, affMode := 0, affNo := 0, pin := 0, cosched := false, tmpl := 0, spmax := 1024,
    args := List.replicate 8 0, ops := ops }
def withNode (r : NodeRec) (st : NodeSt) (s : State) : State :=
  { s with launches := [(1, { live with nodes := [(0, { nodeReset with desc := r, st := st, start := 1 })] })] }
/-- An entry of the pool of die 0. -/
def entry (k : PoolKind) : PoolEnt := { kind := k, skey := 77, level := 8, entered := 0, boost := none, first := 0, cluster := none }
def pooled (e : PoolEnt) (s : State) : State := { s with dies := [(0, { Die.reset with pool := [e] })] }
def empty : State := { State.reset with host := { HostIf.reset with devState := 1 } }
def child : NewStrand :=
  { who := { Ident.none with launch := 1, parent := some 77, depth := 1 }, pc := 0x20000, args := List.replicate 8 1, skey := 78, prio := 8, spmax := 1024,
    seed := 5, qnum := 1 }
theorem witness_SchedulingEvents_traps :
    (let s := { one 3 { strand with life := .trapped } with cores := [(0, { Core.reset with trapQ := [3] })] }
     (Machine.core s 0).handling = false ∧ (Machine.core s 0).trapQ = 3 :: []) ∧
    (let s := one 0 { strand with spCount := 1024, csr := { strand.csr with qnum := 3 } }
     isStrand 0 = true ∧ (hart s 0).life = .running ∧ (hart s 0).stopReq = false ∧
       (hart s 0).csr.spmax.toNat ≤ (hart s 0).spCount) ∧
    (let s := one 1147 { strand with life := .exited }
     settled s 1147 = true ∧ (hart s 1147).who.mate = none) ∧
    (let x : Ctx := { strand with life := .exited, who := { strand.who with mate := some 7 } }
     let s := { one 0 x with harts := [(0, x), (42, x)], launches := [(1, { live with exits := (List.range 8).map fun m => (0, m) })] }
     endsWith s 0 = [0, 42] ∧ (∀ g ∈ endsWith s 0, settled s g = true) ∧ matesGone s (hart s 0).who = true) := by decide +kernel
theorem witness_SchedulingEvents_work :
    (let s := { empty with cores := [(0, { Core.reset with deque := [child] })], launches := [(1, live)] }
     chosenFor s 0 = some (.own child)) ∧
    (let e := entry (.node 1 0)
     let s := withNode (nodeRec []) .ready (pooled e empty)
     chosenFor s 0 = some (.pool e) ∧ e.kind = .node 1 0 ∧ (nodeOf s 1 0).desc.cosched = false ∧ (nodeOf s 1 0).desc.ops = []) ∧
    (let s := withNode (nodeRec [(0x20000, 16, 0)]) (.staging [0]) { empty with pages := [(2, plain 3)] }
     (nodeOf s 1 0).st = .staging [0] ∧
       ((operandGranules (nodeOf s 1 0).desc).all fun g => stageable s ((nodeOf s 1 0).staged.getD s.image) g.1) = true) ∧
    (let s := withNode (nodeRec [(0x20000, 16, 0)]) (.staging [0]) empty
     (nodeOf s 1 0).st = .staging [0] ∧ (launch s 1).ended = none ∧
       ((operandGranules (nodeOf s 1 0).desc).all fun g => stageable s ((nodeOf s 1 0).staged.getD s.image) g.1) = false) := by decide +kernel
theorem witness_SchedulingEvents_calm :
    (withNode (nodeRec [(0x20000, 16, 0)]) (.staging [0]) { empty with pages := [(2, plain 3)] }).channelsFree := calm_of_drones _ rfl
/-- An entry whose level is 61 ages where its time has passed; a coscheduled node stands first of its level for that long. -/
theorem witness_SchedulingEvents_age :
    (let e := { entry (.node 1 0) with level := 61 }
     let s := { pooled e empty with now := 1497966, launches := [(1, { live with nodes := [(0, { nodeReset with desc := nodeRec [], start := 2 })] })] }
     e.prio s < 62 ∧ 2 ^ (launch s e.launchOf).age * 10 ≤ (s.now - e.entered) * 7 ∧ ¬2 ^ (launch s e.launchOf).age * 10 ≤ (s.now - 1 - e.entered) * 7) ∧
    (let e := { entry (.node 1 0) with first := 1497966 }
     let s := withNode { nodeRec [] with cosched := true } .ready (pooled e { empty with
       harts := (List.range 24).map fun h => (48 * (h / 4) + h % 4, strand) })
     (die s 0).pool = [e] ∧ reserves s 0 e = some 0) := by decide +kernel
/-- Every context of die 0 runs a strand of PRIO 0, and a ready node has effective priority 8. -/
theorem witness_SchedulingEvents_preempt :
    let e := entry (.node 1 0)
    let s := withNode { nodeRec [] with affMode := 2 } .ready (pooled e { empty with harts := (List.range 32).map fun h => (6 * (h / 4) + h % 4, strand) })
    let s := { s with launches := [(1, { launch s 1 with saveCnt := 1, nodes := [(0, { nodeOf s 1 0 with start := 2 })] })] }
    (die s 0).pool = [e] ∧ asking s e.skey = false ∧ ((coresOfDie 0).any fun j => (Asker.entry e).placed s j) = false ∧
      victim s 0 (.entry e) = some 0 ∧ 0 ∈ requested s 0 ∧ 1 ∉ requested s 0 ∧ (freeSlot (launch s (hart s 0).who.launch) 0).isSome = true ∧
      (hart s 0).csr.prio.toNat + (launch s (hart s 0).who.launch).margin = e.prio s := by decide +kernel

/-- The run of the last drone's sequencer in `phase`, body `body`: two iterations of level 0, of which one is valid, two of level 1. -/
def columns (body phase pad : Nat) (idx : List Nat) : SeqRun :=
  let lv (c v p : Nat) (st : Int) : Level := { count := c, vlen := v, pad := p, xstr := st, ystr := -st, ostr := st }
  { owner := none, x := 0x20000, y := BitVec.ofNat 64 (2 ^ 57 + 0x3FFC0), out := 0x2FF00, a := 1, body := body, aw := 1
    levels := [lv 2 1 pad 64, lv 2 2 0 128, lv 1 1 0 0, lv 1 1 0 0, lv 1 1 0 0], idx := idx, phase := phase, v := 0, flags := 0, cols := none
    suspended := false, cause := 0, finished := false }
/-- Its next step, over a page of its own channel at 0x20000. -/
def stepsSeq (r : SeqRun) : State :=
  { empty with turn := some (.seqStep 543), drones := [(543, { Drone.reset with seqr := some r })], pages := [(2, plain (2 ^ 25 + 31 * 2 ^ 20))] }
theorem witness_SequencerAndBmac_steps :
    let none5 : Level := { count := 1, vlen := 0, pad := 0, xstr := 0, ystr := 0, ostr := 0 }
    let q (r : SeqRun) : State := settleMsgs { stepsSeq r with turn := none, tick := (stepsSeq r).tick + 1, bundle := Bundle.closed }
    let fits (r : SeqRun) : Bool := (q r).host.devState == 1 && (drone (q r) 543).seqr == some r && !r.finished && !r.suspended && r.cause == 0 &&
      !r.mustSuspend && r.idx.length == 5 && r.levels.length == 5 && (q r).badLines.isEmpty
    let past (r : SeqRun) (n : Nat) : Bool := decide (n < 5 ∧ (nth none5 r.levels n).vlen ≤ nth 0 r.idx n)
    let place (r : SeqRun) (base : Word) (lo : Nat) (stride : Level → Int) (ix : Nat → Nat) : Word :=
      base + BitVec.ofInt 64 ((List.range (5 - lo)).map fun n => (ix (lo + n) : Int) * stride (nth none5 r.levels (lo + n))).sum
    let at0 (r : SeqRun) (base : Word) (stride : Level → Int) : Word := place r base 0 stride fun n => nth 0 r.idx n
    let writes (r : SeqRun) (a : Word) (n : Nat) : Bool := a.toNat / 2 ^ 56 == 0 && seqCheck (q r) 1695 true a n == none &&
      findPage (q r).pages a.toNat == some (0x20000, plain (2 ^ 25 + 31 * 2 ^ 20))
    let one := [0, 0, 0, 0, 0]
    let two := [1, 1, 0, 0, 0]
    (543 : Nat) < 544 ∧ (fits (columns 3 0 3 two) = true ∧ past (columns 3 0 3 two) 0 = true) ∧ (fits (columns 0 0 1 two) = true ∧ past (columns 0 0 1 two) 0 = true) ∧
      (let r := columns 0 0 2 two
       fits r = true ∧ past r 0 = true ∧ ¬past r 1 = true ∧ seqCheck (q r) 1695 false (place r r.x 0 (·.xstr) fun n => if n = 0 then 0 else nth 0 r.idx n) 64 = none) ∧
      (let r := { columns 0 0 0 one with x := 0x2FFC1 }
       fits r = true ∧ ((List.range 5).any (past r)) = false ∧ seqCheck (q r) 1695 false (at0 r r.x (·.xstr)) 64 = some 0x07) ∧
      (let r := columns 1 1 0 two
       fits r = true ∧ seqCheck (q r) 1695 false (at0 r r.y (·.ystr)) 64 = none) ∧
      (let r := columns 1 2 0 two
       fits r = true ∧ writes r (at0 r r.out (·.ostr)) 64 = true) ∧
      (let r := columns 2 3 0 two
       fits r = true ∧ writes r (place r r.out 1 (·.ostr) fun n => nth 0 r.idx n) 64 = true ∧
         (∀ m, m < 5 → 1 ≤ m → (nth none5 r.levels m).count ≤ nth 0 r.idx m + 1)) ∧
      (let r := columns 3 3 0 [1, 0, 0, 0, 0]
       fits r = true ∧ nth 0 r.idx 1 + 1 < (nth none5 r.levels 1).count) := by decide +kernel
/-- A BMAC of 16 rows, and of 272, which fill two lines of each bank, that writes up to the end of a page. -/
theorem witness_SequencerAndBmac_bmac :
    let fits (rows out : Nat) : Bool :=
      let r : BmacRun := { owner := none, sd := 31, mat := 0x20000, out := BitVec.ofNat 64 out, v := List.replicate 256 1, rows := rows, pages := [(2, plain 3)] }
      let s : State := { empty with drones := [(0, { Drone.reset with bmac := some r })], pages := [(2, plain 3)] }
      let lines := (r.rows + 255) / 256
      (drone s 0).bmac == some r && s.badLines.isEmpty && r.v.length == 256 && r.rows % 16 == 0 && (plain 3).rep == 0 &&
        (List.range 16).all fun k => (List.range lines).all fun i =>
          (r.out + BitVec.ofNat 64 (64 * (k * lines + i))).toNat / 2 ^ 56 == 0 &&
            findPage r.pages (r.out + BitVec.ofNat 64 (64 * (k * lines + i))).toNat == some (0x20000, plain 3)
    fits 16 0x2FC00 = true ∧ fits 272 0x2F800 = true := by decide +kernel

/-! ### Bundles that close -/

/-- Context 0 at the close of bundle `b`: a strand of PRIO 8 with a mate and a parent, which runs in context 3, one save slot, and a fresh
entry of level 8 in its die's pool. -/
def ending (b : Bundle) : State :=
  let x := { strand with who := { strand.who with mate := some 7, parent := some 99 }, csr := { strand.csr with prio := 8 } }
  { one 0 x with
    harts := [(0, x), (3, { strand with csr := { strand.csr with skey := 99 }, kids := [(77, none), (78, none)] })]
    dies := [(0, { Die.reset with pool := [entry (.fresh child 47)] })]
    launches := [(1, { live with saveCnt := 1 })]
    bundle := b }
/-- What every clause about a strand's closing bundle asks. -/
abbrev plainClose (b : Bundle) : Prop := b.after = none ∧ b.returns = false ∧ b.halts = none ∧ b.reply = none
theorem witness_StrandInstructions_close :
    (let b := { Bundle.closed with exits := true }
     let s := ending b
     isStrand s.cur = true ∧ plainClose b ∧ b.exits = true ∧ b.yields = false ∧ (me s).who.mate = some 7 ∧ (me s).who.parent = some 99 ∧
       isStrand 3 = true ∧ 3 ≠ s.cur ∧ (hart s 3).csr.skey = 99 ∧ (hart s 3).life ≠ .idle ∧ (hart s 3).wait = .none) ∧
    (let b := { Bundle.closed with endsQ := true }
     plainClose b ∧ b.exits = false ∧ b.yields = false ∧ b.endsQ = true) ∧
    (plainClose Bundle.closed ∧ Bundle.closed.endsQ = false ∧ strand.qBundles + 1 < strand.qbLim) ∧
    (let b := { Bundle.closed with yields := true, effective := true }
     let s := ending b
     plainClose b ∧ b.exits = false ∧ b.yields = true ∧ b.effective = true ∧ freeSlot (launch s (me s).who.launch) (dieOf s.cur) = some 0 ∧
       entry (.fresh child 47) ∈ (die s (dieOf s.cur)).pool ∧ usable s (coreOf s.cur) = true ∧ reserved s (coreOf s.cur) = false ∧
       childMayRun child.who 47 (coreOf s.cur) = true ∧ (me s).csr.prio.toNat ≤ (entry (.fresh child 47)).level ∧ (me s).csr.prio.toNat ≤ 63) ∧
    { Bundle.closed with yields := true }.effective = false ∧ freeSlot (launch (one 0 strand) 1) 0 = none ∧
    (die (one 0 strand) 0).pool = [] ∧ (one 0 strand).cores = [] := by decide +kernel
/-- The last drone at the close of a bundle with a reply to context 0. -/
theorem witness_DroneRules_close :
    let k : RunCall := { msg := message, started := 0, banks := 0x8000 }
    let b := { Bundle.closed with reply := some (replyOf 1) }
    let s : State := { one 1695 { strand with run := some k } with
      harts := [(0, { strand with calls := [{ outgoing none with target := 1695 }] }), (1695, { strand with run := some k })]
      bundle := b }
    s.cur = 1152 + 543 ∧ (hart s s.cur).run = some k ∧ b.reply = some (replyOf 1) ∧ b.exits = false ∧ b.yields = false ∧ b.after = none ∧
      b.returns = false ∧ b.halts = none ∧ k.msg.caller ≠ s.cur ∧ outstanding (hart s k.msg.caller) k.msg = true := by decide +kernel

/-! ### Saving, commits, errors, links -/

/-- Context 0 asked to stop, in the place of a yield, its launch with one save slot. -/
def stopping : State :=
  let s := one 0 { strand with stopReq := true, yielded := true }
  { s with launches := [(1, { live with saveCnt := 1 })] }
theorem witness_SchedulingEvents_save :
    (isStrand 0 = true ∧ (hart stopping 0).life = .running ∧ (hart stopping 0).stopReq = true ∧ quiet (landDue stopping 0) 0 = true ∧
       atSafePoint (landDue stopping 0) 0 = true ∧ freeSlot (launch stopping (hart stopping 0).who.launch) (dieOf 0) = some 0) ∧
    (let v : Saved := { ctx := strand, h := 6, slot := 0 }
     let e := entry (.saved v)
     let s := { pooled e empty with launches := [(1, { live with saveCnt := 1, usedSlots := [0] })] }
     chosenFor s 0 = some (.pool e) ∧ e.kind = .saved v ∧ v.ctx.who.mate = none) := by decide +kernel
theorem witness_SchedulingEvents_save_calm : stopping.channelsFree := calm_of_drones _ rfl
/-- Quantum 1 of launch 1 with the given units, to a page of 64 KiB. -/
def closing (us : List WUnit) : State :=
  { empty with launches := [(1, { live with units := us })], pages := [(2, plain 3)], mem := [(0x3FFFF, 9), (0x40000, 8)] }
/-- A store of the last byte of the page. -/
def lastByte : WUnit := { key := 77, q := 1, ord := 0, kind := .gst 0x2FFFF [5] }
theorem witness_Commits :
    (let s := closing []
     (launch s 1).ended = none ∧ (launch s 1).commit = none ∧ mayCommit s 1 ((launch s 1).committed + 1) = true ∧ s.promos = [] ∧
       s.fabric.inbox = [] ∧ (launch s 1).units = []) ∧
    (let s := closing [lastByte]
     (launch s 1).ended = none ∧ (launch s 1).commit = none ∧ mayCommit s 1 ((launch s 1).committed + 1) = true ∧ s.promos = [] ∧
       s.fabric.inbox = [] ∧ (launch s 1).units = [lastByte] ∧ lastByte.q = (launch s 1).committed + 1 ∧ lastByte.kind = .gst 0x2FFFF [5] ∧
       ([5] : List Byte) ≠ [] ∧ findPage s.pages 0x2FFFF = some (0x20000, plain 3) ∧ (plain 3).rep = 0 ∧ s.remotePage (plain 3) = false ∧ s.badLines = [] ∧
       ([5] : List Byte)[0]? = some 5 ∧ 0x3FFFE < (plain 3).frame * 2 ^ 16 + (0x2FFFF - 0x20000) ∧
       (plain 3).frame * 2 ^ 16 + (0x2FFFF - 0x20000) + ([5] : List Byte).length ≤ 0x40000) ∧
    (let s := one 0 { strand with qUnits := 64, qBundles := 4096 }
     countsQuantum s 0 = true ∧ (hart s 0).qwLim = (hart s 0).qUnits ∧ (hart s 0).qbLim = (hart s 0).qBundles) ∧
    (let p : Promo := { page := 0x20000, frame := 5, launch := 1, node := 0, die := 0, copied := false }
     let s := { closing [] with promos := [p] }
     s.promos[0]? = some p ∧ (launch s p.launch).ended = none) := by decide +kernel
theorem witness_Commits_calm (us : List WUnit) (ps : List Promo) : (closing us).channelsFree ∧ ({ closing us with promos := ps } : State).channelsFree :=
  ⟨calm_of_drones _ rfl, calm_of_drones _ rfl⟩
/-- Four GSTs of three strands in their order, the later over the earlier; a GAMO of the last word of the page, its strand past the
quantum; a PUBLISH of the last granule of the page; a call to the last drone. -/
theorem witness_Commits_units :
    let us : List WUnit := [{ key := 76, q := 1, ord := 3, kind := .gst 0x2FFFE [1, 2] }, { lastByte with ord := 0 },
      { lastByte with ord := 1, kind := .gst 0x20000 [7] }, { lastByte with key := 78, kind := .gst 0x20000 [8] }]
    let s := closing us.reverse
    (launch s 1).ended = none ∧ (launch s 1).commit = none ∧ mayCommit s 1 1 = true ∧ s.promos = [] ∧ s.fabric.inbox = [] ∧ s.badLines = [] ∧
      us.Perm (launch s 1).units ∧ us.Pairwise (fun u v => u.key.toNat < v.key.toNat ∨ (u.key = v.key ∧ u.ord < v.ord)) ∧ (∀ u ∈ us, u.q = 1) ∧
      (us.map fun u => match u.kind with
        | .gst a bytes => (findPage s.pages a, findPage s.pages (a + bytes.length - 1))
        | _ => (none, none)) = List.replicate 4 (some (0x20000, plain 3), some (0x20000, plain 3)) := by decide +kernel
theorem witness_Commits_amo :
    let u : WUnit := { lastByte with kind := .gamo 0 31 0x2FFFC 4 .add 3 0 }
    let s : State := { closing [u] with
      harts := [(0, { strand with csr := { strand.csr with qnum := 2 } })]
      launches := [(1, { live with units := [u], nodes := [(0, { nodeReset with desc := nodeRec [], st := .running, start := 1 })] })] }
    mayCommit s 1 1 = true ∧ (launch s 1).units = [u] ∧ u.q = 1 ∧ (∀ i, i < 4 → findPage s.pages (0x2FFFC + i) = some (0x20000, plain 3)) ∧
      (hart s 0).csr.skey = u.key ∧ ((launch s 1).nodes.map fun e => decide (e.2.st = .running)) = [true] ∧
      (∀ e ∈ (launch s 1).nodes, e.2.st ≠ .completing) := by decide +kernel
theorem witness_Commits_publish :
    let y := { copyOf (rawTemplate 1 false) 0x20000 1 with shadow := [(0x2FFF, 0x1234)] }
    let s := closing [{ lastByte with kind := .publish [y] }]
    mayCommit s 1 1 = true ∧ (launch s 1).units = [{ lastByte with kind := .publish [y] }] ∧ tpXform y.tp ≠ 2 ∧ y.shadow = [(0x2FFF, 0x1234)] ∧
      ∀ i, i < 16 → findPage s.pages (16 * 0x2FFF + i) = some (0x20000, plain 3) := by decide +kernel
theorem witness_Commits_calls :
    (let s := closing [{ lastByte with kind := .rcall 0 message 1695 }]
     mayCommit s 1 1 = true ∧ (launch s 1).units = [{ lastByte with kind := .rcall 0 message 1695 }] ∧ isDrone 1695 = true ∧
       (port s 1695).link = [] ∧ (port s 1695).queue = [] ∧ (port s 1695).cache = []) ∧
    (let y : Commit := { q := 1, units := [], view := StepView.empty, undo := [], log := [], amos := []
                         calls := [{ place := 0, h := 1167, key := 77, seqNo := 65535, replied := true }] }
     let s := { empty with launches := [(1, { live with commit := some y })] }
     (launch s 1).commit = some y ∧ y.units = [] ∧ (∀ r ∈ y.calls, callOver s r = true) ∧ s.drones = []) := by decide +kernel
/-- The last stripe of core 191 and a bank of core 47. -/
theorem witness_SelfTestsAndLinks_tests :
    (let src := 3 * 2 ^ 25 + 2 * 2 ^ 20 + 64 * 47 + 63
     let src' := 3 * 2 ^ 20 + 64 * 47
     let s := { empty with cores := [(47, { Core.reset with testDue := [src'] }), (191, { Core.reset with testDue := [src] })], lasting := [src'] }
     srcCoreOf src = 191 ∧ (Machine.core s 191).testDue.contains src = true ∧ coreIdle s 191 = true ∧ hasLasting s src = false ∧
       srcCoreOf src' = 47 ∧ (Machine.core s 47).testDue.contains src' = true ∧ coreIdle s 47 = true ∧ hasLasting s src' = true ∧ srcKind src' = 3 ∧
       srcKind src = 2) ∧
    (let s := { empty with rowTests := [1], areaTests := [8 * (2 ^ 48 * 3 + 4)] }
     s.rowTests.contains (2047 / 1024) = true ∧ s.lastingRows.contains (2047 / 1024) = false ∧
       { s with lastingRows := [1] }.lastingRows.contains (2047 / 1024) = true ∧ (∀ e ∈ s.launches, e.2.commit = none) ∧ (s.areaTests.any fun k => keeperOf k == 7) = true) := by
  decide +kernel
/-- A launch that has ended with its commit step in progress. -/
def stepOnly : State :=
  let c : Commit := { q := 1, units := [], view := StepView.empty, undo := [], log := [], amos := [], calls := [] }
  { State.reset with launches := [(1, { Launch.none with ended := some .success, commit := some c })] }
/-- A message from module 3 of number 2^32 - 1. -/
def msgOf (sent : Nat) : Msg := { peer := 3, seqNo := 0xFFFFFFFF, lseq := 1, q := 1, key := 77, granules := [], adds := [], notify := [], sent := sent }
theorem witness_SelfTestsAndLinks_links :
    (let s := { empty with fabric := { Fabric.reset with links := [(5, { Link.reset with expect := 4095 })] } }
     (0xFFF : BitVec 12).toNat = (linkOf s 5).expect ∧ (0 : BitVec 12).toNat ≠ (linkOf s 5).expect ∧ (linkOf s 5).retired.contains 7 = false ∧
       hasLasting s (sourceNo s 4 6 (8 * 5 + 7)) = false ∧
       hasLasting { s with lasting := [sourceNo s 4 6 (8 * 5 + 7)] } (sourceNo s 4 6 (8 * 5 + 7)) = true) ∧ 15 < 16 ∧ 7 < 8 ∧ 3 < 16 ∧
    (let s := { one 0 strand with fabric := { Fabric.reset with inSeq := [(3, 2 ^ 31)] } }
     appliedBefore (tget 0 s.fabric.inSeq 3) 0 = true ∧ appliedBefore (tget 0 s.fabric.inSeq 3) (2 ^ 32 % 2 ^ 32) = true ∧
       appliedBefore (tget 0 s.fabric.inSeq 3) (0xFFFFFFFF % 2 ^ 32) = false ∧ (∀ m ∈ s.fabric.inbox, ¬(m.peer = 3 ∧ m.seqNo = 0xFFFFFFFF)) ∧
       anyRunning s = true ∧ anyStep s = false ∧ (anyRunning (stepOnly) = false ∧ anyStep stepOnly = true)) ∧
    (let s := { one 0 strand with fabric := { Fabric.reset with outbox := [msgOf 0] }, now := 23967452 }
     s.fabric.outbox = [msgOf 0] ∧ 2 ^ 24 * 10 ≤ (s.now - (msgOf 0).sent) * 7 ∧ ¬2 ^ 24 * 10 ≤ (s.now - 1 - (msgOf 0).sent) * 7 ∧
       (launch s (msgOf 0).lseq).ended = none) := by decide +kernel
/-- The links that the route table gives are free: in a state of unspoilt links one of the two clauses of a message sent again applies;
where every link has lost five lanes, the second. -/
theorem witness_SelfTestsAndLinks_links_route :
    (∃ r, routeLink empty (msgOf 0).peer = some r) ∨ routeLink empty (msgOf 0).peer = none := by
  cases h : routeLink empty (msgOf 0).peer
  · exact .inr rfl
  · exact .inl ⟨_, rfl⟩
def worn : State :=
  { empty with fabric := { Fabric.reset with links := (List.range 16).map fun n => (n, { Link.reset with retired := [0, 1, 2, 3, 4] }) } }
theorem worn_links : ∀ n : Fin 16, (linkOf worn n.val).retired = [0, 1, 2, 3, 4] := by decide +kernel
theorem witness_SelfTestsAndLinks_links_removed : routeLink worn (msgOf 0).peer = none := by
  refine List.find?_eq_none.mpr fun n _ h => ?_
  simp only [Bool.and_eq_true, decide_eq_true_eq] at h
  have := worn_links ⟨n, h.1⟩
  simp only at this
  rw [this] at h
  exact absurd h.2 (by decide)

/-! ### The host -/

/-- The module in service with one command in its ring of 16, bytes at the host's address 0x1000, and a page. -/
def hosted (bytes : List Byte) : State :=
  { empty with host := { empty.host with tail := 1, mem := mwrite [] 0x1000 bytes }, pages := [(2, plain 3)] }
theorem witness_CommandsAnswer : hostCommand (.reset 0 0 0 0) = true ∧ (hosted []).host.devState = 1 ∧ ringBusy (hosted []) = true ∧
    anyRunning (hosted []) = false ∧ anyStep (hosted []) = false := by decide
theorem witness_CommandsAnswer_calm (b : List Byte) : (hosted b).channelsFree ∧ (hosted b).host.refused = false := ⟨calm_of_drones _ rfl, rfl⟩
/-- The last 64 KiB below 2^56 for MAP; a frame at the end of the far memory. -/
theorem witness_CommandEffects :
    let s := hosted []
    let w0 : Word := BitVec.ofNat 64 (2 ^ 63 + 2 ^ 62 + (2 ^ 42 - 2 ^ 16))
    s.host.devState = 1 ∧ anyRunning s = false ∧ anyStep s = false ∧ ringBusy s = true ∧ mapIllegal w0 0 0 = false ∧
      mapRefused s 0xFFFFFFFFFF0000 (pageOf w0 0 0) = none ∧ (pageOf w0 0 0).present = true ∧
      findPage s.pages 0x2FFFF = some (0x20000, plain 3) ∧ badUnit s 0x20000 0x10000 = none ∧ (6 : Word).toNat < 7 ∧ globalOk 63 64 = false ∧
      globalOk (2 ^ 56) 64 = false := by decide +kernel
/-- Arguments that are refused or illegal, an address with no page, the whole page for HOSTCOPY, a capture block armed for quantity 6, and a
checkpoint that fits or does not. -/
theorem witness_CommandEffects_more :
    let s := hosted []
    let w0 : Word := BitVec.ofNat 64 (2 ^ 63 + 2 ^ 62 + (2 ^ 42 - 2 ^ 16))
    let s' := { s with host := { s.host with captures := [(9, { Capture.reset with quantity := 6 })] } }
    mapIllegal 1 0 0 = true ∧ mapRefused s (2 ^ 56) (pageOf w0 0 0) = some 0 ∧ findPage s.pages 0x30000 = none ∧ 1 < (2 : Word).toNat ∧
      badUnit s 0x20000 0x10001 = some 1 ∧ (1 : Word).toNat ≤ 1 ∧ (plain 3).rep = 0 ∧ 0x20000 - 0x20000 + 0x10000 ≤ (plain 3).size ∧ s.badLines = [] ∧
      7 ≤ (7 : Word).toNat ∧ (capture s 9).quantity ≠ 6 ∧ (capture s' 9).quantity = 6 ∧ presentPages empty = [] ∧ ([] : List Byte).length ≤ 0 ∧
      presentPages s = [(0x20000, plain 3)] ∧ s.remotePage (plain 3) = false ∧ (plain 3).size / 2 ^ 16 = 1 ∧
      (∀ k, k < 64 → findPage s.pages (0x2FFC0 + k) = some (0x20000, plain 3)) ∧ badUnit s 0x2FFC0 64 = none := by decide +kernel
/-- A launch header with one node without operands, its tables at the page's start, and its node record. -/
def packet : State :=
  let w (n v : Nat) : List Byte := natBytes v n
  let hd := w 4 0x31444E47 ++ w 4 1 ++ w 8 0x20040 ++ w 8 0x20080 ++ w 8 0x200C0 ++ w 8 0x100000 ++ w 4 0 ++ w 4 1024 ++ w 1 20 ++ w 1 8 ++ w 14 0
  let rc := w 8 0x20000 ++ w 4 0 ++ w 4 0 ++ w 8 0 ++ w 1 0 ++ w 1 8 ++ w 38 0
  { hosted [] with mem := mwrite [] 0x30000 (hd ++ rc) }
theorem witness_CommandsAccepted_launch :
    ∃ hd, packet.host.devState = 1 ∧ anyRunning packet = false ∧ anyStep packet = false ∧ globalOk (0x20000 : Word).toNat 64 = true ∧
      tableAt packet (snapImage packet) 0x20000 64 = some hd ∧ headerOk hd = true ∧ leNat ((hd.drop 56).take 8) = 0 ∧
      badNode packet (snapImage packet) hd 0 = none ∧ 0 < leNat ((hd.drop 4).take 4) :=
  ⟨(tableAt packet (snapImage packet) 0x20000 64).getD [], by decide +kernel⟩
theorem witness_CommandsAccepted_calm : packet.channelsFree ∧ packet.host.refused = false := ⟨calm_of_drones _ rfl, rfl⟩
theorem witness_CommandsAccepted :
    (mploadHeader 255 (BitVec.ofNat 128 (leNat (mread (hosted (natBytes (4095 + 2 ^ 12) 16)).host.mem 0x1000 16))) = some (4095, 1) ∧
      (255 : Word).toNat < 256 ∧ 191 < 192) ∧
    (let s := hosted (natBytes 0x20000 8 ++ natBytes 1024 8 ++ [0, 0, 16, 0, 16, 0, 0x11, 0])
     let b := mread s.host.mem 0x1000 64
     regionFields b (regionOf b) = true ∧ regionShape (regionOf b) = true ∧ regionPages s (regionOf b) = true ∧
       inRegion s (regionOf b).base (regionOf b).len = false ∧ s.regions = [] ∧ areaRoom s 0 (regionOf b) = true) ∧
    (let s := { hosted (natBytes 0x20000 8) with regions := [(511, region0)] }
     let b := mread s.host.mem 0x1000 64
     s.regions = [(511, region0)] ∧ region0.base = leNat (b.take 8) ∧ (b.drop 8).all (· == 0) = true) ∧
    (let s := hosted []
     findPage s.pages 0x2FFFF = some (0x20000, plain 3) ∧ s.remotePage (plain 3) = false ∧ (2 ^ 42 - 2 ^ 16) % (plain 3).size = 0 ∧
       frameOk (2 ^ 42 - 2 ^ 16) (plain 3).size = true) ∧
    (let s := hosted (natBytes 0x20000 8 ++ natBytes (2 ^ 63) 8)
     let b := mread s.host.mem 0x1000 64
     (32 : Word) = 32 ∧ ({ w0 := BitVec.ofNat 64 (leNat ((b.drop 8).take 8)), w1 := BitVec.ofNat 64 (leNat ((b.drop 16).take 8))
                           modno := s.host.modno, notify := none } : Page).present = true) := by decide +kernel
/-- TIERSET moves the page to the last frame of the far memory; bytes stand in memory. -/
theorem witness_CommandsAccepted_tier :
    let s := { hosted [] with mem := [(0x30000, 7), (0x3FFFF, 9)] }
    s.host.refused = false ∧ findPage s.pages 0x2FFFF = some (0x20000, plain 3) ∧ s.remotePage (plain 3) = false ∧
      (2 ^ 42 - 2 ^ 16) % (plain 3).size = 0 ∧ frameOk (2 ^ 42 - 2 ^ 16) (plain 3).size = true ∧ Memory.wf s.mem = true := by decide
/-- The VA and the entry of a present page at 0x20000, and a record of it of kind `k`. -/
def unitHead : List Byte := natBytes 0x20000 8 ++ natBytes (2 ^ 63) 8 ++ natBytes 0 8
def unitRecord (k : Nat) : List Byte := unitHead ++ (natBytes (checkpointKind k).toNat 8 ++ List.replicate 32 0)
theorem unitRecord_length (k : Nat) : (unitRecord k).length = 64 := by
  rw [unitRecord, List.length_append, List.length_append, natBytes_length]
  rfl
theorem unitHead_present : ({ w0 := BitVec.ofNat 64 (leNat ((unitHead.drop 8).take 8)), w1 := BitVec.ofNat 64 (leNat ((unitHead.drop 16).take 8))
                              modno := 0, notify := none } : Page).present = true := by decide +kernel
/-- The host's bytes are the record, and its kind word is the one that was written. -/
theorem witness_CommandsAccepted_restore (k : Nat) :
    let b := mread (hosted (unitRecord k)).host.mem 0x1000 64
    b.take 24 = unitHead ∧ BitVec.ofNat 64 (leNat ((b.drop 24).take 8)) = checkpointKind k := by
  have hb := mread_mwrite [] 0x1000 (unitRecord k)
  rw [unitRecord_length] at hb
  have hm (l : List Byte) : (hosted l).host.mem = mwrite [] 0x1000 l := rfl
  have hl : unitHead.length = 24 := rfl
  simp only [hm, hb]
  rw [unitRecord, List.take_left' hl, List.drop_left' hl, List.take_left' (natBytes_length _ 8), leNat_natBytes,
    Nat.mod_eq_of_lt (show (checkpointKind k).toNat < 256 ^ 8 from (checkpointKind k).isLt)]
  exact ⟨rfl, by simp⟩
/-- The three kinds have three words. -/
theorem witness_CommandsAccepted_kinds : checkpointKind 0 ≠ checkpointKind 1 ∧ checkpointKind 0 ≠ checkpointKind 2 := by
  have h (j : Nat) : (checkpointKind j).setWidth 2 = BitVec.ofNat 2 j :=
    BitVec.eq_of_getLsbD_eq fun i hi => by
      rw [BitVec.getLsbD_setWidth, decide_eq_true hi, Bool.true_and]
      exact (BitVec.getLsbD_append (x := Config.checkpointKind)).trans (if_pos hi)
  exact ⟨fun e => absurd ((h 0).symm.trans ((congrArg _ e).trans (h 1))) (by decide),
    fun e => absurd ((h 0).symm.trans ((congrArg _ e).trans (h 2))) (by decide)⟩
/-- The host's record of a region: fp32 in rows of 16, or of 1, that keeps BOUNDS and SUM; int64 in rows of 8 with them; fp32 in rows of 128
with SKETCH and ZMAP; each of two blocks of 512 bytes from a page's start. -/
def recordOf (efmt rowLen g kinds bp : Nat) : List Byte :=
  natBytes 0x20000 8 ++ natBytes 1024 8 ++ natBytes 0 1 ++ natBytes efmt 1 ++ natBytes rowLen 2 ++ natBytes g 2 ++ natBytes kinds 1 ++ natBytes bp 1
theorem witness_DigestRecords_built :
    ([(0, 16, 8, 17, 80), (0, 1, 1, 17, 0), (7, 8, 8, 17, 0), (0, 128, 1, 28, 0)].all fun (e, l, g, k, p) =>
      let s := hosted (recordOf e l g k p)
      let b := mread s.host.mem 0x1000 64
      let r := regionOf b
      regionFields b r && regionShape r && regionPages s r && areaRoom s 0 r && decide (r.len / r.block = 2) &&
        [r.k1, r.k2].all fun k => k == k % 8 && k != 0) = true ∧
    (hosted []).host.devState = 1 ∧ (hosted []).host.refused = false ∧ anyRunning (hosted []) = false ∧ anyStep (hosted []) = false ∧
      (hosted []).badLines = [] ∧ (hosted []).regions = [] := by decide +kernel
/-- A GST of the last element of a region, of every shape of region. -/
def following (r : Region) (n : Nat) : State :=
  { closing [{ lastByte with kind := .gst (r.base + r.len - n) (List.replicate n 7) }] with regions := [(511, r)] }
theorem witness_DigestRecords_follow :
    ([(region0, 4), ({ region0 with rowLen := 1 }, 4), ({ region0 with efmt := 11, rowLen := 64, g := 64 }, 1), ({ region0 with efmt := 7, rowLen := 8 }, 8),
        ({ region0 with rowLen := 128, k1 := 4, k2 := 3 }, 4)].all fun (r, w) =>
      let s := following r w
      let a := r.base + r.len - w
      (launch s 1).ended.isNone && (launch s 1).commit.isNone && mayCommit s 1 1 && s.promos.isEmpty && s.fabric.inbox.isEmpty && !anyStep s &&
        s.badLines.isEmpty && s.badRecords.isEmpty && (launch s 1).rescans.isEmpty && (launch s 1).units.length == 1 &&
        regionAt s a == some (511, r) && decide (r.efmt ≤ 11) && decide (1 ≤ r.rowLen) && decide (1 ≤ r.g) && regionShape r &&
        r.base % r.block == 0 && r.k1 != r.k2 && (a - r.base) % w == 0 && (typeOf r.efmt).bits / 8 == w && decide (r.base + r.len ≤ 2 ^ 56) &&
        r.len % r.block == 0 && ((List.range w).all fun i => findPage s.pages (a + i) == some (0x20000, plain 3) && aliasesOf s [] (a + i) == []) &&
        (plain 3).rep == 0 && !s.remotePage (plain 3)) = true := by decide +kernel
theorem witness_DigestRecords_calm (r : Region) (n : Nat) : (following r n).channelsFree ∧
    (following r n).regions.Pairwise (fun x y => x.2.base + x.2.len ≤ y.2.base ∨ y.2.base + y.2.len ≤ x.2.base) :=
  ⟨calm_of_drones _ rfl, List.pairwise_singleton _ _⟩
theorem witness_HostAndBoot_states :
    (let s := { State.reset with host := { HostIf.reset with devState := 3, refused := true } }
     s.host.refused = true ∧ hostCommand (.attest 0 0) = true) ∧
    (let s := { empty with host := { empty.host with devState := 2 } }
     s.host.refused = false ∧ s.host.devState = 2) ∧ 3 < 4 := by decide
theorem witness_HostAndBoot : (∀ off ∈ [0x018, 0x030, 0x040, 0xFFF], off ∉ [0x000, 0x008, 0x010, 0x020, 0x028, 0x038]) ∧ (15 : Word).toNat < 16 ∧
    16 ≤ (16 : Word).toNat := by
  decide

/-! ### Single instructions; the expected values are worked out by hand from the rules cited -/

/-- Context 0 with s1, s2 and s4. -/
def sx (a b c : Word) : State := opened (one 0 { strand with scalars := [(1, reg a), (2, reg b), (4, reg c)] })
/-- Of an instruction with destination s3: its one result and where it lands. -/
def res (i : Instr) (s : State) : Option (List (Nat × Word)) := (flights i s).map fun l => l.map fun e => (e.1, e.2.2)
def flagsOf (i : Instr) (s : State) : Option (BitVec 6) := (after i s fun t => (me t).flight.head?.map (·.flags)).join
/-- R121: sums wrap, shifts take six bits of the amount. -/
theorem test_add_wraps : flights (.add 3 1 2) (sx (BitVec.allOnes 64) 2 0) = some [(1, 3, 1)] := by decide +kernel
theorem test_sub_wraps : res (.sub 3 1 2) (sx 1 2 0) = some [(1, 0xFFFFFFFFFFFFFFFF)] := by decide +kernel
theorem test_logic : res (.and 3 1 2) (sx 12 10 0) = some [(1, 8)] ∧ res (.or 3 1 2) (sx 12 10 0) = some [(1, 14)] ∧
    res (.xor 3 1 2) (sx 12 10 0) = some [(1, 6)] := by decide +kernel
theorem test_shifts : res (.shl 3 1 2) (sx 3 127 0) = some [(1, 0x8000000000000000)] ∧
    res (.shr 3 1 2) (sx 0x8000000000000000 127 0) = some [(1, 1)] ∧
    res (.sar 3 1 2) (sx 0x8000000000000000 127 0) = some [(1, 0xFFFFFFFFFFFFFFFF)] := by decide +kernel
theorem test_products : res (.mul 3 1 2) (sx 0x100000001 0x100000001 0) = some [(3, 0x0000000200000001)] ∧
    res (.mulh 3 1 2) (sx 0x8000000000000000 2 0) = some [(3, 0xFFFFFFFFFFFFFFFF)] ∧
    res (.mulhu 3 1 2) (sx 0x8000000000000000 2 0) = some [(3, 1)] := by decide +kernel
/-- R122. -/
theorem test_division : res (.div 3 1 2) (sx (-7) 2 0) = some [(18, -3)] ∧ res (.rem 3 1 2) (sx (-7) 2 0) = some [(18, -1)] ∧
    res (.divu 3 1 2) (sx (-7) 2 0) = some [(18, 0x7FFFFFFFFFFFFFFC)] ∧ res (.remu 3 1 2) (sx (-7) 2 0) = some [(18, 1)] := by
  decide +kernel
theorem test_division_by_zero : res (.div 3 1 2) (sx 5 0 0) = some [(18, -1)] ∧ res (.rem 3 1 2) (sx 5 0 0) = some [(18, 5)] ∧
    res (.divu 3 1 2) (sx 5 0 0) = some [(18, -1)] ∧ res (.remu 3 1 2) (sx 5 0 0) = some [(18, 5)] := by decide +kernel
theorem test_min_max : res (.min 3 1 2) (sx (-1) 1 0) = some [(1, -1)] ∧ res (.max 3 1 2) (sx (-1) 1 0) = some [(1, 1)] ∧
    res (.minu 3 1 2) (sx (-1) 1 0) = some [(1, 1)] ∧ res (.maxu 3 1 2) (sx (-1) 1 0) = some [(1, -1)] := by decide +kernel
theorem test_sel_cmp : res (.sel 3 1 2 4) (sx 5 6 0) = some [(1, 6)] ∧ res (.sel 3 1 2 4) (sx 5 6 8) = some [(1, 5)] ∧
    res (.cmp .lt 3 1 2) (sx (-1) 1 0) = some [(1, 1)] ∧ res (.cmp .ltu 3 1 2) (sx (-1) 1 0) = some [(1, 0)] := by decide +kernel
theorem test_bit_counts : res (.clz 3 1) (sx 1 0 0) = some [(1, 63)] ∧ res (.clz 3 1) (sx 0 0 0) = some [(1, 64)] ∧
    res (.popc 3 1) (sx 0xF0F0 0 0) = some [(1, 8)] ∧ res (.brev 3 1) (sx 3 0 0) = some [(1, 0xC000000000000000)] := by decide +kernel
/-- R124: which immediates are sign-extended. -/
theorem test_immediates : res (.addi 3 1 0xFFFFFFFF) (sx 5 0 0) = some [(1, 4)] ∧ res (.shli 3 1 63) (sx 3 0 0) = some [(1, 0x8000000000000000)] ∧
    res (.shri 3 1 63) (sx (-1) 0 0) = some [(1, 1)] ∧ res (.sari 3 1 63) (sx (-1) 0 0) = some [(1, -1)] ∧
    res (.li 3 0xFFFFFFFE) (sx 0 0 0) = some [(1, -2)] ∧ res (.cmpi .lt 3 1 0xFFFFFFF) (sx (-2) 0 0) = some [(1, 1)] := by decide +kernel
/-- R125, R109: 1 + 2^-24 is a tie, to even; 1.5 × 2; the sum of infinities of both signs is the NaN with NV (flag bit 0). -/
theorem test_fadd : res (.fadd 3 1 2) (sx 0x3F800000 0x33800000 0) = some [(4, 0x3F800000)] ∧
    res (.fsub 3 1 2) (sx 0x3F800000 0x3F800000 0) = some [(4, 0)] ∧ res (.fmul 3 1 2) (sx 0x3FC00000 0x40000000 0) = some [(4, 0x40400000)] ∧
    res (.fadd 3 1 2) (sx 0x7F800000 0xFF800000 0) = some [(4, 0x7FC00000)] := by decide +kernel
/-- 3 × 5 + 1 = 16, rounded once. -/
theorem test_ffma : res (.ffma 3 1 2 4) (sx 0x40400000 0x40A00000 0x3F800000) = some [(4, 0x41800000)] := by decide +kernel
theorem test_fmin_fcmp : res (.fmin 3 1 2) (sx 0x80000000 0 0) = some [(4, 0x80000000)] ∧ res (.fmax 3 1 2) (sx 0x80000000 0 0) = some [(4, 0)] ∧
    res (.fcmp .lt 3 1 2) (sx 0xBF800000 0x3F800000 0) = some [(4, 1)] ∧ res (.fcmp .un 3 1 2) (sx 0x7FC00000 0 0) = some [(4, 1)] := by
  decide +kernel
/-- R127: 65,504 is the largest fp16; -1 as an int32. -/
theorem test_fcvt : res (.fcvt .fp16Fp32 3 1) (sx 0x477FE000 0 0) = some [(4, 0x7BFF)] ∧ res (.fcvt .int32Fp32 3 1) (sx 0xBF800000 0 0) = some [(4, -1)] ∧
    res (.fcvt .fp32Int32 3 1) (sx 0xFFFFFFFF 0 0) = some [(4, 0xBF800000)] := by decide +kernel

/-! Branches and the rest of SC: where the bundle goes on. -/

def targetAfter (i : Instr) (s : State) : Option Word := (after i s fun t => t.bundle.target).join
/-- R128: from pc 0x10000. -/
theorem test_jumps : targetAfter (.j 0xFFFFFFFF) s0 = some 0xFFC0 ∧ targetAfter (.jr 1) (sx 0x12345 0 0) = some 0x12340 ∧
    targetAfter (.ret 1) (sx 0x1237F 0 0) = some 0x12340 := by decide +kernel
theorem test_calls : targetAfter (.call 3 2) s0 = some 0x10080 ∧ res (.call 3 2) s0 = some [(1, 0x10040)] ∧
    targetAfter (.callr 3 1) (sx 0x12345 0 0) = some 0x12340 ∧ res (.callr 3 1) (sx 0 0 0) = some [(1, 0x10040)] := by decide +kernel
theorem test_conditions : targetAfter (.bz 1 2) (sx 0 0 0) = some 0x10080 ∧ targetAfter (.bz 1 2) (sx 1 0 0) = none ∧
    targetAfter (.bnz 1 2) (sx 1 0 0) = some 0x10080 ∧ targetAfter (.bcmp .gtu 1 2 1) (sx (-1) 0 0) = some 0x10040 := by decide +kernel
/-- R129: the body is the bundles from pc + 64 to pc + 64 × end; a count of 0 skips it. -/
theorem test_loops : (after (.loopi 3 2) s0 fun t => t.bundle.pushed) = some (some { start := 0x10040, last := 0x10080, remaining := 3 }) ∧
    (after (.loop 1 2) (sx 0 0 0) fun t => t.bundle.skipLoop) = some (some 0x100C0) := by decide +kernel
theorem test_csr : res (.csrr 3 0x10) s0 = some [(1, 77)] := by decide +kernel
/-- R134: a store of two bytes is a write unit with the low bytes, the low one first. -/
theorem test_gst : (after (.gst 1 1 2 4) (sx 0xABCD 0x20000 0) fun t => (launch t 1).units.map (·.kind)) = some [.gst 0x20004 [0xCD, 0xAB]] := by
  decide +kernel
theorem test_gld : (after (.gld 2 3 2 4) { sx 0 0x20000 0 with pages := [(2, plain 3)] } fun t =>
    ((me t).gloads.map fun g => (g.dst, g.addr, g.size), t.bundle.marks)) = some ([(3, 0x20004, 4)], [.scalar 3]) := by decide +kernel

/-! Vector instructions: a few whole ones, and the functions of one element or row that the others share. -/

/-- A tile of elements of `w` bits, the first ones given. -/
def tl (w : Nat) (l : List Nat) : TileReg := { val := tileOf w l, st := .full }
/-- Context 0 with t1 and t2, and element 1 alone in m2. -/
def tx (w : Nat) (a b : List Nat) : State :=
  opened (one 0 { strand with tiles := [(1, tl w a), (2, tl w b)], masks := [(2, { val := 12, pending := false, poison := none })] })
def b2 : BSrc := .tile (src 2)
theorem test_viadd : elemOf (.viadd .vb 3 0 (src 1) b2 .uint64) (tx 64 [0, 2 ^ 64 - 1] [0, 2]) .uint64 1 = some 1 := by decide +kernel
theorem test_visub : elemOf (.visub .va 3 0 (src 1) b2 .int64) (tx 64 [1] [2]) .int64 0 = some (2 ^ 64 - 1) := by decide +kernel
/-- R154, R78: a 64-bit element has two mask bits. -/
theorem test_vicmp : maskRes (.vicmp .va .lt 3 0 (src 1) b2 .int64) (tx 64 [0, 2 ^ 64 - 1] []) = some 12 := by decide +kernel
/-- R152: mask m2 takes element 1 of a and the others of b. -/
theorem test_vsel : elemOf (.vsel .va 3 2 (src 1) b2 .int64) (tx 64 [5, 6] [7, 8]) .int64 1 = some 6 := by decide +kernel
/-- R160: rotated one place to the right in its row. -/
theorem test_vrotr : elemOf (.vrotr .va 3 0 (src 1) (.imm 1) .int64) (tx 64 [5, 6] []) .int64 1 = some 5 := by decide +kernel
/-- R161: 0 past the row of 32. -/
theorem test_vperm : elemOf (.vperm .va 3 0 (src 1) (src 2) .int64) (tx 64 [5, 6] [1, 32]) .int64 1 = some 0 := by decide +kernel
/-- R169: `mpopc.fp32 s4, m0` gives 1,024 (the manual's example); one position per 64-bit element. -/
theorem test_mpopc : res (.mpopc .va 3 0 .fp32) s0 = some [(1, 1024)] ∧ res (.mfirst .va 3 1 .int32) s0 = some [(1, 0xFFFFFFFFFFFFFFFF)] := by
  decide +kernel
theorem test_masks : maskRes (.mand .va 3 0 2) (tx 8 [] []) = some 12 ∧ maskRes (.mor .va 3 1 2) (tx 8 [] []) = some 12 ∧
    maskRes (.mxor .va 3 2 2) (tx 8 [] []) = some 0 ∧ maskRes (.mnot .va 3 0) s0 = some 0 := by decide +kernel

/-- fp32 values by code. -/
def f (c : Nat) : XR := Fmt.fp32.value c
def md : RMode := RMode.rne
/-- R108, R113: 2 × 3 + 1 and 2 × 3 - 1; a tie; a product that overflows (OF and NX); the least normal halved is a subnormal, exact. -/
theorem test_rounding : fpFma md 0 .fp32 (f 0x40000000) (f 0x40400000) (f 0x3F800000) = (0x40E00000, 0) ∧
    fpFma md 0 .fp32 (f 0x40000000) (f 0x40400000) (f 0x3F800000).neg = (0x40A00000, 0) ∧
    fpAdd md 0 .fp32 (f 0x3F800001) (f 0x33800000) = (0x3F800002, fNX) ∧
    fpMul md 0 .fp32 (f 0x7F7FFFFF) (f 0x40000000) = (0x7F800000, fOF ||| fNX) ∧
    fpMul md 0 .fp32 (f 0x00800000) (f 0x3F000000) = (0x00400000, 0) := by decide +kernel
theorem test_formats : fpMul md 0 .fp16 (Fmt.fp16.value 0x3E00) (Fmt.fp16.value 0x4000) = (0x4200, 0) ∧
    fpAdd md 0 .bf16 (Fmt.bf16.value 0x3F80) (Fmt.bf16.value 0x4000).neg = (0xBF80, 0) ∧ (rnd md 0 .e4m3 (f 0x43E00000)).1 = 0x7E := by decide +kernel
/-- R149: a NaN beside a number gives the number. R150: an unordered pair satisfies ne and un alone. -/
theorem test_picks : fpPick false (f 0x7FC00000) (f 0x3F800000) = f 0x3F800000 ∧ fpPick true (f 0x80000000) (f 0) = f 0 ∧
    fpCond .ne (f 0x7FC00000) (f 0) = true ∧ fpCond .le (f 0x7FC00000) (f 0) = false ∧ fpCond .un (f 0x7FC00000) (f 0) = true := by decide +kernel
/-- R103, R112: int8 wraps, and is clamped under SAT; 2.5 is rounded to even. -/
theorem test_integers : (narrowInt false .int8 200).1 = 200 ∧ (narrowInt true .int8 200).1 = 127 ∧ (narrowInt true .uint8 (-1)).1 = 0 ∧
    (toIntFmt md 0 .int32 (f 0x40200000)).1 = 2 ∧ (toIntFmt md 0 .int32 (f 0xBF800000)).1 = 0xFFFFFFFF := by decide +kernel
/-- R163 to R165: 1/2, 1/√4, 2^3 and log2 8, exact; 1/3 is rounded to nearest. -/
theorem test_special_functions : rnd md 0 .fp32 (rcpFn (f 0x40000000)).1 = (0x3F000000, 0) ∧ (rnd md 0 .fp32 (rcpFn (f 0x40400000)).1).1 = 0x3EAAAAAB ∧
    rnd md 0 .fp32 (rsqFn (f 0x40800000)).1 = (0x3F000000, 0) ∧ rnd md 0 .fp32 (exp2Fn (f 0x40400000)).1 = (0x41000000, 0) ∧
    rnd md 0 .fp32 (log2Fn (f 0x41000000)).1 = (0x40400000, 0) := by decide +kernel
/-- R166: stable, equal elements in their order; signed order; descending. -/
theorem test_sorting : sortRow false .int32 [3, 0xFFFFFFFF, 3, 1] = [(0xFFFFFFFF, 1), (1, 3), (3, 0), (3, 2)] ∧
    sortRow true .uint32 [3, 0xFFFFFFFF, 3, 1] = [(0xFFFFFFFF, 1), (3, 0), (3, 2), (1, 3)] := by decide +kernel

/-! The other slots. -/

/-- R140: SVC ends its bundle in a trap of cause 0x12, with the next bundle's address and its operand. -/
theorem test_svc : (after (.svc 5) (one 0 strand) fun t => ((hart t 0).life, (hart t 0).csr.tcause, (hart t 0).csr.tpc, (hart t 0).csr.tinfo)) =
    some (.trapped, 0x12, 0x10040, 5) := by decide +kernel
/-- R25. -/
theorem test_ill : (after (.ill .va) (one 0 strand) fun t => ((hart t 0).life, (hart t 0).csr.tcause, (hart t 0).csr.tpc)) =
    some (.trapped, 0x01, 0x10000) := by decide +kernel
/-- R302: an exit, and the end of the strand. -/
theorem test_exit : (after .exit (one 0 strand) fun t => (hart t 0).life) = some .exited := by decide +kernel
/-- R204: four bytes, the low one first, at the last word of the comb. -/
theorem test_sts : (after (.sts false 2 1 0 0x3FFFFC) (sx 0xAABBCCDD 0 0) fun t => mread (Machine.core t 0).comb 0x3FFFFC 4) =
    some [0xDD, 0xCC, 0xBB, 0xAA] := by decide +kernel
/-- R206: 7 added to the word 0xFFFFFFFE, no other element. -/
theorem test_scadd : (after (.scadd false true 1 0 2) { tx 64 [7] (8 :: List.replicate 511 (2 ^ 64 - 1)) with
      cores := [(0, { Core.reset with comb := mwrite [] 8 (List.replicate 7 255) })] } fun t => mread (Machine.core t 0).comb 8 8) =
    some [6, 0, 0, 0, 0, 0, 0, 1] := by decide +kernel
/-- R251: the count saturates. -/
theorem test_binc : (after (.binc 7 1 0 0xFFFF) (sx 0xFFFFFFFF 0 0) fun t => (barrier t 0 7).count) = some 0xFFFFFFFF := by decide +kernel
theorem test_bset : (after (.bset true 3 1) (sx 9 0 0) fun t => ((barrier t 0 3).count, (barrier t 0 3).target, (barrier t 0 3).holder)) =
    some (0, 9, some 77) := by decide +kernel
/-- R296: the first child of a strand of depth 0 has path 0x10000. -/
theorem test_fork : (after (.fork 1 2 4) (sx 1 2 0) fun t => (Machine.core t 0).deque.map fun n => (n.skey, n.pc)) = some [(0x1004D, 0x10100)] := by
  decide +kernel
theorem test_msetpi : (after (.msetpi 7 0x3FFFFFFFFF) s0 fun t => (me t).flight.map fun x => (x.due - 5, x.dst)) =
    some [(1, .param 7 0xFFFFFFFFFFFFFFFF)] := by decide +kernel
/-- R180: 1 + x and 2 on the same domain. -/
def fun2 : State := opened (one 0 { strand with fregs := [(1, { fn := { lo := 0xBF800000, hi := 0x3F800000, coeffs := [0x3F800000, 0x3F800000] }, st := .ready }),
  (2, { fn := { lo := 0xBF800000, hi := 0x3F800000, coeffs := [0x40000000] }, st := .ready })] })
theorem test_chadd_chmul : (after (.chadd 3 1 2) fun2 fun t => (me t).fops.map fun o => o.freg.map (·.2.coeffs)) = some [some [0x40400000, 0x3F800000]] ∧
    (after (.chmul 3 1 2) fun2 fun t => (me t).fops.map fun o => o.freg.map (·.2.coeffs)) = some [some [0x40000000, 0x40000000]] := by decide +kernel
/-- The integral of 2 that vanishes at -1 is 2 + 2x, and the derivative of 1 + x is 1. -/
theorem test_chint_chdif : (after (.chint 3 2) fun2 fun t => (me t).fops.map fun o => o.freg.map (·.2.coeffs)) = some [some [0x40000000, 0x40000000]] ∧
    (after (.chdif 3 1) fun2 fun t => (me t).fops.map fun o => o.freg.map (·.2.coeffs)) = some [some [0x3F800000]] := by decide +kernel
/-- R258: the nonzero elements 1 and 3, counted from s1. -/
theorem test_ixscan : (after (.ixscan 1 false .int64 1 0 3 false 0) (tx 64 [0, 5, 0, 6] []) fun t => ((me t).queue 1).prods.map (·.work)) =
    some [.list [1, 3] none 0] := by decide +kernel
theorem test_ixpop : (after (.ixpop 1 3) (queued { IQueue.reset with items := [.entry 8, .entry 9] }) fun t => (t.bundle.fills, ((me t).queue 1).items)) =
    some ([(3, 8, none)], [.entry 9]) := by decide +kernel
/-- R223: MLOOP with count 2 enters; MEND goes back once. -/
theorem test_mloop : (after (.mloop 0 0 0 20 2) (runs (startRun (mcallOf 0 1 true) false 16) []) fun t => (Machine.core t 0).mx.running.map fun r => (r.upc, r.cnt, r.active)) =
    some (some (17, [2, 0, 0], [(0, 16)])) := by decide +kernel
theorem test_mend : (after (.mend 2) (runs (runOf false true false) []) fun t => (Machine.core t 0).mx.running.map fun r => (r.upc, r.idx, r.active)) =
    some (some (11, [0, 0, 2], [(2, 10)])) := by decide +kernel
theorem test_doorbell : (after (.doorbell 7) empty fun t => t.host.tail) = some 7 := by decide +kernel
/-- R362: sequence numbers start at 1. -/
theorem test_rcall : (after (.rcallQ false true 5 1 2 1 3) { sx 0x20000 0x10020 0 with pages := [(2, plain 3)] } fun t =>
    ((me t).calls.map (·.seqNo), (me t).nextSeq, t.bundle.marks)) = some ([1], 2, [.tile 5, .scalar 3]) := by decide +kernel
/-- R333: one promotion of the page. -/
theorem test_promote : (after (.promote 1 2 4) { sx 0x20004 0x50000 0 with pages := [(2, plain 3)] } fun t => t.promos.map fun p => (p.page, p.frame)) =
    some [(0x20000, 5)] := by decide +kernel

end Sys2Proof.Tests
end

/-! ## Control and status registers

What a CSR reads after a write, for a context's own CSRs, the supervisor's and those of the window, and O16 from it.
-/
namespace Sys2Proof.Machine

/-! ### Fields of a word -/

theorem low_toNat {n : Nat} (hn : n ≤ 64) (v : Word) : (low n v).toNat = v.toNat % 2 ^ n := by
  have hlt : v.toNat % 2 ^ n < 18446744073709551616 :=
    Nat.lt_of_lt_of_le (Nat.mod_lt _ (by positivity)) (Nat.pow_le_pow_right (by decide) hn)
  simp [low, Nat.mod_eq_of_lt hlt]

/-- A nonzero low part stays nonzero when it is extended to a word again. -/
theorem low_eq_zero_iff {n : Nat} (hn : n ≤ 64) (v : Word) : low n v = 0 ↔ v.setWidth n = 0 := by
  simp [← BitVec.toNat_inj, low_toNat hn]

/-- QW and QB store 1 for 0 (R85, R139), in terms of the field that is written. -/
theorem atLeast1_low {n : Nat} (hn : n ≤ 64) (v : Word) :
    atLeast1 (low n v) = if v.setWidth n = 0 then 1 else (v.setWidth n).setWidth 64 := by
  simp only [atLeast1, low_eq_zero_iff hn]
  rfl

theorem nth_putXv (xv : List (BitVec 32)) {i j : Nat} (v : Word) (hj : j < 4) :
    nth 0 (putXv xv i v) j = if j = i then v.setWidth 32 else nth 0 xv j := by
  match j, hj with
  | 0, _ | 1, _ | 2, _ | 3, _ => rfl

/-! ### STATUS (R86) -/

/-- Bit 7 of STATUS is MIG; the other bits do not depend on it. -/
theorem getLsbD_statusWord (h : Nat) (mig : Bool) (i : Nat) :
    (statusWord h mig).getLsbD i = if i = 7 then mig else (statusWord h false).getLsbD i := by
  have place : ∀ m : Bool, dieOf h * 2 ^ 22 + coreOf h % 48 * 2 ^ 16 + m.toNat * 2 ^ 7 + ctxNo h =
      2 ^ 7 * (2 ^ 1 * (dieOf h * 2 ^ 14 + coreOf h % 48 * 2 ^ 8) + m.toNat) + ctxNo h := fun m => by omega
  have hc : ctxNo h < 2 ^ 7 := by unfold ctxNo; omega
  have hm : ∀ m : Bool, m.toNat < 2 ^ 1 := by decide
  simp only [statusWord, BitVec.getLsbD_ofNat, place, Nat.testBit_two_pow_mul_add _ hc, Nat.testBit_two_pow_mul_add _ (hm _)]
  by_cases h7 : i = 7
  · subst h7; cases mig <;> simp
  · by_cases hl : i < 7
    · simp [hl, h7]
    · have : ¬ i - 7 < 1 := by omega
      simp [hl, h7, this]

/-- MIG is cleared by a one (R9, R86). -/
theorem statusWord_clear (h : Nat) (mig : Bool) (v : Word) :
    statusWord h (mig && !v.getLsbD 7) = statusWord h mig &&& ~~~(v &&& 0x80) := by
  have h80 : (0x80 : Word) = BitVec.twoPow 64 7 := by decide
  ext i hi
  simp only [← BitVec.getLsbD_eq_getElem, h80, BitVec.getLsbD_and, BitVec.getLsbD_not, BitVec.getLsbD_twoPow]
  rw [getLsbD_statusWord h (mig && !v.getLsbD 7), getLsbD_statusWord h mig]
  by_cases h7 : i = 7
  · subst h7; simp
  · have : ¬ 7 = i := fun e => h7 e.symm
    simp [h7, this, hi]

/-! ### The CSRs of a context by their numbers (R84) -/

theorem csrRead_own (s : State) (h : Nat) {n : Nat} (hn : n < 0x40) : csrRead s h n = csrGet h (hart s h) n := by
  simp [csrRead, hn]

theorem csrWrite_own (s : State) (h : Nat) {n : Nat} (v : Word) (hn : n < 0x40) :
    csrWrite s h n v = modHart s h fun c => csrPut false c n v := by
  simp [csrWrite, hn]

/-- A read of an own CSR after a write of an own CSR. -/
theorem csrRead_csrWrite_own (s : State) (h : Nat) {n m : Nat} (v : Word) (hn : n < 0x40) (hm : m < 0x40) :
    csrRead (csrWrite s h n v) h m = csrGet h (csrPut false (hart s h) n v) m := by
  rw [csrWrite_own s h v hn, csrRead_own _ h hm, hart_modHart_self]

/-- The number of the window that stands for register `n` of context `x`. -/
theorem csrWindow_place (x : Nat) {n : Nat} (hn : n < 0x80) :
    csrWindow (0x100 + 0x80 * x + n) = (x, decide (0x40 ≤ n), if 0x40 ≤ n then n - 0x40 else n) := by
  have hd : (0x80 * x + n) / 0x80 = x := by omega
  have hm : (0x80 * x + n) % 0x80 = n := by omega
  have hr : 0x100 + 0x80 * x + n - 0x100 = 0x80 * x + n := by omega
  simp only [csrWindow, hr, hd, hm]

theorem csrRead_window (s : State) (h x : Nat) {n : Nat} (hn : n < 0x40) :
    csrRead s h (0x100 + 0x80 * x + n) = csrGet (6 * coreOf h + x) (hart s (6 * coreOf h + x)) n := by
  have h1 : ¬ 0x100 + 0x80 * x + n < 0x40 := by omega
  have h2 : 0x100 + 0x80 * x + n ≠ 0x40 ∧ 0x100 + 0x80 * x + n ≠ 0x41 ∧ 0x100 + 0x80 * x + n ≠ 0x42 := by omega
  have h3 : ¬ 0x40 ≤ n := by omega
  simp only [csrRead, h1, h2, csrWindow_place x (Nat.lt_trans hn (by decide)), h3, if_false, decide_false, Bool.false_eq_true]

/-- A write through the window is performed where its context is stopped in a trap, and has no effect elsewhere (R84). -/
theorem csrWrite_window (s : State) (h x : Nat) {n : Nat} (v : Word) (hn : n < 0x80) :
    csrWrite s h (0x100 + 0x80 * x + n) v = if (hart s (6 * coreOf h + x)).life = .trapped then
      modHart s (6 * coreOf h + x) fun c => if 0x40 ≤ n then c.fillScalar (n - 0x40) v else csrPut true c n v
    else s := by
  have h1 : ¬ 0x100 + 0x80 * x + n < 0x40 := by omega
  have h2 : 0x100 + 0x80 * x + n ≠ 0x40 ∧ 0x100 + 0x80 * x + n ≠ 0x41 ∧ 0x100 + 0x80 * x + n ≠ 0x42 := by omega
  simp only [csrWrite, h1, h2, csrWindow_place x hn, if_false]
  by_cases hs : 0x40 ≤ n <;> simp [hs]

/-- A read through the window after a performed write to the same CSR. -/
theorem csrRead_csrWrite_window {s : State} {h x : Nat} (ht : (hart s (6 * coreOf h + x)).life = .trapped) {n : Nat} (v : Word)
    (hn : n < 0x40) : csrRead (csrWrite s h (0x100 + 0x80 * x + n) v) h (0x100 + 0x80 * x + n) =
      csrGet (6 * coreOf h + x) (csrPut true (hart s (6 * coreOf h + x)) n v) n := by
  have hs : ¬ 0x40 ≤ n := by omega
  rw [csrWrite_window s h x v (Nat.lt_trans hn (by decide)), if_pos ht, csrRead_window _ h x hn, hart_modHart_self, if_neg hs]

/-- A performed write to a scalar through the window completes it (R84). -/
theorem hart_csrWrite_windowScalar {s : State} {h x : Nat} (ht : (hart s (6 * coreOf h + x)).life = .trapped) {k : Nat} (v : Word)
    (hk : k < 0x40) : hart (csrWrite s h (0x100 + 0x80 * x + (0x40 + k)) v) (6 * coreOf h + x) =
      (hart s (6 * coreOf h + x)).fillScalar k v := by
  rw [csrWrite_window s h x v (by omega), if_pos ht, hart_modHart_self, if_pos (Nat.le_add_right 0x40 k), Nat.add_sub_cancel_left]

/-! ### A context's own CSRs -/

/-- A CSR that R85 marks read-only ignores a write. -/
theorem csrPut_readOnly (c : Ctx) (v : Word) : ∀ n ∈ [0x01, 0x02, 0x03, 0x04, 0x0C, 0x0F, 0x10, 0x11, 0x15], csrPut false c n v = c := by
  simp only [List.forall_mem_cons, List.not_mem_nil, false_imp_iff, implies_true, and_true]
  exact ⟨rfl, rfl, rfl, rfl, rfl, rfl, rfl, rfl, rfl⟩

theorem hart_csrWrite_readOnly (s : State) (h : Nat) (v : Word) (n : Nat) (hn : n ∈ [0x01, 0x02, 0x03, 0x04, 0x0C, 0x0F, 0x10, 0x11, 0x15]) :
    hart (csrWrite s h n v) h = hart s h := by
  have hlt : n < 0x40 := by
    revert n
    decide
  rw [csrWrite_own s h v hlt, hart_modHart_self, csrPut_readOnly _ v n hn]

/-- A word of CHXV is written alone (R85). -/
theorem csrGet_csrPut_xv (h : Nat) (c : Ctx) (v : Word) {i j : Nat} (hi : i < 4) (hj : j < 4) :
    csrGet h (csrPut false c (0x08 + i) v) (0x08 + j) = if j = i then (v.setWidth 32).setWidth 64 else csrGet h c (0x08 + j) := by
  have hput : csrPut false c (0x08 + i) v = { c with csr := { c.csr with xv := putXv c.csr.xv i v } } := by
    match i, hi with
    | 0, _ | 1, _ | 2, _ | 3, _ => rfl
  have hget : ∀ d : Ctx, csrGet h d (0x08 + j) = (nth 0 d.csr.xv j).setWidth 64 := fun d => by
    match j, hj with
    | 0, _ | 1, _ | 2, _ | 3, _ => rfl
  rw [hput, hget, hget, nth_putXv _ v hj]
  split <;> rfl

/-- STATUS after a write, by a context itself or through the window. -/
theorem csrGet_csrPut_status (h : Nat) (c : Ctx) (ro : Bool) (v : Word) :
    csrGet h (csrPut ro c 0x00 v) 0x00 = csrGet h c 0x00 &&& ~~~(v &&& 0x80) := statusWord_clear h c.csr.mig v

/-! ### The supervisor's CSRs -/

theorem csrRead_csrWrite_tvec (s : State) (h : Nat) (v : Word) : csrRead (csrWrite s h 0x40 v) h 0x40 = v &&& ~~~0x3F#64 := by
  simp [csrRead, csrWrite]

theorem csrWrite_tsrc (s : State) (h : Nat) (v : Word) : csrWrite s h 0x41 v = s := by
  simp [csrWrite]

theorem csrRead_csrWrite_tskip (s : State) (h : Nat) (v : Word) : csrRead (csrWrite s h 0x42 v) h 0x42 = low 8 v := by
  simp [csrRead, csrWrite]

/-! ### The instructions -/

theorem exec_csr_open (s : State) (sd sa : SReg) (n : BitVec 12) (ho : s.slotsOpen) :
    exec (.csrr sd n) s = .next (landScalar s sd (csrRead s s.cur n.toNat) 1) ∧
    exec (.tsc sd) s = .next (landScalar s sd (BitVec.ofNat 64 s.now) 1) ∧
    exec (.csrw n sa) s = .next (land s (.csr n.toNat ((me s).s sa)) 1 0) := by
  simp only [exec_csrr, exec_tsc, exec_csrw, execCsrr, execTsc, execCsrw, issue_open _ _ ho, and_self]

/-- Settles O16: each clause is the read after the write of its CSR, own, supervisor's or through the window. -/
theorem csrRules : Obligations.CsrRules := by
  unfold Obligations.CsrRules
  refine ⟨exec_csr_open, fun s h x v _ => ?_⟩
  intro t y csr performed
  have own (n m : Nat) (hn : n < 0x40) (hm : m < 0x40) : csrRead (t n) h m = csrGet h (csrPut false (hart s h) n v) m :=
    csrRead_csrWrite_own s h v hn hm
  have same (n : Nat) (hn : n < 0x40) := own n n hn hn
  refine ⟨hart_csrWrite_readOnly s h v, same 0x05 (by decide), same 0x06 (by decide), same 0x0D (by decide), same 0x0E (by decide),
    same 0x07 (by decide), (same 0x12 (by decide)).trans (atLeast1_low (by decide) v),
    (same 0x13 (by decide)).trans (atLeast1_low (by decide) v), same 0x14 (by decide), fun i j hi hj => ?_, ?_,
    csrRead_csrWrite_tvec s h v, csrWrite_tsrc s h v, csrRead_csrWrite_tskip s h v, fun hl n hn => ?_, fun hl => ?_⟩
  · rw [own _ _ (by omega) (by omega), csrGet_csrPut_xv h _ v hi hj, csrRead_own s h (by omega)]
  · rw [same _ (by decide), csrGet_csrPut_status, csrRead_own s h (by decide)]
  · exact (csrWrite_window s h x v hn).trans (if_neg hl)
  · have window (n : Nat) (hn : n < 0x40) : csrRead (t (csr n)) h (csr n) = csrGet y (csrPut true (hart s y) n v) n :=
      csrRead_csrWrite_window hl v hn
    have before (n : Nat) (hn : n < 0x40) : csrRead s h (csr n) = csrGet y (hart s y) n := csrRead_window s h x hn
    refine ⟨window 0x01 (by decide), window 0x02 (by decide), window 0x03 (by decide), window 0x04 (by decide), ?_,
      window 0x0C (by decide), window 0x0F (by decide), window 0x10 (by decide), window 0x11 (by decide), window 0x15 (by decide),
      ?_, fun k hk => ?_⟩
    · rw [before _ (by decide)]
      exact window 0x05 (by decide)
    · rw [before _ (by decide), ← csrGet_csrPut_status]
      exact window 0x00 (by decide)
    · refine (hart_csrWrite_windowScalar hl v (by omega)).trans ?_
      split
      · subst_vars; rfl
      · rfl

end Sys2Proof.Machine

/-! ## Global scalar memory

What holds of every fold over the state; how GLD, GLD.Q, GST and GAMO issue in a strand and what a GAMO's operation gives (O22); how a
global load of a strand completes (O23).
-/
namespace Sys2Proof.Machine

/-! ### Folds that keep a part of the state -/

/-- What every step of a fold keeps, the fold keeps. -/
theorem foldl_keeps {α β : Type} (p : State → β) {f : State → α → State} (hf : ∀ s a, p (f s a) = p s) (l : List α) (s : State) :
    p (l.foldl f s) = p s := by
  induction l generalizing s with
  | nil => rfl
  | cons a l ih => exact (ih (f s a)).trans (hf s a)

/-! ### Strands -/

theorem ctxNo_strand {h : Nat} (hs : isStrand h = true) : ctxNo h < 4 := by
  simp only [isStrand, Bool.and_eq_true, decide_eq_true_eq] at hs
  exact hs.2

theorem isSup_strand {h : Nat} (hs : isStrand h = true) : isSup h = false := by
  have hc : ctxNo h ≠ 4 := Nat.ne_of_lt (ctxNo_strand hs)
  simp [isSup, hc]

theorem isGuest_strand {h : Nat} (hs : isStrand h = true) : isGuest h = false := by
  have hc : ctxNo h ≠ 5 := Nat.ne_of_lt (Nat.lt_trans (ctxNo_strand hs) (by decide))
  simp [isGuest, hc]

/-- A strand's global accesses are its own (R137, R328). -/
theorem actsFor_strand (s : State) {h : Nat} (hs : isStrand h = true) : actsFor s h = h := by
  simp [actsFor, isSup_strand hs]

/-! ### Issue (R132 to R135, R322) -/

@[simp] theorem bundle_endsHere (s : State) : (endsHere s).bundle = { s.bundle with endsQ := true } := rfl
@[simp] theorem bundle_markDst (s : State) (m : Mark) : (markDst s m).bundle = { s.bundle with marks := s.bundle.marks ++ [m] } := rfl

/-- A load that starts is added to the loads under way, and its destination is marked. -/
theorem startGld_eq (s : State) (q : Option Nat) (size : BitVec 2) (sd base : SReg) (disp : BitVec 32) :
    ∃ g : GLoad, g.dst = sd.toNat ∧ g.addr = (globalAddr (me s) base disp).toNat ∧ g.size = 2 ^ size.toNat ∧ g.q = q ∧
      startGld s q size sd base disp = markDst (modMe s fun c => { c with gloads := c.gloads ++ [g] }) (.scalar sd.toNat) :=
  ⟨_, rfl, rfl, rfl, rfl, rfl⟩

/-- What the start of a load does to its context and its bundle, and that it changes no byte of memory. -/
theorem startGld_spec (s : State) (q : Option Nat) (size : BitVec 2) (sd base : SReg) (disp : BitVec 32) :
    ∃ g : GLoad, (me (startGld s q size sd base disp)).gloads = (me s).gloads ++ [g] ∧ g.dst = sd.toNat ∧
      g.addr = ((me s).s base + disp.signExtend 64).toNat ∧ g.size = 2 ^ size.toNat ∧ g.q = q ∧
      (startGld s q size sd base disp).bundle = { s.bundle with marks := s.bundle.marks ++ [.scalar sd.toNat] } ∧
      (startGld s q size sd base disp).mem = s.mem := by
  obtain ⟨g, hdst, haddr, hsize, hq, he⟩ := startGld_eq s q size sd base disp
  rw [he]
  exact ⟨g, by simp, hdst, haddr, hsize, hq, rfl, rfl⟩

/-- The write unit that a strand adds to its quantum (R322, R328). -/
def strandUnit (s : State) (k : UnitKind) : WUnit :=
  { key := (me s).csr.skey, q := (me s).csr.qnum.toNat, ord := (launch s (me s).who.launch).nextOrd, kind := k }

/-- The state after a write unit of a strand, but for the end of its quantum. -/
def withUnit (s : State) (k : UnitKind) : State :=
  modMe (modLaunch s (me s).who.launch fun x => { x with units := x.units ++ [strandUnit s k], nextOrd := x.nextOrd + 1 })
    fun x => { x with qUnits := x.qUnits + 1 }

/-- A strand's write unit ends its quantum where it is the last that QW admits (R322). -/
theorem addUnit_strand {s : State} (hs : isStrand s.cur = true) (k : UnitKind) :
    addUnit s k = if (me s).qwLim ≤ (me s).qUnits + 1 then endsHere (withUnit s k) else withUnit s k := by
  unfold addUnit
  rw [actsFor_strand s hs]
  exact if_pos hs

@[simp] theorem bundle_withUnit (s : State) (k : UnitKind) : (withUnit s k).bundle = s.bundle := rfl
theorem units_withUnit (s : State) (k : UnitKind) :
    (launch (withUnit s k) (me s).who.launch).units = (launch s (me s).who.launch).units ++ [strandUnit s k] := by
  simp [withUnit]
theorem qUnits_withUnit (s : State) (k : UnitKind) : (me (withUnit s k)).qUnits = (me s).qUnits + 1 := by
  simp [withUnit]

/-- What a strand's write unit does, and that it changes no byte of memory. -/
theorem addUnit_strand_spec {s : State} (hs : isStrand s.cur = true) (k : UnitKind) :
    (addUnit s k).mem = s.mem ∧
    (launch (addUnit s k) (me s).who.launch).units = (launch s (me s).who.launch).units ++ [strandUnit s k] ∧
    (hart (addUnit s k) s.cur).qUnits = (me s).qUnits + 1 ∧
    (addUnit s k).bundle = { s.bundle with endsQ := s.bundle.endsQ || decide ((me s).qwLim ≤ (me s).qUnits + 1) } := by
  rw [addUnit_strand hs]
  by_cases hq : (me s).qwLim ≤ (me s).qUnits + 1
  · rw [if_pos hq]
    exact ⟨rfl, units_withUnit s k, qUnits_withUnit s k, by simp [hq]⟩
  · rw [if_neg hq]
    exact ⟨rfl, units_withUnit s k, qUnits_withUnit s k, by simp [hq]⟩

/-- The sizes of a scalar access are 1, 2, 4 and 8 bytes. -/
theorem accessBits_le (size : BitVec 2) : 8 * 2 ^ size.toNat ≤ 64 := by
  revert size
  decide

theorem exec_gld_open {s : State} (ho : s.slotsOpen) (size : BitVec 2) (sd base : SReg) (d : BitVec 32) :
    exec (.gld size sd base d) s = .next (startGld s none size sd base d) := by
  rw [exec_gld]
  exact issue_open _ _ ho

theorem exec_gldQ_open {s : State} (ho : s.slotsOpen) (size : BitVec 2) (sd base : SReg) (d : BitVec 32) :
    exec (.gldQ size sd base d) s = .next (endsHere (startGld s (some (me s).csr.qnum.toNat) size sd base d)) := by
  rw [exec_gldQ]
  exact issue_open _ _ ho

theorem exec_gst_strand {s : State} (ho : s.slotsOpen) (hs : isStrand s.cur = true) (size : BitVec 2) (sd base : SReg) (d : BitVec 32) :
    exec (.gst size sd base d) s =
      .next (addUnit s (.gst ((me s).s base + d.signExtend 64).toNat (natBytes ((me s).s sd).toNat (2 ^ size.toNat)))) := by
  simp only [exec_gst, execGst, issue_open _ _ ho, isGuest_strand hs, Bool.false_eq_true, if_false]
  rfl

/-- The write unit of a GAMO. -/
def gamoUnit (s : State) (f : AFunc) (size : BitVec 2) (sd base : SReg) (d : BitVec 32) (sv : SReg) : UnitKind :=
  .gamo s.cur sd.toNat ((me s).s base + d.signExtend 64).toNat (2 ^ size.toNat) f (low (8 * 2 ^ size.toNat) ((me s).s sv))
    (low (8 * 2 ^ size.toNat) ((me s).s sd))

theorem exec_gamo_open {s : State} (ho : s.slotsOpen) (f : AFunc) (size : BitVec 2) (sd base : SReg) (d : BitVec 32) (sv : SReg) :
    exec (.gamo f size sd base d sv) s =
      .next (markDst (endsHere (addUnit s (gamoUnit s f size sd base d sv))) (.scalar sd.toNat)) := by
  simp only [exec_gamo, execGamo, issue_open _ _ ho]
  rfl

/-! ### The operation of an atomic (R135) -/

/-- The top bit of a number of `m + 1` bits. -/
theorem testBit_top {m x : Nat} (hx : x < 2 ^ (m + 1)) : x.testBit m = !decide (x < 2 ^ m) := by
  by_cases h : x < 2 ^ m
  · simp [h, Nat.testBit_lt_two_pow h]
  · simp [h, Nat.testBit_of_two_pow_le_and_two_pow_add_one_gt (Nat.not_lt.1 h) hx]

/-- An element of a signed type as a number: its top bit counts negative. -/
theorem intVal_signed {t : EType} {m x : Nat} (hs : t.signed = true) (hb : t.bits = m + 1) (hx : x < 2 ^ (m + 1)) :
    intVal t x = if x < 2 ^ m then (x : Int) else (x : Int) - 2 ^ (m + 1) := by
  by_cases h : x < 2 ^ m <;> simp [intVal, hs, hb, testBit_top hx, h]

/-- The word of an atomic of 4 or 8 bytes as a signed number. -/
theorem intVal_word {n x : Nat} (hn : n = 4 ∨ n = 8) (hx : x < 2 ^ (8 * n)) :
    intVal (if n = 4 then .int32 else .int64) (x % 2 ^ (8 * n)) = if x < 2 ^ (8 * n - 1) then (x : Int) else (x : Int) - 2 ^ (8 * n) := by
  rw [Nat.mod_eq_of_lt hx]
  rcases hn with rfl | rfl
  · exact intVal_signed (m := 31) rfl rfl hx
  · exact intVal_signed (m := 63) rfl rfl hx

/-- The sum of an atomic wraps at the width of its word. -/
theorem amoResult_add {n : Nat} (hn : 8 * n ≤ 64) (old v cmp : Word) :
    (amoResult .add n old v cmp).toNat = (old.toNat + v.toNat) % 2 ^ (8 * n) := by
  rw [amoResult, low_toNat hn, BitVec.toNat_add, Nat.mod_mod_of_dvd _ (Nat.pow_dvd_pow 2 hn)]

/-- Settles O22: at issue by what a started load and an added write unit do, then by the operations of the atomics. -/
theorem globalAccesses : Obligations.GlobalAccesses := by
  unfold Obligations.GlobalAccesses
  refine ⟨fun s size sd base sv d f ho hs => ?_, fun old v cmp n hn hold hv _ => ?_⟩
  · obtain ⟨g, hg⟩ := startGld_spec s none size sd base d
    obtain ⟨gq, hload, hdst, haddr, hsize, hq, hbundle, hmem⟩ := startGld_spec s (some (me s).csr.qnum.toNat) size sd base d
    refine ⟨⟨_, g, exec_gld_open ho size sd base d, hg⟩,
      ⟨_, gq, exec_gldQ_open ho size sd base d, hload, hdst, haddr, hsize, hq, by rw [bundle_endsHere, hbundle], hmem⟩,
      ⟨_, exec_gst_strand ho hs size sd base d, ?_⟩,
      ⟨_, low (8 * 2 ^ size.toNat) ((me s).s sv), low (8 * 2 ^ size.toNat) ((me s).s sd), exec_gamo_open ho f size sd base d sv, ?_⟩⟩
    · obtain ⟨hmem, hunits, hcount, hbundle⟩ := addUnit_strand_spec hs
        (.gst ((me s).s base + d.signExtend 64).toNat (natBytes ((me s).s sd).toNat (2 ^ size.toNat)))
      exact ⟨hmem, hunits, hcount, by rw [hbundle]⟩
    · obtain ⟨hmem, hunits, -, hbundle⟩ := addUnit_strand_spec hs (gamoUnit s f size sd base d sv)
      exact ⟨hmem, hunits, low_toNat (accessBits_le size) _, low_toNat (accessBits_le size) _, rfl, by simp [hbundle]⟩
  · have hn8 : 8 * n ≤ 64 := by omega
    refine ⟨amoResult_add hn8 old v cmp, rfl, rfl, rfl, ?_, ?_, rfl, rfl⟩
    · simp only [amoResult, intVal_word hn hold, intVal_word hn hv]
    · simp only [amoResult, intVal_word hn hold, intVal_word hn hv]

/-! ### An access where a sequencer runs (R375) -/

/-- A channel whose sequencer runs, not suspended, and has granted the access nothing. -/
structure Drone.Holds (k : Drone) (a : Access) : Prop where
  runs : ∃ r, k.seqr = some r ∧ r.finished = false ∧ r.suspended = false
  ungranted : k.granted.contains a = false

/-- Waiting accesses stand in the order of arrival, each once. -/
def Access.enqueue (a : Access) (l : List Access) : List Access := if l.contains a then l else l ++ [a]

theorem Access.enqueue_enqueue (a : Access) (l : List Access) : a.enqueue (a.enqueue l) = a.enqueue l := by
  unfold Access.enqueue
  split <;> simp_all

theorem Drone.Holds.passes {k : Drone} {a : Access} (h : k.Holds a) : k.passes a = false := by
  obtain ⟨r, hr, hf, -⟩ := h.runs
  rw [Drone.passes, h.ungranted]
  simp [Drone.sequencing, hr, hf]

/-- A run counts its column commands from the first access on that it sees waiting. -/
def SeqRun.counting (r : SeqRun) : SeqRun := if !r.suspended && r.cols.isNone then { r with cols := some 0 } else r

theorem SeqRun.finished_counting (r : SeqRun) : (SeqRun.counting r).finished = r.finished := by unfold SeqRun.counting; split <;> rfl
theorem SeqRun.suspended_counting (r : SeqRun) : (SeqRun.counting r).suspended = r.suspended := by unfold SeqRun.counting; split <;> rfl

/-- An access that comes to a held channel waits there, and the channel stays held. -/
theorem seekAt_held {s : State} {d : Nat} {a : Access} (h : (drone s d).Holds a) (ha : a ≠ .other) :
    (drone (seekAt a s d) d).Holds a ∧ (drone (seekAt a s d) d).ordinary = a.enqueue (drone s d).ordinary := by
  obtain ⟨r, hr, hf, hs⟩ := h.runs
  by_cases hc : a ∈ (drone s d).ordinary
  · have he : seekAt a s d = s := by simp [seekAt, h.passes, hr, hs, ha, hc]
    rw [he]
    exact ⟨h, by simp [Access.enqueue, hc]⟩
  · have he : seekAt a s d = modDrone s d fun k => { k with ordinary := k.ordinary ++ [a], seqr := k.seqr.map SeqRun.counting } := by
      have hany : ((drone s d).seqr.any fun r => r.suspended) = false := by simp [hr, hs]
      have hnot : (drone s d).ordinary.contains a = false := by simpa using hc
      simp only [seekAt, h.passes, hany, hnot, Bool.false_and, Bool.and_false, Bool.false_eq_true, if_false]
      rfl
    rw [he, drone_modDrone_self]
    exact ⟨⟨⟨_, congrArg (Option.map SeqRun.counting) hr, (SeqRun.finished_counting r).trans hf,
      (SeqRun.suspended_counting r).trans hs⟩, h.ungranted⟩, by simp [Access.enqueue, hc]⟩

/-- An access that seeks its turn at one channel changes no other. -/
theorem drone_seekAt_ne (a : Access) (s : State) {d e : Nat} (h : d ≠ e) : drone (seekAt a s e) d = drone s d := by
  simp only [seekAt]
  split
  · rfl
  · split
    · exact drone_modDrone_ne _ _ _ _ h
    · split
      · rfl
      · exact drone_modDrone_ne _ _ _ _ h

/-- An access that seeks its turn changes drones alone. -/
theorem seekAt_keeps {β : Type} (p : State → β) (hp : ∀ s d f, p (modDrone s d f) = p s) (a : Access) (s : State) (d : Nat) :
    p (seekAt a s d) = p s := by
  simp only [seekAt]
  split
  · rfl
  · split
    · exact hp _ _ _
    · split
      · rfl
      · exact hp _ _ _

/-- Seeking its turn at several channels, an access waits at a held one of them. -/
theorem foldl_seekAt_held {d : Nat} {a : Access} (ha : a ≠ .other) (ds : List Nat) {s : State} (h : (drone s d).Holds a) :
    (drone (ds.foldl (seekAt a) s) d).Holds a ∧
    (drone (ds.foldl (seekAt a) s) d).ordinary = if d ∈ ds then a.enqueue (drone s d).ordinary else (drone s d).ordinary := by
  induction ds generalizing s with
  | nil => exact ⟨h, rfl⟩
  | cons e ds ih =>
    by_cases he : d = e
    · subst he
      obtain ⟨h1, ho1⟩ := seekAt_held h ha
      obtain ⟨h2, ho2⟩ := ih h1
      refine ⟨h2, ho2.trans ?_⟩
      simp [ho1, Access.enqueue_enqueue]
    · have hd := drone_seekAt_ne a s he
      obtain ⟨h2, ho2⟩ := ih (s := seekAt a s e) (hd ▸ h)
      refine ⟨h2, ho2.trans ?_⟩
      simp [hd, he]

/-- An access one of whose channels is held does not take place. -/
theorem ordinaryAccess_held {s : State} {d : Nat} {a : Access} (ha : a ≠ .other) {ds : List Nat} (hd : d ∈ ds)
    (h : (drone s d).Holds a) (f : State → State) : ordinaryAccess s ds a f = ds.foldl (seekAt a) s := by
  have hno : (ds.all fun e => (drone (ds.foldl (seekAt a) s) e).passes a) = false := by
    simp only [List.all_eq_false, Bool.not_eq_true]
    exact ⟨d, hd, (foldl_seekAt_held ha ds h).1.passes⟩
  simp [ordinaryAccess, seekAll, hno]

/-! ### The completion of a load (R132, R133, R136) -/

/-- A step without a write has rewritten no line. -/
theorem viewBad_empty (i : Image) (va n : Nat) : viewBad i StepView.empty va n = vbad i va n := by
  have hr : ∀ k, StepView.empty.rewrites k = false := fun k => rfl
  simp [viewBad, hr]

/-- The word of a strand's load from a plain page without errors, nothing of its own to forward. -/
theorem gloadResult_plain {s : State} {h : Nat} {g : GLoad} {b : Nat} {p : Page} (hg : isGuest h = false)
    (hp : findPage (gloadImage s g).pages g.addr = some (b, p)) (hr : p.rep = 0) (hb : vbad (gloadImage s g) g.addr g.size = false)
    (hf : ∀ k, forwarded s g k = none) :
    gloadResult s h g =
      (BitVec.ofNat 64 (leNat ((List.range g.size).map fun k => (vbyte (gloadImage s g) (g.addr + k)).getD 0)), none) := by
  simp [gloadResult, hp, hr, hg, viewBad_empty, hb, hf, readerOf]

/-- A load that has its word fills its scalar and is over. -/
theorem finishGload_word {s : State} {h : Nat} {g : GLoad} {v : Word} (hr : gloadResult s h g = (v, none)) :
    hart (finishGload s h 0 g) h = ({ hart s h with gloads := dropNth (hart s h).gloads 0 } : Ctx).fillScalar g.dst v ∧
    (finishGload s h 0 g).mem = s.mem := by
  simp [finishGload, hr]

/-- The oldest load of a context, once it may read, goes to its channels. -/
theorem exec_oldestGload {s : State} {h : Nat} {g : GLoad} {gs : List GLoad} (hg : (hart s h).gloads = g :: gs) :
    exec (.globalLoadComplete h 0) s = if gloadReady s g then
      .next (ordinaryAccess s (channelsOf { s with pages := (gloadImage s g).pages } g.addr g.size) (.gld h g.dst) fun s => finishGload s h 0 g)
    else .next s := by
  simp only [exec_globalLoadComplete, execGlobalLoadComplete, hg, List.drop_zero]

/-- A GLD.Q waits for the commit of the quantum before its own (R133). -/
theorem gloadReady_early {s : State} {g : GLoad} {q : Nat} (hq : g.q = some q) (h : (launch s g.launch).committed + 1 < q) :
    gloadReady s g = false := by
  simp [gloadReady, hq, h]

/-- Settles O23: on free channels the load finishes, at a held channel it waits, and before its quantum's turn it stays. -/
theorem globalLoadCompletes : Obligations.GlobalLoadCompletes := by
  unfold Obligations.GlobalLoadCompletes
  intro s h g gs b p hs hg hp hrep hbad hfwd
  refine ⟨fun hready hfree => ?_, fun hready d r hd => ?_, fun q hq hlt => ?_⟩
  · have hword := gloadResult_plain (isGuest_strand hs) hp hrep hbad hfwd
    obtain ⟨hhart, hmem⟩ := finishGload_word hword
    refine ⟨finishGload s h 0 g, _, ?_, ?_, hmem, rfl⟩
    · rw [exec_oldestGload hg, if_pos hready, ordinaryAccess_free hfree]
    · rw [hhart, hg]
      rfl
  · intro k x hr hfin hsus hgrant
    have hx : x ≠ .other := nofun
    have hheld : (drone s d).Holds x := ⟨⟨r, hr, hfin, hsus⟩, hgrant⟩
    refine ⟨_, ?_, foldl_keeps State.harts (seekAt_keeps State.harts (fun _ _ _ => rfl) x) _ s,
      foldl_keeps State.mem (seekAt_keeps State.mem (fun _ _ _ => rfl) x) _ s,
      (foldl_seekAt_held hx _ hheld).2.trans (if_pos hd)⟩
    rw [exec_oldestGload hg, if_pos hready, ordinaryAccess_held hx hd hheld]
  · rw [exec_oldestGload hg, gloadReady_early hq hlt]
    rfl

end Sys2Proof.Machine

/-! ## The host's registers, boot, reset and heat

What a boot leaves of the state, what the end of a launch and a thermal trip keep, how a refused module answers, and O59 from it.
-/
namespace Sys2Proof.Machine

/-! ### What lasts -/

/-- What outlasts the end of a launch, the firmware's self-tests and a thermal trip: DRAM, the module's number and its route table, and
whether its boot was refused. -/
def lastingPart (s : State) : List Host.Cell × Nat × Word × Bool := (s.mem, s.host.modno, s.host.route, s.host.refused)

theorem lastingPart_ext {s t : State} (h : lastingPart t = lastingPart s) :
    t.mem = s.mem ∧ t.host.modno = s.host.modno ∧ t.host.route = s.host.route ∧ t.host.refused = s.host.refused := by
  simpa [lastingPart] using h

theorem lastingPart_logEv (s : State) (src : Nat) (c : EvCode) (d : List Word) : lastingPart (logEv s src c d) = lastingPart s := rfl

/-! ### Units that a self-test retires (R398, R399) -/

theorem lastingPart_unstage (s : State) (c : Nat) : lastingPart (unstage s c) = lastingPart s := by
  refine foldl_keeps lastingPart (fun s e => foldl_keeps lastingPart (fun s n => ?_) _ s) _ s
  split
  · split <;> rfl
  · rfl

theorem lastingPart_fenceCore (s : State) (who c : Nat) : lastingPart (fenceCore s who c) = lastingPart s :=
  lastingPart_unstage _ c

theorem lastingPart_setLink (s : State) (n : Nat) (k : Link) : lastingPart (setLink s n k) = lastingPart s := by
  unfold setLink
  split <;> rfl

theorem lastingPart_retireLane (s : State) (who link lane : Nat) : lastingPart (retireLane s who link lane) = lastingPart s := by
  unfold retireLane
  split
  · exact lastingPart_setLink s link _
  · rfl

theorem lastingPart_retireUnit (s : State) (who src : Nat) : lastingPart (retireUnit s who src) = lastingPart s := by
  unfold retireUnit
  dsimp only
  split
  · exact lastingPart_fenceCore _ who _
  · exact lastingPart_fenceCore _ who _
  · exact lastingPart_retireLane _ who _ _
  · rfl
  · rfl

theorem lastingPart_spareRow (s : State) (who row : Nat) : lastingPart (spareRow s who row) = lastingPart s := rfl

/-- A full self-test retires units and rows, and keeps what lasts. -/
theorem lastingPart_testUnits (s : State) (src : Word) : lastingPart (testUnits s src).1 = lastingPart s := by
  unfold testUnits
  dsimp only
  rw [foldl_keeps lastingPart fun s r => lastingPart_spareRow s _ r, foldl_keeps lastingPart fun s u => lastingPart_retireUnit s _ u,
    foldl_keeps lastingPart fun s u => lastingPart_logEv s _ _ _]

/-! ### Boot (R393) -/

/-- The registers of BAR 0 but DEVSTATE, as the host interface holds them. -/
def barPart (h : HostIf) : (Word × Word × Nat) × Word × Word × Nat × Nat × Nat :=
  ((h.ringBase, h.ringSize, h.head), h.evtBase, h.evtSize, h.evtTail, h.evtHead, h.evtDrop)

/-- What a boot settles before the module is in service or refused: launches, pages, contexts, DRAM, the registers of BAR 0, the module's
number and its routes. -/
def bootPart (s : State) :=
  (s.launches, s.pages, s.harts, s.mem, barPart s.host, s.host.modno, s.host.route)

theorem bootPart_keepRetired (s : State) (src : Nat) : bootPart (keepRetired s src) = bootPart s := by
  unfold keepRetired
  split
  · rfl
  · rfl
  · unfold setLink
    split <;> rfl
  · rfl

theorem bootPart_modCore (s : State) (c : Nat) (f : Core → Core) : bootPart (modCore s c f) = bootPart s := rfl

theorem bootPart_deviceReset (s : State) :
    bootPart (deviceReset s) = ([], [], [], s.mem, barPart HostIf.reset, s.host.modno, s.host.route) := by
  unfold deviceReset
  rw [foldl_keeps bootPart bootPart_keepRetired, foldl_keeps bootPart fun s c => bootPart_modCore s c _]
  rfl

theorem bootPart_droneLib (s : State) (lib : List Byte) : bootPart { s with host := { s.host with droneLib := lib } } = bootPart s := rfl

theorem bootPart_modMx (s : State) (c : Nat) (f : MatrixUnit → MatrixUnit) : bootPart (modMx s c f) = bootPart s := rfl

theorem bootPart_loadLibraries (s : State) (lib : List Byte) : bootPart (loadLibraries s lib) = bootPart s := by
  unfold loadLibraries
  rw [bootPart_droneLib, foldl_keeps bootPart fun s c => bootPart_modMx s c _]

/-- The measurements and the verdict of a boot show in DEVSTATE alone. -/
theorem bootPart_verdict (s : State) (m0 m1 m2 : BitVec 256) (refused : Bool) (devState : Nat) :
    bootPart { s with host := { s.host with m0 := m0, m1 := m1, m2 := m2, refused := refused, devState := devState } } = bootPart s := rfl

/-- A boot ends what ran and resets the registers; DRAM, the module's number and its routes stay (R393). -/
theorem bootPart_boot (s : State) (p1 p2 : Word) :
    bootPart (boot s p1 p2) = ([], [], [], s.mem, barPart HostIf.reset, s.host.modno, s.host.route) := by
  obtain ⟨hmem, hmodno, hroute, -⟩ := lastingPart_ext (lastingPart_testUnits s (BitVec.allOnes 64))
  have htested := bootPart_deviceReset (testUnits s (BitVec.allOnes 64)).1
  rw [hmem, hmodno, hroute] at htested
  rw [← htested]
  unfold boot
  rw [bootPart_verdict]
  split
  · exact bootPart_loadLibraries _ _
  · rfl

/-- A module comes out of its boot in service, or refused where a package's signature is bad (R393). -/
theorem boot_verdict (s : State) (p1 p2 : Word) :
    ∃ good : Bool, (boot s p1 p2).host.devState = (if good then 1 else 3) ∧ (boot s p1 p2).host.refused = !good :=
  ⟨_, rfl, rfl⟩

/-- A module as a boot leaves it: no launch, in service or refused, every register of BAR 0 but DEVSTATE at its reset value (R390). -/
def Booted (t : State) : Prop :=
  t.launches = [] ∧ t.pages = [] ∧ t.harts = [] ∧ (t.host.devState = 1 ∨ t.host.devState = 3) ∧
    t.host.refused = decide (t.host.devState = 3) ∧
    barRead t 0x008 = 4 ∧ barRead t 0x028 = 10 ∧ ∀ off ∈ [0x000, 0x010, 0x018, 0x020, 0x030, 0x038, 0x040], barRead t off = 0

/-- What the host reads where the registers have their reset values. -/
theorem barRead_reset {t : State} (h : barPart t.host = barPart HostIf.reset) :
    barRead t 0x008 = 4 ∧ barRead t 0x028 = 10 ∧ ∀ off ∈ [0x000, 0x010, 0x018, 0x020, 0x030, 0x038, 0x040], barRead t off = 0 := by
  simp only [barPart, HostIf.reset, Prod.mk.injEq] at h
  obtain ⟨⟨hringBase, hringSize, hhead⟩, hevtBase, hevtSize, hevtTail, hevtHead, hevtDrop⟩ := h
  simp [barRead, hringBase, hringSize, hhead, hevtBase, hevtSize, hevtTail, hevtHead, hevtDrop]

/-- What a boot brings about and what it keeps. -/
theorem boot_spec (s : State) (p1 p2 : Word) : Booted (boot s p1 p2) ∧ (boot s p1 p2).mem = s.mem ∧
    (boot s p1 p2).host.modno = s.host.modno ∧ (boot s p1 p2).host.route = s.host.route := by
  have h := bootPart_boot s p1 p2
  simp only [bootPart, Prod.mk.injEq] at h
  obtain ⟨hlaunches, hpages, hharts, hmem, hbar, hmodno, hroute⟩ := h
  obtain ⟨good, hdev, href⟩ := boot_verdict s p1 p2
  refine ⟨⟨hlaunches, hpages, hharts, ?_, ?_, barRead_reset hbar⟩, hmem, hmodno, hroute⟩
  · cases good <;> simp [hdev]
  · cases good <;> simp [hdev, href]

/-! ### The end of launches (R312, R400) -/

theorem launches_logEv (s : State) (src : Nat) (c : EvCode) (d : List Word) : (logEv s src c d).launches = s.launches := rfl

/-- Abandoned promotions count on their dies alone (R334). -/
theorem abandonCopied_keeps {β : Type} (p : State → β) (hdie : ∀ s d k, p (setDie s d k) = p s)
    (hpromos : ∀ (s : State) l, p { s with promos := l } = p s) (s : State) (l : Nat) : p (abandonCopied s l) = p s := by
  unfold abandonCopied
  dsimp only
  rw [hpromos, foldl_keeps p (f := abandon) fun s x => hdie s _ _]

theorem lastingPart_endLaunch (s : State) (l : Nat) (st : EndSt) : lastingPart (endLaunch s l st) = lastingPart s := by
  unfold endLaunch
  dsimp only
  split
  · rw [lastingPart_logEv, abandonCopied_keeps lastingPart (fun _ _ _ => rfl) (fun _ _ => rfl)]
    rfl
  · rfl

/-- A running launch takes its end, and no other launch changes. -/
theorem launch_endLaunch (s : State) (l m : Nat) (st : EndSt) : (launch (endLaunch s l st) m).ended =
    if m = l ∧ (launch s l).running then some st else (launch s m).ended := by
  unfold endLaunch
  dsimp only
  split
  · rename_i hr
    rw [launch, launches_logEv, abandonCopied_keeps State.launches (fun _ _ _ => rfl) (fun _ _ => rfl)]
    simp only [modLaunch, setLaunch, tget_tset, hr, and_true]
    split <;> rfl
  · rename_i hr
    simp [hr]

/-- Launches told to end one after another have ended, and ended launches stay so. -/
theorem foldl_endLaunch_ended (ls : List (Nat × Launch)) (st : EndSt) (s : State) (m : Nat)
    (h : (launch s m).ended ≠ none ∨ m ∈ ls.map (·.1)) :
    (launch (ls.foldl (fun s x => endLaunch s x.1 st) s) m).ended ≠ none := by
  induction ls generalizing s with
  | nil => simpa using h
  | cons x ls ih =>
    refine ih _ ?_
    rw [launch_endLaunch]
    by_cases hr : m = x.1 ∧ (launch s x.1).running = true
    · simp [hr]
    · rw [if_neg hr]
      rcases h with h | h
      · exact .inl h
      · rcases List.mem_cons.1 h with rfl | h
        · refine .inl fun hn => hr ⟨rfl, ?_⟩
          simp [Launch.running, hn]
        · exact .inr h

/-- Every launch that runs is in the table, and `endAll` ends it. -/
theorem endAll_ended (s : State) (st : EndSt) (m : Nat) : (launch (endAll s st) m).ended ≠ none := by
  refine foldl_endLaunch_ended _ st s m ?_
  by_cases hr : (launch s m).running = true
  · rcases tget_mem Launch.none s.launches m with hm | hm
    · exact .inr (List.mem_map.2 ⟨_, List.mem_filter.2 ⟨hm, hr⟩, rfl⟩)
    · have : launch s m = Launch.none := hm
      simp [this, Launch.running, Launch.none] at hr
  · exact .inl fun hn => hr (by simp [Launch.running, hn])

theorem lastingPart_endAll (s : State) (st : EndSt) : lastingPart (endAll s st) = lastingPart s := by
  unfold endAll
  exact foldl_keeps lastingPart (fun s (x : Nat × Launch) => lastingPart_endLaunch s x.1 st) _ s

/-- What the dropping of commit steps and the stop of the sequencers keep. -/
theorem stopAll_keeps {β : Type} (p : State → β) (hstep : ∀ s l, p (modLaunch s l fun x => { x with commit := none }) = p s)
    (hdrone : ∀ s d f, p (modDrone s d f) = p s) (s : State) : p (stopAll s) = p s := by
  unfold stopAll
  dsimp only
  rw [foldl_keeps p fun s e => hdrone s _ _, foldl_keeps p fun s e => ?_]
  split
  · exact hstep s _
  · rfl

theorem ended_stopAll (s : State) (m : Nat) : (launch (stopAll s) m).ended = (launch s m).ended := by
  refine stopAll_keeps (fun s => (launch s m).ended) (fun s l => ?_) (fun _ _ _ => rfl) s
  rw [launch_modLaunch]
  split
  · subst_vars; rfl
  · rfl

/-- A thermal trip takes the module out of service with every launch ended (R400). -/
theorem exec_thermalTrip_spec (s : State) : ∃ t, exec .thermalTrip s = .next t ∧ t.host.devState = 2 ∧
    t.host.refused = s.host.refused ∧ (∀ l, (launch t l).ended ≠ none) ∧ t.mem = s.mem := by
  have hkept : lastingPart (stopAll (endAll s .thermal)) = lastingPart s := by
    rw [stopAll_keeps lastingPart (fun _ _ => rfl) (fun _ _ _ => rfl), lastingPart_endAll]
  obtain ⟨hmem, -, -, hrefused⟩ := lastingPart_ext hkept
  refine ⟨_, exec_thermalTrip s, rfl, hrefused, fun l => ?_, hmem⟩
  exact (ended_stopAll (endAll s .thermal) l).trans_ne (endAll_ended s .thermal l)

/-! ### The clock of a die (R400) -/

theorem exec_thermalLimit_die (s : State) {d : Nat} (hot : Bool) (hd : d < 5) : ∃ t, exec (.thermalLimit d hot) s = .next t ∧
    (die t d).clock = (if hot then max 350 ((die s d).clock - 50) else min 700 ((die s d).clock + 50)) ∧ (die t d).hot = hot := by
  have h5 : ¬ 5 ≤ d := Nat.not_le.2 hd
  refine ⟨_, by rw [exec_thermalLimit, execThermalLimit, if_neg h5], ?_⟩
  have hdie : ∀ (t : State) src c w, die (logEv t src c w) d = die t d := fun _ _ _ _ => rfl
  simp [hdie]

/-! ### BAR 0 and the commands (R390, R392, R393) -/

/-- A write to a read-only register, or to no register, has no effect. -/
theorem exec_registerWrite_other (s : State) (w : Word) {off : Nat} (h : off ∉ [0x000, 0x008, 0x010, 0x020, 0x028, 0x038]) :
    exec (.registerWrite off w) s = .next { s with host := s.host } := by
  simp only [List.mem_cons, List.not_mem_nil, or_false, not_or] at h
  obtain ⟨h0, h1, h2, h3, h4, h5⟩ := h
  rw [exec_registerWrite]
  unfold execRegisterWrite
  dsimp only
  split
  · contradiction
  · contradiction
  · contradiction
  · contradiction
  · contradiction
  · contradiction
  · rfl

theorem mem_answer (s : State) (a : Ans) : (answer s a).mem = s.mem := by
  unfold answer
  split <;> rfl

theorem command_refused {s : State} (h : s.host.refused = true) (f : State → Option (State × Ans)) :
    command s f = .next (answer s (3, 0)) := by
  simp [command, h, ansRefused]

theorem commandVia_refused {s : State} (h : s.host.refused = true) (ds : List Nat) (f : State → Option (State × Ans)) :
    commandVia s ds f = .next (answer s (3, 0)) := by
  simp [commandVia, h, command_refused h]

theorem execLaunch_refused {s : State} (h : s.host.refused = true) (packet : Word) : execLaunch packet s = .next (answer s (3, 0)) := by
  unfold execLaunch
  split
  · exact command_refused h _
  · exact commandVia_refused h _ _

theorem execHostcopy_refused {s : State} (h : s.host.refused = true) (ha va len dir : Word) :
    execHostcopy ha va len dir s = .next (answer s (3, 0)) := by
  rw [execHostcopy, if_pos h]
  rfl

theorem execTierset_refused {s : State} (h : s.host.refused = true) (va frame : Word) :
    execTierset va frame s = .next (answer s (3, 0)) := by
  unfold execTierset
  exact commandVia_refused h _ _

theorem execCheckpoint_refused {s : State} (h : s.host.refused = true) (ha len : Word) :
    execCheckpoint ha len s = .next (answer s (3, 0)) := by
  unfold execCheckpoint
  exact commandVia_refused h _ _

theorem execRestore_refused {s : State} (h : s.host.refused = true) (ha len : Word) :
    execRestore ha len s = .next (answer s (3, 0)) := by
  unfold execRestore
  exact commandVia_refused h _ _

/-- A module that its boot refused refuses every command but RESET and ATTEST (R393). -/
theorem exec_hostCommand_refused {s : State} (h : s.host.refused = true) (i : Instr) (hi : hostCommand i = true) :
    (∃ modno route p1 p2, i = .reset modno route p1 p2) ∨ (∃ nonce report, i = .attest nonce report) ∨
      exec i s = .next (answer s (3, 0)) := by
  cases i with
  | reset modno route p1 p2 => exact .inl ⟨modno, route, p1, p2, rfl⟩
  | attest nonce report => exact .inr (.inl ⟨nonce, report, rfl⟩)
  | launch packet => exact .inr (.inr ((exec_launch packet s).trans (execLaunch_refused h packet)))
  | map va w0 w1 attr => exact .inr (.inr ((exec_map va w0 w1 attr s).trans (command_refused h _)))
  | unmap va => exact .inr (.inr ((exec_unmap va s).trans (command_refused h _)))
  | hostcopy ha va len dir => exact .inr (.inr ((exec_hostcopy ha va len dir s).trans (execHostcopy_refused h ha va len dir)))
  | asfortMpload rtn ha => exact .inr (.inr ((exec_asfortMpload rtn ha s).trans (command_refused h _)))
  | region ha => exact .inr (.inr ((exec_region ha s).trans (commandVia_refused h _ _)))
  | regionDelete ha => exact .inr (.inr ((exec_regionDelete ha s).trans (command_refused h _)))
  | tierset va frame => exact .inr (.inr ((exec_tierset va frame s).trans (execTierset_refused h va frame)))
  | checkpoint ha len => exact .inr (.inr ((exec_checkpoint ha len s).trans (execCheckpoint_refused h ha len)))
  | restore ha len => exact .inr (.inr ((exec_restore ha len s).trans (execRestore_refused h ha len)))
  | monitorArm src quantity w origin => exact .inr (.inr ((exec_monitorArm src quantity w origin s).trans (command_refused h _)))
  | monitorRead src ha => exact .inr (.inr ((exec_monitorRead src ha s).trans (command_refused h _)))
  | monitorClear src => exact .inr (.inr ((exec_monitorClear src s).trans (command_refused h _)))
  | selftest src => exact .inr (.inr ((exec_selftest src s).trans (command_refused h _)))
  | _ => exact Bool.noConfusion hi

/-- After a trip LAUNCH is refused with every bit of RESULT set. -/
theorem exec_launch_tripped {s : State} (hr : s.host.refused = false) (hd : s.host.devState = 2) (w : Word) :
    exec (.launch w) s = .next (answer s (3, 0xFFFFFFFF)) := by
  simp [execLaunch, hd, command, hr, ansRefused]

/-- RESET ends what runs, answers, takes the number and the routes, and boots (R393). -/
theorem exec_reset_spec (s : State) {modno : Word} (route p1 p2 : Word) (h : modno.toNat < 16) :
    ∃ t, exec (.reset modno route p1 p2) s = .next t ∧ Booted t ∧ t.mem = s.mem ∧ t.host.modno = modno.toNat ∧ t.host.route = route := by
  have hlt : ¬ 16 ≤ modno.toNat := Nat.not_le.2 h
  refine ⟨_, by rw [exec_reset, execReset, if_neg hlt], ?_⟩
  obtain ⟨hboot, hmem, hmodno, hroute⟩ := boot_spec _ p1 p2
  refine ⟨hboot, hmem.trans ((mem_answer _ _).trans ?_), hmodno, hroute⟩
  exact (lastingPart_ext (lastingPart_endAll s .reset)).1

theorem exec_reset_illegal (s : State) {modno : Word} (route p1 p2 : Word) (h : 16 ≤ modno.toNat) :
    exec (.reset modno route p1 p2) s = .next (answer s (1, 0)) := by
  rw [exec_reset, execReset, if_pos h]
  rfl

theorem exec_powerOn_spec (s : State) : ∃ t, exec .powerOn s = .next t ∧ Booted t ∧ t.mem = s.mem := by
  obtain ⟨hboot, hmem, -, -⟩ := boot_spec s Config.bootPackages.1 Config.bootPackages.2
  exact ⟨_, exec_powerOn s, hboot, hmem⟩

/-- Settles O59: the registers by their writes, a boot by what it settles and keeps, a refused module by its commands, then heat. -/
theorem hostAndBoot : Obligations.HostAndBoot := by
  unfold Obligations.HostAndBoot
  intro s v w modno route p1 p2 d k writes fresh
  refine ⟨rfl, rfl, rfl, rfl, rfl, rfl, rfl, fun off hoff => exec_registerWrite_other s w hoff, rfl, exec_powerOn_spec s,
    exec_reset_spec s route p1 p2, exec_reset_illegal s route p1 p2, fun i hi hr => ?_,
    fun hr hd => exec_launch_tripped hr hd w, exec_thermalLimit_die s true, exec_thermalLimit_die s false, exec_thermalTrip_spec s⟩
  rcases exec_hostCommand_refused hr i hi with ⟨_, _, _, _, rfl⟩ | ⟨_, _, rfl⟩ | he
  · trivial
  · trivial
  · split
    · trivial
    · trivial
    · exact he

end Sys2Proof.Machine

/-! ## The round trip of the encoder and the decoder

The fields of every format, the codes and forms read back, then every family of instructions by its layout, and O2 from it.
-/
namespace Sys2Proof

/-! ### Bits of words that are put together from fields -/

/-- The bits above the last part of a concatenation. -/
theorem extract_append_high {v w : Nat} (x : BitVec v) (y : BitVec w) {lo k : Nat} (h : w ≤ lo) :
    @BitVec.extractLsb' (no_index (v + w)) lo k (no_index (x ++ y)) = x.extractLsb' (lo - w) k :=
  BitVec.extractLsb'_append_eq_of_le h

/-- The bits of the last part of a concatenation. -/
theorem extract_append_low {v w : Nat} (x : BitVec v) (y : BitVec w) {lo k : Nat} (h : lo + k ≤ w) :
    @BitVec.extractLsb' (no_index (v + w)) lo k (no_index (x ++ y)) = y.extractLsb' lo k :=
  BitVec.extractLsb'_append_eq_of_add_le h

/-- A bit above the last part of a concatenation. -/
theorem getLsbD_append_high {v w : Nat} (x : BitVec v) (y : BitVec w) {i : Nat} (h : w ≤ i) :
    @BitVec.getLsbD (no_index (v + w)) (no_index (x ++ y)) i = x.getLsbD (i - w) := by
  rw [BitVec.getLsbD_append, if_neg (by omega)]

/-- A bit of the last part of a concatenation. -/
theorem getLsbD_append_low {v w : Nat} (x : BitVec v) (y : BitVec w) {i : Nat} (h : i < w) :
    @BitVec.getLsbD (no_index (v + w)) (no_index (x ++ y)) i = y.getLsbD i := by
  rw [BitVec.getLsbD_append, if_pos h]

theorem getElem_append_high {v w : Nat} (x : BitVec v) (y : BitVec w) {i : Nat} (h : w ≤ i) (hi : i < v + w) :
    @GetElem.getElem (BitVec (no_index (v + w))) Nat Bool (no_index fun _ i => i < _) _ (no_index (x ++ y)) i hi =
      x[i - w] := by
  simp [BitVec.getElem_append, Nat.not_lt.mpr h]

theorem getElem_append_low {v w : Nat} (x : BitVec v) (y : BitVec w) {i : Nat} (h : i < w) (hi : i < v + w) :
    @GetElem.getElem (BitVec (no_index (v + w))) Nat Bool (no_index fun _ i => i < _) _ (no_index (x ++ y)) i hi = y[i] := by
  simp [BitVec.getElem_append, h]

/-- The last part of a concatenation, cut off. -/
theorem setWidth_append_low {v w : Nat} (x : BitVec v) (y : BitVec w) {k : Nat} (h : k ≤ w) :
    @BitVec.setWidth (no_index (v + w)) k (no_index (x ++ y)) = y.setWidth k := by
  refine BitVec.eq_of_getLsbD_eq fun i hi => ?_
  simp [BitVec.getLsbD_setWidth, getLsbD_append_low x y (Nat.lt_of_lt_of_le hi h)]

/-- The low bits of a concatenation, where they reach beyond its last part. -/
theorem extract_append_across {v w : Nat} (x : BitVec v) (y : BitVec w) (k : Nat) :
    (x ++ y).extractLsb' 0 (k + w) = x.extractLsb' 0 k ++ y := by
  refine BitVec.eq_of_getLsbD_eq fun i hi => ?_
  simp only [BitVec.getLsbD_extractLsb', BitVec.getLsbD_append, hi]
  by_cases h : i < w
  · simp [h]
  · have : i - w < k := by omega
    simp [h, this]

/-! ### The fields of each format -/

@[simp] theorem fld_encSR (op : BitVec 8) (sd sa sb sc : BitVec 5) (fn : BitVec 4) : let w := encSR op sd sa sb sc fn
    fld w 56 8 = op ∧ fld w 51 5 = sd ∧ fld w 46 5 = sa ∧ fld w 41 5 = sb ∧ fld w 36 5 = sc ∧ fld w 32 4 = fn ∧ fld w 0 32 = 0 := by
  simp [fld, encSR, extract_append_high, extract_append_low]

@[simp] theorem fld_encSI (op : BitVec 8) (sd sa : BitVec 5) (imm : BitVec 32) : let w := encSI op sd sa imm
    fld w 56 8 = op ∧ fld w 51 5 = sd ∧ fld w 46 5 = sa ∧ fld w 14 32 = imm ∧ fld w 0 14 = 0 ∧ fld w 14 4 = imm.extractLsb' 0 4 ∧
    fld w 18 28 = imm.extractLsb' 4 28 := by
  simp [fld, encSI, extract_append_high, extract_append_low]

@[simp] theorem fld_encSB (op : BitVec 8) (f1 f2 : BitVec 5) (disp : BitVec 32) (cc : BitVec 4) : let w := encSB op f1 f2 disp cc
    fld w 56 8 = op ∧ fld w 51 5 = f1 ∧ fld w 46 5 = f2 ∧ fld w 14 32 = disp ∧ fld w 10 4 = cc ∧ fld w 0 10 = 0 := by
  simp [fld, encSB, extract_append_high, extract_append_low]

@[simp] theorem fld_encSL (op : BitVec 8) (sa : BitVec 5) (count : BitVec 16) (last : BitVec 21) : let w := encSL op sa count last
    fld w 56 8 = op ∧ fld w 51 5 = sa ∧ fld w 35 16 = count ∧ fld w 14 21 = last ∧ fld w 0 14 = 0 := by
  simp [fld, encSL, extract_append_high, extract_append_low]

@[simp] theorem fld_encSM (op : BitVec 8) (sd base : BitVec 5) (disp : BitVec 32) (size : BitVec 2) (q : BitVec 1) (f : BitVec 4)
    (sv : BitVec 5) : let w := encSM op sd base disp size q f sv
    fld w 56 8 = op ∧ fld w 51 5 = sd ∧ fld w 46 5 = base ∧ fld w 14 32 = disp ∧ fld w 12 2 = size ∧ fld w 11 1 = q ∧
    fld w 7 4 = f ∧ fld w 2 5 = sv ∧ fld w 0 2 = 0 := by
  simp [fld, encSM, extract_append_high, extract_append_low]

@[simp] theorem fld_encV (op : BitVec 8) (td : BitVec 7) (m : BitVec 3) (a b c : BitVec 10) (et : BitVec 4) (s : BitVec 1)
    (fn : BitVec 3) (imm : BitVec 8) : let w := encV op td m a b c et s fn imm
    fld w 56 8 = op ∧ fld w 49 7 = td ∧ fld w 46 3 = m ∧ fld w 36 10 = a ∧ fld w 26 10 = b ∧ fld w 16 10 = c ∧ fld w 12 4 = et ∧
    fld w 11 1 = s ∧ fld w 8 3 = fn ∧ fld w 0 8 = imm := by
  simp [fld, encV, extract_append_high, extract_append_low]

/-- A part of the V format's immediate. -/
theorem fld_encV_imm (op : BitVec 8) (td : BitVec 7) (m : BitVec 3) (a b c : BitVec 10) (et : BitVec 4) (s : BitVec 1)
    (fn : BitVec 3) (imm : BitVec 8) {lo k : Nat} (h : lo + k ≤ 8) :
    fld (encV op td m a b c et s fn imm) lo k = imm.extractLsb' lo k := by
  simp [fld, encV, extract_append_low, h]

@[simp] theorem fld_encVI (op : BitVec 8) (td : BitVec 7) (m : BitVec 3) (imm : BitVec 32) (et : BitVec 4) :
    let w := encVI op td m imm et
    fld w 56 8 = op ∧ fld w 49 7 = td ∧ fld w 46 3 = m ∧ fld w 36 10 = 0 ∧ fld w 4 32 = imm ∧ fld w 0 4 = et := by
  simp [fld, encVI, extract_append_high, extract_append_low]

@[simp] theorem fld_encMXR (op : BitVec 8) (q : BitVec 1) (rtn : BitVec 8) (t : BitVec 7) (acc out : BitVec 1) :
    let w := encMXR op q rtn t acc out
    fld w 56 8 = op ∧ fld w 55 1 = q ∧ fld w 47 8 = rtn ∧ fld w 40 7 = t ∧ fld w 39 1 = acc ∧ fld w 38 1 = out ∧ fld w 0 38 = 0 := by
  simp [fld, encMXR, extract_append_high, extract_append_low]

@[simp] theorem fld_encMXP (op : BitVec 8) (p : BitVec 3) (sa : BitVec 5) (imm : BitVec 38) : let w := encMXP op p sa imm
    fld w 56 8 = op ∧ fld w 55 1 = 0 ∧ fld w 52 3 = p ∧ fld w 47 5 = sa ∧ fld w 38 9 = 0 ∧ fld w 0 38 = imm := by
  simp [fld, encMXP, extract_append_high, extract_append_low]

@[simp] theorem fld_encMXQ (op : BitVec 8) (q : BitVec 1) (sd : BitVec 5) : let w := encMXQ op q sd
    fld w 56 8 = op ∧ fld w 55 1 = q ∧ fld w 52 3 = 0 ∧ fld w 47 5 = sd ∧ fld w 0 47 = 0 := by
  simp [fld, encMXQ, extract_append_high, extract_append_low]

@[simp] theorem fld_encLS (op : BitVec 8) (reg : BitVec 7) (base stride : BitVec 5) (cf wb : BitVec 1) (rows : BitVec 4)
    (disp : BitVec 32) : let w := encLS op reg base stride cf wb rows disp
    fld w 56 8 = op ∧ fld w 49 7 = reg ∧ fld w 44 5 = base ∧ fld w 39 5 = stride ∧ fld w 38 1 = cf ∧ fld w 37 1 = wb ∧
    fld w 33 4 = rows ∧ fld w 32 1 = 0 ∧ fld w 0 32 = disp := by
  simp [fld, encLS, extract_append_high, extract_append_low]

/-- A part of the displacement of a load. -/
theorem fld_encLS_disp (op : BitVec 8) (reg : BitVec 7) (base stride : BitVec 5) (cf wb : BitVec 1) (rows : BitVec 4)
    (disp : BitVec 32) {lo k : Nat} (h : lo + k ≤ 32) :
    fld (encLS op reg base stride cf wb rows disp) lo k = disp.extractLsb' lo k := by
  simp [fld, encLS, extract_append_low, h]

@[simp] theorem fld_encCP (op : BitVec 8) (chq : BitVec 4) (sl : BitVec 6) (sa sb sc : BitVec 5) (tile : BitVec 7) (imm : BitVec 24) :
    let w := encCP op chq sl sa sb sc tile imm
    fld w 56 8 = op ∧ fld w 52 4 = chq ∧ fld w 46 6 = sl ∧ fld w 41 5 = sa ∧ fld w 36 5 = sb ∧ fld w 31 5 = sc ∧ fld w 24 7 = tile ∧
    fld w 0 24 = imm := by
  simp [fld, encCP, extract_append_high, extract_append_low]

/-- A part of the CP slot's immediate. -/
theorem fld_encCP_imm (op : BitVec 8) (chq : BitVec 4) (sl : BitVec 6) (sa sb sc : BitVec 5) (tile : BitVec 7) (imm : BitVec 24)
    {lo k : Nat} (h : lo + k ≤ 24) : fld (encCP op chq sl sa sb sc tile imm) lo k = imm.extractLsb' lo k := by
  simp [fld, encCP, extract_append_low, h]

@[simp] theorem fld_encSY (op bar : BitVec 8) (sa sb : BitVec 5) (imm : BitVec 30) : let w := encSY op bar sa sb imm
    fld w 56 8 = op ∧ fld w 48 8 = bar ∧ fld w 43 5 = sa ∧ fld w 38 5 = sb ∧ fld w 8 30 = imm := by
  simp [fld, encSY, extract_append_high, extract_append_low]

/-- Below the tile of the MX slot's routine form, where both flags are zero. -/
@[simp] theorem fld_encMXR_zero (op : BitVec 8) (q : BitVec 1) (rtn : BitVec 8) (t : BitVec 7) :
    fld (encMXR op q rtn t 0#1 0#1) 0 40 = 0 := by
  change (op ++ q ++ rtn ++ t ++ 0#1 ++ 0#1 ++ 0#38).extractLsb' 0 (2 + 38) = 0
  rw [extract_append_across, extract_append_across (op ++ q ++ rtn ++ t ++ 0#1) 0#1 1, extract_append_low _ _ (by decide)]
  decide

/-- Below the scalar of the MX slot's parameter form, where the immediate is zero. -/
@[simp] theorem fld_encMXP_zero (op : BitVec 8) (p : BitVec 3) (sa : BitVec 5) : fld (encMXP op p sa 0#38) 0 47 = 0 := by
  change (op ++ 0#1 ++ p ++ sa ++ 0#9 ++ 0#38).extractLsb' 0 (9 + 38) = 0
  rw [extract_append_across, extract_append_low _ _ (by decide)]
  decide

/-- Below the queue bit of the MX slot's status form, where the scalar is zero. -/
@[simp] theorem fld_encMXQ_zero (op : BitVec 8) (q : BitVec 1) : fld (encMXQ op q 0#5) 0 55 = 0 := by
  change (op ++ q ++ 0#3 ++ 0#5 ++ 0#47).extractLsb' 0 (8 + 47) = 0
  rw [extract_append_across, extract_append_across (op ++ q ++ 0#3) 0#5 3, extract_append_low _ _ (by decide)]
  decide

/-! ### Codes and forms read back -/

@[simp] theorem EType.ofCode_code (t : EType) : EType.ofCode (BitVec.ofNat 4 t.code) = some t := by cases t <;> rfl
@[simp] theorem ICond.ofCode_code (c : ICond) : ICond.ofCode (BitVec.ofNat 4 c.code) = some c := by cases c <;> rfl
@[simp] theorem FCond.ofCode_code (c : FCond) : FCond.ofCode (BitVec.ofNat 4 c.code) = some c := by cases c <;> rfl
@[simp] theorem FCond.ofCode_code3 (c : FCond) : FCond.ofCode ((BitVec.ofNat 3 c.code).setWidth 4) = some c := by cases c <;> rfl
@[simp] theorem VICond.ofCode_code (c : VICond) : VICond.ofCode (BitVec.ofNat 3 c.code) = some c := by cases c <;> rfl
@[simp] theorem FCvt.ofCode_code (k : FCvt) : FCvt.ofCode (BitVec.ofNat 4 k.code) = some k := by cases k <;> rfl
@[simp] theorem AFunc.ofCode_code (f : AFunc) : AFunc.ofCode (BitVec.ofNat 4 f.code) = some f := by cases f <;> rfl
@[simp] theorem RedOp.ofCode_code (op : RedOp) : RedOp.ofCode (BitVec.ofNat 3 op.code) = some op := by cases op <;> rfl
@[simp] theorem DKind.ofCode_code (k : DKind) : DKind.ofCode (BitVec.ofNat 6 k.code) = some k := by cases k <;> rfl
@[simp] theorem DPred.ofCode_code (p : DPred) : DPred.ofCode (BitVec.ofNat 3 p.code) = some p := by cases p <;> rfl

theorem EType.code_mod_lt (t : EType) : t.code % 64 < 16 := by cases t <;> decide
theorem DPred.code_mod_lt (p : DPred) : p.code % 64 < 8 := by cases p <;> decide

/-- A field lies below the bound that its width sets, in a wider field too. -/
theorem toNat_mod_lt {m n k : Nat} (x : BitVec m) (h : 2 ^ m ≤ k) : x.toNat % n < k :=
  Nat.lt_of_le_of_lt (Nat.mod_le _ _) (Nat.lt_of_lt_of_le x.isLt h)

theorem toNat_mod_le {m n k : Nat} (x : BitVec m) (h : 2 ^ m ≤ k + 1) : x.toNat % n ≤ k :=
  Nat.le_of_lt_succ (toNat_mod_lt x h)

/-- A flag in a field of its own. -/
@[simp] theorem ofNat_flag (b : Bool) : (BitVec.ofNat 3 b.toNat == 1#3) = b ∧ (BitVec.ofNat 4 b.toNat == 1#4) = b ∧
    (BitVec.ofNat 30 b.toNat == 1#30) = b ∧ (BitVec.ofBool b == 1#1) = b := by
  cases b <;> decide

theorem flag_mod_le (b : Bool) (n : Nat) : b.toNat % n ≤ 1 := Nat.le_trans (Nat.mod_le _ _) (Bool.toNat_le b)

/-- Three flags, the first in the lowest bit. -/
@[simp] theorem flags3 (a b c : Bool) : (BitVec.ofBool c ++ BitVec.ofBool b ++ BitVec.ofBool a : BitVec 3)[0] = a ∧
    (BitVec.ofBool c ++ BitVec.ofBool b ++ BitVec.ofBool a : BitVec 3)[1] = b ∧
    (BitVec.ofBool c ++ BitVec.ofBool b ++ BitVec.ofBool a : BitVec 3)[2] = c := by
  revert a b c
  decide

/-- Two flags under a zero bit. -/
@[simp] theorem flags2 (a b : Bool) : (0#1 ++ BitVec.ofBool b ++ BitVec.ofBool a : BitVec 3)[0] = a ∧
    (0#1 ++ BitVec.ofBool b ++ BitVec.ofBool a : BitVec 3)[1] = b ∧
    (0#1 ++ BitVec.ofBool b ++ BitVec.ofBool a : BitVec 3).toNat < 4 := by
  revert a b
  decide

/-- The flags of SCMAX and SCMIN: width in the lowest bit, unsigned in bit 2. -/
@[simp] theorem flags_scmax (d u : Bool) : (BitVec.ofNat 4 (4 * u.toNat + d.toNat))[0] = d ∧
    (BitVec.ofNat 4 (4 * u.toNat + d.toNat))[1] = false ∧ (BitVec.ofNat 4 (4 * u.toNat + d.toNat))[2] = u ∧
    (BitVec.ofNat 4 (4 * u.toNat + d.toNat))[3] = false := by
  revert d u
  decide

/-- CSTAT's selector under its flag. -/
@[simp] theorem flags_cstat (clr : Bool) (sel : BitVec 2) : (0#21 ++ BitVec.ofBool clr ++ sel : BitVec 24).toNat < 8 ∧
    (0#21 ++ BitVec.ofBool clr ++ sel : BitVec 24).setWidth 2 = sel ∧ (0#21 ++ BitVec.ofBool clr ++ sel : BitVec 24)[2] = clr := by
  revert clr sel
  decide

@[simp] theorem readTSrc_encTSrc (a : TSrc) : readTSrc (encTSrc a) = some a := by
  cases a with
  | latch => rfl
  | reg h e r =>
    simp only [readTSrc, encTSrc, getLsbD_append_high, getLsbD_append_low, setWidth_append_low, Nat.reduceLeDiff, Nat.reduceSub,
      Nat.zero_lt_one, Nat.le_refl]
    simp

@[simp] theorem readScalarField_encScalarField (r : SReg) : readScalarField (encScalarField r) = some r := by
  simp [readScalarField, encScalarField, setWidth_append_low, extract_append_high]

@[simp] theorem readBSrc_encBSrc (b : BSrc) : readBSrc (encBSrcS b) (encBSrc b) = some b := by
  cases b <;> simp [readBSrc, encBSrcS, encBSrc]

@[simp] theorem readOptScalar_encOptScalar (r : Option SReg) :
    readOptScalar (BitVec.ofBool r.isSome) (encOptScalar r) = some r := by
  cases r <;> simp [readOptScalar, encOptScalar]

@[simp] theorem readRot_encRot (k : RotAmt) : readRot (encRotS k) (encRotB k) (encRotI k) = some k := by
  cases k <;> simp [readRot, encRotS, encRotB, encRotI]

@[simp] theorem readTol_encTol (r : Option SReg) : readTol (BitVec.ofNat 3 r.isSome.toNat) (encTol r) = some r := by
  cases r with
  | none => rfl
  | some r => simp [readTol, encTol, toNat_mod_lt]

@[simp] theorem readAsof_getD (o : Option SReg) : readAsof (BitVec.ofBool o.isSome) (o.getD 0#5) = some o := by
  cases o <;> simp [readAsof]

@[simp] theorem readGather_getD (o : Option QNo) : readGather (BitVec.ofBool o.isSome) (o.getD 0#1) = some o := by
  cases o <;> simp [readGather]

@[simp] theorem readBar_getD (o : Option BNo) : readBar (BitVec.ofBool o.isSome) (o.getD 0#3) = some o := by
  cases o <;> simp [readBar]

@[simp] theorem readPush_getD (o : Option QNo) : readPush (BitVec.ofBool o.isSome) ((o.getD 0#1).setWidth 4) = some o := by
  cases o <;> simp [readPush]

@[simp] theorem readScore_getD (o : Option TReg) : readScore (BitVec.ofBool o.isSome) (o.getD 0#7) = some o := by
  cases o <;> simp [readScore]

theorem rawSC_opcode {w : Word} {i : Instr} (h : rawSC w = some i) : (fld w 56 8).toNat ≠ 0xFF ∧ (fld w 56 8).toNat ≠ 0 := by
  delta rawSC at h
  generalize (fld w 56 8).toNat = n at h ⊢
  constructor <;> (rintro rfl; cases h)

theorem rawV_opcode {u : VUnit} {w : Word} {i : Instr} (h : rawV u w = some i) :
    (fld w 56 8).toNat ≠ 0xFF ∧ (fld w 56 8).toNat ≠ 0 := by
  delta rawV at h
  generalize (fld w 56 8).toNat = n at h ⊢
  constructor <;> (rintro rfl; cases h)

theorem rawMX_opcode {w : Word} {i : Instr} (h : rawMX w = some i) : (fld w 56 8).toNat ≠ 0xFF ∧ (fld w 56 8).toNat ≠ 0 := by
  delta rawMX at h
  generalize (fld w 56 8).toNat = n at h ⊢
  constructor <;> (rintro rfl; cases h)

theorem rawLD_opcode {w : Word} {i : Instr} (h : rawLD w = some i) : (fld w 56 8).toNat ≠ 0xFF ∧ (fld w 56 8).toNat ≠ 0 := by
  delta rawLD at h
  generalize (fld w 56 8).toNat = n at h ⊢
  constructor <;> (rintro rfl; cases h)

theorem rawST_opcode {w : Word} {i : Instr} (h : rawST w = some i) : (fld w 56 8).toNat ≠ 0xFF ∧ (fld w 56 8).toNat ≠ 0 := by
  delta rawST at h
  generalize (fld w 56 8).toNat = n at h ⊢
  constructor <;> (rintro rfl; cases h)

theorem rawCP_opcode {w : Word} {i : Instr} (h : rawCP w = some i) : (fld w 56 8).toNat ≠ 0xFF ∧ (fld w 56 8).toNat ≠ 0 := by
  delta rawCP at h
  generalize (fld w 56 8).toNat = n at h ⊢
  constructor <;> (rintro rfl; cases h)

theorem rawSY_opcode {w : Word} {i : Instr} (h : rawSY w = some i) : (fld w 56 8).toNat ≠ 0xFF ∧ (fld w 56 8).toNat ≠ 0 := by
  delta rawSY at h
  generalize (fld w 56 8).toNat = n at h ⊢
  constructor <;> (rintro rfl; cases h)

/-- The opcodes of the function-register instructions. -/
theorem rawVB_opcode {w : Word} {i : Instr} (h : rawVB w = some i) : 96 ≤ (fld w 56 8).toNat ∧ (fld w 56 8).toNat ≤ 109 := by
  delta rawVB at h
  generalize (fld w 56 8).toNat = n at h ⊢
  dsimp only at h
  split at h
  case h_15 => cases h
  all_goals decide

theorem rawV_of_functionOpcode (u : VUnit) {w : Word} (h : 96 ≤ (fld w 56 8).toNat) (h' : (fld w 56 8).toNat ≤ 109) :
    rawV u w = none := by
  delta rawV
  generalize (fld w 56 8).toNat = n at h h' ⊢
  interval_cases n <;> rfl

/-- A slot whose opcode is neither ILL's nor NOP's holds what its own layout says. -/
theorem rawSlot_sc {w : Word} {i : Instr} (h : rawSC w = some i) : rawSlot .sc w = some i :=
  (if_neg (rawSC_opcode h).1).trans ((if_neg (rawSC_opcode h).2).trans h)
theorem rawSlot_unit {u : VUnit} {w : Word} {i : Instr} (h : rawV u w = some i) : rawSlot u.slot w = some i := by
  refine (if_neg (rawV_opcode h).1).trans ((if_neg (rawV_opcode h).2).trans ?_)
  cases u with
  | va => exact h
  | vb => exact congrArg (Option.orElse · _) h
theorem rawSlot_vb {w : Word} {i : Instr} (h : rawVB w = some i) : rawSlot .vb w = some i := by
  obtain ⟨hlo, hhi⟩ := rawVB_opcode h
  refine (if_neg (by omega)).trans ((if_neg (by omega)).trans ?_)
  rw [rawV_of_functionOpcode .vb hlo hhi]
  exact h
theorem rawSlot_mx {w : Word} {i : Instr} (h : rawMX w = some i) : rawSlot .mx w = some i :=
  (if_neg (rawMX_opcode h).1).trans ((if_neg (rawMX_opcode h).2).trans h)
theorem rawSlot_ld {w : Word} {i : Instr} (h : rawLD w = some i) : rawSlot .ld w = some i :=
  (if_neg (rawLD_opcode h).1).trans ((if_neg (rawLD_opcode h).2).trans h)
theorem rawSlot_st {w : Word} {i : Instr} (h : rawST w = some i) : rawSlot .st w = some i :=
  (if_neg (rawST_opcode h).1).trans ((if_neg (rawST_opcode h).2).trans h)
theorem rawSlot_cp {w : Word} {i : Instr} (h : rawCP w = some i) : rawSlot .cp w = some i :=
  (if_neg (rawCP_opcode h).1).trans ((if_neg (rawCP_opcode h).2).trans h)
theorem rawSlot_sy {w : Word} {i : Instr} (h : rawSY w = some i) : rawSlot .sy w = some i :=
  (if_neg (rawSY_opcode h).1).trans ((if_neg (rawSY_opcode h).2).trans h)

/-! ### The families of instructions

Every family is read by one layout; MSET, CHDOM and CHMOV have layouts of their own.
-/

/-- What the round trip is proved for at once. -/
inductive Family
  /-- R43: the register forms of the SC slot. -/
  | scRegister
  /-- R43: its immediate forms. -/
  | scImmediate
  /-- R43, R44: its branches, loops and global accesses. -/
  | scControl
  /-- R39, R147: the vector operations of two sources. -/
  | twoSources
  /-- R39, R147: of one source. -/
  | oneSource
  /-- R39, R147: of three sources, and of two tiles. -/
  | threeSources
  /-- R41, R147, R169: with a code, a scalar or a mask in a field. -/
  | coded
  /-- R50, R177: the function-register instructions. -/
  | function
  /-- R47: the MX slot. -/
  | matrix
  /-- R45: the LD slot. -/
  | load
  /-- R45: the ST slot. -/
  | store
  /-- R46, R238, R257: copies and index producers. -/
  | forager
  /-- R346, R359, R372: digests, remote calls, the sequencer. -/
  | digestCall
  /-- R48: the SY slot. -/
  | sync
  /-- R169: MSET. -/
  | mset
  /-- R189: CHDOM. -/
  | chdom
  /-- R190: CHMOV. -/
  | chmov
  /-- R24, R25: NOP and ILL. -/
  | everySlot

/-- The family of an instruction of a slot. -/
def familyOf : Instr → Option Family
  | .add .. | .sub .. | .and .. | .or .. | .xor .. | .shl .. | .shr .. | .sar .. | .mul .. | .mulh .. | .mulhu .. | .div ..
  | .divu .. | .rem .. | .remu .. | .min .. | .max .. | .minu .. | .maxu .. | .sel .. | .cmp .. | .clz .. | .popc .. | .brev ..
  | .fadd .. | .fsub .. | .fmul .. | .ffma .. | .fmin .. | .fmax .. | .fcmp .. | .fcvt .. | .jr .. | .callr .. | .ret ..
  | .tret .. | .tsc .. | .ixpop .. | .ixpeek .. => some .scRegister
  | .addi .. | .andi .. | .ori .. | .xori .. | .shli .. | .shri .. | .sari .. | .li .. | .lih .. | .cmpi .. | .csrr ..
  | .csrw .. | .svc .. | .brk .. => some .scImmediate
  | .j .. | .call .. | .bz .. | .bnz .. | .bcmp .. | .loop .. | .loopi .. | .gld .. | .gldQ .. | .gst .. | .gamo .. => some .scControl
  | .vadd .. | .vsub .. | .vmul .. | .vmin .. | .vmax .. | .vsel .. | .viadd .. | .visub .. | .vimul .. | .vimulh .. | .vshl ..
  | .vshr .. | .vsar .. | .vand .. | .vor .. | .vxor .. | .vimin .. | .vimax .. => some .twoSources
  | .vabs .. | .vneg .. | .vnot .. | .vpopc .. | .vclz .. | .vmov .. | .vrcp .. | .vrsq .. | .vexp2 .. | .vlog2 .. => some .oneSource
  | .vfma .. | .vfms .. | .vfnma .. | .vclamp .. | .vperm .. | .vmerge .. | .vbound .. | .vunpack .. => some .threeSources
  | .vcmp .. | .vicmp .. | .vredr .. | .vredc .. | .vcvt .. | .vpack .. | .vrotr .. | .vrotc .. | .vbcr .. | .vbcc ..
  | .vmovs .. | .vext .. | .vins .. | .viota .. | .vsort .. | .vtopk .. | .mand .. | .mor .. | .mxor .. | .mnot .. | .mpopc ..
  | .mfirst .. | .vmovi .. => some .coded
  | .cheval .. | .chfit .. | .chadd .. | .chsub .. | .chmul .. | .chscl .. | .chcmp .. | .chint .. | .chdif .. | .chroot ..
  | .chtrn .. | .chfree .. => some .function
  | .mcall .. | .mpload .. | .msetp .. | .msetpi .. | .mstat .. | .mcancel .. => some .matrix
  | .ldt .. | .ldrw .. | .ldg .. | .ldx .. | .lds .. | .ldf .. | .ldm .. => some .load
  | .stt .. | .strw .. | .stx .. | .sts .. | .stf .. | .stm .. | .scor .. | .scadd .. | .scmax .. | .scmin .. | .sete ..
  | .setf .. => some .store
  | .cbatch .. | .cwait .. | .publish .. | .ctset .. | .ctsetCode .. | .cstat .. | .ixscan .. | .ixbmap .. | .ixrle ..
  | .ixclr .. | .spred .. | .guard .. | .copy .. => some .forager
  | .dqry .. | .dqryQ .. | .drefr .. | .rcallR .. | .rcallQ .. | .rstat .. | .promote .. | .lnseq .. | .lnwait .. | .dfence ..
  | .bmac .. | .rret .. | .dscan .. => some .digestCall
  | .bset .. | .binc .. | .waitb .. | .waitany .. | .qend .. | .fork .. | .join .. | .exit .. | .yield .. | .gjoin ..
  | .gleave .. | .gbar .. | .cbar .. | .drain .. | .prio .. | .spawng .. | .fencel .. | .halt .. => some .sync
  | .mset .. => some .mset
  | .chdom .. => some .chdom
  | .chmov .. => some .chmov
  | .nop .. | .ill .. => some .everySlot
  | _ => none

theorem rawSlot_scRegister {t : Slot} {i : Instr} (hf : familyOf i = some .scRegister) (h : slotOf i = some t) :
    rawSlot t (encodeSlot i) = some i := by
  cases i <;> cases hf <;> cases h
  all_goals
    refine rawSlot_sc ?_
    change rawSC (encSR _ _ _ _ _ _) = _
    delta rawSC
    generalize hop : (fld _ 56 8).toNat = n
    simp only [fld_encSR, BitVec.reduceToNat] at hop
    subst hop
    dsimp only
    simp [grd, toNat_mod_le]

theorem rawSlot_scImmediate {t : Slot} {i : Instr} (hf : familyOf i = some .scImmediate) (h : slotOf i = some t) :
    rawSlot t (encodeSlot i) = some i := by
  cases i <;> cases hf <;> cases h
  all_goals
    refine rawSlot_sc ?_
    change rawSC (encSI _ _ _ _) = _
    delta rawSC
    generalize hop : (fld _ 56 8).toNat = n
    simp only [fld_encSI, BitVec.reduceToNat] at hop
    subst hop
    dsimp only
    simp [grd, toNat_mod_lt, extract_append_high, extract_append_low]

theorem rawSlot_scControl {t : Slot} {i : Instr} (hf : familyOf i = some .scControl) (h : slotOf i = some t) :
    rawSlot t (encodeSlot i) = some i := by
  cases i <;> cases hf <;> cases h
  all_goals
    refine rawSlot_sc ?_
    delta encodeSlot rawSC
    dsimp only
    generalize hop : (fld _ 56 8).toNat = n
    simp only [fld_encSB, fld_encSL, fld_encSM, BitVec.reduceToNat] at hop
    subst hop
    simp [grd]

theorem rawSlot_twoSources {t : Slot} {i : Instr} (hf : familyOf i = some .twoSources) (h : slotOf i = some t) :
    rawSlot t (encodeSlot i) = some i := by
  cases i <;> cases hf <;> cases h
  all_goals
    refine rawSlot_unit ?_
    change rawV _ (encV _ _ _ _ _ _ _ _ _ _) = _
    delta rawV
    generalize hop : (fld _ 56 8).toNat = n
    simp only [fld_encV, BitVec.reduceToNat] at hop
    subst hop
    dsimp only
    simp [grd]

theorem rawSlot_oneSource {t : Slot} {i : Instr} (hf : familyOf i = some .oneSource) (h : slotOf i = some t) :
    rawSlot t (encodeSlot i) = some i := by
  cases i <;> cases hf <;> cases h
  all_goals
    refine rawSlot_unit ?_
    change rawV _ (encV _ _ _ _ _ _ _ _ _ _) = _
    delta rawV
    generalize hop : (fld _ 56 8).toNat = n
    simp only [fld_encV, BitVec.reduceToNat] at hop
    subst hop
    dsimp only
    simp [grd]

theorem rawSlot_threeSources {t : Slot} {i : Instr} (hf : familyOf i = some .threeSources) (h : slotOf i = some t) :
    rawSlot t (encodeSlot i) = some i := by
  cases i <;> cases hf <;> cases h
  all_goals
    refine rawSlot_unit ?_
    change rawV _ (encV _ _ _ _ _ _ _ _ _ _) = _
    delta rawV
    generalize hop : (fld _ 56 8).toNat = n
    simp only [fld_encV, BitVec.reduceToNat] at hop
    subst hop
    dsimp only
    simp [grd, fld_encV_imm, extract_append_high, extract_append_low]

theorem rawSlot_coded {t : Slot} {i : Instr} (hf : familyOf i = some .coded) (h : slotOf i = some t) :
    rawSlot t (encodeSlot i) = some i := by
  cases i <;> cases hf <;> cases h
  all_goals
    refine rawSlot_unit ?_
    delta encodeSlot rawV
    dsimp only
    generalize hop : (fld _ 56 8).toNat = n
    simp only [fld_encV, fld_encVI, BitVec.reduceToNat] at hop
    subst hop
    simp [grd, toNat_mod_lt, flag_mod_le, fld_encV_imm, extract_append_high, extract_append_low]

theorem rawSlot_function {t : Slot} {i : Instr} (hf : familyOf i = some .function) (h : slotOf i = some t) :
    rawSlot t (encodeSlot i) = some i := by
  cases i <;> cases hf <;> cases h
  all_goals
    refine rawSlot_vb ?_
    change rawVB (encV _ _ _ _ _ _ _ _ _ _) = _
    delta rawVB
    generalize hop : (fld _ 56 8).toNat = n
    simp only [fld_encV, BitVec.reduceToNat] at hop
    subst hop
    dsimp only
    simp [grd, toNat_mod_lt, flag_mod_le]

theorem rawSlot_matrix {t : Slot} {i : Instr} (hf : familyOf i = some .matrix) (h : slotOf i = some t) :
    rawSlot t (encodeSlot i) = some i := by
  cases i <;> cases hf <;> cases h
  all_goals
    refine rawSlot_mx ?_
    delta encodeSlot rawMX
    dsimp only
    generalize hop : (fld _ 56 8).toNat = n
    simp only [fld_encMXR, fld_encMXP, fld_encMXQ, BitVec.reduceToNat] at hop
    subst hop
    simp [grd]

theorem rawSlot_load {t : Slot} {i : Instr} (hf : familyOf i = some .load) (h : slotOf i = some t) :
    rawSlot t (encodeSlot i) = some i := by
  cases i <;> cases hf <;> cases h
  all_goals
    refine rawSlot_ld ?_
    change rawLD (encLS _ _ _ _ _ _ _ _) = _
    delta rawLD
    generalize hop : (fld _ 56 8).toNat = n
    simp only [fld_encLS, BitVec.reduceToNat] at hop
    subst hop
    dsimp only
    simp [grd, toNat_mod_lt, flag_mod_le, fld_encLS_disp, extract_append_high, extract_append_low]

theorem rawSlot_store {t : Slot} {i : Instr} (hf : familyOf i = some .store) (h : slotOf i = some t) :
    rawSlot t (encodeSlot i) = some i := by
  cases i <;> cases hf <;> cases h
  all_goals
    refine rawSlot_st ?_
    change rawST (encLS _ _ _ _ _ _ _ _) = _
    delta rawST
    generalize hop : (fld _ 56 8).toNat = n
    simp only [fld_encLS, BitVec.reduceToNat] at hop
    subst hop
    dsimp only
    simp [grd, toNat_mod_lt, flag_mod_le]

theorem rawSlot_forager {t : Slot} {i : Instr} (hf : familyOf i = some .forager) (h : slotOf i = some t) :
    rawSlot t (encodeSlot i) = some i := by
  cases i <;> cases hf <;> cases h
  all_goals
    refine rawSlot_cp ?_
    change rawCP (encCP _ _ _ _ _ _ _ _) = _
    delta rawCP
    generalize hop : (fld _ 56 8).toNat = n
    simp only [fld_encCP, BitVec.reduceToNat] at hop
    subst hop
    dsimp only
    simp [grd, toNat_mod_lt, EType.code_mod_lt, fld_encCP_imm, extract_append_high, extract_append_low, getElem_append_high,
      getElem_append_low]

theorem rawSlot_digestCall {t : Slot} {i : Instr} (hf : familyOf i = some .digestCall) (h : slotOf i = some t) :
    rawSlot t (encodeSlot i) = some i := by
  cases i <;> cases hf <;> cases h
  all_goals
    refine rawSlot_cp ?_
    change rawCP (encCP _ _ _ _ _ _ _ _) = _
    delta rawCP
    generalize hop : (fld _ 56 8).toNat = n
    simp only [fld_encCP, BitVec.reduceToNat] at hop
    subst hop
    dsimp only
    simp [grd, DPred.code_mod_lt, fld_encCP_imm, extract_append_high, extract_append_low, getElem_append_low]

theorem rawSlot_sync {t : Slot} {i : Instr} (hf : familyOf i = some .sync) (h : slotOf i = some t) :
    rawSlot t (encodeSlot i) = some i := by
  cases i <;> cases hf <;> cases h
  all_goals
    refine rawSlot_sy ?_
    change rawSY (encSY _ _ _ _ _) = _
    delta rawSY
    generalize hop : (fld _ 56 8).toNat = n
    simp only [fld_encSY, BitVec.reduceToNat] at hop
    subst hop
    dsimp only
    simp [grd, toNat_mod_lt, flag_mod_le]

theorem rawSlot_mset (u : VUnit) (md : MReg) (k : MSetKind) : rawSlot u.slot (encodeSlot (.mset u md k)) = some (.mset u md k) := by
  rcases k with (_ | _) | ⟨t, sb⟩ | ⟨t, sb⟩
  all_goals
    refine rawSlot_unit ?_
    change rawV _ (encV _ _ _ _ _ _ _ _ _ _) = _
    delta rawV
    generalize hop : (fld _ 56 8).toNat = n
    simp only [fld_encV, BitVec.reduceToNat] at hop
    subst hop
    dsimp only
    simp [grd, readMSet, toNat_mod_lt]

theorem rawSlot_chdom (k : ChDom) : rawSlot .vb (encodeSlot (.chdom k)) = some (.chdom k) := by
  cases k
  all_goals
    refine rawSlot_vb ?_
    change rawVB (encV _ _ _ _ _ _ _ _ _ _) = _
    delta rawVB
    generalize hop : (fld _ 56 8).toNat = n
    simp only [fld_encV, BitVec.reduceToNat] at hop
    subst hop
    dsimp only
    simp [grd, readChDom, toNat_mod_lt]

theorem rawSlot_chmov (k : ChMov) : rawSlot .vb (encodeSlot (.chmov k)) = some (.chmov k) := by
  cases k
  all_goals
    refine rawSlot_vb ?_
    change rawVB (encV _ _ _ _ _ _ _ _ _ _) = _
    delta rawVB
    generalize hop : (fld _ 56 8).toNat = n
    simp only [fld_encV, BitVec.reduceToNat] at hop
    subst hop
    dsimp only
    simp [grd, readChMov, toNat_mod_lt]

theorem rawSlot_everySlot (t : Slot) :
    rawSlot t (encodeSlot (.nop t)) = some (.nop t) ∧ rawSlot t (encodeSlot (.ill t)) = some (.ill t) := by
  cases t <;> exact ⟨rfl, rfl⟩

/-- Every instruction of a slot is what the slot's layout reads from its word. -/
theorem rawSlot_encodeSlot {t : Slot} (i : Instr) (h : slotOf i = some t) : rawSlot t (encodeSlot i) = some i := by
  cases hf : familyOf i with
  | none => cases i <;> cases hf <;> cases h
  | some f =>
    cases f with
    | scRegister => exact rawSlot_scRegister hf h
    | scImmediate => exact rawSlot_scImmediate hf h
    | scControl => exact rawSlot_scControl hf h
    | twoSources => exact rawSlot_twoSources hf h
    | oneSource => exact rawSlot_oneSource hf h
    | threeSources => exact rawSlot_threeSources hf h
    | coded => exact rawSlot_coded hf h
    | function => exact rawSlot_function hf h
    | matrix => exact rawSlot_matrix hf h
    | load => exact rawSlot_load hf h
    | store => exact rawSlot_store hf h
    | forager => exact rawSlot_forager hf h
    | digestCall => exact rawSlot_digestCall hf h
    | sync => exact rawSlot_sync hf h
    | mset => cases i <;> cases hf ; cases h; exact rawSlot_mset _ _ _
    | chdom => cases i <;> cases hf ; cases h; exact rawSlot_chdom _
    | chmov => cases i <;> cases hf ; cases h; exact rawSlot_chmov _
    | everySlot =>
      cases i <;> cases hf <;> cases h
      · exact (rawSlot_everySlot _).1
      · exact (rawSlot_everySlot _).2

/-- A well-formed instruction's fields show no number out of range (R27, R88). -/
theorem fieldRange_encodeSlot {i : Instr} (h : i.inRange = true) : fieldRange i (encodeSlot i) = none := by
  cases i
  case rcallR | rcallQ =>
    refine if_neg ?_
    simpa [Instr.inRange] using h
  case copy | cbatch | cwait | publish | cstat =>
    refine if_neg (Nat.not_le.mpr ?_)
    change (fld (encCP _ _ _ _ _ _ _ _) 52 4).toNat < 8
    simp [toNat_mod_lt]
  case ixscan | ixbmap | ixrle | ixclr | spred | guard =>
    refine if_neg (Nat.not_le.mpr ?_)
    change (fld (encCP _ _ _ _ _ _ _ _) 52 4).toNat < 2
    simp [toNat_mod_le]
  case dscan q _ _ _ _ _ _ _ _ _ =>
    cases q with
    | none => rfl
    | some q =>
      refine if_neg (Nat.not_le.mpr ?_)
      change (fld (encCP _ _ _ _ _ _ _ _) 52 4).toNat < 2
      simp [toNat_mod_le]
  case bset | binc | waitb =>
    refine if_neg (Nat.not_le.mpr ?_)
    change (fld (encSY _ _ _ _ _) 48 8).toNat < 8
    simp [toNat_mod_lt]
  case gjoin | gleave | gbar | spawng =>
    refine if_neg (Nat.not_le.mpr ?_)
    change (fld (encSY _ _ _ _ _) 48 8).toNat < 64
    simp [toNat_mod_lt]
  all_goals rfl

/-- Settles O2: the layout reads the instruction back, the value checks pass, and no field shows a number out of range. -/
theorem decodeEncode : Obligations.DecodeEncode := by
  unfold Obligations.DecodeEncode
  intro t i ⟨hslot, hwf, hrange⟩
  simp only [decodeSlot, rawSlot_encodeSlot i hslot, fieldRange_encodeSlot hrange]
  exact if_pos hwf

end Sys2Proof

/-! ## The manual's worked encodings

The words that the manual writes out bit by bit (O1).
-/
namespace Sys2Proof.Machine

/-- Settles O1: each word decodes as the manual's worked encoding says. -/
theorem decodeWords : Obligations.DecodeWords := by
  unfold Obligations.DecodeWords
  decide

end Sys2Proof.Machine

/-! ## The hard-wired registers

What a result that lands in s0 or m0 leaves (O8).
-/
namespace Sys2Proof.Machine

/-- Flags of zero leave FLAGS as it is. -/
@[simp] theorem Ctx.orFlags_zero (c : Ctx) : c.orFlags 0#6 = c := by
  have hf : c.csr.flags ||| (0#6).setWidth 64 = c.csr.flags := BitVec.or_zero
  simp only [Ctx.orFlags, hf]

/-- A result for s0 is discarded as it lands. -/
theorem hart_landOne_scalar_zero (s : State) (h d : Nat) (v : Word) :
    hart (landOne s h { due := d, dst := .scalar 0 v, flags := 0 }) h = hart s h := by
  simp [landOne, Ctx.fillScalar]

/-- A result for m0 is discarded as it lands. -/
theorem hart_landOne_mask_zero (s : State) (h d : Nat) (m : Mask) :
    hart (landOne s h { due := d, dst := .mask 0 m, flags := 0 }) h = hart s h := by
  simp [landOne, Ctx.fillMask]

/-- Settles O8: both registers read as constants, and a landing to either is discarded. -/
theorem hardWiredRegisters : Obligations.HardWiredRegisters := by
  unfold Obligations.HardWiredRegisters
  exact ⟨fun c v => ⟨c.scalar_zero, c.setScalar_zero v⟩, fun c v => ⟨rfl, rfl, rfl, c.setMask_zero v⟩,
    fun s h d v m => ⟨hart_landOne_scalar_zero s h d v, hart_landOne_mask_zero s h d m⟩⟩

end Sys2Proof.Machine

/-! ## NOP

A NOP among the slots of a bundle, and what a slot of opcode 0x00 and a line of zero bytes decode to (O5).
-/
namespace Sys2Proof.Machine

/-- In an open bundle NOP answers the state it found. -/
theorem exec_nop_open (t : Slot) {s : State} (ho : s.slotsOpen) : exec (.nop t) s = .next s := by
  rw [exec_nop, execNop, issue_open _ _ ho]

/-- A NOP may be left out wherever the slots before it leave the bundle open. -/
theorem runSlots_nop (t : Slot) (l m : List Instr) (s : State) (ho : ∀ r, runSlots l s = .next r → r.slotsOpen) :
    runSlots (l ++ .nop t :: m) s = runSlots (l ++ m) s := by
  induction l generalizing s with
  | nil => simp only [List.nil_append, runSlots, exec_nop_open t (ho s rfl)]
  | cons i l ih =>
    simp only [List.cons_append, runSlots] at ho ⊢
    cases hi : exec i s with
    | next r =>
      rw [hi] at ho
      exact ih r ho
    | fault r => rfl
    | refused r => rfl

/-- What a slot of opcode 0x00 is laid out as: NOP where its other bits are zero, but for the mode byte of SY. -/
theorem rawSlot_opcode_zero (t : Slot) {w : Word} (h : Sys2Proof.fld w 56 8 = 0) :
    rawSlot t w = if (if t = .sy then Sys2Proof.fld w 8 48 = 0 else Sys2Proof.fld w 0 56 = 0) then some (.nop t) else none := by
  have h255 : ¬ (Sys2Proof.fld w 56 8).toNat = 0xFF := by simp [h]
  have h0 : (Sys2Proof.fld w 56 8).toNat = 0 := by simp [h]
  refine (if_neg h255).trans ((if_pos h0).trans ?_)
  cases t <;> simp [grd]

theorem decodeSlot_opcode_zero (t : Slot) (w : Word) (h : Sys2Proof.fld w 56 8 = 0) :
    decodeSlot t w = if (if t = .sy then Sys2Proof.fld w 8 48 = 0 else Sys2Proof.fld w 0 56 = 0) then .ok (.nop t) else .illegal := by
  rw [decodeSlot, rawSlot_opcode_zero t h]
  by_cases hz : if t = .sy then Sys2Proof.fld w 8 48 = 0 else Sys2Proof.fld w 0 56 = 0
  · rw [if_pos hz, if_pos hz]
    rfl
  · rw [if_neg hz, if_neg hz]

@[simp] theorem slotWord_zero (t : Slot) : slotWord 0#512 t = 0#64 := by
  simp [slotWord]

/-- A line of zero bytes holds a NOP in every slot. -/
theorem instrsOf_decodeBundle_zero : instrsOf (decodeBundle 0) = Slot.all.map .nop := by
  have hd (t : Slot) : decodeSlot t 0#64 = .ok (.nop t) := by
    rw [decodeSlot_opcode_zero t 0#64 rfl]
    cases t <;> rfl
  rw [← List.filterMap_eq_map]
  simp [instrsOf, decodeBundle, hd, List.filterMap_map]

theorem decodeMode_modeByte_zero : decodeMode (modeByte 0) = some Mode.zero := by
  have h0 : modeByte 0 = 0 := BitVec.extractLsb'_zero
  rw [h0]
  rfl

/-- Settles O5: NOP's effect is the identity, and opcode 0x00 decodes by its other bits alone. -/
theorem nopsDoNothing : Obligations.NopsDoNothing := by
  unfold Obligations.NopsDoNothing
  exact ⟨fun t s ho => exec_nop_open t ho, runSlots_nop, decodeSlot_opcode_zero, instrsOf_decodeBundle_zero, decodeMode_modeByte_zero, rfl⟩

end Sys2Proof.Machine

/-! ## Branches and loops

The branches and loop entries of an open bundle, the pc after it, and the loops that a taken branch leaves (O15).
-/
namespace Sys2Proof.Machine

/-! ### The instructions in an open bundle (R128, R129) -/

theorem branchIf_eq (s : State) (b : Bool) (d : BitVec 32) :
    branchIf s b d = if b = true then takeBranch s (branchTarget s d) true else s := rfl

/-- A link changes no pc. -/
@[simp] theorem branchTarget_link (s : State) (sd : SReg) (d : BitVec 32) : branchTarget (link s sd) d = branchTarget s d := by
  simp [branchTarget, link]

/-- The link lands after the bundle, so a target in the link's register is the old one. -/
@[simp] theorem scalarTarget_link (s : State) (sd sa : SReg) : scalarTarget (link s sd) sa = scalarTarget s sa := by
  simp [scalarTarget, link, Ctx.s, Ctx.scalar]

theorem exec_branches_open (s : State) (sa sb sd : SReg) (d : BitVec 32) (cc : ICond) (ho : s.slotsOpen) :
    exec (.j d) s = .next (takeBranch s (branchTarget s d) true) ∧
    exec (.jr sa) s = .next (takeBranch s (scalarTarget s sa) true) ∧
    exec (.call sd d) s = .next (takeBranch (link s sd) (branchTarget s d) false) ∧
    exec (.callr sd sa) s = .next (takeBranch (link s sd) (scalarTarget s sa) false) ∧
    exec (.ret sa) s = .next (takeBranch s (scalarTarget s sa) false) ∧
    exec (.bz sa d) s = .next (if (me s).s sa = 0 then takeBranch s (branchTarget s d) true else s) ∧
    exec (.bnz sa d) s = .next (if (me s).s sa = 0 then s else takeBranch s (branchTarget s d) true) ∧
    exec (.bcmp cc sa sb d) s =
      .next (if intCond cc ((me s).s sa) ((me s).s sb) then takeBranch s (branchTarget s d) true else s) := by
  simp [execJ, execJr, execCall, execCallr, execRet, execBz, execBnz, execBcmp, issue_open _ _ ho, branchIf_eq]

theorem exec_loop_open (sa : SReg) (last : BitVec 21) {s : State} (ho : s.slotsOpen) :
    exec (.loop sa last) s = .next (enterLoop s ((me s).s sa).toNat last.toNat) := by
  rw [exec_loop, execLoop, issue_open _ _ ho]

theorem exec_loopi_open (n : BitVec 16) (last : BitVec 21) {s : State} (ho : s.slotsOpen) :
    exec (.loopi n last) s = .next (enterLoop s n.toNat last.toNat) := by
  rw [exec_loopi, execLoopi, issue_open _ _ ho]

/-- A loop of no rounds is passed. -/
theorem enterLoop_zero (s : State) (last : Nat) : enterLoop s 0 last =
    { s with bundle := { s.bundle with skipLoop := some ((me s).pc + BitVec.ofNat 64 (64 * last) + 64) } } := rfl

/-- A loop of some rounds is entered. -/
theorem enterLoop_pos (s : State) {count : Nat} (h : count ≠ 0) (last : Nat) : enterLoop s count last =
    { s with bundle := { s.bundle with
      pushed := some { start := (me s).pc + 64, last := (me s).pc + BitVec.ofNat 64 (64 * last), remaining := count } } } := if_neg h

theorem loopi_wf_ne_zero {n : BitVec 16} {last : BitVec 21} (h : (Instr.loopi n last).wf = true) : n ≠ 0 := by
  rintro rfl
  cases h

/-! ### The next pc (R130) -/

/-- Where no slot branches, enters or passes a loop, the loop stack decides. -/
theorem nextPc_loopBack (c : Ctx) {b : Bundle} (ht : b.target = none) (hp : b.pushed = none) (hs : b.skipLoop = none) :
    nextPc c b = loopBack c.pc c.loops := by
  rw [nextPc, ht, hp, hs]

theorem loopBack_again {pc : Word} {e : LoopEnt} (es : List LoopEnt) (hl : e.last = pc) (hr : 1 < e.remaining) :
    loopBack pc (e :: es) = (e.start, { e with remaining := e.remaining - 1 } :: es) := by
  rw [loopBack, if_pos hl, if_pos hr]

theorem loopBack_over {pc : Word} {e : LoopEnt} (es : List LoopEnt) (hl : e.last = pc) (hr : e.remaining ≤ 1) :
    loopBack pc (e :: es) = loopBack pc es := by
  rw [loopBack, if_pos hl, if_neg (Nat.not_lt.2 hr)]

theorem loopBack_inside {pc : Word} {e : LoopEnt} (es : List LoopEnt) (hl : e.last ≠ pc) :
    loopBack pc (e :: es) = (pc + 64, e :: es) := by
  rw [loopBack, if_neg hl]

/-! ### The loops that a taken branch leaves (R130) -/

/-- The target lies in the loop. -/
def LoopEnt.holds (t : Word) (e : LoopEnt) : Prop := e.start.toNat ≤ t.toNat ∧ t.toNat ≤ e.last.toNat

/-- Either every entry holds the target and all stay, or what stays is what stays of the enclosing loops. -/
theorem popOutside_cons (t : Word) (e : LoopEnt) (es : List LoopEnt) :
    popOutside t (e :: es) = e :: es ∧ e.holds t ∧ es.length ≤ (popOutside t es).length ∨
    popOutside t (e :: es) = popOutside t es ∧ (¬ e.holds t ∨ (popOutside t es).length < es.length) := by
  rw [popOutside]
  split
  case isTrue h =>
    refine .inr ⟨rfl, ?_⟩
    simp only [Bool.or_eq_true, decide_eq_true_eq] at h
    exact h.imp (fun ho hh => by obtain ⟨h1, h2⟩ := hh; omega) id
  case isFalse h =>
    simp only [Bool.or_eq_true, decide_eq_true_eq, not_or, Nat.not_lt] at h
    exact .inl ⟨rfl, h.1, h.2⟩

theorem popOutside_length_le (t : Word) (l : List LoopEnt) : (popOutside t l).length ≤ l.length := by
  induction l with
  | nil => exact Nat.le_refl _
  | cons e es ih =>
    obtain ⟨hp, -⟩ | ⟨hp, -⟩ := popOutside_cons t e es
    · rw [hp]
    · rw [hp]
      exact Nat.le_succ_of_le ih

/-- What stays is an end of the loop stack. -/
theorem popOutside_suffix (t : Word) (l : List LoopEnt) : popOutside t l <:+ l := by
  induction l with
  | nil => exact List.suffix_refl _
  | cons e es ih =>
    obtain ⟨hp, -⟩ | ⟨hp, -⟩ := popOutside_cons t e es
    · rw [hp]
    · rw [hp]
      exact ih.trans (List.suffix_cons e es)

/-- Every entry that stays holds the target. -/
theorem holds_of_mem_popOutside {t : Word} {l : List LoopEnt} : ∀ e ∈ popOutside t l, e.holds t := by
  induction l with
  | nil => simp [popOutside]
  | cons e es ih =>
    obtain ⟨hp, he, hlen⟩ | ⟨hp, -⟩ := popOutside_cons t e es
    · have hes : popOutside t es = es := (popOutside_suffix t es).eq_of_length_le hlen
      rw [hp, List.forall_mem_cons]
      rw [hes] at ih
      exact ⟨he, ih⟩
    · rw [hp]
      exact ih

/-- An end of the stack whose entries all hold the target is no longer than what stays. -/
theorem length_le_popOutside {t : Word} {l m : List LoopEnt} (hm : m <:+ l) (hh : ∀ e ∈ m, e.holds t) :
    m.length ≤ (popOutside t l).length := by
  induction l generalizing m with
  | nil => simpa [popOutside] using hm
  | cons e es ih =>
    obtain rfl | hs := List.suffix_cons_iff.1 hm
    · obtain ⟨hp, -⟩ | ⟨-, hn | hlt⟩ := popOutside_cons t e es
      · rw [hp]
      · exact absurd (hh e List.mem_cons_self) hn
      · exact absurd (ih (List.suffix_refl es) fun x hx => hh x (List.mem_cons_of_mem e hx)) (Nat.not_le.2 hlt)
    · obtain ⟨hp, -⟩ | ⟨hp, -⟩ := popOutside_cons t e es
      · rw [hp]
        exact hm.length_le
      · rw [hp]
        exact ih hs hh

/-- Settles O15: the instructions by their effect in an open bundle, the next pc by the loop stack, what stays by `popOutside`. -/
theorem branchesAndLoopEntries : Obligations.BranchesAndLoopEntries := by
  unfold Obligations.BranchesAndLoopEntries
  refine ⟨exec_branches_open, fun s sa last n ho => ⟨fun h => ?_, fun h => ?_, fun h => ?_, loopi_wf_ne_zero⟩,
    fun c b e es => ⟨fun t ht => ?_, fun p ht hp => ?_, fun a ht hp hs => ?_, fun ht hp hs => ?_⟩,
    fun t l => ⟨?_, holds_of_mem_popOutside, fun k hk => length_le_popOutside (List.drop_suffix k l) hk⟩⟩
  · rw [exec_loop_open sa last ho, enterLoop_pos s (by simpa [← BitVec.toNat_inj] using h)]
  · rw [exec_loop_open sa last ho, h]
    rfl
  · rw [exec_loopi_open n last ho, enterLoop_pos s (by simpa [← BitVec.toNat_inj] using h)]
  · rw [nextPc, ht]
  · rw [nextPc, ht, hp]
  · rw [nextPc, ht, hp, hs]
  · simp only [nextPc_loopBack _ ht hp hs]
    refine ⟨fun hl he hr => ?_, fun hl he hr => ?_, fun hl he => ?_, fun hl => ?_⟩
    · rw [hl, loopBack_again es he hr]
    · rw [hl, loopBack_over es he hr]
    · rw [hl, loopBack_inside es he]
    · rw [hl, loopBack]
  · obtain ⟨m, hm⟩ := popOutside_suffix t l
    exact ⟨m.length, List.drop_left.symm.trans (congrArg (List.drop m.length) hm)⟩

end Sys2Proof.Machine

/-! ## Traps taken and returned from

What taking a trap in a strand leaves, with the core's handler idle or running, and what the return restores (O17).
-/
namespace Sys2Proof.Machine

theorem isDrone_strand {h : Nat} (hs : isStrand h = true) : isDrone h = false := by
  simp only [isStrand, Bool.and_eq_true, decide_eq_true_eq] at hs
  simp [isDrone, Nat.not_le.2 hs.1]

theorem isCallee_strand {h : Nat} (hs : isStrand h = true) : isCallee h = false := by
  simp [isCallee, isDrone_strand hs, isGuest_strand hs]

/-- No strand is its core's supervisor context. -/
theorem strand_ne_sup {h : Nat} (hs : isStrand h = true) : h ≠ 6 * coreOf h + 4 := by
  have := ctxNo_strand hs
  unfold ctxNo at this
  unfold coreOf
  omega

/-- A context stopped in a trap, with what the trap records (R95). -/
def Ctx.stopped (c : Ctx) (tpc : Word) (x : Trap) : Ctx :=
  { c with
    life := .trapped
    csr := { c.csr with tcause := BitVec.ofNat 64 x.cause, tpc := tpc, tslot := BitVec.ofNat 64 x.slots, tinfo := x.info } }

/-- The state in which a strand's trap waits for the handler. -/
def trapWaits (s : State) (h : Nat) (tpc : Word) (x : Trap) : State :=
  let s := modHart (modHart { s with bundle := Bundle.closed } h fun c => { c with csr := (c.stopped tpc x).csr }) h fun c =>
    { c with life := .trapped }
  modCore s (coreOf h) fun k => { k with trapQ := k.trapQ ++ [ctxNo h] }

/-- A trap in a strand waits for the handler, which it enters if it may. -/
theorem takeTrap_strand (s : State) {h : Nat} (hs : isStrand h = true) (tpc : Word) (x : Trap) :
    takeTrap s h tpc x = enterHandler (trapWaits s h tpc x) (coreOf h) := by
  unfold takeTrap
  rw [isCallee_strand hs, isSup_strand hs]
  rfl

@[simp] theorem hart_trapWaits_self (s : State) (h : Nat) (tpc : Word) (x : Trap) :
    hart (trapWaits s h tpc x) h = (hart s h).stopped tpc x := by
  simp [trapWaits, Ctx.stopped]

theorem hart_trapWaits_ne (s : State) {h g : Nat} (tpc : Word) (x : Trap) (hg : g ≠ h) :
    hart (trapWaits s h tpc x) g = hart s g := by
  simp [trapWaits, hart_modHart_ne _ _ _ _ hg]

@[simp] theorem core_trapWaits (s : State) (h : Nat) (tpc : Word) (x : Trap) :
    core (trapWaits s h tpc x) (coreOf h) = { core s (coreOf h) with trapQ := (core s (coreOf h)).trapQ ++ [ctxNo h] } := by
  simp [trapWaits]

@[simp] theorem mem_trapWaits (s : State) (h : Nat) (tpc : Word) (x : Trap) : (trapWaits s h tpc x).mem = s.mem := rfl

/-! ### The handler (R96) -/

/-- A handler that runs goes on. -/
theorem enterHandler_busy {s : State} {c : Nat} (hh : (core s c).handling = true) : enterHandler s c = s := by
  unfold enterHandler
  split
  · rw [if_pos hh]
  · rfl

/-- A handler that no trap waits for is not entered. -/
theorem enterHandler_none {s : State} {c : Nat} (hq : (core s c).trapQ = []) : enterHandler s c = s := by
  unfold enterHandler
  rw [hq]

/-- An idle handler takes the trap that has waited longest. -/
theorem enterHandler_idle {s : State} {c x : Nat} {rest : List Nat} (hq : (core s c).trapQ = x :: rest)
    (hh : (core s c).handling = false) : enterHandler s c =
      modHart (modCore s c fun k => { k with trapQ := rest, handling := true, tsrc := BitVec.ofNat 64 x }) (6 * c + 4)
        fun y => { y with life := .running, pc := (core s c).tvec &&& ~~~0x3F#64, leaving := false } := by
  unfold enterHandler
  rw [hq, hh]
  simp

/-! ### The return (R97) -/

/-- A strand as the return from its trap lets it go on. -/
def Ctx.resumed (y : Ctx) (tskip : Word) : Ctx :=
  { y with
    life := if y.leaving then .exited else .running
    pc := y.csr.tpc &&& ~~~0x3F#64
    skip := tskip.setWidth 8
    spCount := 0 }

theorem Ctx.resumed_running {y : Ctx} (hl : y.leaving = false) (tskip : Word) : y.resumed tskip =
    { y with life := .running, pc := y.csr.tpc &&& ~~~0x3F#64, skip := tskip.setWidth 8, spCount := 0 } := by
  rw [Ctx.resumed, hl]
  rfl

/-- The return to a context stopped in a trap, no trap waiting. -/
theorem returnTrap_trapped {s : State} {c x : Nat} (hx : x < 4) (hsrc : (core s c).tsrc = BitVec.ofNat 64 x)
    (hq : (core s c).trapQ = []) (ht : (hart s (6 * c + x)).life = .trapped) : returnTrap s c =
      modHart (modCore (modHart s (6 * c + x) fun y => y.resumed (core s c).tskip) c
        fun k => { k with tskip := 0, handling := false }) (6 * c + 4) fun y => { y with life := .idle } := by
  have hn : (core s c).tsrc.toNat % 8 = x := by
    rw [hsrc, BitVec.toNat_ofNat]
    omega
  unfold returnTrap
  dsimp only
  rw [hn, if_pos ht]
  exact enterHandler_none (by simpa using hq)

theorem hart_returnTrap_trapped {s : State} {c x : Nat} (hx : x < 4) (hsrc : (core s c).tsrc = BitVec.ofNat 64 x)
    (hq : (core s c).trapQ = []) (ht : (hart s (6 * c + x)).life = .trapped) :
    hart (returnTrap s c) (6 * c + x) = (hart s (6 * c + x)).resumed (core s c).tskip := by
  have hne : 6 * c + x ≠ 6 * c + 4 := by omega
  rw [returnTrap_trapped hx hsrc hq ht, hart_modHart_ne _ _ _ _ hne, hart_modCore, hart_modHart_self]

/-- Settles O17: entry where the handler is idle, the wait where it runs, and the return, each by its lemma. -/
theorem trapEntry : Obligations.TrapEntry := by
  unfold Obligations.TrapEntry
  refine ⟨fun s h tpc x hs hh hq => ?_, fun s h tpc x hs hh => ?_, fun s c x hx hsrc hq ht hl => ?_⟩
  · have hsup := strand_ne_sup hs
    have he : takeTrap s h tpc x = _ := (takeTrap_strand s hs tpc x).trans
      (enterHandler_idle (x := ctxNo h) (rest := []) (by simp [hq]) (by simpa using hh))
    simp only [he]
    refine ⟨?_, ?_, ?_, ?_, ?_, ?_, ?_, ?_⟩
    · rw [hart_modHart_ne _ _ _ _ hsup, hart_modCore, hart_trapWaits_self]
      rfl
    · simp
    · simp
    · simp [hart_trapWaits_ne s tpc x hsup.symm]
    all_goals simp
  · have he : takeTrap s h tpc x = trapWaits s h tpc x :=
      (takeTrap_strand s hs tpc x).trans (enterHandler_busy (by simpa using hh))
    simp only [he]
    refine ⟨?_, ?_, hart_trapWaits_ne s tpc x (strand_ne_sup hs).symm, ?_⟩
    · rw [hart_trapWaits_self]
      rfl
    all_goals simp
  · refine ⟨(hart_returnTrap_trapped hx hsrc hq ht).trans (Ctx.resumed_running hl _), ?_, ?_, ?_, ?_⟩
    all_goals rw [returnTrap_trapped hx hsrc hq ht]
    all_goals simp

end Sys2Proof.Machine

/-! ## Nothing stops

Every instruction, every event and every step answers a next state (O60): a slot's instruction by how it issues, a micro-operation,
a command or an event by the cases of its own definition.
-/
namespace Sys2Proof.Machine

/-! ### Micro-operations and commands -/

theorem micro_next (f : State → MRun → State) (s : State) : ∃ t, micro f s = .next t := by
  fun_cases micro f s <;> exact ⟨_, rfl⟩

theorem command_next (s : State) (f : State → Option (State × Ans)) : ∃ t, command s f = .next t := by
  fun_cases command s f <;> exact ⟨_, rfl⟩

theorem commandVia_next (s : State) (ds : List Nat) (f : State → Option (State × Ans)) : ∃ t, commandVia s ds f = .next t := by
  unfold commandVia
  split
  · exact command_next s f
  · exact ⟨_, rfl⟩

theorem execLaunch_next (packet : Word) (s : State) : ∃ t, execLaunch packet s = .next t := by
  unfold execLaunch
  split
  · exact command_next s _
  · exact commandVia_next s _ _

/-! ### Instructions -/

/-- What is no slot's instruction answers a next state in every case of its meaning. -/
theorem exec_next_of_noSlot (i : Instr) (hi : slotOf i = none) (s : State) : ∃ t, exec i s = .next t := by
  cases i with
  | globalLoadComplete h k =>
    rw [exec_globalLoadComplete]
    fun_cases execGlobalLoadComplete h k s <;> exact ⟨_, rfl⟩
  | functionOpComplete h =>
    rw [exec_functionOpComplete]
    fun_cases execFunctionOpComplete h s <;> exact ⟨_, rfl⟩
  | matrixCallStart c =>
    rw [exec_matrixCallStart]
    fun_cases execMatrixCallStart c s <;> exact ⟨_, rfl⟩
  | matrixCallResume c =>
    rw [exec_matrixCallResume]
    fun_cases execMatrixCallResume c s <;> exact ⟨_, rfl⟩
  | mploadApply c =>
    rw [exec_mploadApply]
    fun_cases execMploadApply c s <;> exact ⟨_, rfl⟩
  | agset g pb w pe pl px off pitch s0 s1 s2 => exact micro_next _ s
  | agmc g mode members src => exact micro_next _ s
  | mzero =>
    rw [exec_mzero, execMzero]
    exact micro_next _ s
  | mma fa fb xv => exact micro_next _ s
  | mloop l src p last count => exact micro_next _ s
  | mend l => exact micro_next _ s
  | mout => exact micro_next _ s
  | mcount l p rd cap off => exact micro_next _ s
  | myield =>
    rw [exec_myield, execMyield]
    exact micro_next _ s
  | mstop => exact micro_next _ s
  | multicastTimeout c =>
    rw [exec_multicastTimeout]
    fun_cases execMulticastTimeout c s <;> exact ⟨_, rfl⟩
  | loadComplete h k =>
    rw [exec_loadComplete]
    fun_cases execLoadComplete h k s <;> exact ⟨_, rfl⟩
  | remoteAccessPerform h k =>
    rw [exec_remoteAccessPerform]
    fun_cases execRemoteAccessPerform h k s <;> exact ⟨_, rfl⟩
  | copyComplete h ch k =>
    rw [exec_copyComplete]
    fun_cases execCopyComplete h ch k s <;> exact ⟨_, rfl⟩
  | copyFault h ch k =>
    rw [exec_copyFault]
    fun_cases execCopyFault h ch k s <;> exact ⟨_, rfl⟩
  | indexProducerPush h q =>
    rw [exec_indexProducerPush]
    fun_cases execIndexProducerPush h q s <;> exact ⟨_, rfl⟩
  | dqryComplete h =>
    rw [exec_dqryComplete]
    fun_cases execDqryComplete h s <;> exact ⟨_, rfl⟩
  | remoteCallStart h => exact ⟨_, rfl⟩
  | replyArrival h k =>
    rw [exec_replyArrival]
    fun_cases execReplyArrival h k s <;> exact ⟨_, rfl⟩
  | replyTimeout h k =>
    rw [exec_replyTimeout]
    fun_cases execReplyTimeout h k s <;> exact ⟨_, rfl⟩
  | callRunLimit h =>
    rw [exec_callRunLimit]
    fun_cases execCallRunLimit h s <;> exact ⟨_, rfl⟩
  | sequencerComplete d =>
    rw [exec_sequencerComplete]
    fun_cases execSequencerComplete d s <;> exact ⟨_, rfl⟩
  | sequencerStop d =>
    rw [exec_sequencerStop]
    fun_cases execSequencerStop d s <;> exact ⟨_, rfl⟩
  | sequencerSuspend d =>
    rw [exec_sequencerSuspend]
    fun_cases execSequencerSuspend d s <;> exact ⟨_, rfl⟩
  | sequencerResume d =>
    rw [exec_sequencerResume]
    fun_cases execSequencerResume d s <;> exact ⟨_, rfl⟩
  | ordinaryAccessArrival d => exact ⟨_, rfl⟩
  | bmacComplete d =>
    rw [exec_bmacComplete]
    fun_cases execBmacComplete d s <;> exact ⟨_, rfl⟩
  | postedWriteDrain d =>
    rw [exec_postedWriteDrain]
    fun_cases execPostedWriteDrain d s <;> exact ⟨_, rfl⟩
  | strandEnd h =>
    rw [exec_strandEnd]
    fun_cases execStrandEnd h s <;> exact ⟨_, rfl⟩
  | trapEntry core => exact ⟨_, rfl⟩
  | safePointOverrun h =>
    rw [exec_safePointOverrun]
    fun_cases execSafePointOverrun h s <;> exact ⟨_, rfl⟩
  | quantumCommit l =>
    rw [exec_quantumCommit]
    fun_cases execQuantumCommit l s <;> exact ⟨_, rfl⟩
  | qwQuantumEnd h =>
    rw [exec_qwQuantumEnd]
    fun_cases execQwQuantumEnd h s <;> exact ⟨_, rfl⟩
  | qbQuantumEnd h =>
    rw [exec_qbQuantumEnd]
    fun_cases execQbQuantumEnd h s <;> exact ⟨_, rfl⟩
  | promotionCopyDone k =>
    rw [exec_promotionCopyDone]
    fun_cases execPromotionCopyDone k s <;> exact ⟨_, rfl⟩
  | contextTakeWork h =>
    rw [exec_contextTakeWork]
    fun_cases execContextTakeWork h s <;> exact ⟨_, rfl⟩
  | stagingComplete l n =>
    rw [exec_stagingComplete]
    fun_cases execStagingComplete l n s <;> exact ⟨_, rfl⟩
  | agingTick d => exact ⟨_, rfl⟩
  | clusterReserve d =>
    rw [exec_clusterReserve]
    fun_cases execClusterReserve d s <;> exact ⟨_, rfl⟩
  | preemptRequest d k =>
    rw [exec_preemptRequest]
    fun_cases execPreemptRequest d k s <;> exact ⟨_, rfl⟩
  | strandSave h =>
    rw [exec_strandSave]
    fun_cases execStrandSave h s <;> exact ⟨_, rfl⟩
  | strandResume h =>
    rw [exec_strandResume]
    fun_cases execStrandResume h s <;> exact ⟨_, rfl⟩
  | targetedSelfTest src =>
    rw [exec_targetedSelfTest]
    fun_cases execTargetedSelfTest src s <;> exact ⟨_, rfl⟩
  | rowSelfTest pa =>
    rw [exec_rowSelfTest]
    fun_cases execRowSelfTest pa s <;> exact ⟨_, rfl⟩
  | digestAreaSelfTest keeper =>
    rw [exec_digestAreaSelfTest]
    fun_cases execDigestAreaSelfTest keeper s <;> exact ⟨_, rfl⟩
  | flitReceive link seqNo good payload =>
    rw [exec_flitReceive]
    fun_cases execFlitReceive link seqNo good payload s <;> exact ⟨_, rfl⟩
  | replayRequest link seqNo => exact ⟨_, rfl⟩
  | laneRetire link lane =>
    rw [exec_laneRetire]
    fun_cases execLaneRetire link lane s <;> exact ⟨_, rfl⟩
  | messageReceive src seqNo lseq q key granules adds notify =>
    rw [exec_messageReceive]
    fun_cases execMessageReceive src seqNo lseq q key granules adds notify s <;> exact ⟨_, rfl⟩
  | messageAck dst seqNo => exact ⟨_, rfl⟩
  | messageResend k =>
    rw [exec_messageResend]
    fun_cases execMessageResend k s <;> exact ⟨_, rfl⟩
  | doorbell v => exact ⟨_, rfl⟩
  | registerWrite off v => exact ⟨_, rfl⟩
  | launch packet => exact execLaunch_next packet s
  | map va w0 w1 attr =>
    rw [exec_map, execMap]
    exact command_next s _
  | unmap va =>
    rw [exec_unmap, execUnmap]
    exact command_next s _
  | hostcopy ha va len dir =>
    rw [exec_hostcopy]
    fun_cases execHostcopy ha va len dir s <;> exact ⟨_, rfl⟩
  | asfortMpload rtn ha =>
    rw [exec_asfortMpload, execAsfortMpload]
    exact command_next s _
  | region ha =>
    rw [exec_region, execRegion]
    exact commandVia_next s _ _
  | regionDelete ha =>
    rw [exec_regionDelete, execRegionDelete]
    exact command_next s _
  | tierset va frame =>
    rw [exec_tierset, execTierset]
    exact commandVia_next s _ _
  | checkpoint ha len =>
    rw [exec_checkpoint, execCheckpoint]
    exact commandVia_next s _ _
  | restore ha len =>
    rw [exec_restore, execRestore]
    exact commandVia_next s _ _
  | monitorArm src quantity w origin =>
    rw [exec_monitorArm, execMonitorArm]
    exact command_next s _
  | monitorRead src ha =>
    rw [exec_monitorRead, execMonitorRead]
    exact command_next s _
  | monitorClear src =>
    rw [exec_monitorClear, execMonitorClear]
    exact command_next s _
  | selftest src =>
    rw [exec_selftest, execSelftest]
    exact command_next s _
  | attest nonce report => exact ⟨_, rfl⟩
  | reset modno route matrixLib droneLib =>
    rw [exec_reset]
    fun_cases execReset modno route matrixLib droneLib s <;> exact ⟨_, rfl⟩
  | powerOn => exact ⟨_, rfl⟩
  | thermalLimit d hot =>
    rw [exec_thermalLimit]
    fun_cases execThermalLimit d hot s <;> exact ⟨_, rfl⟩
  | thermalTrip => exact ⟨_, rfl⟩
  | foragerGranuleWrite h ch k =>
    rw [exec_foragerGranuleWrite]
    fun_cases execForagerGranuleWrite h ch k s <;> exact ⟨_, rfl⟩
  | dscanComplete h q =>
    rw [exec_dscanComplete]
    fun_cases execDscanComplete h q s <;> exact ⟨_, rfl⟩
  | replyAcknowledgement h k =>
    rw [exec_replyAcknowledgement]
    fun_cases execReplyAcknowledgement h k s <;> exact ⟨_, rfl⟩
  | _ => cases hi

/-! ### Steps -/

theorem exec_next (i : Instr) (s : State) : ∃ t, exec i s = .next t := by
  cases hi : slotOf i with
  | none => exact exec_next_of_noSlot i hi s
  | some slot =>
    obtain ⟨eff, he⟩ := exec_issues i hi
    rw [he]
    exact issue_next i eff s

theorem runSlots_next (is : List Instr) (s : State) : ∃ t, runSlots is s = .next t := by
  induction is generalizing s with
  | nil => exact ⟨s, rfl⟩
  | cons i is ih =>
    obtain ⟨r, hr⟩ := exec_next i s
    simpa only [runSlots, hr] using ih r

theorem runBundle_next (is : List Instr) (s : State) : ∃ t, runBundle is s = .next t := by
  obtain ⟨r, hr⟩ := runSlots_next is s
  exact ⟨closeBundle r, by rw [runBundle, hr]⟩

theorem step_next (s : State) : ∃ t, step s = .next t := by
  unfold step
  split
  · exact ⟨_, rfl⟩
  · exact exec_next _ _
  · exact runBundle_next _ _

/-- Settles O60: an instruction goes on by how it issues or by its own cases, a step by its move. -/
theorem everythingGoesOn : Obligations.EverythingGoesOn := by
  unfold Obligations.EverythingGoesOn
  exact ⟨exec_next, step_next⟩

end Sys2Proof.Machine

/-! ## Steps and their bundles

What leaves the drones alone as a bundle is examined, the move of a core whose context goes on, and the events and the bundles of one
instruction (O4).
-/
namespace Sys2Proof.Machine

/-! ### Drones that a bundle's examination leaves alone -/

@[simp] theorem drones_csrWrite (s : State) (h n : Nat) (v : Word) : (csrWrite s h n v).drones = s.drones := by
  fun_cases csrWrite s h n v <;> rfl

@[simp] theorem drones_landOne (s : State) (h : Nat) (f : Flight) : (landOne s h f).drones = s.drones := by
  obtain ⟨due, dst, flags⟩ := f
  cases dst
  case csr n v => exact drones_csrWrite s h n v
  all_goals rfl

@[simp] theorem drones_landDue (s : State) (h : Nat) : (landDue s h).drones = s.drones :=
  foldl_keeps State.drones (fun s f => drones_landOne s h f) _ s

@[simp] theorem drones_beforeIssue (s : State) (h : Nat) : (beforeIssue s h).drones = s.drones := drones_landDue _ h

@[simp] theorem drones_modByKey (s : State) (key : Word) (f : Ctx → Ctx) : (modByKey s key f).drones = s.drones :=
  foldl_keeps State.drones (f := fun s (e : Nat × Ctx) => modHart s e.1 f) (fun _ _ => rfl) _ s

@[simp] theorem drones_setGroup (s : State) (l k : Nat) (g : Group) : (setGroup s l k g).drones = s.drones := rfl

@[simp] theorem drones_closeRound (s : State) (l k : Nat) : (closeRound s l k).drones = s.drones := by
  unfold closeRound
  dsimp only
  split
  · exact foldl_keeps State.drones (f := fun s (a : Word × Nat) => modByKey s a.1 _) (fun s a => drones_modByKey s a.1 _) _ s
  · rfl

@[simp] theorem drones_arriveGroup (s : State) (l k : Nat) (key : Word) (ended : Nat) :
    (arriveGroup s l k key ended).drones = s.drones := drones_closeRound _ l k

@[simp] theorem drones_modStrands (s : State) (l : Nat) (f : Ctx → Ctx) : (modStrands s l f).drones = s.drones :=
  foldl_keeps State.drones (f := fun s (e : Nat × Ctx) => modHart s e.1 f) (fun _ _ => rfl) _ s

@[simp] theorem drones_failRounds (s : State) (l node : Nat) : (failRounds s l node).drones = s.drones :=
  foldl_keeps State.drones (fun s r => by split <;> simp) _ s

@[simp] theorem drones_arriveCbar (s : State) (l node member r ended : Nat) : (arriveCbar s l node member r ended).drones = s.drones := by
  unfold arriveCbar
  dsimp only
  split <;> simp

theorem drones_arriveWait_waitb (s : State) (k : BNo) : (arriveWait s (.waitb k)).drones = s.drones := by
  unfold arriveWait
  dsimp only
  generalize (me s).wait = w
  split
  · rfl
  · rcases w with _ | e | e | ⟨e, _ | r⟩ | r | _ <;> rfl

theorem drones_arriveWait_waitany (s : State) (sd : SReg) (m : Byte) : (arriveWait s (.waitany sd m)).drones = s.drones := by
  unfold arriveWait
  dsimp only
  generalize (me s).wait = w
  split
  · rfl
  · rcases w with _ | e | e | ⟨e, _ | r⟩ | r | _ <;> rfl

theorem drones_arriveWait_join (s : State) : (arriveWait s .join).drones = s.drones := by
  unfold arriveWait
  dsimp only
  generalize (me s).wait = w
  split
  · rfl
  · rcases w with _ | e | e | ⟨e, _ | r⟩ | r | _ <;> rfl

theorem drones_arriveWait_gbar (s : State) (g : BitVec 6) : (arriveWait s (.gbar g)).drones = s.drones := by
  unfold arriveWait
  dsimp only
  generalize (me s).wait = w
  split
  · rfl
  · rcases w with _ | e | e | ⟨e, _ | r⟩ | r | _
    · dsimp only
      split <;> simp
    all_goals rfl

theorem drones_arriveWait_cbar (s : State) : (arriveWait s .cbar).drones = s.drones := by
  unfold arriveWait
  dsimp only
  generalize (me s).wait = w
  generalize (me s).who.mate = mate
  split
  · rfl
  · rcases w with _ | e | e | ⟨e, _ | r⟩ | r | _
    case none =>
      cases mate
      case none => rfl
      case some =>
        dsimp only
        split <;> simp
    case cbar.zero =>
      cases mate
      case none => rfl
      case some m =>
        change (if fenceClear s s.cur then arriveCbar _ _ _ m _ _ else s).drones = _
        split <;> simp
    all_goals rfl

/-- A wait that arrives changes contexts, launches, pools and the waiters of its core. -/
theorem drones_arriveWait (s : State) {i : Instr} (hi : isWait i = true) : (arriveWait s i).drones = s.drones := by
  cases i with
  | waitb k => exact drones_arriveWait_waitb s k
  | waitany sd m => exact drones_arriveWait_waitany s sd m
  | join => exact drones_arriveWait_join s
  | gbar g => exact drones_arriveWait_gbar s g
  | cbar => exact drones_arriveWait_cbar s
  | _ => cases hi

theorem drones_foldl_arriveWait (is : List Instr) (s : State) : ((is.filter isWait).foldl arriveWait s).drones = s.drones := by
  induction is generalizing s with
  | nil => rfl
  | cons i is ih =>
    cases hi : isWait i with
    | false => rw [List.filter_cons_of_neg (by simp [hi]), ih]
    | true => rw [List.filter_cons_of_pos hi, List.foldl_cons, ih, drones_arriveWait s hi]

/-- A served wait with FLT changes its barrier and its context. -/
theorem drones_faultedWait {s t : State} {i : Instr} {f : SlotFlt} (h : faultedWait s i = some (t, f)) : t.drones = s.drones := by
  unfold faultedWait at h
  split at h
  · cases h
  · dsimp only at h
    split at h
    · cases h
      split <;> rfl
    · cases h

/-- Free channels are a matter of the drones alone. -/
theorem channelsFree_of_drones {s t : State} (h : t.drones = s.drones) (hs : s.channelsFree) : t.channelsFree := by
  intro d
  have hd : drone t d = drone s d := congrArg (fun x => tget Drone.reset x d) h
  rw [hd]
  exact hs d

/-- A bundle that passes free channels goes. -/
theorem passChannels_free {s : State} (hs : s.channelsFree) (h : Nat) (is : List Instr) : passChannels s h is = (s, .go) := by
  simp [passChannels, seekAll_free hs]

/-- A bundle that may go finds the channels as they were. -/
theorem channelsFree_judge {s v : State} {h : Nat} {m : Option Mode} {l : List SlotIn} (hj : judge s h m l = (v, .go))
    (hs : s.channelsFree) : v.channelsFree := by
  have harr := channelsFree_of_drones (drones_foldl_arriveWait (instrsOf l) s) hs
  unfold judge at hj
  split at hj
  · cases hj
  split at hj
  · cases hj
  split at hj
  · cases hj
  dsimp only at hj
  generalize ((instrsOf l).filter isWait).foldl arriveWait s = r at harr hj
  split at hj
  · cases hj
  split at hj
  · cases hj
  cases hw : (instrsOf l).findSome? (faultedWait r) with
  | none =>
    rw [hw] at hj
    dsimp only at hj
    split at hj
    · cases hj
    · rw [passChannels_free harr] at hj
      cases hj
      exact harr
  | some w =>
    obtain ⟨i, -, hi⟩ := List.exists_of_findSome?_eq_some hw
    have hfree := channelsFree_of_drones (drones_faultedWait hi) harr
    rw [hw] at hj
    dsimp only at hj
    split at hj
    · cases hj
    · rw [passChannels_free hfree] at hj
      cases hj
      exact hfree

/-! ### The turn of a core -/

/-- No call starts where a context runs. -/
theorem startCall_running {s : State} {h : Nat} (hr : (hart s h).life = .running) : startCall s h = s := by
  simp [startCall, hr]

/-- The first context that runs and whose bundle may go opens it. -/
theorem tryContexts_go {s : State} {c x : Nat} (xs : List Nat) (hr : (hart s (6 * c + x)).life = .running)
    (hrom : x = 4 → inRom s c = false) (hv : (examine s (6 * c + x)).verdict = .go) :
    let e := examine s (6 * c + x)
    tryContexts s c (x :: xs) = .bundle (openBundle e.state e.mode e.instrs) e.instrs := by
  have hs : (if x = 5 then startCall s (6 * c + x) else s) = s := by
    split
    · exact startCall_running hr
    · rfl
  have hx : (x == 4 && inRom s c) = false := by
    by_cases h4 : x = 4
    · simp [hrom h4]
    · simp [h4]
  unfold tryContexts
  simp only [hs, hr, hx, hv]
  rfl

/-- The examination of slots whose bundle may go. -/
theorem examineSlots_go {s v : State} {h : Nat} {m : Option Mode} {l : List SlotIn} (hj : judge s h m (skipSlots (hart s h) l) = (v, .go)) :
    examineSlots s h m l =
      { state := v, verdict := .go, mode := m.getD Mode.zero, instrs := instrsOf (skipSlots (hart s h) l) } := by
  unfold examineSlots
  dsimp only
  rw [hj]

/-- The examination of a bundle that the channels let pass, once its line is fetched. -/
theorem examine_fetched {s v : State} {h : Nat} {b : Line} (he : early s h = none) (hs : s.channelsFree)
    (hf : fetch (beforeIssue s h) h = .ok b)
    (hj : judge (beforeIssue s h) h (decodeMode (modeByte b)) (skipSlots (hart (beforeIssue s h) h) (decodeBundle b)) = (v, .go)) :
    examine s h = { state := v, verdict := .go, mode := (decodeMode (modeByte b)).getD Mode.zero,
                    instrs := instrsOf (skipSlots (hart (beforeIssue s h) h) (decodeBundle b)) } := by
  have hr : (beforeIssue s h).channelsFree := channelsFree_of_drones (drones_beforeIssue s h) hs
  have hx := examineSlots_go hj
  unfold examine
  rw [he]
  dsimp only
  rw [hf]
  dsimp only
  rw [afterFetch_free hr h _ (by rw [hx]; exact channelsFree_judge hj hr), hx]

/-- Where a core's issuing context may go, its bundle opens. -/
theorem coreTurn_go {s v : State} {c x : Nat} {b : Line} (hc : (core s c).faulted = false) (hi : (core s c).issuing = some x)
    (hr : (hart s (6 * c + x)).life = .running) (hrom : x = 4 → inRom s c = false) (he : early s (6 * c + x) = none)
    (hs : s.channelsFree) (hf : fetch (beforeIssue s (6 * c + x)) (6 * c + x) = .ok b) :
    let h := 6 * c + x
    let l := skipSlots (hart (beforeIssue s h) h) (decodeBundle b)
    judge (beforeIssue s h) h (decodeMode (modeByte b)) l = (v, .go) →
    coreTurn s c = .bundle (openBundle v ((decodeMode (modeByte b)).getD Mode.zero) (instrsOf l)) (instrsOf l) := by
  intro h l hj
  have hx := examine_fetched he hs hf hj
  have hk : candidates (core s c) = x :: ([4, 5] ++ (List.range 4).map fun i => ((core s c).last + 1 + i) % 4) := by
    rw [candidates, hi]
  unfold coreTurn
  rw [hc, hk, if_neg (by decide), tryContexts_go _ hr hrom (by rw [hx])]
  rw [hx]

/-! ### Moves -/

/-- The state in which a move takes place: its turn is used up and messages left waiting have applied. -/
def moving (s : State) : State := settleMsgs { s with turn := none, tick := s.tick + 1, bundle := Bundle.closed }

theorem turnOf_named {s : State} {t : Turn} (h : s.turn = some t) : turnOf s = t := by
  rw [turnOf, h]
  rfl

/-- A turn of something that the module has not moves nothing. -/
theorem step_refused {s : State} {t : Turn} (h : s.turn = some t) (hm : mayMove (moving s) t = false) : step s = .next (moving s) := by
  have hmove : move s = .done (moving s) := by
    unfold move
    dsimp only
    rw [turnOf_named h, ← moving, hm]
    rfl
  rw [step, hmove]

/-- The turn of a core is its choice of context. -/
theorem move_core {s : State} {c : Nat} (h : s.turn = some (.core c)) (hm : mayMove (moving s) (.core c) = true) :
    move s = coreTurn (moving s) c := by
  unfold move
  dsimp only
  rw [turnOf_named h, ← moving, hm]
  rfl

/-- The turn of an event executes it. -/
theorem move_event {s : State} {i : Instr} (h : s.turn = some (.event i)) (hm : mayMove (moving s) (.event i) = true) :
    move s = .single (moving s) i := by
  unfold move
  dsimp only
  rw [turnOf_named h, ← moving, hm]
  rfl

/-! ### A bundle of one instruction -/

/-- An instruction alone that may go has the effect of its slot between the opening and the closing of its bundle. -/
theorem exec_alone_go {t : Slot} {i : Instr} {s : State} (hi : slotOf i = some t) (ho : s.bundle.isOpen = false)
    (hv : (examineAlone s i).verdict = .go) (hl : (examineAlone s i).instrs = [i]) :
    exec i s = runBundle [i] (openBundle (examineAlone s i).state (examineAlone s i).mode [i]) := by
  obtain ⟨eff, he⟩ := exec_issues i hi
  simp only [runBundle, runSlots, he, issue_alone i eff ho hv hl, issue_open i eff (isOpen_openBundle _ _ _)]

/-- Settles O4: the turn of a core by its issuing context's examination, an event's by its move, an instruction alone by `issue`. -/
theorem stepRunsDecoded : Obligations.StepRunsDecoded := by
  unfold Obligations.StepRunsDecoded
  refine ⟨?_, fun s i c => ⟨fun ht hi hd => ?_, ?_⟩, fun t i s hi ho => ⟨?_, fun x hv => ?_, fun hv => ?_⟩⟩
  · intro s c x b v q h r l ht hc hd hfault hissue hrun hrom hearly hfree hfetch hj
    have hm : mayMove (moving s) (.core c) = true := by
      change (moving s).host.devState = 1 at hd
      simp [mayMove, Config.cores, hc, hd]
    have hmove := (move_core ht hm).trans (coreTurn_go hfault hissue hrun hrom hearly hfree hfetch hj)
    rw [step, hmove]
    rfl
  · have hm : mayMove (moving s) (.event i) = true := by
      simp only [mayMove, hi, Bool.true_and, Bool.or_eq_true, beq_iff_eq]
      exact .inl hd
    rw [step, move_event ht hm]
    rfl
  · rintro (⟨ht, hc⟩ | ⟨ht, hc⟩)
    · exact step_refused ht (by simp [mayMove, Config.cores, Nat.not_lt.2 hc])
    · exact step_refused ht (by simp [mayMove, Config.drones, Nat.not_lt.2 hc])
  · exact exec_alone_go hi ho
  · obtain ⟨eff, he⟩ := exec_issues i hi
    rw [he, issue_traps i eff ho hv]
  · obtain ⟨eff, he⟩ := exec_issues i hi
    rw [he, issue_blocked i eff ho hv]

end Sys2Proof.Machine

/-! ## ILL

How a bundle of one instruction is examined, what its decode faults are, and ILL's trap from them (O19).
-/
namespace Sys2Proof.Machine

/-! ### A bundle of one instruction -/

/-- No slot is skipped where TSKIP marked none. -/
theorem skipSlots_none {c : Ctx} (h : c.skip = 0) (l : List SlotIn) : skipSlots c l = l := by
  simp [skipSlots, h]

/-- What the examination of an instruction alone answers: `judge` of its one slot, where nothing stopped it before and no slot is skipped. -/
theorem examineAlone_eq {s : State} (he : early s s.cur = none) (hk : (hart (beforeIssue s s.cur) s.cur).skip = 0) (i : Instr) :
    let l := [SlotIn.one s.bundle.mode.sp i]
    let j := judge (beforeIssue s s.cur) s.cur (some s.bundle.mode) l
    examineAlone s i = { state := j.1, verdict := j.2, mode := s.bundle.mode, instrs := instrsOf l } := by
  unfold examineAlone
  dsimp only
  rw [he]
  dsimp only [examineSlots]
  rw [skipSlots_none hk]
  rfl

/-- The trap of one faulting slot. -/
theorem trapOf_singleton (k cause : Nat) (info : Word) :
    trapOf [(k, cause, info)] = some { cause := cause, slots := 2 ^ k, info := info } := by
  simp [trapOf, sortBy, insertBy]

/-- A slot that holds what is illegal in its context has the one fault 0x01. -/
theorem slotFault_illegalHere {h : Nat} (c : Ctx) {m : Mode} {i : Instr} (hi : illegalHere h m i = true) (others : List Use) :
    slotFault h c m (.ok i) (some i) others = some (0x01, 0) := by
  simp [slotFault, hi]

/-- A decode fault goes before whatever would block the bundle (R28). -/
theorem judge_decodeFault {s : State} {h : Nat} {m : Option Mode} {l : List SlotIn} {t : Trap}
    (ht : trapOf (decodeFaults h (hart s h) m l) = some t) : judge s h m l = (s, .trap t) := by
  rw [judge, ht]

/-! ### ILL in every slot -/

theorem slotIn_one_ill (sp : Bool) (t : Slot) :
    SlotIn.one sp (.ill t) = { slot := t, sp := sp, dec := .ok (.ill t), raw := some (.ill t) } := by
  cases t <;> rfl

theorem decodeFaults_ill (h : Nat) (c : Ctx) (m : Mode) (sp : Bool) (t : Slot) :
    decodeFaults h c (some m) [SlotIn.one sp (.ill t)] = [(t.index, 0x01, 0)] := by
  rw [slotIn_one_ill]
  simp [decodeFaults, slotFault, illegalHere]

/-- ILL alone takes its trap. -/
theorem exec_ill_alone (t : Slot) {s : State} (ho : s.bundle.isOpen = false) (he : early s s.cur = none)
    (hk : (hart (beforeIssue s s.cur) s.cur).skip = 0) :
    exec (.ill t) s = .next (trapBundle (beforeIssue s s.cur) s.cur { cause := 0x01, slots := 2 ^ t.index, info := 0 }) := by
  have hj := judge_decodeFault (s := beforeIssue s s.cur) (m := some s.bundle.mode) ((congrArg trapOf
    (decodeFaults_ill s.cur (hart (beforeIssue s s.cur) s.cur) s.bundle.mode s.bundle.mode.sp t)).trans (trapOf_singleton _ _ _))
  have hx := examineAlone_eq he hk (.ill t)
  simp only [hj] at hx
  rw [exec_ill, execIll, issue_traps _ _ ho (by rw [hx]), hx]

/-- The opcode of ILL names it whatever the other bits hold. -/
theorem decodeSlot_opcode_ff (t : Slot) (w : Word) (h : Sys2Proof.fld w 56 8 = 0xFF) : decodeSlot t w = .ok (.ill t) := by
  have hr : rawSlot t w = some (.ill t) := if_pos (by simp [h])
  rw [decodeSlot, hr]
  rfl

/-- Settles O19: ILL's decode fault is the only one of its bundle, and its opcode alone decodes to it. -/
theorem illTraps : Obligations.IllTraps := by
  unfold Obligations.IllTraps
  exact fun t s ho he hk => ⟨exec_ill_alone t ho he hk, decodeSlot_opcode_ff t⟩

end Sys2Proof.Machine

/-! ## Bundles without a wait

What the verdict on a bundle turns on where none of its instructions waits; what stops a strand's bundle before it is looked at, and an
ADD as a bundle of its own (O21).
-/
namespace Sys2Proof.Machine

/-! ### Before the operands -/

theorem early_spmax {s : State} {h : Nat} (hs : isStrand h = true) (hr : (hart s h).stopReq = false)
    (hc : (hart s h).csr.spmax.toNat ≤ (hart s h).spCount) : early s h = some (.trap { cause := 0x10, slots := 0, info := 0 }) := by
  simp [early, hs, hr, hc, earlyTrap]

theorem early_strand_none {s : State} {h : Nat} (hs : isStrand h = true) (hr : (hart s h).stopReq = false)
    (hc : (hart s h).spCount < (hart s h).csr.spmax.toNat) : early s h = none := by
  simp [early, hs, hr, hc]

@[simp] theorem trapOf_nil : trapOf [] = none := rfl

/-- A strand that runs ahead of its commits blocks before its operands are looked at (R326). -/
theorem judge_runAhead {s : State} {h : Nat} {m : Option Mode} {l : List SlotIn} (hs : isStrand h = true)
    (hr : (hart s h).stopReq = false) (hd : decodeFaults h (hart s h) m l = []) (hq : runAheadBlocked s (hart s h) = true) :
    judge s h m l = (s, .block) := by
  simp [judge, hd, hr, hs, hq]

/-! ### Operands, engines and slot traps -/

/-- The faults of the slots of a bundle whose instructions are all there, by slot. -/
def slotTraps (s : State) (h : Nat) (l : List SlotIn) : List SlotFlt := l.filterMap fun x => match x.dec with
  | .ok i => (issueTrap s h i).map fun t => (x.slot.index, t)
  | _ => none

/-- An operand or an engine of the instruction blocks its bundle. -/
def holdsUp (s : State) (h : Nat) (i : Instr) : Bool := (useIn h i).blocks (hart s h) || engineBlocks s h i

/-- Only a wait can be served. -/
theorem faultedWait_noWait (s : State) {i : Instr} (hi : isWait i = false) : faultedWait s i = none := by
  have hserved : served s i = none := by
    cases i with
    | waitb k => cases hi
    | waitany sd m => cases hi
    | _ => rfl
  unfold faultedWait
  rw [hserved]

theorem findSome_faultedWait_noWait (s : State) {is : List Instr} (hw : ∀ i ∈ is, isWait i = false) :
    is.findSome? (faultedWait s) = none :=
  List.findSome?_eq_none_iff.2 fun i hi => faultedWait_noWait s (hw i hi)

theorem filter_isWait_noWait {is : List Instr} (hw : ∀ i ∈ is, isWait i = false) : is.filter isWait = [] :=
  List.filter_eq_nil_iff.2 fun i hi => by simp [hw i hi]

/-- A bundle past its decode faults, without a wait: it is held up, or traps, or passes its channels. -/
theorem judge_noWait {s : State} {h : Nat} {m : Option Mode} {l : List SlotIn} (hd : decodeFaults h (hart s h) m l = [])
    (hw : ∀ i ∈ instrsOf l, isWait i = false) (hr : (hart s h).stopReq = false)
    (hq : isStrand h = true → runAheadBlocked s (hart s h) = false) : judge s h m l =
      if (instrsOf l).any (holdsUp s h) then (s, .block) else
        match trapOf (slotTraps s h l) with
        | some t => (s, .trap t)
        | none => passChannels s h (instrsOf l) := by
  have hahead : (isStrand h && runAheadBlocked s (hart s h)) = false := by
    cases hs : isStrand h
    · rfl
    · rw [hq hs]
      rfl
  unfold judge
  rw [hd, trapOf_nil]
  simp only [hr, hahead, filter_isWait_noWait hw, List.foldl_nil, findSome_faultedWait_noWait s hw]
  rfl

/-- A bundle past its decode faults, without a wait, that an operand or an engine holds up. -/
theorem judge_blocks {s : State} {h : Nat} {m : Option Mode} {l : List SlotIn} (hd : decodeFaults h (hart s h) m l = [])
    (hw : ∀ i ∈ instrsOf l, isWait i = false) (hb : (instrsOf l).any (holdsUp s h) = true) : (judge s h m l).2 = .block := by
  unfold judge
  rw [hd, trapOf_nil]
  simp only [filter_isWait_noWait hw, List.foldl_nil]
  split
  · rfl
  split
  · rfl
  · exact congrArg Prod.snd (if_pos hb)

/-! ### An ADD alone -/

/-- A bundle at whose issue nothing is in flight finds the state as it is. -/
theorem landDue_noFlight {s : State} {h : Nat} (hf : (hart s h).flight = []) : landDue s h = setHart s h (hart s h) := by
  have hc : { hart s h with flight := [] } = hart s h := by
    rw [← hf]
  simp only [landDue, hf, List.filter_nil, List.foldl_nil, modHart, hc]

theorem hart_setHart_own (s : State) (h g : Nat) : hart (setHart s h (hart s h)) g = hart s g := by
  rw [hart_setHart]
  split
  · subst_vars
    rfl
  · rfl

theorem slotIn_one_add (sp : Bool) (sd sa sb : SReg) :
    SlotIn.one sp (.add sd sa sb) = { slot := .sc, sp := sp, dec := .ok (.add sd sa sb), raw := some (.add sd sa sb) } := rfl

theorem useIn_add (h : Nat) (sd sa sb : SReg) :
    useIn h (.add sd sa sb) = { scal := [sa.toNat, sb.toNat], dS := [sd.toNat] } := rfl

/-- A slot alone that is legal, unprivileged and within its ranges has no decode fault. -/
theorem slotFault_lone {h : Nat} {c : Ctx} {m : Mode} {i : Instr} (hi : illegalHere h m i = false) (hb : badLatch c i = none)
    (hr : readsLatch i = false) (hp : privileged h i = false) (ho : outOfRange h i = none) : slotFault h c m (.ok i) (some i) [] = none := by
  simp [slotFault, hi, hb, hr, hp, ho]

theorem illegalHere_add {h : Nat} (hs : isStrand h = true) (m : Mode) (sd sa sb : SReg) : illegalHere h m (.add sd sa sb) = false := by
  have hi : illegalHere h m (.add sd sa sb) = if isDrone h then !droneAccepts (.add sd sa sb) else isGuest h && waitsW (.add sd sa sb) := rfl
  rw [hi, isDrone_strand hs, isGuest_strand hs]
  rfl

theorem privileged_add (h : Nat) (sd sa sb : SReg) : privileged h (.add sd sa sb) = false := Bool.and_false _

theorem decodeFaults_add {h : Nat} (hs : isStrand h = true) (c : Ctx) (m : Mode) (sp : Bool) (sd sa sb : SReg) :
    decodeFaults h c (some m) [SlotIn.one sp (.add sd sa sb)] = [] := by
  have hf := slotFault_lone (c := c) (illegalHere_add hs { m with sp := sp } sd sa sb) rfl rfl (privileged_add h sd sa sb) rfl
  simp [decodeFaults, slotIn_one_add, SlotIn.mode, hf]

theorem issueTrap_add {s : State} {h : Nat} {sd sa sb : SReg} (hp : ∀ r ∈ [sa, sb], ((hart s h).scalar r.toNat).poison = none) :
    issueTrap s h (.add sd sa sb) = none := by
  obtain ⟨ha, hb⟩ : ((hart s h).scalar sa.toNat).poison = none ∧ ((hart s h).scalar sb.toNat).poison = none := by simpa using hp
  have ht : (useIn h (.add sd sa sb)).trap (hart s h) = none := by
    simp [useIn_add, Use.trap, ha, hb]
  have hi : issueTrap s h (.add sd sa sb) =
    match (useIn h (.add sd sa sb)).trap (hart s h) with
    | some t => some t
    | none => none := rfl
  rw [hi, ht]

theorem holdsUp_add {s : State} {h : Nat} {sd sa sb : SReg} (hp : ∀ r ∈ [sd, sa, sb], ((hart s h).scalar r.toNat).pending = false) :
    holdsUp s h (.add sd sa sb) = false := by
  obtain ⟨hd, ha, hb⟩ : ((hart s h).scalar sd.toNat).pending = false ∧ ((hart s h).scalar sa.toNat).pending = false ∧
    ((hart s h).scalar sb.toNat).pending = false := by simpa using hp
  have he : engineBlocks s h (.add sd sa sb) = false := rfl
  simp [holdsUp, he, useIn_add, Use.blocks, hd, ha, hb]

/-- An ADD alone whose operands are ready goes. -/
theorem judge_add {s : State} {h : Nat} (hs : isStrand h = true) (hr : (hart s h).stopReq = false)
    (hq : runAheadBlocked s (hart s h) = false) (m : Mode) (sp : Bool) {sd sa sb : SReg}
    (hpend : ∀ r ∈ [sd, sa, sb], ((hart s h).scalar r.toNat).pending = false)
    (hpois : ∀ r ∈ [sa, sb], ((hart s h).scalar r.toNat).poison = none) :
    judge s h (some m) [SlotIn.one sp (.add sd sa sb)] = (s, .go) := by
  have hl : instrsOf [SlotIn.one sp (.add sd sa sb)] = [.add sd sa sb] := rfl
  have hw : ∀ i ∈ instrsOf [SlotIn.one sp (.add sd sa sb)], isWait i = false := List.forall_mem_singleton.2 rfl
  have ht : slotTraps s h [SlotIn.one sp (.add sd sa sb)] = [] := by
    simp [slotTraps, slotIn_one_add, issueTrap_add hpois]
  rw [judge_noWait (decodeFaults_add hs _ m sp sd sa sb) hw hr fun _ => hq, hl, ht]
  simp [holdsUp_add hpend, passChannels, guestChannels, isGuest_strand hs, seekAll]

/-! ### The end of a bundle of nothing but computations -/

/-- A bundle without an instruction of consequence ends with its context going on. -/
theorem closeBundle_quiet {s : State} (hx : s.bundle.exits = false) (ha : s.bundle.after = none) (hp : s.bundle.reply = none)
    (hh : s.bundle.halts = none) (ht : s.bundle.returns = false) (hy : s.bundle.yields = false) : closeBundle s =
      let c := afterBundle (me s) s.bundle
      let c := if isStrand s.cur then quantumAfter c s.bundle else c
      keepIssuing (dropWaiter { setMe s c with bundle := Bundle.closed } s.cur) s.cur false := by
  simp [closeBundle, afterEffects, hx, ha, hp, hh, ht, hy]

/-- The opened bundle of an ADD alone, its sum in flight. -/
def addIssued (s : State) (sd sa sb : SReg) : State := alu2 (openBundle s Mode.zero [.add sd sa sb]) sd sa sb 1 (· + ·)

/-- The context of an ADD alone after its bundle, `n` bundles counted for SPMAX. -/
def Ctx.afterAdd (c : Ctx) (sd sa sb : SReg) (n : Nat) : Ctx :=
  { c with
    pc := c.pc + 64
    count := c.count + 1
    qBundles := c.qBundles + 1
    skip := 0
    wait := .none
    spCount := n
    flight := [{ due := c.count + 1, dst := .scalar sd.toNat (c.s sa + c.s sb), flags := 0 }] }

/-- The opening of an ADD's bundle in a strand whose quantum has begun counts it for SPMAX. -/
theorem me_openBundle_add {s : State} (hq : (me s).qFresh = false) (sd sa sb : SReg) :
    ∃ n, me (openBundle s Mode.zero [.add sd sa sb]) = { me s with spCount := n } := by
  have hb : (if isStrand s.cur then beginQuantum (me s) else me s) = me s := by
    simp [beginQuantum, hq]
  refine ⟨(me s).spCount + 1 + bankStalls ([Instr.add sd sa sb].flatMap fun i => (useOf i).reads),
    (hart_setHart_self s s.cur _).trans ?_⟩
  rw [hb]
  rfl

/-- Without a draw SEED stays. -/
@[simp] theorem seedAfter_zero (seed : Word) : seedAfter seed 0 = seed := by
  simp [seedAfter]

/-- A context after a bundle that marked and filled no register. -/
theorem afterBundle_plain (c : Ctx) {b : Bundle} (hm : b.marks = []) (hf : b.fills = []) : afterBundle c b = { c with
    pc := (nextPc c b).1
    loops := (nextPc c b).2
    count := c.count + 1
    qBundles := c.qBundles + 1
    skip := 0
    wait := .none
    csr := { c.csr with seed := seedAfter c.csr.seed b.draws } } := by
  unfold afterBundle
  rw [hm, hf]
  rfl

/-- The ADD's context after its bundle, in a strand that is in no loop and whose quantum goes on. -/
theorem afterBundle_add {s : State} (hf : (me s).flight = []) (hl : (me s).loops = []) (hq : (me s).qFresh = false) (sd sa sb : SReg) :
    let t := addIssued s sd sa sb
    ∃ n, afterBundle (me t) t.bundle = (me s).afterAdd sd sa sb n := by
  intro t
  obtain ⟨n, hn⟩ := me_openBundle_add hq sd sa sb
  have ht : me t = { me s with
      spCount := n
      flight := [{ due := (me s).count + 1, dst := .scalar sd.toNat ((me s).s sa + (me s).s sb), flags := 0 }] } := by
    simp [t, addIssued, alu2, hn, hf, Ctx.s, Ctx.scalar]
  have hnext : nextPc (me t) t.bundle = ((me s).pc + 64, (me s).loops) := by
    rw [nextPc_loopBack _ rfl rfl rfl, ht, hl]
    rfl
  have hseed : seedAfter (me t).csr.seed t.bundle.draws = (me t).csr.seed := seedAfter_zero _
  refine ⟨n, (afterBundle_plain (me t) rfl rfl).trans ?_⟩
  rw [hnext, hseed, ht]
  rfl

/-- A core whose list of waiters is empty drops none. -/
theorem core_dropWaiter_empty {s : State} {h : Nat} (hw : (core s (coreOf h)).waiters = []) (k : Nat) :
    core (dropWaiter s h) k = core s k := by
  unfold dropWaiter
  split
  · rfl
  · rw [core_modCore]
    split
    next hk =>
      subst hk
      have hn : (core s (coreOf h)).waiters.filter (fun w => w.1 != ctxNo h) = (core s (coreOf h)).waiters := by
        rw [hw]
        rfl
      rw [hn]
    · rfl

theorem hart_dropWaiter (s : State) (h g : Nat) : hart (dropWaiter s h) g = hart s g := by
  unfold dropWaiter
  split <;> rfl

theorem mem_dropWaiter (s : State) (h : Nat) : (dropWaiter s h).mem = s.mem := by
  unfold dropWaiter
  split <;> rfl

/-- The choice of context changes a core in nothing else. -/
theorem core_keepIssuing (s : State) (h : Nat) (leave : Bool) (k : Nat) : core (keepIssuing s h leave) k =
    { core s k with issuing := (core (keepIssuing s h leave) k).issuing, last := (core (keepIssuing s h leave) k).last } := by
  unfold keepIssuing
  split
  · rfl
  · rw [core_modCore]
    split
    next hk =>
      subst hk
      rfl
    · rfl

theorem hart_keepIssuing (s : State) (h : Nat) (leave : Bool) (g : Nat) : hart (keepIssuing s h leave) g = hart s g := by
  unfold keepIssuing
  split <;> rfl

theorem mem_keepIssuing (s : State) (h : Nat) (leave : Bool) : (keepIssuing s h leave).mem = s.mem := by
  unfold keepIssuing
  split <;> rfl

/-- The state as the bundle of an ADD alone has closed. -/
def addClosed (s : State) (sd sa sb : SReg) (n : Nat) : State :=
  { setHart (addIssued s sd sa sb) s.cur ((me s).afterAdd sd sa sb n) with bundle := Bundle.closed }

theorem mem_addClosed (s : State) (sd sa sb : SReg) (n : Nat) : (addClosed s sd sa sb n).mem = s.mem := by
  simp [addClosed, addIssued, alu2]

theorem core_addClosed (s : State) (sd sa sb : SReg) (n k : Nat) : core (addClosed s sd sa sb n) k = core s k := by
  have hc : (addClosed s sd sa sb n).cores = s.cores := by
    simp [addClosed, addIssued, alu2]
  exact congrArg (fun x => tget Core.reset x k) hc

/-- The state after an ADD alone. -/
def addDone (s : State) (sd sa sb : SReg) (n : Nat) : State :=
  keepIssuing (dropWaiter (addClosed s sd sa sb n) s.cur) s.cur false

theorem hart_addDone (s : State) (sd sa sb : SReg) (n g : Nat) : hart (addDone s sd sa sb n) g =
    hart (setHart (addIssued s sd sa sb) s.cur ((me s).afterAdd sd sa sb n)) g := by
  rw [addDone, hart_keepIssuing, hart_dropWaiter]
  rfl

theorem hart_addDone_self (s : State) (sd sa sb : SReg) (n : Nat) : hart (addDone s sd sa sb n) s.cur = (me s).afterAdd sd sa sb n := by
  rw [hart_addDone, hart_setHart_self]

theorem hart_addIssued_ne (s : State) (sd sa sb : SReg) {g : Nat} (hg : g ≠ s.cur) : hart (addIssued s sd sa sb) g = hart s g := by
  rw [addIssued, alu2, landScalar, land, modMe, hart_modHart_ne _ _ _ _ (by simpa using hg)]
  exact hart_setHart_ne s s.cur g _ hg

theorem hart_addDone_ne (s : State) (sd sa sb : SReg) (n : Nat) {g : Nat} (hg : g ≠ s.cur) :
    hart (addDone s sd sa sb n) g = hart s g := by
  rw [hart_addDone, hart_setHart_ne _ _ _ _ hg, hart_addIssued_ne s sd sa sb hg]

theorem mem_addDone (s : State) (sd sa sb : SReg) (n : Nat) : (addDone s sd sa sb n).mem = s.mem := by
  rw [addDone, mem_keepIssuing, mem_dropWaiter, mem_addClosed]

/-- The core of an ADD alone changes but for its choice of context, no bundle waiting for its barriers. -/
theorem core_addDone {s : State} (hw : (core s (coreOf s.cur)).waiters = []) (sd sa sb : SReg) (n k : Nat) :
    core (addDone s sd sa sb n) k =
      { core s k with issuing := (core (addDone s sd sa sb n) k).issuing, last := (core (addDone s sd sa sb n) k).last } := by
  have hd : core (dropWaiter (addClosed s sd sa sb n) s.cur) k = core s k :=
    (core_dropWaiter_empty (by rw [core_addClosed, hw]) k).trans (core_addClosed s sd sa sb n k)
  rw [addDone, ← hd]
  exact core_keepIssuing _ s.cur false k

/-- The end of an ADD's bundle in a strand that is in no loop and whose quantum goes on. -/
theorem closeBundle_add {s : State} (hs : isStrand s.cur = true) (hf : (me s).flight = []) (hl : (me s).loops = [])
    (hq : (me s).qFresh = false) (hb : (me s).qBundles + 1 < (me s).qbLim) (sd sa sb : SReg) :
    ∃ n, closeBundle (addIssued s sd sa sb) = addDone s sd sa sb n := by
  obtain ⟨n, hn⟩ := afterBundle_add hf hl hq sd sa sb
  have hgoes : quantumAfter ((me s).afterAdd sd sa sb n) (addIssued s sd sa sb).bundle = (me s).afterAdd sd sa sb n :=
    if_neg fun hle => Nat.not_le.2 hb (of_decide_eq_true hle)
  have hcur : (addIssued s sd sa sb).cur = s.cur := rfl
  refine ⟨n, (closeBundle_quiet rfl rfl rfl rfl rfl rfl).trans ?_⟩
  simp only [hn, hcur, hs, if_true, hgoes, addDone, addClosed, setMe]

/-- An ADD alone that goes: the examination finds the state as it is. -/
theorem exec_add_alone {s : State} {sd sa sb : SReg} (hs : isStrand s.cur = true) (ho : s.bundle.isOpen = false)
    (hm : s.bundle.mode = Mode.zero) (hf : (me s).flight = []) (hk : (me s).skip = 0) (hr : (me s).stopReq = false)
    (hsp : (me s).spCount < (me s).csr.spmax.toNat) (hq : runAheadBlocked s (me s) = false)
    (hpend : ∀ r ∈ [sd, sa, sb], ((me s).scalar r.toNat).pending = false)
    (hpois : ∀ r ∈ [sa, sb], ((me s).scalar r.toNat).poison = none) :
    exec (.add sd sa sb) s = .next (closeBundle (addIssued (setMe s (me s)) sd sa sb)) := by
  have hb : beforeIssue s s.cur = setMe s (me s) := landDue_noFlight hf
  have hh : hart (setMe s (me s)) s.cur = me s := hart_setHart_self s s.cur _
  have hj : judge (setMe s (me s)) s.cur (some s.bundle.mode) [SlotIn.one s.bundle.mode.sp (.add sd sa sb)] = (setMe s (me s), .go) := by
    refine judge_add hs ?_ ?_ _ _ ?_ ?_ <;> rw [hh] <;> assumption
  have hx := examineAlone_eq (early_strand_none hs hr hsp) (by rw [hb, hh]; exact hk) (.add sd sa sb)
  simp only [hb, hj] at hx
  rw [exec_add, execAdd, issue_alone _ _ ho (by rw [hx]) (by rw [hx]; rfl), hx, hm]
  rfl

/-- Settles O21: the checks before the operands by their lemmas; the ADD alone by its verdict and the end of its bundle. -/
theorem bundlesIssue : Obligations.BundlesIssue := by
  unfold Obligations.BundlesIssue
  refine ⟨fun s h m l hs hr => ⟨early_spmax hs hr, early_strand_none hs hr, fun t => judge_decodeFault, fun hd hq =>
    judge_runAhead hs hr hd (by simpa [runAheadBlocked] using hq)⟩, ?_⟩
  intro s sd sa sb h c hs ho hm _ hf hl hk hr hsp hq hfresh hb hw hpend hpois
  have hme : me (setMe s (me s)) = c := me_setMe s (me s)
  obtain ⟨n, hn⟩ := closeBundle_add (s := setMe s (me s)) hs (by rw [hme]; exact hf) (by rw [hme]; exact hl) (by rw [hme]; exact hfresh)
    (by rw [hme]; exact hb) sd sa sb
  refine ⟨_, exec_add_alone hs ho hm hf hk hr hsp hq hpend hpois, ?_⟩
  rw [hn]
  have hself : hart (addDone (setMe s (me s)) sd sa sb n) h = c.afterAdd sd sa sb n := by
    rw [← hme]
    exact hart_addDone_self (setMe s (me s)) sd sa sb n
  rw [hself]
  exact ⟨rfl, rfl, rfl, rfl, rfl, rfl, fun g hg => (hart_addDone_ne (setMe s (me s)) sd sa sb n hg).trans
    (hart_setHart_own s h g), mem_addDone (setMe s (me s)) sd sa sb n, core_addDone (s := setMe s (me s)) hw sd sa sb n⟩

end Sys2Proof.Machine

/-! ## MPLOAD outside the supervisor

The clause of O20 that every MPLOAD outside the supervisor traps 0x02 fails for the routine numbers below 64: such an MPLOAD is illegal
(R221), and 0x01 is the lower cause of the two (R28, R95).
-/
namespace Sys2Proof.Machine

/-- An MPLOAD of a routine number below 64 is illegal in every context. -/
theorem slotFault_mpload_low (h : Nat) (c : Ctx) (m : Mode) {rtn : BitVec 8} (hr : rtn.toNat < 64) (ta : TReg) (others : List Use) :
    slotFault h c m (.ok (.mpload rtn ta)) (some (.mpload rtn ta)) others = some (0x01, 0) := by
  refine slotFault_illegalHere c ?_ others
  change (isDrone h || decide (rtn.toNat < 64)) = true
  rw [decide_eq_true hr, Bool.or_true]

/-- Refutes O20: in strand context 0 the MPLOAD of routine 0 from t0 has the decode fault 0x01, not the privilege fault 0x02. -/
theorem not_trapsAsJudged : ¬ Obligations.TrapsAsJudged := by
  unfold Obligations.TrapsAsJudged
  rintro ⟨-, -, -, hprivileged, -⟩
  obtain ⟨-, -, -, hmpload, -⟩ := hprivileged 0 Ctx.reset Mode.zero 0 0 0 0 0 0 (by decide) (by decide)
  have hlow := slotFault_mpload_low 0 Ctx.reset Mode.zero (rtn := 0) (by decide) 0 []
  exact absurd (hlow.symm.trans hmpload) (by decide)

end Sys2Proof.Machine

/-! ## Integer vector operations

The element-wise operations as functions of an element's position, the narrowing of an exact integer, and the results of chapter 06's
integer instructions (O24).
-/
namespace Sys2Proof.Machine

/-! ### Operands by position -/

/-- The elements of a tile in the order of their positions. -/
theorem tileElems_eq_map (t : EType) (v : Tile) : tileElems t v = (List.range (elemCount t)).map (tileElem t v) := by
  refine List.ext_getElem (by simp) fun n h1 h2 => ?_
  rw [tileElems_get, List.getElem_map, List.getElem_range]

theorem elemsA_eq_map (s : State) (u : VUnit) (t : EType) (a : TSrc) :
    elemsA s u t a = (List.range (elemCount t)).map (opA s u t a) := tileElems_eq_map t _

theorem elemsB_eq_map (s : State) (u : VUnit) (t : EType) (b : BSrc) :
    elemsB s u t b = (List.range (elemCount t)).map (opB s u t b) := by
  cases b with
  | tile x => exact tileElems_eq_map t _
  | scalar r =>
    have hb : opB s u t (.scalar r) = fun _ => ((me s).s r).toNat % 2 ^ t.bits := rfl
    simp [elemsB, Ctx.bElems, hb]

theorem elemsC_eq_map (s : State) (u : VUnit) (t : EType) (c : TSrc) :
    elemsC s u t c = (List.range (elemCount t)).map (opC s u t c) := tileElems_eq_map t _

theorem noElems_eq_map (t : EType) : noElems t = (List.range (elemCount t)).map fun _ => 0 := by
  simp [noElems]

/-! ### Results by position -/

/-- A tile whose elements are given by position lands as one result. -/
theorem tileResult_landElems (s : State) (td : TReg) (m : MReg) (t : EType) (k : Nat) (f : Nat → Nat × BitVec 6) :
    TileResult s (landElems s td m t k ((List.range (elemCount t)).map f)) td m t k f := by
  refine ⟨tileOf t.bits (((List.range (elemCount t)).map f).map (·.1)), ?_, fun n hn => ?_⟩
  · rw [landElems, List.map_map (f := f) (g := (·.2))]
    rfl
  · rw [tileElem_tileOf t _ n (by simp) (by simpa using hn)]
    simp

/-- Only the bits that an element holds count. -/
theorem TileResult.congr {s r : State} {td : TReg} {m : MReg} {t : EType} {k : Nat} {f g : Nat → Nat × BitVec 6}
    (h : TileResult s r td m t k f) (hv : ∀ n, (f n).1 % 2 ^ t.bits = (g n).1 % 2 ^ t.bits) (hg : ∀ n, (f n).2 = (g n).2) :
    TileResult s r td m t k g := by
  obtain ⟨v, hr, he⟩ := h
  refine ⟨v, ?_, fun n hn => (he n hn).trans (hv n)⟩
  simp only [hr, hg]

/-- An element-wise operation by position. -/
theorem tileResult_vecMap (s : State) (td : TReg) (m : MReg) (t : EType) (k : Nat) (x y z : Nat → Nat)
    (f : Nat → Nat → Nat → Nat → Nat × BitVec 6) :
    let at_ (g : Nat → Nat) : List Nat := (List.range (elemCount t)).map g
    TileResult s (vecMap s td m t k (at_ x) (at_ y) (at_ z) f) td m t k fun n => f n (x n) (y n) (z n) := by
  intro at_
  have hl : ((((at_ x).zip ((at_ y).zip (at_ z))).zip (List.range (at_ x).length)).map fun p => f p.2 p.1.1 p.1.2.1 p.1.2.2) =
      (List.range (elemCount t)).map fun n => f n (x n) (y n) (z n) :=
    List.ext_getElem (by simp [at_]) fun n h1 h2 => by simp [at_]
  rw [vecMap, hl]
  exact tileResult_landElems s td m t k _

/-- An operation on the bits of two elements, by position. -/
theorem tileResult_vecBits (s : State) (td : TReg) (m : MReg) (t : EType) (x y : Nat → Nat) (f : Nat → Nat → Nat) :
    let at_ (g : Nat → Nat) : List Nat := (List.range (elemCount t)).map g
    TileResult s (vecBits s td m t (at_ x) (at_ y) f) td m t 2 fun n => (f (x n) (y n), 0) := by
  intro at_
  rw [vecBits, noElems_eq_map]
  exact (tileResult_vecMap s td m t 2 x y (fun _ => 0) fun _ x y _ => (f x y % 2 ^ t.bits, 0)).congr (fun n => Nat.mod_mod _ _) fun _ => rfl

/-! ### Narrowing (R103, R112) -/

/-- Narrowing reports the integers beyond the type's range. -/
theorem narrowInt_snd (sat : Bool) (t : EType) (i : Int) : (narrowInt sat t i).2 = (decide (i < intMin t) || decide (intMax t < i)) := by
  unfold narrowInt
  split
  next h => simp [h]
  next h =>
    split
    next h' => simp [h']
    next h' => simp [h, h']

/-- An exact integer operation, narrowed, by position. -/
theorem tileResult_vecInt (s : State) (td : TReg) (m : MReg) (t : EType) (x y : Nat → Nat) (f : Int → Int → Int) :
    let at_ (g : Nat → Nat) : List Nat := (List.range (elemCount t)).map g
    let i (n : Nat) : Int := f (intVal t (x n)) (intVal t (y n))
    let sat := (rmode s).sat
    TileResult s (vecInt s td m t (at_ x) (at_ y) f) td m t 2 fun n =>
      ((narrowInt sat t (i n)).1, if sat && (i n < intMin t || intMax t < i n) then fSA else 0) := by
  intro at_ i sat
  rw [vecInt, noElems_eq_map]
  refine (tileResult_vecMap s td m t 2 x y (fun _ => 0) _).congr (fun n => rfl) fun n => ?_
  change flagIf ((narrowInt sat t (i n)).2 && sat) fSA = _
  rw [narrowInt_snd, Bool.and_comm]
  rfl

/-! ### The codes of integers -/

theorem intCode_eq (n : Nat) (i : Int) : (intCode n i : Int) = i % 2 ^ n := by
  have hp : (0 : Int) < 2 ^ n := by positivity
  have h := Int.emod_nonneg i hp.ne'
  simp [intCode, h]

theorem intCode_lt (n : Nat) (i : Int) : intCode n i < 2 ^ n := by
  have hp : (0 : Int) < 2 ^ n := by positivity
  have h := Int.emod_lt_of_pos i hp
  rw [← intCode_eq] at h
  exact_mod_cast h

/-- Half the number of codes of a type. -/
def halfCodes (t : EType) : Int := 2 ^ (t.bits - 1)

theorem two_mul_halfCodes (t : EType) : (2 : Int) ^ t.bits = 2 * halfCodes t := by
  have hb : t.bits = t.bits - 1 + 1 := by have := bits_pos t; omega
  rw [halfCodes, ← pow_succ', ← hb]

theorem halfCodes_pos (t : EType) : 0 < halfCodes t := by
  unfold halfCodes
  positivity

/-- The integer of a code that the type's width holds: the upper half of a signed type's codes stands for negative ones. -/
theorem intVal_eq {t : EType} {x : Nat} (hx : x < 2 ^ t.bits) :
    intVal t x = if t.signed = true ∧ halfCodes t ≤ x then (x : Int) - 2 * halfCodes t else x := by
  have hb : t.bits = t.bits - 1 + 1 := by have := bits_pos t; omega
  have hcast : halfCodes t ≤ x ↔ ¬ x < 2 ^ (t.bits - 1) := by
    unfold halfCodes
    rw [Nat.not_lt]
    exact_mod_cast Iff.rfl
  have htop : x.testBit (t.bits - 1) = !decide (x < 2 ^ (t.bits - 1)) := testBit_top (hb ▸ hx)
  unfold intVal
  rw [htop, ← two_mul_halfCodes]
  simp [hcast]

theorem intMin_eq (t : EType) : intMin t = if t.signed then -halfCodes t else 0 := by
  simp [intMin, halfCodes]

theorem intMax_eq (t : EType) : intMax t = if t.signed then halfCodes t - 1 else 2 * halfCodes t - 1 := by
  rw [← two_mul_halfCodes]
  simp [intMax, halfCodes]

theorem intMin_le_intMax (t : EType) : intMin t ≤ intMax t := by
  have hp := halfCodes_pos t
  rw [intMin_eq, intMax_eq]
  split <;> omega

/-- The code of an integer stands for one that differs by a multiple of the number of codes, in the type's range. -/
theorem intVal_intCode (t : EType) (i : Int) :
    2 * halfCodes t ∣ intVal t (intCode t.bits i) - i ∧ intMin t ≤ intVal t (intCode t.bits i) ∧
      intVal t (intCode t.bits i) ≤ intMax t := by
  have hp := halfCodes_pos t
  rw [intVal_eq (intCode_lt t.bits i), intMin_eq, intMax_eq, intCode_eq, two_mul_halfCodes]
  have h0 := Int.emod_nonneg i (show 2 * halfCodes t ≠ 0 by omega)
  have h1 := Int.emod_lt_of_pos i (show 0 < 2 * halfCodes t by omega)
  have hd : 2 * halfCodes t ∣ i % (2 * halfCodes t) - i := by
    rw [← Int.neg_sub, Int.dvd_neg]
    exact Int.dvd_self_sub_emod
  generalize i % (2 * halfCodes t) = c at h0 h1 hd
  by_cases hs : t.signed = true ∧ halfCodes t ≤ c
  · obtain ⟨hsigned, hle⟩ := hs
    have hshift : c - 2 * halfCodes t - i = (c - i) - 2 * halfCodes t := by ring
    rw [if_pos ⟨hsigned, hle⟩, if_pos hsigned, if_pos hsigned, hshift]
    exact ⟨Int.dvd_sub hd (Int.dvd_refl _), by omega, by omega⟩
  · rw [if_neg hs]
    refine ⟨hd, ?_⟩
    cases hsigned : t.signed
    · simp only [Bool.false_eq_true, if_false]
      omega
    · have hlt : c < halfCodes t := Int.not_le.1 fun hle => hs ⟨hsigned, hle⟩
      simp only [if_true]
      omega

/-- A code stands for the integer that it was made from where the type has it. -/
theorem intVal_intCode_of_range {t : EType} {i : Int} (h0 : intMin t ≤ i) (h1 : i ≤ intMax t) : intVal t (intCode t.bits i) = i := by
  obtain ⟨hd, hmin, hmax⟩ := intVal_intCode t i
  have hwidth : intMax t - intMin t < 2 * halfCodes t := by
    rw [intMin_eq, intMax_eq]
    split <;> omega
  have hz := Int.eq_zero_of_abs_lt_dvd hd (by rw [abs_lt]; omega)
  omega

/-! ### What narrowing gives -/

theorem narrowInt_inside {t : EType} {i : Int} (sat : Bool) (h0 : intMin t ≤ i) (h1 : i ≤ intMax t) :
    (narrowInt sat t i).1 = intCode t.bits i := by
  rw [narrowInt, if_neg (Int.not_lt.2 h0), if_neg (Int.not_lt.2 h1)]

theorem narrowInt_below {t : EType} {i : Int} (h : i < intMin t) : (narrowInt true t i).1 = intCode t.bits (intMin t) := by
  rw [narrowInt, if_pos h]
  rfl

theorem narrowInt_above {t : EType} {i : Int} (h : intMax t < i) : (narrowInt true t i).1 = intCode t.bits (intMax t) := by
  rw [narrowInt, if_neg (by have := intMin_le_intMax t; omega), if_pos h]
  rfl

theorem narrowInt_wraps (t : EType) (i : Int) : (narrowInt false t i).1 = intCode t.bits i := by
  unfold narrowInt
  split
  · rfl
  · split <;> rfl

/-! ### Counts -/

theorem popNat_eq_countP (n v : Nat) : popNat n v = (List.range n).countP fun k => v.testBit k := by
  induction n generalizing v with
  | zero => rfl
  | succ n ih =>
    have hstep : (fun k => v.testBit k) ∘ Nat.succ = fun k => (v / 2).testBit k := funext fun k => Nat.testBit_succ v k
    have hodd : v % 2 = if v.testBit 0 = true then 1 else 0 := by
      rw [Nat.testBit_zero]
      rcases Nat.mod_two_eq_zero_or_one v with h | h <;> simp [h]
    rw [popNat, ih, List.range_succ_eq_map, List.countP_cons, List.countP_map, hstep, hodd, Nat.add_comm]

/-! ### The instructions (R151, R153) -/

theorem isF_of_isI {t : EType} (h : t.isI = true) : t.isF = false := by
  revert h
  cases t <;> decide

/-- VCLAMP between two bounds, of integers. -/
theorem tileResult_vclamp (s : State) (u : VUnit) (td : TReg) (m : MReg) (a c : TSrc) (b : BSrc) {t : EType} (ho : s.slotsOpen)
    (ht : t.isI = true) : ∃ r, exec (.vclamp u td m a b c t) s = .next r ∧ TileResult s r td m t 2 fun n =>
      let v := if intVal t (opA s u t a n) < intVal t (opB s u t b n) then opB s u t b n else opA s u t a n
      (if intVal t (opC s u t c n) < intVal t v then opC s u t c n else v, 0) := by
  rw [exec_vclamp, execVclamp, issue_open _ _ ho, isF_of_isI ht, elemsA_eq_map, elemsB_eq_map, elemsC_eq_map]
  exact ⟨_, rfl, tileResult_vecMap s td m t 2 (opA s u t a) (opB s u t b) (opC s u t c) fun _ x y z =>
    let v := if intVal t x < intVal t y then y else x
    (if intVal t z < intVal t v then z else v, 0)⟩

/-- An integer operation of an open bundle that is an exact one, narrowed. -/
theorem gives_vecInt (s : State) (u : VUnit) (td : TReg) (m : MReg) (a : TSrc) (b : BSrc) (t : EType) (f : Int → Int → Int) :
    let i (n : Nat) : Int := f (intVal t (opA s u t a n)) (intVal t (opB s u t b n))
    TileResult s (vecInt s td m t (elemsA s u t a) (elemsB s u t b) f) td m t 2 fun n =>
      ((narrowInt (rmode s).sat t (i n)).1, if (rmode s).sat && (i n < intMin t || intMax t < i n) then fSA else 0) := by
  rw [elemsA_eq_map, elemsB_eq_map]
  exact tileResult_vecInt s td m t _ _ f

/-- An operation of an open bundle on the bits of two operands. -/
theorem gives_vecBits (s : State) (u : VUnit) (td : TReg) (m : MReg) (a : TSrc) (b : BSrc) (t : EType) (f : Nat → Nat → Nat) :
    TileResult s (vecBits s td m t (elemsA s u t a) (elemsB s u t b) f) td m t 2 fun n => (f (opA s u t a n) (opB s u t b n), 0) := by
  rw [elemsA_eq_map, elemsB_eq_map]
  exact tileResult_vecBits s td m t _ _ f

/-- An operation of an open bundle on the bits of one operand. -/
theorem gives_vecBits_one (s : State) (u : VUnit) (td : TReg) (m : MReg) (a : TSrc) (t : EType) (f : Nat → Nat → Nat) :
    TileResult s (vecBits s td m t (elemsA s u t a) (noElems t) f) td m t 2 fun n => (f (opA s u t a n) 0, 0) := by
  rw [elemsA_eq_map, noElems_eq_map]
  exact tileResult_vecBits s td m t _ _ f

/-- The high half of the products. -/
theorem gives_vimulh (s : State) (u : VUnit) (td : TReg) (m : MReg) (a : TSrc) (b : BSrc) (t : EType) (ho : s.slotsOpen) :
    ∃ r, exec (.vimulh u td m a b t) s = .next r ∧ TileResult s r td m t 2 fun n =>
      ((intVal t (opA s u t a n) * intVal t (opB s u t b n) / 2 ^ t.bits % 2 ^ t.bits).toNat, 0) := by
  rw [exec_vimulh, execVimulh, issue_open _ _ ho, elemsA_eq_map, elemsB_eq_map, noElems_eq_map]
  refine ⟨_, rfl, (tileResult_vecMap s td m t 2 _ _ _ _).congr (fun n => ?_) fun n => rfl⟩
  simp [intCode]

/-- Settles O24: each instruction by its shared operation, by position; narrowing by the codes of integers. -/
theorem vectorIntegers : Obligations.VectorIntegers := by
  unfold Obligations.VectorIntegers
  refine ⟨fun s u td m a c b t ho => ?_, fun sat t i ht => ?_⟩
  · intro x y z ix iy sat narrow gives bits
    have opened {i : Instr} {eff : State → State} {f : Nat → Nat × BitVec 6} (hi : exec i s = issue i eff s)
        (h : TileResult s (eff s) td m t 2 f) : gives i f := ⟨_, hi.trans (issue_open i eff ho), h⟩
    refine ⟨fun ht => ⟨?_, ?_, ?_, ?_, ?_, ?_, ?_, ?_, ?_, ?_, ?_, ?_⟩, fun _ => ⟨?_, ?_, ?_, ?_⟩⟩
    · exact opened (exec_viadd u td m a b t s) (gives_vecInt s u td m a b t (· + ·))
    · exact opened (exec_visub u td m a b t s) (gives_vecInt s u td m a b t (· - ·))
    · exact opened (exec_vimul u td m a b t s) (gives_vecInt s u td m a b t (· * ·))
    · exact gives_vimulh s u td m a b t ho
    · exact opened (exec_vshl u td m a b t s) (gives_vecBits s u td m a b t fun x y => x <<< (y % t.bits))
    · exact opened (exec_vshr u td m a b t s) (gives_vecBits s u td m a b t fun x y => x >>> (y % t.bits))
    · refine opened (exec_vsar u td m a b t s) ((gives_vecBits s u td m a b t fun x y =>
        intCode t.bits (intVal t x / 2 ^ (y % t.bits))).congr (fun n => ?_) fun n => rfl)
      simp [intCode, x, y]
    · exact opened (exec_vimin u td m a b t s) (gives_vecBits s u td m a b t fun x y => if intVal t y < intVal t x then y else x)
    · exact opened (exec_vimax u td m a b t s) (gives_vecBits s u td m a b t fun x y => if intVal t x < intVal t y then y else x)
    · exact tileResult_vclamp s u td m a c b ho ht
    · refine opened (exec_vpopc u td m a t s) ((gives_vecBits_one s u td m a t fun x _ => popNat t.bits x).congr (fun n => ?_) fun n => rfl)
      rw [popNat_eq_countP]
    · exact opened (exec_vclz u td m a t s) (gives_vecBits_one s u td m a t fun x _ => clzNat t.bits x)
    · exact opened (exec_vand u td m a b t s) (gives_vecBits s u td m a b t fun x y => x &&& y)
    · exact opened (exec_vor u td m a b t s) (gives_vecBits s u td m a b t fun x y => x ||| y)
    · exact opened (exec_vxor u td m a b t s) (gives_vecBits s u td m a b t fun x y => x ^^^ y)
    · exact opened (exec_vnot u td m a t s) (gives_vecBits_one s u td m a t fun x _ => 2 ^ t.bits - 1 - x)
  · refine ⟨fun ⟨h0, h1⟩ => ?_, fun hs h => ?_, fun hs h => ?_, fun hs => ?_⟩
    · rw [narrowInt_inside sat h0 h1, intVal_intCode_of_range h0 h1]
    · rw [hs, narrowInt_below h, intVal_intCode_of_range (Int.le_refl _) (intMin_le_intMax t)]
    · rw [hs, narrowInt_above h, intVal_intCode_of_range (intMin_le_intMax t) (Int.le_refl _)]
    · obtain ⟨hd, hmin, hmax⟩ := intVal_intCode t i
      rw [hs, narrowInt_wraps, two_mul_halfCodes]
      exact ⟨Int.emod_eq_zero_of_dvd hd, hmin, hmax⟩

end Sys2Proof.Machine

/-! ## Computing instructions

Every computing instruction puts one result in flight to the register it names, and no more (O10).
-/
namespace Sys2Proof.Machine

/-! ### One result in flight -/

/-- A landing to the one destination of an instruction. -/
theorem resultsOnly_land {u : Use} {s : State} {d : Landing} {k : Nat} {g : BitVec 6} (hu : u.single) (hd : d.within u) :
    ResultsOnly u s (land s d k g) := ⟨_, 0, hu, hd, rfl⟩

/-- Draws are counted in the bundle alone. -/
theorem ResultsOnly.takeDraws {u : Use} {s r : State} {n : Nat} (h : ResultsOnly u s r) : ResultsOnly u s (takeDraws r n) := by
  obtain ⟨f, k, hu, hd, rfl⟩ := h
  unfold Machine.takeDraws
  split
  · exact ⟨f, k + n, hu, hd, by simp only [Nat.add_assoc]⟩
  · exact ⟨f, k, hu, hd, rfl⟩

theorem resultsOnly_landScalar {u : Use} {s : State} {r : Nat} {v : Word} {k : Nat} {g : BitVec 6} (hu : u.single) (hd : u.dS = [r]) :
    ResultsOnly u s (land s (.scalar r v) k g) := resultsOnly_land hu hd

theorem resultsOnly_landMask {u : Use} {s : State} {r : Nat} {v : Mask} {k : Nat} {g : BitVec 6} (hu : u.single) (hd : u.dM = [r]) :
    ResultsOnly u s (land s (.mask r v) k g) := resultsOnly_land hu hd

theorem resultsOnly_landParam {u : Use} {s : State} {r : Nat} {v : Word} {k : Nat} {g : BitVec 6} (hu : u.single) (hd : u.dP = [r]) :
    ResultsOnly u s (land s (.param r v) k g) := resultsOnly_land hu hd

theorem resultsOnly_landTile {u : Use} {s : State} {r : Nat} {v b : Tile} {k : Nat} {g : BitVec 6} (hu : u.single) (hd : u.dT = [r]) :
    ResultsOnly u s (land s (.tile r v b) k g) := resultsOnly_land hu hd

/-! ### Results of several shapes -/

/-- An operation of two forms puts one result in flight if both do. -/
theorem resultsOnly_ite {u : Use} {s a b : State} {p : Prop} [Decidable p] (ha : ResultsOnly u s a) (hb : ResultsOnly u s b) :
    ResultsOnly u s (if p then a else b) := by
  split
  · exact ha
  · exact hb

theorem resultsOnly_vecReduce {u : Use} (s : State) (byRow : Bool) (op : RedOp) {td : TReg} (m : MReg) (t : EType) (k : Nat)
    (xs : List Nat) (hu : u.single) (hd : u.dT = [td.toNat]) : ResultsOnly u s (vecReduce s byRow op td m t k xs) :=
  resultsOnly_ite (.takeDraws (resultsOnly_landTile hu hd)) (resultsOnly_landTile hu hd)

theorem resultsOnly_vpackEff {u : Use} (s : State) (un : VUnit) (scale : Bool) {td : TReg} (a : TSrc) (t : EType) (kt q : Nat)
    (hu : u.single) (hd : u.dT = [td.toNat]) : ResultsOnly u s (vpackEff s un scale td a t kt q) :=
  resultsOnly_ite (resultsOnly_landTile hu hd) (.takeDraws (resultsOnly_landTile hu hd))

/-! ### The instructions, by the slot and the class of their destination -/

/-- In an open bundle an instruction does what its effect does. -/
theorem completes_of {i : Instr} {eff : State → State} {s : State} (ho : s.slotsOpen) (hi : exec i s = issue i eff s)
    (h : ResultsOnly (useOf i) s (eff s)) : ∃ t, exec i s = .next t ∧ ResultsOnly (useOf i) s t :=
  ⟨eff s, hi.trans (issue_open _ _ ho), h⟩

/-- The case of each computing instruction: its effect, one landing, and whether draws are counted. -/
theorem exec_computes {i : Instr} {s : State} (ho : s.slotsOpen) (hc : computes i = true) :
    ∃ t, exec i s = .next t ∧ ResultsOnly (useOf i) s t := by
  cases i with
  | add sd sa sb => exact completes_of ho (exec_add sd sa sb s) (resultsOnly_landScalar rfl rfl)
  | sub sd sa sb => exact completes_of ho (exec_sub sd sa sb s) (resultsOnly_landScalar rfl rfl)
  | and sd sa sb => exact completes_of ho (exec_and sd sa sb s) (resultsOnly_landScalar rfl rfl)
  | or sd sa sb => exact completes_of ho (exec_or sd sa sb s) (resultsOnly_landScalar rfl rfl)
  | xor sd sa sb => exact completes_of ho (exec_xor sd sa sb s) (resultsOnly_landScalar rfl rfl)
  | shl sd sa sb => exact completes_of ho (exec_shl sd sa sb s) (resultsOnly_landScalar rfl rfl)
  | shr sd sa sb => exact completes_of ho (exec_shr sd sa sb s) (resultsOnly_landScalar rfl rfl)
  | sar sd sa sb => exact completes_of ho (exec_sar sd sa sb s) (resultsOnly_landScalar rfl rfl)
  | mul sd sa sb => exact completes_of ho (exec_mul sd sa sb s) (resultsOnly_landScalar rfl rfl)
  | mulh sd sa sb => exact completes_of ho (exec_mulh sd sa sb s) (resultsOnly_landScalar rfl rfl)
  | mulhu sd sa sb => exact completes_of ho (exec_mulhu sd sa sb s) (resultsOnly_landScalar rfl rfl)
  | div sd sa sb => exact completes_of ho (exec_div sd sa sb s) (resultsOnly_landScalar rfl rfl)
  | divu sd sa sb => exact completes_of ho (exec_divu sd sa sb s) (resultsOnly_landScalar rfl rfl)
  | rem sd sa sb => exact completes_of ho (exec_rem sd sa sb s) (resultsOnly_landScalar rfl rfl)
  | remu sd sa sb => exact completes_of ho (exec_remu sd sa sb s) (resultsOnly_landScalar rfl rfl)
  | min sd sa sb => exact completes_of ho (exec_min sd sa sb s) (resultsOnly_landScalar rfl rfl)
  | max sd sa sb => exact completes_of ho (exec_max sd sa sb s) (resultsOnly_landScalar rfl rfl)
  | minu sd sa sb => exact completes_of ho (exec_minu sd sa sb s) (resultsOnly_landScalar rfl rfl)
  | maxu sd sa sb => exact completes_of ho (exec_maxu sd sa sb s) (resultsOnly_landScalar rfl rfl)
  | sel sd sa sb sc => exact completes_of ho (exec_sel sd sa sb sc s) (resultsOnly_landScalar rfl rfl)
  | cmp cc sd sa sb => exact completes_of ho (exec_cmp cc sd sa sb s) (resultsOnly_landScalar rfl rfl)
  | clz sd sa => exact completes_of ho (exec_clz sd sa s) (resultsOnly_landScalar rfl rfl)
  | popc sd sa => exact completes_of ho (exec_popc sd sa s) (resultsOnly_landScalar rfl rfl)
  | brev sd sa => exact completes_of ho (exec_brev sd sa s) (resultsOnly_landScalar rfl rfl)
  | addi sd sa imm => exact completes_of ho (exec_addi sd sa imm s) (resultsOnly_landScalar rfl rfl)
  | andi sd sa imm => exact completes_of ho (exec_andi sd sa imm s) (resultsOnly_landScalar rfl rfl)
  | ori sd sa imm => exact completes_of ho (exec_ori sd sa imm s) (resultsOnly_landScalar rfl rfl)
  | xori sd sa imm => exact completes_of ho (exec_xori sd sa imm s) (resultsOnly_landScalar rfl rfl)
  | shli sd sa amt => exact completes_of ho (exec_shli sd sa amt s) (resultsOnly_landScalar rfl rfl)
  | shri sd sa amt => exact completes_of ho (exec_shri sd sa amt s) (resultsOnly_landScalar rfl rfl)
  | sari sd sa amt => exact completes_of ho (exec_sari sd sa amt s) (resultsOnly_landScalar rfl rfl)
  | li sd imm => exact completes_of ho (exec_li sd imm s) (resultsOnly_landScalar rfl rfl)
  | lih sd imm => exact completes_of ho (exec_lih sd imm s) (resultsOnly_landScalar rfl rfl)
  | cmpi cc sd sa imm => exact completes_of ho (exec_cmpi cc sd sa imm s) (resultsOnly_landScalar rfl rfl)
  | fadd sd sa sb => exact completes_of ho (exec_fadd sd sa sb s) (.takeDraws (resultsOnly_landScalar rfl rfl))
  | fsub sd sa sb => exact completes_of ho (exec_fsub sd sa sb s) (.takeDraws (resultsOnly_landScalar rfl rfl))
  | fmul sd sa sb => exact completes_of ho (exec_fmul sd sa sb s) (.takeDraws (resultsOnly_landScalar rfl rfl))
  | ffma sd sa sb sc => exact completes_of ho (exec_ffma sd sa sb sc s) (.takeDraws (resultsOnly_landScalar rfl rfl))
  | fmin sd sa sb => exact completes_of ho (exec_fmin sd sa sb s) (resultsOnly_landScalar rfl rfl)
  | fmax sd sa sb => exact completes_of ho (exec_fmax sd sa sb s) (resultsOnly_landScalar rfl rfl)
  | fcmp cc sd sa sb => exact completes_of ho (exec_fcmp cc sd sa sb s) (resultsOnly_landScalar rfl rfl)
  | fcvt k sd sa => exact completes_of ho (exec_fcvt k sd sa s) (.takeDraws (resultsOnly_landScalar rfl rfl))
  | csrr sd n => exact completes_of ho (exec_csrr sd n s) (resultsOnly_landScalar rfl rfl)
  | tsc sd => exact completes_of ho (exec_tsc sd s) (resultsOnly_landScalar rfl rfl)
  | vadd u td m a b t => exact completes_of ho (exec_vadd u td m a b t s) (.takeDraws (resultsOnly_landTile rfl rfl))
  | vsub u td m a b t => exact completes_of ho (exec_vsub u td m a b t s) (.takeDraws (resultsOnly_landTile rfl rfl))
  | vmul u td m a b t => exact completes_of ho (exec_vmul u td m a b t s) (.takeDraws (resultsOnly_landTile rfl rfl))
  | vfma u td m a b c t => exact completes_of ho (exec_vfma u td m a b c t s) (.takeDraws (resultsOnly_landTile rfl rfl))
  | vfms u td m a b c t => exact completes_of ho (exec_vfms u td m a b c t s) (.takeDraws (resultsOnly_landTile rfl rfl))
  | vfnma u td m a b c t => exact completes_of ho (exec_vfnma u td m a b c t s) (.takeDraws (resultsOnly_landTile rfl rfl))
  | vmin u td m a b t => exact completes_of ho (exec_vmin u td m a b t s) (resultsOnly_landTile rfl rfl)
  | vmax u td m a b t => exact completes_of ho (exec_vmax u td m a b t s) (resultsOnly_landTile rfl rfl)
  | vabs u td m a t => exact completes_of ho (exec_vabs u td m a t s) (resultsOnly_landTile rfl rfl)
  | vneg u td m a t => exact completes_of ho (exec_vneg u td m a t s) (resultsOnly_landTile rfl rfl)
  | vcmp u cc md m a b t => exact completes_of ho (exec_vcmp u cc md m a b t s) (resultsOnly_landMask rfl rfl)
  | vsel u td m a b t => exact completes_of ho (exec_vsel u td m a b t s) (resultsOnly_landTile rfl rfl)
  | vclamp u td m a b c t => exact completes_of ho (exec_vclamp u td m a b c t s) (resultsOnly_ite (resultsOnly_landTile rfl rfl) (resultsOnly_landTile rfl rfl))
  | viadd u td m a b t => exact completes_of ho (exec_viadd u td m a b t s) (resultsOnly_landTile rfl rfl)
  | visub u td m a b t => exact completes_of ho (exec_visub u td m a b t s) (resultsOnly_landTile rfl rfl)
  | vimul u td m a b t => exact completes_of ho (exec_vimul u td m a b t s) (resultsOnly_landTile rfl rfl)
  | vimulh u td m a b t => exact completes_of ho (exec_vimulh u td m a b t s) (resultsOnly_landTile rfl rfl)
  | vshl u td m a b t => exact completes_of ho (exec_vshl u td m a b t s) (resultsOnly_landTile rfl rfl)
  | vshr u td m a b t => exact completes_of ho (exec_vshr u td m a b t s) (resultsOnly_landTile rfl rfl)
  | vsar u td m a b t => exact completes_of ho (exec_vsar u td m a b t s) (resultsOnly_landTile rfl rfl)
  | vand u td m a b t => exact completes_of ho (exec_vand u td m a b t s) (resultsOnly_landTile rfl rfl)
  | vor u td m a b t => exact completes_of ho (exec_vor u td m a b t s) (resultsOnly_landTile rfl rfl)
  | vxor u td m a b t => exact completes_of ho (exec_vxor u td m a b t s) (resultsOnly_landTile rfl rfl)
  | vnot u td m a t => exact completes_of ho (exec_vnot u td m a t s) (resultsOnly_landTile rfl rfl)
  | vicmp u cc md m a b t => exact completes_of ho (exec_vicmp u cc md m a b t s) (resultsOnly_landMask rfl rfl)
  | vimin u td m a b t => exact completes_of ho (exec_vimin u td m a b t s) (resultsOnly_landTile rfl rfl)
  | vimax u td m a b t => exact completes_of ho (exec_vimax u td m a b t s) (resultsOnly_landTile rfl rfl)
  | vpopc u td m a t => exact completes_of ho (exec_vpopc u td m a t s) (resultsOnly_landTile rfl rfl)
  | vclz u td m a t => exact completes_of ho (exec_vclz u td m a t s) (resultsOnly_landTile rfl rfl)
  | vcvt u td m a t src part => exact completes_of ho (exec_vcvt u td m a t src part s) (.takeDraws (resultsOnly_landTile rfl rfl))
  | vpack u scale td a t ktype q => exact completes_of ho (exec_vpack u scale td a t ktype q s) (resultsOnly_vpackEff s u scale a t _ _ rfl rfl)
  | vunpack u td m a b t xv q => exact completes_of ho (exec_vunpack u td m a b t xv q s) (.takeDraws (resultsOnly_landTile rfl rfl))
  | vmov u td m a t => exact completes_of ho (exec_vmov u td m a t s) (resultsOnly_landTile rfl rfl)
  | vmovs u td m sb t => exact completes_of ho (exec_vmovs u td m sb t s) (resultsOnly_landTile rfl rfl)
  | vmovi u td m imm t => exact completes_of ho (exec_vmovi u td m imm t s) (resultsOnly_landTile rfl rfl)
  | vext u sd a sb t => exact completes_of ho (exec_vext u sd a sb t s) (resultsOnly_landScalar rfl rfl)
  | vins u td a sb sc t => exact completes_of ho (exec_vins u td a sb sc t s) (resultsOnly_landTile rfl rfl)
  | viota u td m sb t => exact completes_of ho (exec_viota u td m sb t s) (resultsOnly_landTile rfl rfl)
  | vrotr u td m a k t => exact completes_of ho (exec_vrotr u td m a k t s) (resultsOnly_landTile rfl rfl)
  | vrotc u td m a k t => exact completes_of ho (exec_vrotc u td m a k t s) (resultsOnly_landTile rfl rfl)
  | vbcr u td m a k t => exact completes_of ho (exec_vbcr u td m a k t s) (resultsOnly_landTile rfl rfl)
  | vbcc u td m a k t => exact completes_of ho (exec_vbcc u td m a k t s) (resultsOnly_landTile rfl rfl)
  | vredr u op td m a t => exact completes_of ho (exec_vredr u op td m a t s) (resultsOnly_vecReduce s true op m t _ _ rfl rfl)
  | vredc u op td m a t => exact completes_of ho (exec_vredc u op td m a t s) (resultsOnly_vecReduce s false op m t _ _ rfl rfl)
  | vperm u td m a b t => exact completes_of ho (exec_vperm u td m a b t s) (resultsOnly_landTile rfl rfl)
  | vrcp u td m a t => exact completes_of ho (exec_vrcp u td m a t s) (.takeDraws (resultsOnly_landTile rfl rfl))
  | vrsq u td m a t => exact completes_of ho (exec_vrsq u td m a t s) (.takeDraws (resultsOnly_landTile rfl rfl))
  | vexp2 u td m a t => exact completes_of ho (exec_vexp2 u td m a t s) (.takeDraws (resultsOnly_landTile rfl rfl))
  | vlog2 u td m a t => exact completes_of ho (exec_vlog2 u td m a t s) (.takeDraws (resultsOnly_landTile rfl rfl))
  | vmerge u desc idx hi td m a b t => exact completes_of ho (exec_vmerge u desc idx hi td m a b t s) (resultsOnly_landTile rfl rfl)
  | vsort u desc idx td m a t => exact completes_of ho (exec_vsort u desc idx td m a t s) (resultsOnly_landTile rfl rfl)
  | vtopk u least idx td m a k t => exact completes_of ho (exec_vtopk u least idx td m a k t s) (resultsOnly_landTile rfl rfl)
  | vbound u td m a b c g => exact completes_of ho (exec_vbound u td m a b c g s) (resultsOnly_landTile rfl rfl)
  | mand u md ma mb => exact completes_of ho (exec_mand u md ma mb s) (resultsOnly_landMask rfl rfl)
  | mor u md ma mb => exact completes_of ho (exec_mor u md ma mb s) (resultsOnly_landMask rfl rfl)
  | mxor u md ma mb => exact completes_of ho (exec_mxor u md ma mb s) (resultsOnly_landMask rfl rfl)
  | mnot u md ma => exact completes_of ho (exec_mnot u md ma s) (resultsOnly_landMask rfl rfl)
  | mpopc u sd ma t => exact completes_of ho (exec_mpopc u sd ma t s) (resultsOnly_landScalar rfl rfl)
  | mfirst u sd ma t => exact completes_of ho (exec_mfirst u sd ma t s) (resultsOnly_landScalar rfl rfl)
  | mset u md k =>
    cases k with
    | all v => exact completes_of ho (exec_mset u md (.all v) s) (resultsOnly_landMask rfl rfl)
    | pre t sb => exact completes_of ho (exec_mset u md (.pre t sb) s) (resultsOnly_landMask rfl rfl)
    | rowpre t sb => exact completes_of ho (exec_mset u md (.rowpre t sb) s) (resultsOnly_landMask rfl rfl)
  | cheval clamp td m fa b => exact completes_of ho (exec_cheval clamp td m fa b s) (.takeDraws (resultsOnly_landTile rfl rfl))
  | msetp p sa => exact completes_of ho (exec_msetp p sa s) (resultsOnly_landParam rfl rfl)
  | msetpi p imm => exact completes_of ho (exec_msetpi p imm s) (resultsOnly_landParam rfl rfl)
  | mstat sd lo => exact completes_of ho (exec_mstat sd lo s) (resultsOnly_landScalar rfl rfl)
  | _ => cases hc

/-- Settles O10: each computing instruction by the one landing of its effect. -/
theorem computationFrame : Obligations.ComputationFrame := by
  unfold Obligations.ComputationFrame
  exact fun i s ho hc => exec_computes ho hc

end Sys2Proof.Machine

/-! ## The machine right after reset

The registers, the CSRs and the memories of `State.reset`, none of whose tables has an entry (O6).
-/
namespace Sys2Proof.Machine

@[simp] theorem hart_reset (h : Nat) : hart State.reset h = Ctx.reset := rfl

theorem scalar_reset (r : Nat) : Ctx.reset.scalar r = ScalarReg.zero := by
  unfold Ctx.scalar
  split <;> rfl

/-- A mask at reset is zero, but for m0 (R78). -/
theorem mask_reset (r : Nat) : (Ctx.reset.mask r).val = if r = 0 then BitVec.allOnes 1024 else 0 := by
  unfold Ctx.mask
  split <;> rfl

/-- Every CSR of a context at reset but STATUS, CHTOL, SPLIVE0, SPLIVE1, QW and QB reads as zero (R85). -/
theorem csrGet_reset_zero (h : Nat) {n : Nat} (hn : n ∉ [0x00, 0x07, 0x0D, 0x0E, 0x12, 0x13]) : csrGet h Ctx.reset n = 0 := by
  unfold csrGet
  split <;> simp_all [Ctx.reset, Csrs.reset, nth]

/-- The memories of the module at reset are DRAM and the host's, both without an entry. -/
theorem memories_reset : State.reset.memories = [[], []] := rfl

/-- Settles O6: every table is empty, so each reader answers its reset value; the CSRs by their numbers. -/
theorem resetValues : Obligations.ResetValues := by
  unfold Obligations.ResetValues
  refine ⟨⟨fun c a => ⟨rfl, rfl⟩, fun d a b => ⟨rfl, rfl⟩, fun h n => ?_,
    fun h r => ⟨rfl, scalar_reset r, rfl, rfl, mask_reset r⟩, rfl, rfl, rfl, rfl⟩, ?_⟩
  · rw [hart_reset]
    split
    case h_7 => exact csrGet_reset_zero h (by simp_all)
    all_goals rfl
  · rw [State.memoriesOk, memories_reset]
    decide

end Sys2Proof.Machine

/-! ## Results that land

One result as it lands in its register, and the one result in flight of a context before its bundle and at it (O9).
-/
namespace Sys2Proof.Machine

@[simp] theorem Ctx.tile_orFlags (c : Ctx) (g : BitVec 6) (r : Nat) : (c.orFlags g).tile r = c.tile r := rfl
@[simp] theorem Ctx.scalar_orFlags (c : Ctx) (g : BitVec 6) (r : Nat) : (c.orFlags g).scalar r = c.scalar r := rfl
@[simp] theorem Ctx.csr_orFlags (c : Ctx) (g : BitVec 6) :
    (c.orFlags g).csr = { c.csr with flags := c.csr.flags ||| g.setWidth 64 } := rfl

@[simp] theorem Ctx.count_fillScalar (c : Ctx) (r : Nat) (v : Word) : (c.fillScalar r v).count = c.count := Ctx.count_setScalar c r _
@[simp] theorem Ctx.flight_fillScalar (c : Ctx) (r : Nat) (v : Word) : (c.fillScalar r v).flight = c.flight := Ctx.flight_setScalar c r _
@[simp] theorem Ctx.csr_fillScalar (c : Ctx) (r : Nat) (v : Word) : (c.fillScalar r v).csr = c.csr := Ctx.csr_setScalar c r _

/-- A scalar that is written and not hard-wired is full and unpoisoned (R81). -/
theorem Ctx.scalar_fillScalar {r : Nat} (hr : r ≠ 0) (c : Ctx) (v : Word) :
    (c.fillScalar r v).scalar r = { val := v, pending := false, poison := none } := by
  rw [Ctx.fillScalar, Ctx.scalar_setScalar, if_pos ⟨rfl, hr⟩]

/-- What a scalar result leaves of its context as it lands. -/
theorem hart_landOne_scalar (s : State) (h due r : Nat) (v : Word) (g : BitVec 6) :
    hart (landOne s h { due := due, dst := .scalar r v, flags := g }) h = ((hart s h).fillScalar r v).orFlags g := by
  simp [landOne]

/-- What a tile result leaves of its context as it lands. -/
theorem hart_landOne_tile (s : State) (h due r : Nat) (v bits : Tile) (g : BitVec 6) :
    hart (landOne s h { due := due, dst := .tile r v bits, flags := g }) h =
      ((hart s h).fillTile r (mergeBits ((hart s h).tile r).val v bits)).orFlags g := by
  simp [landOne]

/-- A scalar that is the only result in flight lands at its bundle. -/
theorem hart_landDue_scalar {s : State} {h due r : Nat} {v : Word} {g : BitVec 6}
    (hf : (hart s h).flight = [{ due := due, dst := .scalar r v, flags := g }]) (hd : due ≤ (hart s h).count) :
    hart (landDue s h) h = { ((hart s h).fillScalar r v).orFlags g with flight := [] } := by
  simp [landDue, hf, hd, hart_landOne_scalar]

/-- Before the bundle of any result in flight its context is as it was. -/
theorem hart_landDue_early {s : State} {h : Nat} (hd : ∀ f ∈ (hart s h).flight, (hart s h).count < f.due) :
    hart (landDue s h) h = hart s h := by
  have hnone : (hart s h).flight.filter (fun f => f.due ≤ (hart s h).count) = [] :=
    List.filter_eq_nil_iff.2 fun f hf => by simpa using hd f hf
  have hall : (hart s h).flight.filter (fun f => !(f.due ≤ (hart s h).count)) = (hart s h).flight :=
    List.filter_eq_self.2 fun f hf => by simpa using hd f hf
  simp only [landDue, hnone, List.foldl_nil, hart_modHart_self, hall]

/-- Settles O9: the one result in flight by `landDue`, a tile's elements by the merge under the mask of R78. -/
theorem landingRules : Obligations.LandingRules := by
  unfold Obligations.LandingRules
  refine ⟨fun s h due sd v g hf hsd => ⟨fun hd => ?_, fun hd => ?_⟩, fun s h r due n v t m g hn => ?_⟩
  · have hr : sd.toNat ≠ 0 := by simpa [← BitVec.toNat_inj] using hsd
    rw [hart_landDue_scalar hf hd]
    refine ⟨Ctx.scalar_fillScalar hr (hart s h) v, ?_, rfl⟩
    simp
  · exact hart_landDue_early (by simpa [hf] using hd)
  · rw [hart_landOne_tile]
    simp only [Ctx.tile_orFlags, Ctx.fillTile, Ctx.tile_setTile_self]
    exact ⟨trivial, tileElem_mergeBits t _ v m n hn⟩

end Sys2Proof.Machine

/-! ## Operations of the function unit

What an operation delivers to its context as it completes, and CHFREE with its completion (O33).
-/
namespace Sys2Proof.Machine

/-! ### What a completion delivers (R87, R173) -/

/-- The function of a completed operation, if it has one, goes to its register. -/
def Ctx.takeFreg (c : Ctx) : Option (Nat × ChebFn) → Ctx
  | some (r, f) => c.fillFreg r f
  | none => c

/-- The tile of a completed operation, if it has one, is merged into its register. -/
def Ctx.takeTile (c : Ctx) : Option (Nat × Tile × Tile) → Ctx
  | some (r, v, bits) => c.fillTile r (mergeBits (c.tile r).val v bits)
  | none => c

/-- The scalar of a completed operation, if it has one, goes to its register. -/
def Ctx.takeScalar (c : Ctx) : Option (Nat × Word) → Ctx
  | some (r, v) => c.fillScalar r v
  | none => c

/-- A completion delivers each kind of result in turn, then the flags. -/
theorem finishFop_eq (o : FOp) (c : Ctx) :
    finishFop o c = (((c.takeFreg o.freg).takeTile o.tile).takeScalar o.scalar).orFlags o.flags := rfl

@[simp] theorem Ctx.freg_orFlags (c : Ctx) (g : BitVec 6) (n : Nat) : (c.orFlags g).freg n = c.freg n := rfl

section
variable (c : Ctx) (f : Option (Nat × ChebFn)) (t : Option (Nat × Tile × Tile)) (w : Option (Nat × Word)) (n : Nat)

@[simp] theorem Ctx.fops_takeFreg : (c.takeFreg f).fops = c.fops := by cases f <;> rfl
@[simp] theorem Ctx.csr_takeFreg : (c.takeFreg f).csr = c.csr := by cases f <;> rfl
@[simp] theorem Ctx.tile_takeFreg : (c.takeFreg f).tile n = c.tile n := by cases f <;> rfl
@[simp] theorem Ctx.fops_takeTile : (c.takeTile t).fops = c.fops := by cases t <;> rfl
@[simp] theorem Ctx.csr_takeTile : (c.takeTile t).csr = c.csr := by cases t <;> rfl
@[simp] theorem Ctx.freg_takeTile : (c.takeTile t).freg n = c.freg n := by cases t <;> rfl
@[simp] theorem Ctx.fops_takeScalar : (c.takeScalar w).fops = c.fops := by
  cases w with
  | none => rfl
  | some p => exact Ctx.fops_setScalar c _ _
@[simp] theorem Ctx.csr_takeScalar : (c.takeScalar w).csr = c.csr := by
  cases w with
  | none => rfl
  | some p => exact Ctx.csr_setScalar c _ _
@[simp] theorem Ctx.freg_takeScalar : (c.takeScalar w).freg n = c.freg n := by
  cases w with
  | none => rfl
  | some p => exact congrArg (fun x => tget FuncReg.zero x n) (Ctx.fregs_setScalar c _ _)
@[simp] theorem Ctx.tile_takeScalar : (c.takeScalar w).tile n = c.tile n := by
  cases w with
  | none => rfl
  | some p => exact congrArg (fun x => tget TileReg.zero x n) (Ctx.tiles_setScalar c _ _)

end

theorem fops_finishFop (o : FOp) (c : Ctx) : (finishFop o c).fops = c.fops := by
  simp [finishFop_eq]

theorem csr_finishFop (o : FOp) (c : Ctx) :
    (finishFop o c).csr = { c.csr with flags := c.csr.flags ||| o.flags.setWidth 64 } := by
  simp [finishFop_eq]

theorem freg_finishFop {o : FOp} {r : Nat} {f : ChebFn} (ho : o.freg = some (r, f)) (c : Ctx) :
    (finishFop o c).freg r = { fn := f, st := .ready } := by
  simp [finishFop_eq, ho, Ctx.takeFreg, Ctx.fillFreg]

theorem tile_finishFop {o : FOp} {r : Nat} {v b : Tile} (ho : o.tile = some (r, v, b)) (c : Ctx) :
    (finishFop o c).tile r = { val := mergeBits (c.tile r).val v b, st := .full } := by
  simp [finishFop_eq, ho, Ctx.takeTile, Ctx.fillTile]

theorem scalar_finishFop {o : FOp} {r : Nat} {v : Word} (ho : o.scalar = some (r, v)) (hr : r ≠ 0) (c : Ctx) :
    (finishFop o c).scalar r = { val := v, pending := false, poison := none } := by
  simp [finishFop_eq, ho, Ctx.takeScalar, Ctx.scalar_fillScalar hr]

/-- FUNCTION_OP_COMPLETE takes the oldest operation of its context (R173). -/
theorem exec_functionOpComplete_oldest {s : State} {h : Nat} {o : FOp} {os : List FOp} (ho : (hart s h).fops = o :: os) :
    exec (.functionOpComplete h) s = .next (modHart s h fun c => finishFop o { c with fops := os }) := by
  rw [exec_functionOpComplete, execFunctionOpComplete, ho]

/-! ### The bank (R172, R191) -/

/-- The slots of the bank that the registers but one occupy, as a sum. -/
theorem bankUsed_eq_sum (c : Ctx) (r : Nat) :
    bankUsed c r = ∑ n ∈ (Finset.range 16).erase r, (c.freg n).fn.coeffs.length := by
  have hl : ((List.range 16).filter (· != r)).Nodup := List.nodup_range.filter _
  have hs : ((List.range 16).filter (· != r)).toFinset = (Finset.range 16).erase r := by
    ext n
    simp [and_comm]
  rw [← hs, List.sum_toFinset _ hl, List.sum_eq_foldl, List.foldl_map]
  rfl

/-- A function register of length 0 gives its slots of the bank back. -/
theorem bankUsed_fillFreg_empty {c : Ctx} {r n : Nat} (hn : n < 16) (hr : r ≠ n) {f : ChebFn} (hf : f.coeffs = []) :
    bankUsed (c.fillFreg n f) r + (c.freg n).fn.coeffs.length = bankUsed c r := by
  have hmem : n ∈ (Finset.range 16).erase r := by simp [hn, hr.symm]
  have hother : ∑ k ∈ ((Finset.range 16).erase r).erase n, ((c.fillFreg n f).freg k).fn.coeffs.length =
      ∑ k ∈ ((Finset.range 16).erase r).erase n, (c.freg k).fn.coeffs.length :=
    Finset.sum_congr rfl fun k hk => by rw [Ctx.fillFreg, Ctx.freg_setFreg, if_neg (Finset.ne_of_mem_erase hk)]
  rw [bankUsed_eq_sum, bankUsed_eq_sum, ← Finset.sum_erase_add _ _ hmem, ← Finset.sum_erase_add _ _ hmem, hother]
  simp [Ctx.fillFreg, hf]

/-- CHFREE's operation. -/
def freeFop (fd : FReg) : FOp := { freg := some (fd.toNat, FuncReg.zero.fn), tile := none, scalar := none, flags := 0 }

theorem exec_chfree_open {s : State} (ho : s.slotsOpen) (fd : FReg) :
    exec (.chfree fd) s = .next (markDst (startFop s (freeFop fd)) (.freg fd.toNat)) := by
  rw [exec_chfree, execChfree, issue_open _ _ ho]
  rfl

theorem finishFop_free (fd : FReg) (c : Ctx) : finishFop (freeFop fd) c = c.fillFreg fd.toNat FuncReg.zero.fn :=
  Ctx.orFlags_zero _

/-- CHFREE in a context whose function unit is idle, and its completion: the register is as at strand start (R170, R191). -/
theorem exec_chfree_completes {s : State} (ho : s.slotsOpen) (hf : (me s).fops = []) (fd : FReg) :
    ∃ t u, exec (.chfree fd) s = .next t ∧ exec (.functionOpComplete s.cur) t = .next u ∧
      me u = (me s).fillFreg fd.toNat FuncReg.zero.fn := by
  have ht : me (markDst (startFop s (freeFop fd)) (.freg fd.toNat)) = { me s with fops := [freeFop fd] } := by
    simp [startFop, hf]
  have hidle : { me s with fops := [] } = me s := by rw [← hf]
  refine ⟨_, _, exec_chfree_open ho fd, exec_functionOpComplete_oldest (congrArg Ctx.fops ht), (hart_modHart_self _ s.cur _).trans ?_⟩
  change finishFop (freeFop fd) { me (markDst (startFop s (freeFop fd)) (.freg fd.toNat)) with fops := [] } = _
  rw [ht, finishFop_free]
  exact congrArg (fun c => c.fillFreg fd.toNat FuncReg.zero.fn) hidle

/-- Settles O33: the completion register by register through `finishFop`; CHFREE's operation is the only one, so it completes. -/
theorem functionCompletes : Obligations.FunctionCompletes := by
  unfold Obligations.FunctionCompletes
  refine ⟨fun s h o os ho => ⟨_, exec_functionOpComplete_oldest ho, ?_⟩, fun s fd ho hf => ?_⟩
  · rw [hart_modHart_self]
    exact ⟨fops_finishFop o _, csr_finishFop o _, fun r f hr => freg_finishFop hr _, fun r v b hr => tile_finishFop hr _,
      fun r v hr h0 => scalar_finishFop hr h0 _, fun g hg => hart_modHart_ne _ _ _ _ hg, rfl, rfl, rfl⟩
  · obtain ⟨t, u, ht, hu, hme⟩ := exec_chfree_completes ho hf fd
    refine ⟨t, u, ht, hu, ?_⟩
    rw [hme]
    exact ⟨Ctx.freg_setFreg_self _ _ _, fun r hr _ => bankUsed_fillFreg_empty fd.isLt hr rfl⟩

end Sys2Proof.Machine

/-! ## Masks

The bits of a mask made of one condition per element, and the mask instructions (O31).
-/
namespace Sys2Proof.Machine

/-! ### One condition per element (R78, R150) -/

/-- The condition of mask bit `j`: that of its element where elements have 64 bits, else that of all the elements it governs. -/
def govBit (t : EType) (ok : Nat → Bool) (j : Nat) : Bool :=
  if t.bits = 64 then ok (j / 2) else (List.range (32 / t.bits)).all fun i => ok (32 / t.bits * j + i)

theorem getLsbD_maskOf (l : List Bool) {j : Nat} (hj : j < l.length) (h : j < 1024) : (maskOf l).getLsbD j = l[j] := by
  have hp := pack_field 1 (l.map fun b => if b then 1 else 0) j (by simpa using hj)
  rw [Nat.mul_one, List.getElem_map] at hp
  rw [maskOf, BitVec.getLsbD_ofNat, decide_eq_true h, Bool.true_and, Nat.testBit_eq_decide_div_mod_eq]
  cases hb : l[j] <;> simp_all

/-- Every condition twice. -/
theorem flatMap_twice (ok : Nat → Bool) (n : Nat) :
    ((List.range n).map ok).flatMap (fun b => [b, b]) = (List.range (2 * n)).map fun j => ok (j / 2) := by
  induction n with
  | zero => rfl
  | succ n ih =>
    have h1 : (2 * n + 1) / 2 = n := by omega
    simp [List.range_succ, Nat.mul_add, ih, h1]

/-- The conditions in groups of `w`. -/
theorem chunks_range (w : Nat) (ok : Nat → Bool) (n : Nat) :
    chunks w n ((List.range (w * n)).map ok) = (List.range n).map fun j => (List.range w).map fun i => ok (w * j + i) := by
  induction n generalizing ok with
  | zero => rfl
  | succ n ih =>
    have hs : (List.range (w * (n + 1))).map ok = (List.range w).map ok ++ (List.range (w * n)).map fun k => ok (w + k) := by
      rw [Nat.mul_succ, Nat.add_comm, List.range_add, List.map_append, List.map_map]
      rfl
    rw [chunks, hs, List.take_left' (by simp), List.drop_left' (by simp), ih, List.range_succ_eq_map, List.map_cons, List.map_map]
    simp [Function.comp_def, Nat.mul_succ, Nat.add_comm, Nat.add_left_comm]

/-- The conditions of the mask bits, the lowest first. -/
theorem perBit_range (t : EType) (ok : Nat → Bool) :
    (if t.bits = 64 then ((List.range (elemCount t)).map ok).flatMap fun b => [b, b]
      else (chunks (32 / t.bits) 1024 ((List.range (elemCount t)).map ok)).map fun g => g.all id) =
      (List.range 1024).map (govBit t ok) := by
  by_cases h : t.bits = 64
  · have hc : elemCount t = 512 := by rw [elemCount, EType.perRow, h]
    rw [if_pos h, hc, flatMap_twice]
    exact List.map_congr_left fun j _ => (if_pos h).symm
  · have hc : elemCount t = 32 / t.bits * 1024 := by
      revert h
      cases t <;> decide
    rw [if_neg h, hc, chunks_range, List.map_map]
    exact List.map_congr_left fun j _ => by simp [govBit, h, List.all_map]

/-- A mask from one condition per element, bit by bit. -/
theorem getLsbD_maskFrom (t : EType) (m : Mask) (ok : Nat → Bool) {j : Nat} (h : j < 1024) :
    (maskFrom t m ((List.range (elemCount t)).map ok)).getLsbD j =
      (govBit t ok j && m.getLsbD (if t.bits = 64 then j / 2 * 2 else j)) := by
  have hm : maskFrom t m ((List.range (elemCount t)).map ok) =
      maskOf ((((List.range 1024).map (govBit t ok)).zip (List.range 1024)).map
        fun p => p.1 && m.getLsbD (if t.bits = 64 then p.2 / 2 * 2 else p.2)) := by
    rw [← perBit_range, maskOf, List.map_map]
    rfl
  rw [hm, getLsbD_maskOf _ (by simpa using h) h]
  simp

/-- Under a mask of all ones the conditions alone decide. -/
theorem getLsbD_maskFrom_allOnes (t : EType) (ok : Nat → Bool) {j : Nat} (h : j < 1024) :
    (maskFrom t (BitVec.allOnes 1024) ((List.range (elemCount t)).map ok)).getLsbD j = govBit t ok j := by
  have hk : (if t.bits = 64 then j / 2 * 2 else j) < 1024 := by split <;> omega
  rw [getLsbD_maskFrom t _ ok h, BitVec.getLsbD_allOnes, decide_eq_true hk, Bool.and_true]

/-- The place in a row is below a bound where it is below what the bound leaves of the row. -/
theorem lt_rowBound (t : EType) (n k : Nat) : decide (n % t.perRow < k) = decide (n % t.perRow < min k t.perRow) := by
  have hrow : n % t.perRow < t.perRow := Nat.mod_lt _ (by cases t <;> decide)
  simp [hrow]

/-! ### The elements that a mask governs (R78) -/

theorem length_maskPositions (t : EType) (m : Mask) :
    (maskPositions t m).length = (List.range (elemCount t)).countP fun n => govern t m n := by
  rw [maskPositions, List.countP_eq_length_filter]

/-- The word that MFIRST writes. -/
def firstWord (t : EType) (m : Mask) : Word := match maskPositions t m with
  | n :: _ => BitVec.ofNat 64 n
  | [] => BitVec.allOnes 64

theorem firstWord_eq (t : EType) (m : Mask) :
    firstWord t m = (((List.range (elemCount t)).find? fun n => govern t m n).map (BitVec.ofNat 64)).getD (BitVec.allOnes 64) := by
  rw [← List.head?_filter, firstWord, maskPositions]
  cases (List.range (elemCount t)).filter fun n => govern t m n <;> rfl

theorem firstWord_some {t : EType} {m : Mask} {n : Nat} (hn : n < elemCount t) (hg : govern t m n = true)
    (hf : ∀ k, k < n → govern t m k = false) : firstWord t m = BitVec.ofNat 64 n := by
  have h : ((List.range (elemCount t)).find? fun n => govern t m n) = some n :=
    List.find?_range_eq_some.2 ⟨hg, List.mem_range.2 hn, fun k hk => by simp [hf k hk]⟩
  rw [firstWord_eq, h]
  rfl

theorem firstWord_none {t : EType} {m : Mask} (hg : ∀ n, n < elemCount t → govern t m n = false) :
    firstWord t m = BitVec.allOnes 64 := by
  have h : ((List.range (elemCount t)).find? fun n => govern t m n) = none :=
    List.find?_eq_none.2 fun n hn => by simp [hg n (List.mem_range.1 hn)]
  rw [firstWord_eq, h]
  rfl

/-! ### The instructions (R169) -/

theorem exec_mset_open {s : State} (ho : s.slotsOpen) (u : VUnit) (md : MReg) (k : MSetKind) :
    exec (.mset u md k) s = .next (land s (.mask md.toNat (msetVal s k)) (vecLat s 1) 0) := by
  rw [exec_mset, execMset, issue_open _ _ ho, landMask]

theorem exec_mfirst_open {s : State} (ho : s.slotsOpen) (u : VUnit) (sd : SReg) (ma : MReg) (t : EType) :
    exec (.mfirst u sd ma t) s = .next (landScalar s sd (firstWord t (maskVal s ma)) (vecLat s 1)) :=
  (exec_mfirst u sd ma t s).trans (issue_open _ _ ho)

theorem exec_mpopc_open {s : State} (ho : s.slotsOpen) (u : VUnit) (sd : SReg) (ma : MReg) (t : EType) :
    exec (.mpopc u sd ma t) s = .next (landScalar s sd (BitVec.ofNat 64 (maskPositions t (maskVal s ma)).length) (vecLat s 1)) := by
  rw [exec_mpopc, execMpopc, issue_open _ _ ho]

/-- The bitwise mask instructions. -/
theorem exec_maskLogic_open {s : State} (ho : s.slotsOpen) (u : VUnit) (md ma mb : MReg) :
    exec (.mand u md ma mb) s = .next (landMask s md (maskVal s ma &&& maskVal s mb)) ∧
    exec (.mor u md ma mb) s = .next (landMask s md (maskVal s ma ||| maskVal s mb)) ∧
    exec (.mxor u md ma mb) s = .next (landMask s md (maskVal s ma ^^^ maskVal s mb)) ∧
    exec (.mnot u md ma) s = .next (landMask s md (~~~maskVal s ma)) := by
  simp [execMand, execMor, execMxor, execMnot, issue_open _ _ ho]

/-- Settles O31: the bits that MSET writes by `maskFrom` under all ones, MPOPC and MFIRST by the positions that the mask governs. -/
theorem maskResults : Obligations.MaskResults := by
  unfold Obligations.MaskResults
  intro s u md ma mb sd sb t b ho x y gives
  obtain ⟨hand, hor, hxor, hnot⟩ := exec_maskLogic_open ho u md ma mb
  refine ⟨hand, hor, hxor, hnot, exec_mset_open ho u md (.all b), fun _ => ⟨⟨_, exec_mset_open ho u md (.pre t sb), ?_⟩,
    _, exec_mset_open ho u md (.rowpre t sb), ?_⟩, ?_, _, exec_mfirst_open ho u sd ma t, fun n hn hg hf => firstWord_some hn hg hf,
    firstWord_none⟩
  · exact fun j hj => getLsbD_maskFrom_allOnes t _ hj
  · exact fun j hj => (getLsbD_maskFrom_allOnes t _ hj).trans (congrArg (govBit t · j) (funext fun n => lt_rowBound t n _))
  · rw [exec_mpopc_open ho, length_maskPositions]
    rfl
end Sys2Proof.Machine

/-! ## HALT where a core stands twice

The clause of O18 that a HALT leaves the handler idle fails for a table of cores that is not in its canonical form. `endLaunch` takes away
the forked strands of the launch, and the entry of a core that is then in its reset state goes: where the table lists that core a second
time, the second entry comes to light, and a trap that waits in it enters the handler at once.
-/
namespace Sys2Proof.Machine

/-- A strand of launch 0 that its parent has forked and no context has taken. -/
def forkedStrand : NewStrand :=
  { who := Ident.none, pc := 0, args := [], skey := 0, prio := 0, spmax := 0, seed := 0, qnum := 0 }

/-- Core 0 as its supervisor's HALT bundle closes, launch 0 running. The first entry of the core holds the forked strand and no waiting
trap; the second holds a waiting trap of context 1. -/
def haltingTwice : State :=
  { State.reset with
    cur := 4
    bundle := { Bundle.closed with halts := some 9 }
    launches := [(0, { Launch.none with ended := none })]
    cores := [(0, { Core.reset with deque := [forkedStrand] }), (0, { Core.reset with trapQ := [1] })] }

/-- The trap in the second entry has entered the handler. -/
theorem handling_haltingTwice : (core (closeBundle haltingTwice) 0).handling = true := rfl

/-- Refutes O18: HALT in `haltingTwice`, TSRC naming context 0 and no trap waiting, leaves the core's handler running. -/
theorem not_systemInstructions : ¬ Obligations.SystemInstructions := by
  unfold Obligations.SystemInstructions
  rintro ⟨-, hclose, -⟩
  obtain ⟨-, hhalt⟩ := hclose haltingTwice 0 0 (by decide) rfl (by decide) rfl rfl rfl rfl rfl rfl
  obtain ⟨-, hidle, -⟩ := hhalt 9 rfl rfl
  exact absurd (hidle.symm.trans handling_haltingTwice) (by decide)

end Sys2Proof.Machine

/-! ## Scalar floating point

The results of the SC slot's floating-point instructions (O13).
-/
namespace Sys2Proof.Machine

/-- Settles O13: each instruction by its effect in an open bundle. -/
theorem scalarFloatResults : Obligations.ScalarFloatResults := by
  unfold Obligations.ScalarFloatResults
  intro s sd sa sb sc cc k ho f md d gives picks
  have opened {i : Instr} {eff : State → State} (hi : exec i s = issue i eff s) : exec i s = .next (eff s) :=
    hi.trans (issue_open i eff ho)
  refine ⟨?_, ?_, ?_, ?_, ?_, ?_, ?_, ?_⟩
  · exact opened (exec_fadd sd sa sb s)
  · exact opened (exec_fsub sd sa sb s)
  · exact opened (exec_fmul sd sa sb s)
  · exact opened (exec_ffma sd sa sb sc s)
  · exact opened (exec_fmin sd sa sb s)
  · exact opened (exec_fmax sd sa sb s)
  · exact opened (exec_fcmp cc sd sa sb s)
  · exact opened (exec_fcvt k sd sa s)

end Sys2Proof.Machine

/-! ## VBOUND with more than 32 groups

The clause of O25 on VBOUND reads the sums of row 0 of b alone. A well-formed VBOUND has at most 32 groups and reads no more than that;
but the clause is about every group count, and with 33 groups the operation reads element 64 of b, the first of row 1.
-/
namespace Sys2Proof.Machine

/-- A tile lands with the elements it was made from, whatever else is said of it. -/
theorem TileResult.eq_landElems {s : State} {td : TReg} {m : MReg} {t : EType} {k : Nat} {l : List (Nat × BitVec 6)}
    {f : Nat → Nat × BitVec 6} (h : TileResult s (landElems s td m t k l) td m t k f) (hl : l.length = elemCount t) {n : Nat}
    (hn : n < l.length) : (f n).1 % 2 ^ t.bits = l[n].1 % 2 ^ t.bits := by
  obtain ⟨v, hr, he⟩ := h
  have hv := congrArg (fun s => (me s).flight) hr
  simp only [landElems, me_land, List.append_cancel_left_eq, List.cons.injEq, Flight.mk.injEq, Landing.tile.injEq] at hv
  obtain ⟨⟨-, ⟨-, rfl, -⟩, -⟩, -⟩ := hv
  rw [← he n (hl ▸ hn), tileElem_tileOf t _ n (by simpa using hl) (by simpa using hn), List.getElem_map]

/-- Core 0, strand context 0, a bundle open; the latch of b holds a NaN at element 64 and nothing else, those of a and c are clear. -/
def boundState : State :=
  { State.reset with
    bundle := { Bundle.closed with isOpen := true }
    harts := [(0, { Ctx.reset with latches := [(1, BitVec.ofNat 32768 (0x7FC00000 <<< 2048))] })] }

/-- The results of VBOUND in `boundState`, row after row. -/
def boundResults : List (Nat × BitVec 6) :=
  let rows (t : TSrc) (k : Nat) : List (List Nat) := rowsOf .fp32 ((me boundState).srcElems .fp32 k t)
  ((rows .latch 0).zip (rows .latch 2)).flatMap fun p =>
    boundRow p.1 ((me boundState).srcElems .fp32 1 .latch) p.2 33 :: List.replicate 63 (0, 0)

theorem exec_vbound_boundState :
    exec (.vbound .va 0 0 .latch .latch .latch 33) boundState = .next (landElems boundState 0 0 .fp32 6 boundResults) := rfl

theorem length_boundResults : boundResults.length = elemCount .fp32 := by decide +kernel

/-- Group 32 multiplies element 64 of b, so that the first row's bound is +∞. -/
theorem boundResults_head : ∃ h : 0 < boundResults.length, boundResults[0].1 = 0x7F800000 := by decide +kernel

/-- The sums of row 0 alone give the bound 0. -/
theorem boundRow_rowZero :
    (boundRow ((List.range 64).map fun j => opA boundState .va .fp32 .latch (64 * (0 / 64) + j))
      ((List.range 64).map fun j => tileElem .fp32 ((me boundState).src (latchPos .va 1) .latch) (64 * 0 + j))
      ((List.range 64).map fun j => opC boundState .va .fp32 .latch (64 * (0 / 64) + j)) (33 : BitVec 8).toNat).1 = 0 := by decide +kernel

/-- Refutes O25: VBOUND over 33 groups in `boundState` gives element 0 the value +∞, where the sums of row 0 of b give 0. -/
theorem not_vectorFloats : ¬ Obligations.VectorFloats := by
  unfold Obligations.VectorFloats
  rintro ⟨-, -, -, hbound⟩
  obtain ⟨r, hr, ht⟩ := hbound boundState .va 0 0 .latch .latch .latch 33 rfl
  obtain rfl : landElems boundState 0 0 .fp32 6 boundResults = r := by
    rw [exec_vbound_boundState] at hr
    exact Host.Outcome.next.inj hr
  obtain ⟨hpos, hhead⟩ := boundResults_head
  have h := ht.eq_landElems length_boundResults hpos
  beta_reduce at h
  rw [hhead, if_pos (Nat.zero_mod 64), boundRow_rowZero] at h
  exact absurd h (by decide)

end Sys2Proof.Machine

/-! ## Reductions

Rows and columns by position, the pairwise tree of an associative step as a fold, and the reductions of rows and columns (O30).
-/
namespace Sys2Proof.Machine

/-! ### Rows and columns by position -/

/-- Lists of one length, one after another, by position. -/
theorem flatMap_range_map {α : Type} (a b : Nat) (f : Nat → Nat → α) :
    ((List.range a).flatMap fun i => (List.range b).map (f i)) = (List.range (a * b)).map fun n => f (n / b) (n % b) := by
  induction a with
  | zero => simp
  | succ a ih =>
    have hlast : (List.range b).map (f a) = (List.range b).map fun j => f ((a * b + j) / b) ((a * b + j) % b) :=
      List.map_congr_left fun j hj => by
        have hlt := List.mem_range.1 hj
        rw [Nat.mul_comm a b, Nat.mul_add_div (by omega), Nat.mul_add_mod, Nat.div_eq_of_lt hlt, Nat.mod_eq_of_lt hlt, Nat.add_zero]
    rw [List.range_succ, List.flatMap_append, ih, List.flatMap_singleton, Nat.succ_mul, List.range_add, List.map_append, List.map_map,
      hlast]
    rfl

/-- Values by position in groups of `w`. -/
theorem chunks_map_range {α : Type} (w n : Nat) (f : Nat → α) :
    chunks w n ((List.range (w * n)).map f) = (List.range n).map fun i => (List.range w).map fun j => f (i * w + j) := by
  induction n generalizing f with
  | zero => rfl
  | succ n ih =>
    have hsplit : (List.range (w * (n + 1))).map f = (List.range w).map f ++ (List.range (w * n)).map (f ∘ (w + ·)) := by
      rw [show w * (n + 1) = w + w * n by ring, List.range_add, List.map_append, List.map_map]
    have hshift (i j : Nat) : w + (i * w + j) = (i + 1) * w + j := by ring
    rw [chunks, hsplit, List.take_left' (by simp), List.drop_left' (by simp), ih, List.range_succ_eq_map]
    simp [Function.comp_def, hshift]

/-- The rows of elements by position. -/
theorem rowsOf_eq_map (t : EType) (x : Nat → Nat) :
    rowsOf t ((List.range (elemCount t)).map x) = (List.range 16).map fun i => (List.range t.perRow).map fun j => x (i * t.perRow + j) := by
  have hc : elemCount t = t.perRow * 16 := Nat.mul_comm _ _
  rw [rowsOf, hc, chunks_map_range]

theorem nth_eq_getD {α : Type} (d : α) (l : List α) (n : Nat) : nth d l n = l.getD n d := by
  induction l generalizing n with
  | nil => rfl
  | cons x xs ih =>
    cases n with
    | zero => rfl
    | succ n => simpa [nth] using ih n

theorem nth_map_range {α : Type} (d : α) (f : Nat → α) {n k : Nat} (h : k < n) : nth d ((List.range n).map f) k = f k := by
  simp [nth_eq_getD, h]

/-- The columns of rows by position. -/
theorem columns_eq_map (e : Nat) (x : Nat → Nat → Nat) :
    columns e ((List.range 16).map fun i => (List.range e).map (x i)) =
      (List.range e).map fun j => (List.range 16).map fun i => x i j := by
  refine List.map_congr_left fun j hj => ?_
  rw [List.map_map]
  exact List.map_congr_left fun i _ => nth_map_range 0 _ (List.mem_range.1 hj)

/-! ### Flags -/

theorem getLsbD_foldl_or (l : List (BitVec 6)) (g : BitVec 6) (i : Nat) :
    (l.foldl (· ||| ·) g).getLsbD i = (g.getLsbD i || l.any fun x => x.getLsbD i) := by
  induction l generalizing g with
  | nil => simp
  | cons x xs ih => simp [ih, Bool.or_assoc]

theorem getLsbD_orAll (l : List (BitVec 6)) (i : Nat) : (orAll l).getLsbD i = l.any fun x => x.getLsbD i := by
  simp [orAll, getLsbD_foldl_or]

/-- Which flags there are does not depend on their order or on how often they come. -/
theorem orAll_congr {l k : List (BitVec 6)} (h : ∀ g, g ∈ l ↔ g ∈ k) : orAll l = orAll k := by
  refine BitVec.eq_of_getLsbD_eq fun i _ => ?_
  rw [getLsbD_orAll, getLsbD_orAll, Bool.eq_iff_iff, List.any_eq_true, List.any_eq_true]
  simp only [h]

theorem orAll_cons (g : BitVec 6) (l : List (BitVec 6)) : orAll (g :: l) = g ||| orAll l :=
  BitVec.eq_of_getLsbD_eq fun i _ => by simp [getLsbD_orAll]

/-! ### The tree (R116) -/

section
variable (step : Nat → Nat → Nat → Nat × BitVec 6)

theorem treeLevel_length (k : Nat) (l : List Nat) : (treeLevel step k l).1.length = (l.length + 1) / 2 := by
  fun_induction treeLevel step k l with
  | case1 k x y l r g h rs g' k' hrec ih => simp_all; omega
  | case2 k l h =>
    match l, h with
    | [], _ => rfl
    | [x], _ => simp
    | x :: y :: l, h => exact absurd rfl (h x y l)

theorem treeLevel_next (k : Nat) (l : List Nat) : (treeLevel step k l).2.2 = k + l.length / 2 := by
  fun_induction treeLevel step k l with
  | case1 k x y l r g h rs g' k' hrec ih => simp_all; omega
  | case2 k l h =>
    match l, h with
    | [], _ => rfl
    | [x], _ => simp
    | x :: y :: l, h => exact absurd rfl (h x y l)

/-- A tree of `n` levels is enough for 2^n values; it takes a draw less than there are values. -/
theorem treeSum_next {n : Nat} {k : Nat} {l : List Nat} (g : BitVec 6) (hl : l.length ≤ 2 ^ n) (hne : l ≠ []) :
    (treeSum step n k l g).2.2 = k + (l.length - 1) := by
  induction n generalizing k l g with
  | zero =>
    have hpos := List.length_pos_iff.2 hne
    simp only [Nat.pow_zero] at hl
    simp [treeSum, show l.length - 1 = 0 by omega]
  | succ n ih =>
    match l with
    | [] => exact absurd rfl hne
    | [x] => rfl
    | x :: y :: l =>
      have hlen := treeLevel_length step k (x :: y :: l)
      have hnext := treeLevel_next step k (x :: y :: l)
      rw [Nat.pow_succ] at hl
      simp only [treeSum]
      rw [ih _ (by omega) (by rw [← List.length_pos_iff, hlen]; simp), hlen, hnext]
      simp only [List.length_cons] at hl ⊢
      omega

/-- A step that takes no draw gives the same values and flags from any draw on. -/
theorem treeLevel_anyDraw (hstep : ∀ k, step k = step 0) (k : Nat) (l : List Nat) :
    (treeLevel step k l).1 = (treeLevel step 0 l).1 ∧ (treeLevel step k l).2.1 = (treeLevel step 0 l).2.1 := by
  have hgen (k j : Nat) : (treeLevel step k l).1 = (treeLevel step j l).1 ∧ (treeLevel step k l).2.1 = (treeLevel step j l).2.1 := by
    fun_induction treeLevel step k l generalizing j with
    | case1 k x y l r g h rs g' k' hrec ih =>
      obtain ⟨hvals, hflags⟩ := ih (j + 1)
      rw [hrec] at hvals hflags
      rw [hstep k] at h
      simp only [treeLevel, hstep j, h, ← hvals, ← hflags, and_self]
    | case2 k l h =>
      match l, h with
      | [], _ => exact ⟨rfl, rfl⟩
      | [x], _ => exact ⟨rfl, rfl⟩
      | x :: y :: l, h => exact absurd rfl (h x y l)
  exact hgen k 0

theorem treeSum_anyDraw (hstep : ∀ k, step k = step 0) (n k : Nat) (l : List Nat) (g : BitVec 6) :
    (treeSum step n k l g).1 = (treeSum step n 0 l g).1 ∧ (treeSum step n k l g).2.1 = (treeSum step n 0 l g).2.1 := by
  have hgen (k j : Nat) : (treeSum step n k l g).1 = (treeSum step n j l g).1 ∧ (treeSum step n k l g).2.1 = (treeSum step n j l g).2.1 := by
    induction n generalizing k j l g with
    | zero => exact ⟨rfl, rfl⟩
    | succ n ih =>
      match l with
      | [] => exact ⟨rfl, rfl⟩
      | [x] => exact ⟨rfl, rfl⟩
      | x :: y :: l =>
        obtain ⟨hk, hkg⟩ := treeLevel_anyDraw step hstep k (x :: y :: l)
        obtain ⟨hj, hjg⟩ := treeLevel_anyDraw step hstep j (x :: y :: l)
        simp only [treeSum, hk, hkg, hj, hjg]
        exact ih _ _ _ _
  exact hgen k 0

/-- Lists of one length reduced one after another: each takes up the draws where the one before it stopped. -/
theorem reduceAll_eq {c : Nat} (hc : 0 < c) (hc8 : c ≤ 2 ^ 8) (a k : Nat) (l : Nat → List Nat) (hl : ∀ i, (l i).length = c) :
    let z (i : Nat) := treeSum step 8 (k + i * (c - 1)) (l i) 0
    reduceAll step k ((List.range a).map l) =
      ((List.range a).map fun i => (z i).1, orAll ((List.range a).map fun i => (z i).2.1), k + a * (c - 1)) := by
  induction a generalizing k l with
  | zero => simp [reduceAll, orAll]
  | succ a ih =>
    have hnext := treeSum_next step (k := k) 0 ((hl 0).trans_le hc8) (by rw [← List.length_pos_iff, hl]; exact hc)
    have hshift (i : Nat) : k + (c - 1) + i * (c - 1) = k + (i + 1) * (c - 1) := by ring
    have hrest := ih (k + (c - 1)) (fun i => l (i + 1)) fun i => hl _
    rw [hl] at hnext
    simp only [hshift] at hrest
    simp only [List.range_succ_eq_map, List.map_cons, List.map_map, reduceAll, hnext, orAll_cons, Function.comp_def,
      Nat.succ_eq_add_one, Nat.zero_mul, Nat.add_zero, hrest]

end

/-! ### Associative steps -/

/-- The fold of a list from its first value on. -/
def foldFirst (f : Nat → Nat → Nat) (l : List Nat) : Nat := l.tail.foldl f (l.headD 0)

section
variable {f : Nat → Nat → Nat} (hf : ∀ x y z, f (f x y) z = f x (f y z))
include hf

theorem foldl_treeLevel (k : Nat) (l : List Nat) (a : Nat) :
    (treeLevel (fun _ x y => (f x y, 0)) k l).1.foldl f a = l.foldl f a ∧ (treeLevel (fun _ x y => (f x y, 0)) k l).2.1 = 0 := by
  fun_induction treeLevel (fun _ x y => (f x y, (0 : BitVec 6))) k l generalizing a with
  | case1 k x y l r g h rs g' k' hrec ih =>
    obtain ⟨rfl, rfl⟩ := Prod.mk.inj h
    obtain ⟨hvals, hflags⟩ := ih (f a (f x y))
    rw [hrec] at hvals hflags
    simp only at hvals hflags
    simp [hvals, hflags, hf]
  | case2 k l h => exact ⟨rfl, rfl⟩

/-- The tree of an associative step gives what the fold gives. -/
theorem treeSum_assoc {n : Nat} {k : Nat} {l : List Nat} (hl : l.length ≤ 2 ^ n) :
    (treeSum (fun _ x y => (f x y, 0)) n k l 0).1 = foldFirst f l ∧ (treeSum (fun _ x y => (f x y, 0)) n k l 0).2.1 = 0 := by
  induction n generalizing k l with
  | zero =>
    match l with
    | [] => exact ⟨rfl, rfl⟩
    | [x] => exact ⟨rfl, rfl⟩
    | x :: y :: l => simp at hl
  | succ n ih =>
    match l with
    | [] => exact ⟨rfl, rfl⟩
    | [x] => exact ⟨rfl, rfl⟩
    | x :: y :: l =>
      have hlen := treeLevel_length (fun _ x y => (f x y, 0)) k (x :: y :: l)
      obtain ⟨hvals, hflags⟩ := foldl_treeLevel hf (k + 1) l (f x y)
      rw [Nat.pow_succ] at hl
      obtain ⟨hv, hg⟩ := ih (k := (treeLevel (fun _ x y => (f x y, 0)) k (x :: y :: l)).2.2)
        (l := (treeLevel (fun _ x y => (f x y, 0)) k (x :: y :: l)).1) (by omega)
      simp only [treeSum, treeLevel, hflags, foldFirst, List.tail_cons, List.headD_cons] at hv hg ⊢
      exact ⟨hv.trans hvals, hg⟩

end

/-! ### The instructions (R162) -/

theorem perRow_bounds {t : EType} (h : t.isB = true) : 0 < t.perRow ∧ t.perRow ≤ 2 ^ 8 := by
  revert h
  cases t <;> decide

/-- The elements of row `i`, and of column `j`, of a function of the position. -/
def rowAt (t : EType) (x : Nat → Nat) (i : Nat) : List Nat := (List.range t.perRow).map fun j => x (i * t.perRow + j)
def columnAt (t : EType) (x : Nat → Nat) (j : Nat) : List Nat := (List.range 16).map fun i => x (i * t.perRow + j)

/-- The flags of the rows are those of all their elements. -/
theorem orAll_byRow (t : EType) (ht : 0 < t.perRow) (g : Nat → BitVec 6) :
    orAll ((List.range 16).map g) = orAll ((List.range (elemCount t)).map fun n => g (n / t.perRow)) := by
  refine orAll_congr fun y => ?_
  simp only [List.mem_map, List.mem_range]
  constructor
  · rintro ⟨i, hi, rfl⟩
    exact ⟨i * t.perRow, Nat.mul_lt_mul_of_pos_right hi ht, by rw [Nat.mul_div_cancel _ ht]⟩
  · rintro ⟨n, hn, rfl⟩
    exact ⟨n / t.perRow, Nat.div_lt_of_lt_mul (by rwa [Nat.mul_comm]), rfl⟩

/-- The flags of the columns are those of all their elements. -/
theorem orAll_byColumn (t : EType) (g : Nat → BitVec 6) :
    orAll ((List.range t.perRow).map g) = orAll ((List.range (elemCount t)).map fun n => g (n % t.perRow)) := by
  refine orAll_congr fun y => ?_
  simp only [List.mem_map, List.mem_range]
  constructor
  · rintro ⟨j, hj, rfl⟩
    exact ⟨j, hj.trans_le (Nat.le_mul_of_pos_left _ (by decide)), by rw [Nat.mod_eq_of_lt hj]⟩
  · rintro ⟨n, hn, rfl⟩
    have hpos : 0 < t.perRow := by cases t <;> decide
    exact ⟨n % t.perRow, Nat.mod_lt _ hpos, rfl⟩

/-- A result for each row, written to all of its elements. -/
theorem tileResult_byRow (s : State) (td : TReg) (m : MReg) (t : EType) (k : Nat) (ht : 0 < t.perRow) (z : Nat → Nat × BitVec 6) :
    TileResult s (land s (.tile td.toNat (tileOf t.bits (((List.range 16).map fun i => (z i).1).flatMap fun v => List.replicate t.perRow v))
      (elemMask t ((me s).mask m.toNat).val)) (vecLat s k) (orAll ((List.range 16).map fun i => (z i).2))) td m t k
      fun n => z (n / t.perRow) := by
  have hvals : (((List.range 16).map fun i => (z i).1).flatMap fun v => List.replicate t.perRow v) =
      (List.range (elemCount t)).map fun n => (z (n / t.perRow)).1 := by
    rw [elemCount, List.flatMap_map, ← flatMap_range_map 16 t.perRow fun i _ => (z i).1]
    simp
  rw [hvals, orAll_byRow t ht]
  simpa [landElems, Function.comp_def] using tileResult_landElems s td m t k fun n => z (n / t.perRow)

/-- A result for each column, written to all of its elements. -/
theorem tileResult_byColumn (s : State) (td : TReg) (m : MReg) (t : EType) (k : Nat) (z : Nat → Nat × BitVec 6) :
    TileResult s (land s (.tile td.toNat (tileOf t.bits ((List.range 16).flatMap fun _ => (List.range t.perRow).map fun j => (z j).1))
      (elemMask t ((me s).mask m.toNat).val)) (vecLat s k) (orAll ((List.range t.perRow).map fun j => (z j).2))) td m t k
      fun n => z (n % t.perRow) := by
  rw [flatMap_range_map, orAll_byColumn, ← show elemCount t = 16 * t.perRow from rfl]
  simpa [landElems, Function.comp_def] using tileResult_landElems s td m t k fun n => z (n % t.perRow)

/-- What a reduction of rows or columns does beside its draws. -/
theorem vecReduce_row (s : State) (op : RedOp) (td : TReg) (m : MReg) (t : EType) (ht : t.isB = true) (x : Nat → Nat) :
    let z (i : Nat) := treeSum (redStep s op t) 8 (i * (t.perRow - 1)) (rowAt t x i) 0
    ∃ r, vecReduce s true op td m t 5 ((List.range (elemCount t)).map x) =
        (if op = .add ∧ t.isF then takeDraws r (16 * (t.perRow - 1)) else r) ∧
      TileResult s r td m t 5 fun n => ((z (n / t.perRow)).1, (z (n / t.perRow)).2.1) := by
  intro z
  obtain ⟨hpos, hle⟩ := perRow_bounds ht
  have hall := reduceAll_eq (redStep s op t) hpos hle 16 0 (rowAt t x) fun i => by simp [rowAt]
  simp only [Nat.zero_add] at hall
  have hrows : rowsOf t ((List.range (elemCount t)).map x) = (List.range 16).map (rowAt t x) := rowsOf_eq_map t x
  refine ⟨_, ?_, tileResult_byRow s td m t 5 hpos fun i => ((z i).1, (z i).2.1)⟩
  simp only [vecReduce, if_true, hrows, hall]
  rfl

theorem vecReduce_column (s : State) (op : RedOp) (td : TReg) (m : MReg) (t : EType) (x : Nat → Nat) :
    let z (j : Nat) := treeSum (redStep s op t) 8 (j * 15) (columnAt t x j) 0
    ∃ r, vecReduce s false op td m t 9 ((List.range (elemCount t)).map x) =
        (if op = .add ∧ t.isF then takeDraws r (t.perRow * 15) else r) ∧
      TileResult s r td m t 9 fun n => ((z (n % t.perRow)).1, (z (n % t.perRow)).2.1) := by
  intro z
  have hall := reduceAll_eq (redStep s op t) (show 0 < 16 by decide) (by decide) t.perRow 0 (columnAt t x) fun i => by simp [columnAt]
  simp only [Nat.zero_add, Nat.reduceSub] at hall
  have hcols : columns t.perRow (rowsOf t ((List.range (elemCount t)).map x)) = (List.range t.perRow).map (columnAt t x) := by
    rw [rowsOf_eq_map, columns_eq_map]
    rfl
  refine ⟨_, ?_, tileResult_byColumn s td m t 9 fun j => ((z j).1, (z j).2.1)⟩
  simp only [vecReduce, Bool.false_eq_true, if_false, hcols, hall]
  rfl

/-- The step of a reduction of integers. -/
def redOp (t : EType) (op : RedOp) (x y : Nat) : Nat := match op with
  | .add => (x + y) % 2 ^ t.bits
  | .max => if intVal t x < intVal t y then y else x
  | .min => if intVal t y < intVal t x then y else x
  | .and => x &&& y
  | .or => x ||| y
  | .xor => x ^^^ y

theorem redStep_integer (s : State) (op : RedOp) {t : EType} (ht : t.isI = true) : redStep s op t = fun _ x y => (redOp t op x y, 0) := by
  funext k x y
  simp only [redStep, isF_of_isI ht]
  cases op <;> rfl

theorem redOp_assoc (t : EType) (op : RedOp) (x y z : Nat) : redOp t op (redOp t op x y) z = redOp t op x (redOp t op y z) := by
  cases op with
  | add => simp [redOp, Nat.add_assoc]
  | max => grind [redOp]
  | min => grind [redOp]
  | and => exact Nat.and_assoc x y z
  | or => exact Nat.or_assoc x y z
  | xor => exact Nat.xor_assoc x y z

/-- What is left of sums that wrap at each step. -/
theorem foldl_add_mod (m : Nat) (l : List Nat) (a : Nat) : l.foldl (fun x y => (x + y) % m) a % m = (a + l.sum) % m := by
  induction l generalizing a with
  | nil => simp
  | cons x xs ih => rw [List.foldl_cons, ih, List.sum_cons, Nat.mod_add_mod, Nat.add_assoc]

/-- The fold from the first value on is a fold from a value that the operation absorbs there. -/
theorem foldFirst_eq_foldl {f : Nat → Nat → Nat} {u x : Nat} {xs : List Nat} (h : f u x = x) : foldFirst f (x :: xs) = (x :: xs).foldl f u := by
  rw [List.foldl_cons, h]
  rfl

/-- A reduction of integers writes what the operation makes of each row, and of each column. -/
theorem gives_reduceInt {s : State} (ho : s.slotsOpen) (u : VUnit) (op : RedOp) (td : TReg) (m : MReg) (a : TSrc) {t : EType}
    (ht : t.isI = true) (f : List Nat → Nat)
    (hf : ∀ x xs, x < 2 ^ t.bits → foldFirst (redOp t op) (x :: xs) % 2 ^ t.bits = f (x :: xs) % 2 ^ t.bits) :
    (∃ r, exec (.vredr u op td m a t) s = .next r ∧
      TileResult s r td m t 5 fun n => (f (rowAt t (opA s u t a) (n / t.perRow)), 0)) ∧
    (∃ r, exec (.vredc u op td m a t) s = .next r ∧
      TileResult s r td m t 9 fun n => (f (columnAt t (opA s u t a) (n % t.perRow)), 0)) := by
  have hB : t.isB = true := by
    revert ht
    cases t <;> decide
  obtain ⟨hpos, hle⟩ := perRow_bounds hB
  have hsum {k : Nat} {l : List Nat} (hl : l.length ≤ 2 ^ 8) : (treeSum (redStep s op t) 8 k l 0).1 = foldFirst (redOp t op) l ∧
      (treeSum (redStep s op t) 8 k l 0).2.1 = 0 := by
    rw [redStep_integer s op ht]
    exact treeSum_assoc (redOp_assoc t op) hl
  have hval (c : Nat) (g : Nat → Nat) (hc : 0 < c) : foldFirst (redOp t op) ((List.range c).map fun j => opA s u t a (g j)) % 2 ^ t.bits =
      f ((List.range c).map fun j => opA s u t a (g j)) % 2 ^ t.bits := by
    obtain ⟨c, rfl⟩ : ∃ d, c = d + 1 := ⟨c - 1, by omega⟩
    rw [List.range_succ_eq_map]
    exact hf _ _ (tileElem_lt t _ _)
  have hdraw : ¬(op = .add ∧ t.isF = true) := by simp [isF_of_isI ht]
  obtain ⟨r, hr, hrow⟩ := vecReduce_row s op td m t hB (opA s u t a)
  obtain ⟨r', hr', hcol⟩ := vecReduce_column s op td m t (opA s u t a)
  rw [if_neg hdraw, ← elemsA_eq_map] at hr hr'
  refine ⟨⟨r, ?_, hrow.congr (fun n => ?_) fun n => ?_⟩, r', ?_, hcol.congr (fun n => ?_) fun n => ?_⟩
  · rw [exec_vredr, execVredr, issue_open _ _ ho, hr]
  · rw [(hsum (by simpa [rowAt] using hle)).1]
    exact hval _ _ hpos
  · exact (hsum (by simpa [rowAt] using hle)).2
  · rw [exec_vredc, execVredc, issue_open _ _ ho, hr']
  · rw [(hsum (by simp [columnAt])).1]
    exact hval _ _ (by decide)
  · exact (hsum (by simp [columnAt])).2

/-- The steps of a floating reduction: the sum rounds under its draw, the selections take none (R116). -/
theorem redStep_add (s : State) {t : EType} (ht : t.isF = true) :
    redStep s .add t = fun k x y => fpAdd (rmode s) (drawNo s k) (vfmt t) ((vfmt t).value x) ((vfmt t).value y) := by
  funext k x y
  simp only [redStep, ht, if_true]

theorem redStep_pick (s : State) (up : Bool) {t : EType} (ht : t.isF = true) :
    redStep s (if up then .max else .min) t = fun _ x y =>
      flushOnly { rmode s with sat := false } (vfmt t) (fpPick up ((vfmt t).value x) ((vfmt t).value y)) := by
  funext k x y
  cases up <;> simp only [redStep, ht, if_true, Bool.false_eq_true, if_false]

/-- A floating selection writes what its tree gives, whatever the draws. -/
theorem gives_reducePick {s : State} (ho : s.slotsOpen) (u : VUnit) (up : Bool) (td : TReg) (m : MReg) (a : TSrc) {t : EType}
    (hB : t.isB = true) (ht : t.isF = true) :
    let op : RedOp := if up then .max else .min
    let step (x y : Nat) := flushOnly { rmode s with sat := false } (vfmt t) (fpPick up ((vfmt t).value x) ((vfmt t).value y))
    let z (l : List Nat) := treeSum (fun _ => step) 8 0 l 0
    (∃ r, exec (.vredr u op td m a t) s = .next r ∧ TileResult s r td m t 5 fun n =>
      ((z (rowAt t (opA s u t a) (n / t.perRow))).1, (z (rowAt t (opA s u t a) (n / t.perRow))).2.1)) ∧
    (∃ r, exec (.vredc u op td m a t) s = .next r ∧ TileResult s r td m t 9 fun n =>
      ((z (columnAt t (opA s u t a) (n % t.perRow))).1, (z (columnAt t (opA s u t a) (n % t.perRow))).2.1)) := by
  intro op step z
  have hop : ¬(op = .add ∧ t.isF = true) := by cases up <;> simp [op]
  have hany (k : Nat) (l : List Nat) : (treeSum (redStep s op t) 8 k l 0).1 = (z l).1 ∧ (treeSum (redStep s op t) 8 k l 0).2.1 = (z l).2.1 := by
    rw [show redStep s op t = fun _ => step from redStep_pick s up ht]
    exact treeSum_anyDraw _ (fun _ => rfl) 8 k l 0
  obtain ⟨r, hr, hrow⟩ := vecReduce_row s op td m t hB (opA s u t a)
  obtain ⟨r', hr', hcol⟩ := vecReduce_column s op td m t (opA s u t a)
  rw [if_neg hop, ← elemsA_eq_map] at hr hr'
  refine ⟨⟨r, ?_, hrow.congr (fun n => ?_) fun n => (hany _ _).2⟩, r', ?_, hcol.congr (fun n => ?_) fun n => (hany _ _).2⟩
  · rw [exec_vredr, execVredr, issue_open _ _ ho, hr]
  · rw [(hany _ _).1]
  · rw [exec_vredc, execVredc, issue_open _ _ ho, hr']
  · rw [(hany _ _).1]

/-- A floating sum writes what its tree gives, its draws numbered list after list. -/
theorem gives_reduceSum {s : State} (ho : s.slotsOpen) (u : VUnit) (td : TReg) (m : MReg) (a : TSrc) {t : EType}
    (hB : t.isB = true) (ht : t.isF = true) :
    let step (k x y : Nat) := fpAdd (rmode s) (drawNo s k) (vfmt t) ((vfmt t).value x) ((vfmt t).value y)
    let z (k : Nat) (l : List Nat) := treeSum step 8 k l 0
    let row (n : Nat) := z (n / t.perRow * (t.perRow - 1)) (rowAt t (opA s u t a) (n / t.perRow))
    let col (n : Nat) := z (n % t.perRow * 15) (columnAt t (opA s u t a) (n % t.perRow))
    (∃ r, exec (.vredr u .add td m a t) s = .next (takeDraws r (16 * (t.perRow - 1))) ∧
      TileResult s r td m t 5 fun n => ((row n).1, (row n).2.1)) ∧
    (∃ r, exec (.vredc u .add td m a t) s = .next (takeDraws r (t.perRow * 15)) ∧
      TileResult s r td m t 9 fun n => ((col n).1, (col n).2.1)) := by
  intro step z row col
  obtain ⟨r, hr, hrow⟩ := vecReduce_row s .add td m t hB (opA s u t a)
  obtain ⟨r', hr', hcol⟩ := vecReduce_column s .add td m t (opA s u t a)
  rw [redStep_add s ht] at hrow hcol
  rw [if_pos ⟨rfl, ht⟩, ← elemsA_eq_map] at hr hr'
  refine ⟨⟨r, ?_, hrow⟩, r', ?_, hcol⟩
  · rw [exec_vredr, execVredr, issue_open _ _ ho, hr]
  · rw [exec_vredc, execVredc, issue_open _ _ ho, hr']

/-- Settles O30: the tree of an associative step is a fold; the floating sum numbers its draws list after list, and the selections take
none. -/
theorem integerReductions : Obligations.IntegerReductions := by
  unfold Obligations.IntegerReductions
  refine ⟨fun s u td m a t ho ht => ?_, fun s u td m a t ho ht => ?_⟩
  · intro e x row col gives
    have picks (op : RedOp) (hop : ∀ x, redOp t op x x = x) : gives op fun l => l.foldl (redOp t op) (l.headD 0) :=
      gives_reduceInt ho u op td m a ht (fun l => l.foldl (redOp t op) (l.headD 0)) fun x xs _ => by
        rw [foldFirst_eq_foldl (hop x), List.headD_cons]
    have folds (op : RedOp) (v : Nat) (hop : ∀ x, x < 2 ^ t.bits → redOp t op v x = x) : gives op fun l => l.foldl (redOp t op) v :=
      gives_reduceInt ho u op td m a ht (fun l => l.foldl (redOp t op) v) fun x xs hx => by rw [foldFirst_eq_foldl (hop x hx)]
    refine ⟨?_, ?_, ?_, ?_, ?_, ?_⟩
    · exact gives_reduceInt ho u .add td m a ht List.sum fun x xs _ => (foldl_add_mod (2 ^ t.bits) xs x).trans (by rw [List.sum_cons])
    · exact picks .max fun x => ite_self x
    · exact picks .min fun x => ite_self x
    · exact folds .and (2 ^ t.bits - 1) fun x hx => by
        rw [redOp, Nat.and_comm, Nat.and_two_pow_sub_one_eq_mod, Nat.mod_eq_of_lt hx]
    · exact folds .or 0 fun x _ => Nat.zero_or x
    · exact folds .xor 0 fun x _ => Nat.zero_xor x
  · intro e g md x row col tree sum pick
    have hB : t.isB = true := by
      revert ht
      cases t <;> decide
    obtain ⟨hrow, hcol⟩ := gives_reduceSum ho u td m a hB ht
    simp only [sum, tree, md, g, row, col, x, e]
    exact ⟨hrow, hcol, fun up => gives_reducePick ho u up td m a hB ht⟩

end Sys2Proof.Machine

/-! ## The step of the matrix unit

Lists by position, the lines that stand at hand, the accumulators of a step, and its faults (O37).
-/
namespace Sys2Proof.Machine

/-! ### Pairs of formats (R228) -/

/-- Both formats stand in a family. -/
def bothIn (fa fb : BitVec 4) (l : List (BitVec 4)) : Prop := fa ∈ l ∧ fb ∈ l

/-- A pair of formats that MMA takes. -/
def MmaPair (fa fb : BitVec 4) : Prop :=
  bothIn fa fb [1, 2] ∨ bothIn fa fb [3, 4] ∨ bothIn fa fb [10, 11] ∨ bothIn fa fb [12, 13] ∨ bothIn fa fb [14]

/-- The elements of a line by its format (R211). -/
def lineCount (f : BitVec 4) : Nat := if f = 1 ∨ f = 2 then 8 else if f = 12 ∨ f = 13 ∨ f = 14 then 32 else 16

theorem pairOk_iff (fa fb : BitVec 4) : pairOk fa.toNat fb.toNat = true ↔ MmaPair fa fb := by
  unfold MmaPair bothIn
  revert fa fb
  decide +kernel

/-- The formats of a pair have lines of one length. -/
theorem stepK_of_pair (fa fb : BitVec 4) (h : MmaPair fa fb) : stepK fa.toNat = lineCount fa ∧ stepK fb.toNat = lineCount fa := by
  revert h
  unfold MmaPair bothIn
  revert fa fb
  decide +kernel

/-- The formats of a pair are both block formats or neither is. -/
theorem blockFmt_of_pair (fa fb : BitVec 4) (h : MmaPair fa fb) :
    blockFmt fb.toNat = blockFmt fa.toNat ∧ (blockFmt fa.toNat = true ↔ bothIn fa fb [12, 13] ∨ bothIn fa fb [14]) := by
  revert h
  unfold MmaPair bothIn
  revert fa fb
  decide +kernel

theorem blockFmt_iff (fa fb : BitVec 4) (h : MmaPair fa fb) :
    (fa = 12 ∨ fa = 13 ∨ fa = 14 ↔ blockFmt fa.toNat = true) ∧ (fb = 12 ∨ fb = 13 ∨ fb = 14 ↔ blockFmt fb.toNat = true) := by
  revert h
  unfold MmaPair bothIn
  revert fa fb
  decide +kernel

/-- The formats of a pair are both integers where the first is one. -/
theorem integer_of_pair (fa fb : BitVec 4) (h : MmaPair fa fb) : bothIn fa fb [10, 11] ↔ fa.toNat = 10 ∨ fa.toNat = 11 := by
  revert h
  unfold MmaPair bothIn
  revert fa fb
  decide +kernel

theorem etypeOf_toNat (f : BitVec 4) : etypeOf f.toNat = (EType.ofCode f).getD .uint8 := by
  rw [etypeOf, BitVec.ofNat_toNat, BitVec.setWidth_eq]

/-! ### Lines at hand (R225, R226) -/

/-- A list by its places. -/
theorem map_range_nth {α : Type} (d : α) {n : Nat} {l : List α} (h : l.length = n) : (List.range n).map (nth d l) = l := by
  subst h
  exact List.ext_getElem (by simp) fun n h1 h2 => by simp [nth_eq_getD, h2]

theorem zip_map_range {α β : Type} (n : Nat) (f : Nat → α) (g : Nat → β) :
    ((List.range n).map f).zip ((List.range n).map g) = (List.range n).map fun i => (f i, g i) := by
  rw [List.zip_map']

/-- Lines that a generator reads are 64. -/
theorem length_of_readLines {s : State} {r : MRun} {g n al : Nat} {ls : List (List Byte)} (h : readLines s r g n al = .ready ls) :
    ls.length = 64 := by
  unfold readLines at h
  simp only [] at h
  repeat' split at h
  all_goals cases h
  simp

/-- Generator `g` reads its own 64 lines, which have come. -/
structure AtHand (s : State) (r : MRun) (g n al : Nat) (ls : List (List Byte)) : Prop where
  reads : (genOf r g).mode = 0
  asked : askLines s r g n al = (s, r)
  ready : readLines s r g n al = .ready ls

section
variable {s : State} {r : MRun} {g n al : Nat} {ls : List (List Byte)} (h : AtHand s r g n al ls)
include h

theorem AtHand.streamSource : streamSource r g = none := by simp [Machine.streamSource, h.reads]
theorem AtHand.genLines : genLines s r g n al = .ready ls := by simp [Machine.genLines, h.streamSource, h.ready]
theorem AtHand.takeLines : takeLines s r g = s := by simp [Machine.takeLines, h.streamSource]

end

/-! ### A step whose lines are at hand (R228, R279) -/

section
variable {s : State} {r : MRun} {gens : List (Nat × Nat × Nat)} {ls : Nat → List (List Byte)}
  (h : ∀ g ∈ gens, AtHand s r g.1 g.2.1 g.2.2 (ls g.1))
include h

/-- Nothing is asked for. -/
theorem foldl_askLines_atHand : gens.foldl (fun x g => askLines x.1 x.2 g.1 g.2.1 g.2.2) (s, r) = (s, r) := by
  induction gens with
  | nil => rfl
  | cons g gens ih =>
    rw [List.foldl_cons, (h g List.mem_cons_self).asked]
    exact ih fun k hk => h k (List.mem_cons_of_mem _ hk)

theorem map_genLines_atHand : gens.map (fun g => genLines s r g.1 g.2.1 g.2.2) = gens.map fun g => .ready (ls g.1) :=
  List.map_congr_left fun g hg => (h g hg).genLines

/-- Nothing is sent. -/
theorem sendAll_atHand : sendAll s r ((gens.map (·.1)).zip (gens.map fun g => Lines.ready (ls g.1))) = (s, r) := by
  rw [List.zip_map', sendAll]
  induction gens with
  | nil => rfl
  | cons g gens ih =>
    rw [List.map_cons, List.foldl_cons]
    simp only [(h g List.mem_cons_self).reads, Nat.zero_ne_one, false_and, if_false]
    exact ih fun k hk => h k (List.mem_cons_of_mem _ hk)

theorem foldl_takeLines_atHand : gens.foldl (fun s g => takeLines s r g.1) s = s := by
  induction gens with
  | nil => rfl
  | cons g gens ih =>
    rw [List.foldl_cons, (h g List.mem_cons_self).takeLines]
    exact ih fun k hk => h k (List.mem_cons_of_mem _ hk)

/-- No generator sends. -/
theorem not_sending_atHand (p : Nat → Bool) : (gens.map (·.1)).filter (fun g => (genOf r g).mode = 1 ∧ p g) = [] := by
  rw [List.filter_eq_nil_iff]
  rintro g hg
  obtain ⟨k, hk, rfl⟩ := List.mem_map.1 hg
  simp [(h k hk).reads]

end

/-- No fault and nobody starved among lines that are ready. -/
theorem stepFault_ready (l : List (List (List Byte))) : stepFault (l.map .ready) = none := by
  simp [stepFault]

/-- A step of a pair of formats on lines at hand executes. -/
theorem mmaStep_atHand {s : State} {r : MRun} {fa fb : BitVec 4} {xv : BitVec 2} {ls : Nat → List (List Byte)} (hp : MmaPair fa fb)
    (hx : xv = 0 ∨ fa = 13 ∨ fb = 13) (h : ∀ g ∈ stepGens fa.toNat fb.toNat, AtHand s r g.1 g.2.1 g.2.2 (ls g.1)) :
    mmaStep fa fb xv s r = mmaGo s r fa.toNat fb.toNat xv.toNat (stepGens fa.toNat fb.toNat)
      ((stepGens fa.toNat fb.toNat).map fun g => ls g.1) := by
  have hxv : ¬(xv ≠ 0 ∧ fa.toNat ≠ 13 ∧ fb.toNat ≠ 13) := by
    rintro ⟨h0, ha, hb⟩
    obtain rfl | rfl | rfl := hx
    exacts [h0 rfl, ha rfl, hb rfl]
  have hready : (stepGens fa.toNat fb.toNat).map (fun g => Lines.ready (ls g.1)) =
      ((stepGens fa.toNat fb.toNat).map fun g => ls g.1).map .ready := by simp
  have hall : ((stepGens fa.toNat fb.toNat).map fun g => Lines.ready (ls g.1)).all Lines.isReady = true := by simp [Lines.isReady]
  have hfault := stepFault_ready ((stepGens fa.toNat fb.toNat).map fun g => ls g.1)
  rw [← hready] at hfault
  have hhas : (((stepGens fa.toNat fb.toNat).map (·.1)).zip ((stepGens fa.toNat fb.toNat).map fun g => Lines.ready (ls g.1))).filter
      (fun p => p.2.isReady) = (stepGens fa.toNat fb.toNat).map fun g => (g.1, Lines.ready (ls g.1)) := by
    rw [List.zip_map', List.filter_eq_self]
    intro p hmem
    obtain ⟨g, -, rfl⟩ := List.mem_map.1 hmem
    rfl
  have hsent := not_sending_atHand h fun g => !r.sent.contains g
  simp only [mmaStep, (pairOk_iff fa fb).2 hp, Bool.not_true, Bool.false_eq_true, if_false, hxv, foldl_askLines_atHand h,
    map_genLines_atHand h, hfault, sendAll_atHand h, hhas, List.map_map, Function.comp_def, hsent, hall, List.isEmpty_nil, Bool.or_self]
  simp [Lines.got]

/-! ### The accumulators (R117) -/

theorem unpack_eq_map (w n v : Nat) : unpack w n v = (List.range n).map fun k => v / 2 ^ (w * k) % 2 ^ w :=
  List.ext_getElem (by simp [unpack_length]) fun k h1 h2 => by simp [unpack_get, Nat.mul_comm]

/-- Element `n` of a line in format `f`. -/
def lineCode (f : BitVec 4) (l : List Byte) (n : Nat) : Nat :=
  leNat l / 2 ^ (((EType.ofCode f).getD .uint8).bits * n) % 2 ^ ((EType.ofCode f).getD .uint8).bits

theorem lineCodes_eq_map (f : BitVec 4) (l : List Byte) : lineCodes f.toNat l = (List.range (stepK f.toNat)).map (lineCode f l) := by
  rw [lineCodes, etypeOf_toNat, unpack_eq_map]
  rfl

/-- An accumulator of 64 × 64 that are put together. -/
theorem bitsOf_pack (x : Nat → Nat) {k : Nat} (hk : k < 4096) :
    bitsOf (BitVec.ofNat 131072 (pack 32 ((List.range 4096).map x))) (32 * k) 32 = x k % 2 ^ 32 := by
  have hlt := pack_lt 32 ((List.range 4096).map x)
  have hfield := pack_field 32 ((List.range 4096).map x) k (by simpa using hk)
  rw [List.length_map, List.length_range] at hlt
  rw [List.getElem_map, List.getElem_range, Nat.mul_comm] at hfield
  rw [bitsOf, BitVec.toNat_ofNat, Nat.mod_eq_of_lt hlt, Nat.shiftRight_eq_div_pow, hfield]

/-- A function of an accumulator, a row line and a column line, over all of them. -/
theorem accumulators_eq_map {α : Type} (A B : Nat → α) (acc : BitVec 131072) (f : Nat → α → α → Nat) :
    ((((List.range 64).map A).flatMap fun a => (List.range 64).map fun j => (a, B j)).zip (unpack 32 4096 acc.toNat)).map
      (fun p => f p.2 p.1.1 p.1.2) = (List.range 4096).map fun k => f (bitsOf acc (32 * k) 32) (A (k / 64)) (B (k % 64)) := by
  have hpairs : (((List.range 64).map A).flatMap fun a => (List.range 64).map fun j => (a, B j)) =
      (List.range 4096).map fun k => (A (k / 64), B (k % 64)) := by
    rw [← flatMap_range_map 64 64 fun i j => (A i, B j)]
    simp [List.flatMap_map]
  rw [hpairs, unpack_eq_map, zip_map_range, List.map_map]
  simp only [bitsOf, Nat.shiftRight_eq_div_pow]
  rfl

theorem accInt_lt (c : Nat) (a b : List Int) : accInt c a b < 2 ^ 32 := intCode_lt 32 _

/-- The sum that an integer step adds. -/
theorem accInt_eq (c k : Nat) (x y : Nat → Int) :
    (accInt c ((List.range k).map x) ((List.range k).map y) : Int) = ((c : Int) + ((List.range k).map fun n => x n * y n).sum) % 2 ^ 32 := by
  have hsum (l : List (Int × Int)) (a : Int) : l.foldl (fun s p => s + p.1 * p.2) a = a + (l.map fun p => p.1 * p.2).sum := by
    induction l generalizing a with
    | nil => simp
    | cons p l ih => rw [List.foldl_cons, ih, List.map_cons, List.sum_cons, Int.add_assoc]
  rw [accInt, intCode_eq, zip_map_range, hsum, List.map_map, Int.zero_add]
  rfl

/-- The value of a code of a format, under the scale byte of its line where the format is a block format (R104, R106). -/
def formatValue (f : BitVec 4) (xv : XR) (scale : List Byte) (c : Nat) : XR :=
  if f = 12 ∨ f = 13 ∨ f = 14 then blockVal ((EType.ofCode f).getD .uint8) (leNat scale) c xv else elemVal ((EType.ofCode f).getD .uint8) c

theorem lineVals_eq_map {f : BitVec 4} (hf : f = 12 ∨ f = 13 ∨ f = 14 ↔ blockFmt f.toNat = true) (xv : XR) (l scale : List Byte) :
    lineVals f.toNat xv l scale = (List.range (stepK f.toNat)).map fun n => formatValue f xv scale (lineCode f l n) := by
  simp only [lineVals, lineCodes_eq_map, etypeOf_toNat, List.map_map, Function.comp_def, formatValue, hf]

section
variable {fa fb : BitVec 4} (hp : MmaPair fa fb) {i j : Nat} (hi : i < 64) (hj : j < 64) (LA LB SA SB : Nat → List Byte)
include hp hi hj

/-- An accumulator after a step of integers. -/
theorem bitsOf_mmaAcc_integer (hint : bothIn fa fb [10, 11]) (xv : XR) (acc : BitVec 131072) (sa sb : List (List Byte)) :
    (bitsOf (mmaAcc fa.toNat fb.toNat xv acc ((List.range 64).map LA) ((List.range 64).map LB) sa sb) (32 * (64 * i + j)) 32 : Int) =
      ((bitsOf acc (32 * (64 * i + j)) 32 : Int) + ((List.range 16).map fun n =>
        intVal ((EType.ofCode fa).getD .uint8) (lineCode fa (LA i) n) *
          intVal ((EType.ofCode fb).getD .uint8) (lineCode fb (LB j) n)).sum) % 2 ^ 32 := by
  obtain ⟨hka, hkb⟩ := stepK_of_pair fa fb hp
  have hcount : lineCount fa = 16 := by
    obtain ⟨hfa, -⟩ := hint
    simp only [List.mem_cons, List.not_mem_nil, or_false] at hfa
    obtain rfl | rfl := hfa <;> rfl
  have hdiv : (64 * i + j) / 64 = i := by omega
  have hmod : (64 * i + j) % 64 = j := by omega
  simp only [mmaAcc, (integer_of_pair fa fb hp).1 hint, if_true, List.map_map, Function.comp_def, lineCodes_eq_map, hka,
    hkb, hcount, etypeOf_toNat]
  rw [accumulators_eq_map _ _ acc fun c a b => accInt c a b, bitsOf_pack _ (by omega), hdiv, hmod,
    Nat.mod_eq_of_lt (accInt_lt _ _ _)]
  exact accInt_eq _ 16 _ _

/-- An accumulator after a step of floating or block formats. -/
theorem bitsOf_mmaAcc_float (hint : ¬bothIn fa fb [10, 11]) (xv : XR) (acc : BitVec 131072) :
    let dot := xsum (.fin false 0 0 :: (List.range (lineCount fa)).map fun n =>
      XR.mul (formatValue fa xv (SA i) (lineCode fa (LA i) n)) (formatValue fb xv (SB j) (lineCode fb (LB j) n)))
    bitsOf (mmaAcc fa.toNat fb.toNat xv acc ((List.range 64).map LA) ((List.range 64).map LB) ((List.range 64).map SA)
        ((List.range 64).map SB)) (32 * (64 * i + j)) 32 =
      (rne32 (XR.add false (Fmt.fp32.value (bitsOf acc (32 * (64 * i + j)) 32)) (f32 (rne32 dot).1))).1.toNat := by
  intro dot
  obtain ⟨hka, hkb⟩ := stepK_of_pair fa fb hp
  obtain ⟨hfa, hfb⟩ := blockFmt_iff fa fb hp
  have hdiv : (64 * i + j) / 64 = i := by omega
  have hmod : (64 * i + j) % 64 = j := by omega
  simp only [mmaAcc, mt (integer_of_pair fa fb hp).2 hint, if_false, zip_map_range, List.map_map, Function.comp_def,
    lineVals_eq_map hfa, lineVals_eq_map hfb, hka, hkb]
  rw [accumulators_eq_map _ _ acc fun c a b => accFloat c (dotOf a b), bitsOf_pack _ (by omega), hdiv, hmod, dotOf, zip_map_range,
    List.map_map]
  exact Nat.mod_eq_of_lt (BitVec.isLt _)

end

/-! ### The instruction -/

/-- A call that faults records the subcode, and its unit is free (R230). -/
theorem faultRun_spec {s : State} {r : MRun} (h : coreOf r.call.h = s.cur) (sub : Nat) :
    (core (faultRun s r sub) s.cur).mx.running = none ∧ (hart (faultRun s r sub) r.call.h).mfsub = BitVec.ofNat 8 sub := by
  have hpoison (o : Byte) (l : List Nat) (c : Ctx) : (l.foldl (fun c t => c.poisonTile t o) c).mfsub = c.mfsub := by
    induction l generalizing c with
    | nil => rfl
    | cons t l ih => exact ih _
  refine ⟨?_, ?_⟩
  · rw [faultRun, h, modMx, core_modCore_self]
  · change (hart (faultCall s r.call r.filled sub) r.call.h).mfsub = _
    rw [faultCall, hart_modHart_self]
    simp only []
    split
    · rfl
    · exact hpoison _ _ _

theorem exec_mma_running {s : State} {r : MRun} (h : (core s s.cur).mx.running = some r) (fa fb : BitVec 4) (xv : BitVec 2) :
    exec (.mma fa fb xv) s = .next (mmaStep fa fb xv s r) := by
  rw [exec_mma, execMma, micro, microRun, h]

/-- The scale lines of a step: none but of block formats. -/
def scaleLines (fa : BitVec 4) (ls : List (List Byte)) : List (List Byte) :=
  if blockFmt fa.toNat then ls else List.replicate 64 []

/-- What a step on lines at hand leaves of the call. -/
theorem exec_mma_atHand {s : State} {r : MRun} {fa fb : BitVec 4} {xv : BitVec 2} {ls : Nat → List (List Byte)}
    (hrun : (core s s.cur).mx.running = some r) (hp : MmaPair fa fb) (hx : xv = 0 ∨ fa = 13 ∨ fb = 13) (hcan : r.cancelled = false)
    (h0 : AtHand s r 0 (lineBytes fa.toNat) 16 (ls 0)) (h1 : AtHand s r 1 (lineBytes fb.toNat) 16 (ls 1))
    (hb : blockFmt fa.toNat = true → AtHand s r 2 1 1 (ls 2) ∧ AtHand s r 3 1 1 (ls 3)) :
    exec (.mma fa fb xv) s = .next (setRun (dropLines s r)
      { r with
        acc := mmaAcc fa.toNat fb.toNat (f32 (nth 0 r.call.xv xv.toNat)) r.acc (ls 0) (ls 1) (scaleLines fa (ls 2)) (scaleLines fa (ls 3))
        steps := r.steps + 1, sent := [], lines := [], upc := r.upc + 1, stalled := [] }) := by
  have hall : ∀ g ∈ stepGens fa.toNat fb.toNat, AtHand s r g.1 g.2.1 g.2.2 (ls g.1) := by
    intro g hg
    simp only [stepGens, List.mem_append, List.mem_cons, List.not_mem_nil, or_false] at hg
    obtain (rfl | rfl) | hg := hg
    · exact h0
    · exact h1
    · split at hg
      next hblk =>
        simp only [List.mem_cons, List.not_mem_nil, or_false] at hg
        obtain rfl | rfl := hg
        exacts [(hb hblk).1, (hb hblk).2]
      next => cases hg
  rw [exec_mma_running hrun, mmaStep_atHand hp hx hall, mmaGo, foldl_takeLines_atHand hall]
  cases hblk : blockFmt fa.toNat
  · simp [nextMicro, hcan, stepGens, hblk, scaleLines, nth]
  · simp [nextMicro, hcan, stepGens, hblk, scaleLines, nth]

/-- Settles O37: a step whose lines are at hand by `mmaGo`, its accumulators one by one; the faults of the formats and of XV. -/
theorem matrixSteps : Obligations.MatrixSteps := by
  unfold Obligations.MatrixSteps
  intro s r fa fb xv ls hrun family ints blocks pair xvOk width athand count ty code value int fails
  have hexec := exec_mma_running hrun fa fb xv
  refine ⟨fun hp hx hcan h0 h1 hblocks => ?_, fun hc => ⟨fun hp => ?_, fun hp hx => ?_⟩⟩
  · have hwidth (f : BitVec 4) : lineBytes f.toNat = width f := by
      have h14 : f.toNat = 14 ↔ f = 14 := ⟨fun h => BitVec.eq_of_toNat_eq h, fun h => h ▸ rfl⟩
      simp only [lineBytes, h14, width]
    have hand {g n al : Nat} (h : athand g n al) : AtHand s r g n al (ls g) := ⟨h.1, h.2.1, h.2.2⟩
    have hblk := blockFmt_of_pair fa fb hp
    refine ⟨_, exec_mma_atHand hrun hp hx hcan (hwidth fa ▸ hand h0) (hwidth fb ▸ hand h1) fun hb => ?_, fun i j hi hj => ?_⟩
    · obtain ⟨h2, h3⟩ := hblocks (hblk.2.1 hb)
      exact ⟨hand h2, hand h3⟩
    · have hA := map_range_nth [] (length_of_readLines (hand h0).ready)
      have hB := map_range_nth [] (length_of_readLines (hand h1).ready)
      have hscale {g : Nat} (hg : blockFmt fa.toNat = true → athand g 1 1) : (scaleLines fa (ls g)).length = 64 := by
        unfold scaleLines
        split
        next hb => exact length_of_readLines (hand (hg hb)).ready
        next => exact List.length_replicate
      have hSA := map_range_nth [] (hscale fun hb => (hblocks (hblk.2.1 hb)).1)
      have hSB := map_range_nth [] (hscale fun hb => (hblocks (hblk.2.1 hb)).2)
      have hvalue {f : BitVec 4} (hf : f = 12 ∨ f = 13 ∨ f = 14 ↔ blockFmt fa.toNat = true) (g k n : Nat) :
          formatValue f (f32 (nth 0 r.call.xv xv.toNat)) (nth [] (scaleLines fa (ls (g + 2))) k) (lineCode f (nth [] (ls g) k) n) =
            value f g k n := by
        by_cases hb : blockFmt fa.toNat = true
        · simp only [formatValue, value, hf, hb, scaleLines, if_true]
          rfl
        · simp only [formatValue, value, hf, hb]
          rfl
      obtain ⟨hfa, hfb⟩ := blockFmt_iff fa fb hp
      refine ⟨fun hint => ?_, fun hint => ?_⟩
      · rw [← hA, ← hB]
        exact bitsOf_mmaAcc_integer hp hi hj _ _ hint _ _ _ _
      · have h := bitsOf_mmaAcc_float hp hi hj (nth [] (ls 0)) (nth [] (ls 1)) (nth [] (scaleLines fa (ls 2))) (nth [] (scaleLines fa (ls 3)))
          hint (f32 (nth 0 r.call.xv xv.toNat)) r.acc
        simp only [hA, hB, hSA, hSB, hvalue hfa 0, hvalue (hblk.1 ▸ hfb) 1] at h
        exact h
  · have hstep : mmaStep fa fb xv s r = faultRun s r 3 := by
      rw [mmaStep, if_pos (by simpa using mt (pairOk_iff fa fb).1 hp)]
    exact ⟨_, hexec.trans (congrArg _ hstep), faultRun_spec hc 3⟩
  · have hxv : xv ≠ 0 ∧ fa.toNat ≠ 13 ∧ fb.toNat ≠ 13 := by
      simp only [xvOk, not_or] at hx
      exact ⟨hx.1, fun h => hx.2.1 (BitVec.eq_of_toNat_eq h), fun h => hx.2.2 (BitVec.eq_of_toNat_eq h)⟩
    have hstep : mmaStep fa fb xv s r = faultRun s r 1 := by
      rw [mmaStep, if_neg (by simpa using (pairOk_iff fa fb).2 hp), if_pos hxv]
    exact ⟨_, hexec.trans (congrArg _ hstep), faultRun_spec hc 1⟩

end Sys2Proof.Machine

/-! ## Rounding

The codes of a floating format with infinities as grid points, rounding to the grid between them, overflow, and FTZ (O14).
-/
namespace Sys2Proof.Machine

/-! ### Formats with infinities (R100, R101) -/

/-- A format with infinities and NaNs in its highest exponent: the largest finite code is the last below that exponent. -/
structure Fmt.Ieee (f : Fmt) : Prop where
  hasInf : f.hasInf = true
  mb_pos : 0 < f.mb
  exp_pos : f.mb + 3 ≤ f.bits
  maxCode_eq : f.maxCode + 2 ^ f.mb + 1 = 2 ^ (f.bits - 1)

theorem Fmt.ieee_fp32 : Fmt.fp32.Ieee := ⟨rfl, by decide, by decide, rfl⟩
theorem Fmt.ieee_fp16 : Fmt.fp16.Ieee := ⟨rfl, by decide, by decide, rfl⟩
theorem Fmt.ieee_bf16 : Fmt.bf16.Ieee := ⟨rfl, by decide, by decide, rfl⟩
theorem Fmt.ieee_e5m2 : Fmt.e5m2.Ieee := ⟨rfl, by decide, by decide, rfl⟩

/-- The exponent of the smallest grid step. -/
def Fmt.emin (f : Fmt) : Int := 1 - (f.bias : Int) - f.mb

/-- `E` and `m` are the grid, counted from the smallest, and the multiple of its step where code `c` stands. -/
structure Fmt.Place (f : Fmt) (c E m : Nat) : Prop where
  code_eq : c = E * 2 ^ f.mb + m
  lt_two : m < 2 ^ (f.mb + 1)
  normal : E = 0 ∨ 2 ^ f.mb ≤ m

/-- The place of a code. -/
theorem Fmt.place_of_code (f : Fmt) (c : Nat) : f.Place c (c / 2 ^ f.mb - 1) (if c / 2 ^ f.mb = 0 then c else 2 ^ f.mb + c % 2 ^ f.mb) := by
  have hdiv := Nat.div_add_mod c (2 ^ f.mb)
  have hmod : c % 2 ^ f.mb < 2 ^ f.mb := Nat.mod_lt _ (Nat.two_pow_pos _)
  have hpow : 2 ^ (f.mb + 1) = 2 * 2 ^ f.mb := Nat.pow_succ'
  rcases hq : c / 2 ^ f.mb with - | q
  · rw [hq] at hdiv
    rw [if_pos rfl]
    exact ⟨by simp, by omega, Or.inl rfl⟩
  · rw [hq, Nat.mul_succ, Nat.mul_comm] at hdiv
    rw [if_neg (Nat.succ_ne_zero q), Nat.add_sub_cancel]
    exact ⟨by omega, by omega, Or.inr (by omega)⟩

/-- The value of a finite code (R101). -/
theorem Fmt.value_finite (f : Fmt) {c : Nat} (hc : c % 2 ^ (f.bits - 1) ≤ f.maxCode) :
    ∃ E m, f.Place (c % 2 ^ (f.bits - 1)) E m ∧ f.value c = .fin (c.testBit (f.bits - 1)) m (f.emin + E) := by
  refine ⟨_, _, f.place_of_code _, ?_⟩
  unfold Fmt.value Fmt.emin
  simp only [Nat.shiftRight_eq_div_pow, if_neg (Nat.not_lt.2 hc)]
  split
  next h => simp [h, Nat.mod_eq_of_lt (Nat.lt_of_div_eq_zero (Nat.two_pow_pos _) h)]
  next h =>
    have hpos : 0 < c % 2 ^ (f.bits - 1) / 2 ^ f.mb := Nat.pos_of_ne_zero h
    congr 1
    push_cast [hpos]
    ring

/-- A place determines its code, and the value its place. -/
theorem Fmt.value_positive (f : Fmt) (hf : f.Ieee) {c m : Nat} {e : Int} (hc : c ≤ f.maxCode) (hv : f.value c = .fin false m e) :
    ∃ E : Nat, f.Place c E m ∧ e = f.emin + E := by
  have hlt : c < 2 ^ (f.bits - 1) := by have := hf.maxCode_eq; have := Nat.two_pow_pos f.mb; omega
  have hmod := Nat.mod_eq_of_lt hlt
  obtain ⟨E, n, hp, hv'⟩ := f.value_finite (c := c) (by rwa [hmod])
  rw [hv] at hv'
  obtain ⟨-, rfl, rfl⟩ := XR.fin.inj hv'
  exact ⟨E, hmod ▸ hp, rfl⟩

/-- The largest finite value has all ones as its mantissa. -/
theorem Fmt.place_max (f : Fmt) (hf : f.Ieee) :
    ∃ E : Nat, f.Place f.maxCode E (2 ^ (f.mb + 1) - 1) ∧ f.value f.maxCode = .fin false (2 ^ (f.mb + 1) - 1) (f.emin + E) := by
  obtain ⟨-, -, hexp, hmax⟩ := hf
  have hpow : 2 ^ (f.mb + 1) = 2 * 2 ^ f.mb := Nat.pow_succ'
  have hpos := Nat.two_pow_pos f.mb
  have hlt : f.maxCode < 2 ^ (f.bits - 1) := by omega
  have hmod := Nat.mod_eq_of_lt hlt
  obtain ⟨E, m, hp, hv⟩ := f.value_finite (c := f.maxCode) hmod.le
  rw [Nat.testBit_lt_two_pow hlt] at hv
  rw [hmod] at hp
  suffices hm : m = 2 ^ (f.mb + 1) - 1 by
    subst hm
    exact ⟨E, hp, hv⟩
  obtain ⟨hcode, hlt2, hnorm⟩ := hp
  obtain ⟨N, hN⟩ : ∃ N, f.bits - 1 - f.mb = N + 2 := ⟨f.bits - 3 - f.mb, by omega⟩
  have hbits : 2 ^ (f.bits - 1) = 4 * 2 ^ N * 2 ^ f.mb := by
    rw [show f.bits - 1 = N + 2 + f.mb by omega, Nat.pow_add, Nat.pow_add, Nat.mul_comm (2 ^ N)]
  have hN4 := Nat.two_pow_pos N
  have hsum : (E + 1) * 2 ^ f.mb + (m + 1) = 4 * 2 ^ N * 2 ^ f.mb := by rw [← hbits, ← hmax, hcode]; ring
  obtain ⟨D, hD⟩ : ∃ D, 4 * 2 ^ N = E + 1 + D :=
    Nat.exists_eq_add_of_le (Nat.le_of_mul_le_mul_right (show (E + 1) * 2 ^ f.mb ≤ 4 * 2 ^ N * 2 ^ f.mb by omega) hpos)
  have hm : m + 1 = D * 2 ^ f.mb := by rw [hD, Nat.add_mul (E + 1)] at hsum; omega
  match D with
  | 0 => omega
  | 1 => omega
  | 2 => omega
  | D + 3 => rw [Nat.add_mul] at hm; omega

/-! ### Comparison and exponents of positive values -/

/-- The order of two positive values, at any exponent below both. -/
theorem XR.lt_fin_iff {m n : Nat} {e g e0 : Int} (he : e0 ≤ e) (hg : e0 ≤ g) :
    XR.lt (.fin false m e) (.fin false n g) = true ↔ m * 2 ^ (e - e0).toNat < n * 2 ^ (g - e0).toNat := by
  have hsplit (k : Int) (hk : min e g ≤ k) : 2 ^ (k - e0).toNat = 2 ^ (k - min e g).toNat * 2 ^ (min e g - e0).toNat := by
    rw [← Nat.pow_add]
    congr 1
    omega
  rw [hsplit e (min_le_left e g), hsplit g (min_le_right e g), ← Nat.mul_assoc, ← Nat.mul_assoc,
    Nat.mul_lt_mul_right (Nat.two_pow_pos _)]
  simp [XR.lt, numAt, Nat.shiftLeft_eq]
  norm_cast

/-- A multiple of 2^k and a rest: the position of its first bit is that of the multiple, k higher. -/
theorem log2_mul_add {m k r : Nat} (hm : m ≠ 0) (hr : r < 2 ^ k) : (m * 2 ^ k + r).log2 = m.log2 + k := by
  have hpos := Nat.two_pow_pos k
  have hne : m * 2 ^ k + r ≠ 0 := by have := Nat.mul_pos (Nat.pos_of_ne_zero hm) hpos; omega
  obtain ⟨hlo, hhi⟩ := (Nat.log2_eq_iff hm).1 rfl
  refine (Nat.log2_eq_iff hne).2 ⟨?_, ?_⟩
  · rw [Nat.pow_add]
    have := Nat.mul_le_mul_right (2 ^ k) hlo
    omega
  · rw [show m.log2 + k + 1 = m.log2 + 1 + k by omega, Nat.pow_add]
    have := Nat.mul_le_mul_right (2 ^ k) hhi
    rw [Nat.succ_mul] at this
    omega

/-! ### The rounding of a finite value, in steps -/

/-- What an overflow gives (R110). -/
def Fmt.overflow (f : Fmt) (md : RMode) (neg : Bool) : Nat × BitVec 6 :=
  let toInf : Bool := match md.rnd with
    | .rtz => false
    | .rup => !neg
    | .rdn => neg
    | _ => true
  if md.sat then (f.big neg, fOF ||| fNX ||| fSA) else if toInf then (f.infCode neg, fOF ||| fNX) else (f.big neg, fOF ||| fNX)

/-- The sign bit of a code. -/
def Fmt.signBit (f : Fmt) (neg : Bool) : Nat := if neg then 2 ^ (f.bits - 1) else 0

/-- What a magnitude's rounded code gives: overflow, flush, or the code with its flags (R110, R111, R113). -/
def Fmt.finish (f : Fmt) (md : RMode) (neg : Bool) (code : Nat) (exact tiny : Bool) : Nat × BitVec 6 :=
  if f.maxCode < code then f.overflow md neg
  else if md.ftz && code < 2 ^ f.mb then (f.signBit neg, fUF ||| fNX)
  else (f.signBit neg + code, flagIf (!exact) fNX ||| flagIf (!exact && tiny) fUF)

theorem Fmt.finish_past {f : Fmt} {code : Nat} (h : f.maxCode < code) (md : RMode) (neg exact tiny : Bool) :
    f.finish md neg code exact tiny = f.overflow md neg := if_pos h

theorem Fmt.finish_finite {f : Fmt} {code : Nat} (h : code ≤ f.maxCode) {md : RMode} (hz : md.ftz = false) (neg exact tiny : Bool) :
    f.finish md neg code exact tiny = (f.signBit neg + code, flagIf (!exact) fNX ||| flagIf (!exact && tiny) fUF) := by
  simp [Fmt.finish, hz, Nat.not_lt.2 h]

/-- The largest finite value is below a magnitude. -/
def Fmt.pastMax (f : Fmt) (m : Nat) (e : Int) : Bool := match f.value f.maxCode with
  | .fin _ bm be => XR.lt (.fin false bm be) (.fin false m e)
  | _ => false

/-- The exponent of the grid of a magnitude. -/
def Fmt.grid (f : Fmt) (m : Nat) (e : Int) : Int := max (e + (m.log2 : Int) - f.mb) f.emin

theorem rnd_zero (md : RMode) (dr : Word) (f : Fmt) (neg : Bool) (e : Int) : rnd md dr f (.fin neg 0 e) = (f.signBit neg, 0) := rfl

/-- Rounding a finite value that is not zero. -/
theorem rnd_fin (md : RMode) (dr : Word) (f : Fmt) (neg : Bool) {m : Nat} (e : Int) (hm : m ≠ 0) :
    let q := f.grid m e
    let k := roundGrid (if md.rnd = .sr && f.pastMax m e then .rne else md.rnd) neg dr m e q
    rnd md dr f (.fin neg m e) =
      f.finish md neg ((q - f.emin).toNat * 2 ^ f.mb + k.1) k.2 (decide ((m.log2 : Int) + e < f.emin + f.mb)) := by
  simp only [rnd, hm, if_false]
  rfl

/-! ### Values on the grid and between two of its points (R108) -/

/-- The grid of a value at a place or above it and below the next, and whether it is below the smallest normal. -/
theorem Fmt.Place.grid_eq {f : Fmt} {c E m k r : Nat} (hp : f.Place c E m) (hr : r < 2 ^ k) (hne : m * 2 ^ k + r ≠ 0) :
    f.grid (m * 2 ^ k + r) (f.emin + E - k) = f.emin + E ∧
      (((m * 2 ^ k + r).log2 : Int) + (f.emin + E - k) < f.emin + f.mb ↔ c < 2 ^ f.mb) := by
  obtain ⟨hcode, hlt, hnorm⟩ := hp
  have hpos := Nat.two_pow_pos f.mb
  unfold Fmt.grid
  by_cases hm : 2 ^ f.mb ≤ m
  · have hlog : m.log2 = f.mb := (Nat.log2_eq_iff (by omega)).2 ⟨hm, hlt⟩
    rw [log2_mul_add (by omega) hr, hlog]
    omega
  · have hE : E = 0 := hnorm.resolve_right hm
    have hlog : (m * 2 ^ k + r).log2 < f.mb + k := by
      rw [Nat.log2_lt hne, Nat.pow_add]
      have := Nat.mul_le_mul_right (2 ^ k) (show m + 1 ≤ 2 ^ f.mb by omega)
      rw [Nat.succ_mul] at this
      omega
    subst hE
    omega

/-- Rounding a magnitude that is on its grid. -/
theorem roundGrid_self (md : Rnd) (neg : Bool) (dr : Word) (m : Nat) (e : Int) : roundGrid md neg dr m e e = (m, true) := by
  simp [roundGrid]

/-- Does a mode take the larger of two grid points, `rest` parts of 2^k above the smaller, which is an odd multiple or not? -/
def roundsUp (md : Rnd) (neg : Bool) (dr : Word) (odd : Bool) (rest k : Nat) : Bool := match md with
  | .rne => decide (2 ^ k < 2 * rest) || (decide (2 * rest = 2 ^ k) && odd)
  | .rtz => false
  | .rup => !neg
  | .rdn => neg
  | .rna => decide (2 ^ k ≤ 2 * rest)
  | .sr => decide ((dr.extractLsb' 32 32).toNat < 2 ^ 32 * rest / 2 ^ k)

/-- Rounding a magnitude between two grid points. -/
theorem roundGrid_between (md : Rnd) (neg : Bool) (dr : Word) {m r k : Nat} (e : Int) (h0 : 0 < r) (h1 : r < 2 ^ k) :
    roundGrid md neg dr (m * 2 ^ k + r) (e - k) e = (if roundsUp md neg dr (m % 2 == 1) r k then m + 1 else m, false) := by
  have hk : 0 < k := Nat.pos_of_ne_zero fun h => by simp [h] at h1; omega
  obtain ⟨j, rfl⟩ : ∃ j, k = j + 1 := ⟨k - 1, by omega⟩
  have hd : (e - (e - ((j + 1 : Nat) : Int))).toNat = j + 1 := by omega
  have hmod : (m * 2 ^ (j + 1) + r) % 2 ^ (j + 1) = r := by rw [Nat.mul_comm, Nat.mul_add_mod, Nat.mod_eq_of_lt h1]
  have hdiv : (m * 2 ^ (j + 1) + r) / 2 ^ (j + 1) = m := by
    rw [Nat.mul_comm, Nat.mul_add_div (Nat.two_pow_pos _), Nat.div_eq_of_lt h1, Nat.add_zero]
  have hpow : 2 ^ (j + 1) = 2 * 2 ^ j := Nat.pow_succ'
  have hdraw : (dr.extractLsb' 32 32).toNat = dr.toNat >>> 32 := by
    simp [BitVec.extractLsb'_toNat]
    omega
  simp only [roundGrid, if_neg (show ¬e ≤ e - ((j + 1 : Nat) : Int) by omega), hd, Nat.shiftRight_eq_div_pow, Nat.shiftLeft_eq, hmod, hdiv,
    if_neg h0.ne', Nat.add_sub_cancel]
  congr 2
  cases md with
  | rne =>
    have hgt : 2 ^ j < r ↔ 2 ^ (j + 1) < 2 * r := by omega
    have heq : (r == 2 ^ j) = decide (2 * r = 2 ^ (j + 1)) := by
      rw [Bool.eq_iff_iff, beq_iff_eq, decide_eq_true_iff]
      omega
    simp only [roundsUp, hgt, heq]
  | rtz => rfl
  | rup => rfl
  | rdn => rfl
  | rna =>
    have hge : 2 ^ j ≤ r ↔ 2 ^ (j + 1) ≤ 2 * r := by omega
    simp only [roundsUp, hge]
  | sr =>
    simp only [roundsUp, hdraw, Nat.shiftRight_eq_div_pow, Nat.mul_comm r]

/-- Only a value above the largest finite one is past it. -/
theorem Fmt.Place.pastMax_iff {f : Fmt} (hf : f.Ieee) {c E m k r : Nat} (hp : f.Place c E m) (hc : c ≤ f.maxCode) (h0 : 0 < r)
    (h1 : r < 2 ^ k) : f.pastMax (m * 2 ^ k + r) (f.emin + E - k) = decide (c = f.maxCode) := by
  obtain ⟨F, ⟨hmax, -, -⟩, hv⟩ := f.place_max hf
  obtain ⟨hcode, hlt, hnorm⟩ := hp
  have hpos := Nat.two_pow_pos f.mb
  have hpow : 2 ^ (f.mb + 1) = 2 * 2 ^ f.mb := Nat.pow_succ'
  have hEF : E ≤ F := by
    by_contra hgt
    have := Nat.mul_le_mul_right (2 ^ f.mb) (show F + 1 ≤ E by omega)
    rw [Nat.succ_mul] at this
    omega
  obtain ⟨d, rfl⟩ := Nat.exists_eq_add_of_le hEF
  have hstep : (f.emin + ((E + d : Nat) : Int) - (f.emin + E - k)).toNat = d + k := by omega
  rw [Fmt.pastMax, hv, Bool.eq_iff_iff, decide_eq_true_iff]
  simp only []
  rw [XR.lt_fin_iff (e0 := f.emin + E - k) (by omega) (Int.le_refl _), hstep, Int.sub_self, Int.toNat_zero, Nat.pow_zero, Nat.mul_one]
  obtain ⟨b, hb⟩ : ∃ b, b = 2 ^ (f.mb + 1) - 1 := ⟨_, rfl⟩
  rw [← hb] at hmax ⊢
  have hscale : b * 2 ^ (d + k) < m * 2 ^ k + r ↔ b * 2 ^ d ≤ m := by
    rw [Nat.pow_add, ← Nat.mul_assoc]
    constructor
    · intro h
      by_contra hgt
      have := Nat.mul_le_mul_right (2 ^ k) (show m + 1 ≤ b * 2 ^ d by omega)
      rw [Nat.succ_mul] at this
      omega
    · intro h
      have := Nat.mul_le_mul_right (2 ^ k) h
      omega
  rw [hscale, hcode, hmax, Nat.add_mul]
  constructor
  · intro h
    rcases d with - | d
    · simp at h ⊢
      omega
    · have := Nat.mul_le_mul_left b (Nat.pow_le_pow_right (show 0 < 2 by decide) (show 1 ≤ d + 1 by omega))
      omega
  · intro h
    rcases d with - | d
    · simp at h ⊢
      omega
    · have := Nat.mul_le_mul_right (2 ^ f.mb) (show 1 ≤ d + 1 by omega)
      omega

/-- Rounding a value between the one of code `c` and the next (R108, R109, R110, R113). -/
theorem rnd_between {f : Fmt} (hf : f.Ieee) {md : RMode} (dr : Word) (neg : Bool) {c E m k r : Nat} (hp : f.Place c E m)
    (hc : c ≤ f.maxCode) (h0 : 0 < r) (h1 : r < 2 ^ k) (hz : md.ftz = false) :
    let up := roundsUp (if md.rnd = .sr ∧ c = f.maxCode then .rne else md.rnd) neg dr (c % 2 == 1) r k
    rnd md dr f (.fin neg (m * 2 ^ k + r) (f.emin + E - k)) =
      if up && c == f.maxCode then f.overflow md neg
      else (f.signBit neg + (if up then c + 1 else c), fNX ||| (if c < 2 ^ f.mb then fUF else 0)) := by
  intro up
  obtain ⟨hgrid, htiny⟩ := hp.grid_eq h1 (by omega)
  have hpast := hp.pastMax_iff hf hc h0 h1
  obtain ⟨hcode, -, -⟩ := hp
  have hodd : (m % 2 == 1) = (c % 2 == 1) := by
    obtain ⟨j, hj⟩ : ∃ j, f.mb = j + 1 := ⟨f.mb - 1, by have := hf.mb_pos; omega⟩
    rw [hcode, hj, Nat.pow_succ, ← Nat.mul_assoc, Nat.add_comm, Nat.add_mul_mod_self_right]
  rw [rnd_fin md dr f neg _ (by omega), hgrid, roundGrid_between _ neg dr _ h0 h1, hpast, hodd]
  simp only [htiny, Bool.and_eq_true, decide_eq_true_eq, show (f.emin + (E : Int) - f.emin).toNat = E by omega]
  change f.finish md neg (E * 2 ^ f.mb + if up then m + 1 else m) false (decide (c < 2 ^ f.mb)) = _
  have hflags : flagIf (!false) fNX ||| flagIf (!false && decide (c < 2 ^ f.mb)) fUF = fNX ||| (if c < 2 ^ f.mb then fUF else 0) := by
    simp [flagIf]
  rcases hup : up with - | -
  · rw [if_neg Bool.false_ne_true, ← hcode, Fmt.finish_finite hc hz, hflags]
    simp
  · rw [if_pos rfl, ← Nat.add_assoc, ← hcode]
    by_cases hmax : c = f.maxCode
    · rw [Fmt.finish_past (by omega)]
      simp [hmax]
    · rw [Fmt.finish_finite (by omega) hz, hflags]
      simp [hmax]

/-- A value on the grid of the format is rounded to its own code, exactly (R108, R110). -/
theorem rnd_code {f : Fmt} (hf : f.Ieee) {md : RMode} (dr : Word) {c : Nat} (hz : md.ftz = false)
    (hc : c % 2 ^ (f.bits - 1) ≤ f.maxCode) (hlt : c < 2 ^ f.bits) : rnd md dr f (f.value c) = (c, 0) := by
  obtain ⟨E, m, hp, hv⟩ := f.value_finite hc
  have hbits : f.bits = f.bits - 1 + 1 := by have := hf.exp_pos; omega
  have htwo : 2 ^ (f.bits - 1 + 1) = 2 * 2 ^ (f.bits - 1) := Nat.pow_succ'
  rw [hbits] at hlt
  have hsign : f.signBit (c.testBit (f.bits - 1)) + c % 2 ^ (f.bits - 1) = c := by
    rw [testBit_top hlt, Fmt.signBit]
    by_cases hc : c < 2 ^ (f.bits - 1)
    · simp [hc, Nat.mod_eq_of_lt hc]
    · rw [Nat.mod_eq_sub_mod (Nat.not_lt.1 hc), Nat.mod_eq_of_lt (by omega)]
      simp only [hc, decide_false, Bool.not_false, if_true]
      omega
  rw [hv]
  by_cases hm : m = 0
  · subst hm
    obtain ⟨hcode, -, hnorm⟩ := hp
    have hpos := Nat.two_pow_pos f.mb
    obtain rfl : E = 0 := hnorm.resolve_right (by omega)
    simp only [Nat.zero_mul, Nat.add_zero] at hcode
    rw [hcode, Nat.add_zero] at hsign
    rw [rnd_zero, hsign]
  · have hgrid := hp.grid_eq (k := 0) (r := 0) (by decide) (by simpa using hm)
    simp only [Nat.pow_zero, Nat.mul_one, Nat.add_zero, Nat.cast_zero, Int.sub_zero] at hgrid
    obtain ⟨hcode, -, -⟩ := hp
    rw [rnd_fin md dr f _ _ hm, hgrid.1, roundGrid_self, show (f.emin + (E : Int) - f.emin).toNat = E by omega, ← hcode,
      Fmt.finish_finite hc hz, hsign]
    simp [flagIf]

/-! ### Overflow and FTZ (R110, R111) -/

/-- A value whose grid is not the smallest is rounded to a multiple of at least half as many steps as the grid holds. -/
theorem le_roundGrid (md : Rnd) (neg : Bool) (dr : Word) {m b : Nat} {e q : Int} (hm : m ≠ 0) (hq : q = e + (m.log2 : Int) - b) :
    2 ^ b ≤ (roundGrid md neg dr m e q).1 := by
  have hlog : 2 ^ m.log2 ≤ m := ((Nat.log2_eq_iff hm).1 rfl).1
  have hdown : e < q → 2 ^ b ≤ m >>> (q - e).toNat := fun h => by
    rw [Nat.shiftRight_eq_div_pow, Nat.le_div_iff_mul_le (Nat.two_pow_pos _), ← Nat.pow_add, show b + (q - e).toNat = m.log2 by omega]
    exact hlog
  unfold roundGrid
  split
  next h =>
    rw [Nat.shiftLeft_eq]
    calc 2 ^ b = 2 ^ m.log2 * 2 ^ (e - q).toNat := by rw [← Nat.pow_add]; congr 1; omega
      _ ≤ m * 2 ^ (e - q).toNat := Nat.mul_le_mul_right _ hlog
  next h =>
    have hk := hdown (by omega)
    have hup (up : Bool) : 2 ^ b ≤ if up then m >>> (q - e).toNat + 1 else m >>> (q - e).toNat := by
      cases up
      · exact hk
      · exact hk.trans (Nat.le_succ _)
    by_cases hrest : m % 2 ^ (q - e).toNat = 0
    · simpa only [hrest, if_true] using hk
    · simp only [hrest, if_false]
      exact hup _

/-- A value at or past the one that would follow the largest finite value overflows. -/
theorem rnd_overflow {f : Fmt} (hf : f.Ieee) (md : RMode) (dr : Word) (neg : Bool) {m n : Nat} {e g : Int}
    (hv : f.value f.maxCode = .fin false m e) (h : XR.lt (.fin false n g) (.fin false (m + 1) e) = false) :
    rnd md dr f (.fin neg n g) = f.overflow md neg := by
  obtain ⟨F, ⟨hmax, -, -⟩, hv'⟩ := f.place_max hf
  rw [hv] at hv'
  obtain ⟨-, rfl, rfl⟩ := XR.fin.inj hv'
  have hpos := Nat.two_pow_pos (f.mb + 1)
  have hle := mt (XR.lt_fin_iff (e0 := min g (f.emin + F)) (min_le_left _ _) (min_le_right _ _)).2 (Bool.eq_false_iff.1 h)
  rw [Nat.sub_add_cancel hpos, ← Nat.pow_add, Nat.not_lt] at hle
  have hn : n ≠ 0 := fun h0 => by simp [h0] at hle
  have hlog : f.mb + 1 + (f.emin + F) ≤ n.log2 + g := by
    have h2 : n * 2 ^ (g - min g (f.emin + F)).toNat < 2 ^ (n.log2 + 1 + (g - min g (f.emin + F)).toNat) := by
      rw [Nat.pow_add]
      exact Nat.mul_lt_mul_of_pos_right ((Nat.log2_eq_iff hn).1 rfl).2 (Nat.two_pow_pos _)
    have := (Nat.pow_lt_pow_iff_right (show 1 < 2 by decide)).1 (hle.trans_lt h2)
    omega
  have hgrid : f.grid n g = g + (n.log2 : Int) - f.mb := by
    unfold Fmt.grid
    omega
  have hk := le_roundGrid (if md.rnd = .sr && f.pastMax n g then .rne else md.rnd) neg dr hn hgrid
  have hstep := Nat.mul_le_mul_right (2 ^ f.mb) (show F + 1 ≤ (f.grid n g - f.emin).toNat by omega)
  have hpow : 2 ^ (f.mb + 1) = 2 * 2 ^ f.mb := Nat.pow_succ'
  rw [rnd_fin md dr f neg g hn, Fmt.finish_past]
  rw [Nat.succ_mul] at hstep
  omega

/-- An overflow gives the largest finite value or an infinity. -/
theorem Fmt.overflow_code (f : Fmt) (md : RMode) (neg : Bool) :
    (f.overflow md neg).1 = f.big neg ∨ (f.overflow md neg).1 = f.infCode neg := by
  unfold Fmt.overflow
  generalize (match md.rnd with
    | .rtz => false
    | .rup => !neg
    | .rdn => neg
    | _ => true : Bool) = toInf
  cases md.sat <;> cases toInf <;> simp

/-- An overflow's code is no zero and no subnormal one. -/
theorem Fmt.normal_overflow {f : Fmt} (hf : f.Ieee) (md : RMode) (neg : Bool) :
    ¬(f.overflow md neg).1 % 2 ^ (f.bits - 1) < 2 ^ f.mb := by
  obtain ⟨hinf, -, hexp, hmax⟩ := hf
  have hpos := Nat.two_pow_pos f.mb
  have hbits : 2 ^ (f.bits - 1) = 2 ^ (f.bits - 1 - f.mb) * 2 ^ f.mb := by rw [← Nat.pow_add]; congr 1; omega
  have hfour : 4 * 2 ^ f.mb ≤ 2 ^ (f.bits - 1) := by
    rw [show 4 * 2 ^ f.mb = 2 ^ (f.mb + 2) by rw [Nat.pow_add]; ring]
    exact Nat.pow_le_pow_right (by decide) (by omega)
  have hinfCode : (2 ^ (f.bits - 1 - f.mb) - 1) <<< f.mb = f.maxCode + 1 := by
    rw [Nat.shiftLeft_eq, Nat.sub_mul, ← hbits]
    omega
  have hmod (c : Nat) (hc : c < 2 ^ (f.bits - 1)) : (c + if neg then 2 ^ (f.bits - 1) else 0) % 2 ^ (f.bits - 1) = c := by
    cases neg <;> simp [Nat.mod_eq_of_lt hc]
  have hbig : ¬f.big neg % 2 ^ (f.bits - 1) < 2 ^ f.mb := by
    rw [Fmt.big, hmod _ (by omega)]
    omega
  have hcode : ¬f.infCode neg % 2 ^ (f.bits - 1) < 2 ^ f.mb := by
    rw [Fmt.infCode, if_pos hinf, hinfCode, hmod _ (by omega)]
    omega
  obtain h | h := f.overflow_code md neg
  · rwa [h]
  · rwa [h]

/-- FTZ acts on the code that rounding without it gives (R111). -/
theorem Fmt.finish_ftz {f : Fmt} (hf : f.Ieee) {md : RMode} (hz : md.ftz = true) (neg : Bool) (code : Nat) (exact tiny : Bool) :
    let r := f.finish { md with ftz := false } neg code exact tiny
    f.finish md neg code exact tiny = if r.1 % 2 ^ (f.bits - 1) < 2 ^ f.mb then (f.signBit neg, fUF ||| fNX) else r := by
  intro r
  by_cases hc : f.maxCode < code
  · have hr : r = f.overflow md neg := Fmt.finish_past hc _ _ _ _
    rw [hr, if_neg (Fmt.normal_overflow hf md neg), Fmt.finish_past hc]
  · have hr : r = (f.signBit neg + code, flagIf (!exact) fNX ||| flagIf (!exact && tiny) fUF) :=
      Fmt.finish_finite (Nat.not_lt.1 hc) rfl _ _ _
    have hlt : code < 2 ^ (f.bits - 1) := by have := hf.maxCode_eq; have := Nat.two_pow_pos f.mb; omega
    have hmod : (f.signBit neg + code) % 2 ^ (f.bits - 1) = code := by
      cases neg <;> simp [Fmt.signBit, Nat.mod_eq_of_lt hlt]
    simp [hr, hmod, Fmt.finish, hc, hz]

/-- Settles O14: finite values by their place on the grid, past the largest one by the size of the rounded multiple. -/
theorem roundingRules : Obligations.RoundingRules := by
  unfold Obligations.RoundingRules
  refine ⟨fun md dr f c hf hz hc hlt => ?_, fun md dr f neg hf => ?_, fun md dr f neg => ⟨rfl, fun y => ?_, fun hi hs => ?_, fun hs => ?_⟩⟩
  · have hi : f.Ieee := by
      obtain rfl | rfl | rfl := hf
      exacts [Fmt.ieee_fp32, Fmt.ieee_fp16, Fmt.ieee_bf16]
    exact rnd_code hi dr hz hc hlt
  · have hi : f.Ieee := by
      obtain rfl | rfl | rfl | rfl := hf
      exacts [Fmt.ieee_fp32, Fmt.ieee_fp16, Fmt.ieee_bf16, Fmt.ieee_e5m2]
    intro sign past
    have hpast : past = f.overflow md neg := by
      obtain ⟨rm, sat, ftz⟩ := md
      cases sat <;> cases rm <;> cases neg <;> rfl
    refine ⟨fun e => rnd_zero md dr f neg e, fun c m k r e hc hv h0 h1 hz => ?_, fun m n e g hv h => ?_, fun m e hm hz => ?_⟩
    · intro nearest up
      obtain ⟨E, hp, rfl⟩ := f.value_positive hi hc hv
      have hup : up = roundsUp (if md.rnd = .sr ∧ c = f.maxCode then .rne else md.rnd) neg dr (c % 2 == 1) r k := by
        cases hmode : md.rnd with
        | sr => by_cases hmax : c = f.maxCode <;> simp [up, hmode, hmax, roundsUp, nearest]
        | _ => simp [up, hmode, roundsUp, nearest]
      rw [hup, hpast]
      exact rnd_between hi dr neg hp hc h0 h1 hz
    · rw [hpast]
      exact rnd_overflow hi md dr neg hv h
    · intro r
      have hr : r = _ := rnd_fin { md with ftz := false } dr f neg e hm
      rw [hr, rnd_fin md dr f neg e hm]
      exact Fmt.finish_ftz hi hz neg _ _ _
  · have hflags : invalid .nan [.nan, y] = 0 := rfl
    simp [fpAdd, fpMul, XR.add, XR.mul, rnd, hflags]
  · simp [rnd, hi, hs]
  · simp [rnd, hs]

end Sys2Proof.Machine

/-! ## The drones' sequencer and BMAC

Lines and their lanes, fp32 codes, the addresses of an iteration, and what a column command and a finished BMAC leave (O51).
-/
namespace Sys2Proof.Machine

/-! ### Bytes of a number -/

theorem mread_eq_map (m : List Host.Cell) (a n : Nat) : mread m a n = (List.range n).map fun k => mget m (a + k) := by
  induction n generalizing a with
  | zero => rfl
  | succ n ih =>
    rw [mread, ih, List.range_succ_eq_map, List.map_cons, List.map_map]
    simp [Function.comp_def, Nat.add_assoc, Nat.add_comm 1]

theorem leNat_lt (l : List Byte) : leNat l < 256 ^ l.length := by
  induction l with
  | nil => decide
  | cons b l ih =>
    have hb : b.toNat < 256 := b.isLt
    rw [leNat, List.length_cons, Nat.pow_succ]
    omega

theorem leNat_append (l k : List Byte) : leNat (l ++ k) = leNat l + 256 ^ l.length * leNat k := by
  induction l with
  | nil => simp [leNat]
  | cons b l ih =>
    rw [List.cons_append, leNat, leNat, ih, List.length_cons, Nat.pow_succ]
    ring

/-- A field of whole bytes. -/
theorem leNat_field (l : List Byte) {a b : Nat} (h : a + b ≤ l.length) : leNat l / 256 ^ a % 256 ^ b = leNat ((l.drop a).take b) := by
  have ha : (l.take a).length = a := by simp; omega
  have hb : ((l.drop a).take b).length = b := by simp; omega
  have hlo := leNat_lt (l.take a)
  have hmid := leNat_lt ((l.drop a).take b)
  rw [ha] at hlo
  rw [hb] at hmid
  conv_lhs => rw [← List.take_append_drop a l, ← List.take_append_drop b (l.drop a)]
  rw [leNat_append, leNat_append, ha, hb, Nat.add_mul_div_left _ _ (Nat.pow_pos (by decide)), Nat.div_eq_of_lt hlo, Nat.zero_add,
    Nat.add_mul_mod_self_left, Nat.mod_eq_of_lt hmid]

/-- Bytes by place, a part of them. -/
theorem drop_take_map_range {α : Type} (f : Nat → α) {a b n : Nat} (h : a + b ≤ n) :
    (((List.range n).map f).drop a).take b = (List.range b).map fun k => f (a + k) :=
  List.ext_getElem (by simp; omega) fun k h1 h2 => by simp

/-! ### Lines and their lanes -/

/-- Lane `n` of a line. -/
def laneAt (v : BitVec 512) (n : Nat) : Nat := bitsOf v (32 * n) 32

theorem laneAt_lt (v : BitVec 512) (n : Nat) : laneAt v n < 2 ^ 32 := Nat.mod_lt _ (by decide)

theorem laneCodes_eq_map (v : BitVec 512) : laneCodes v = (List.range 16).map (laneAt v) := by
  rw [laneCodes, unpack_eq_map]
  exact List.map_congr_left fun n _ => by rw [laneAt, bitsOf, Nat.shiftRight_eq_div_pow]

theorem laneAt_lineOf (x : Nat → Nat) {n : Nat} (hn : n < 16) : laneAt (lineOf ((List.range 16).map x)) n = x n % 2 ^ 32 := by
  have hlt := pack_lt 32 ((List.range 16).map x)
  have hfield := pack_field 32 ((List.range 16).map x) n (by simpa using hn)
  rw [List.length_map, List.length_range] at hlt
  rw [List.getElem_map, List.getElem_range, Nat.mul_comm] at hfield
  rw [laneAt, bitsOf, lineOf, BitVec.toNat_ofNat, Nat.mod_eq_of_lt hlt, Nat.shiftRight_eq_div_pow, hfield]

theorem laneAt_zero (n : Nat) : laneAt 0 n = 0 := by simp [laneAt, bitsOf]

/-- A line of 64 bytes, lane by lane. -/
theorem laneAt_bytes (f : Nat → Byte) {n : Nat} (hn : n < 16) :
    laneAt (BitVec.ofNat 512 (leNat ((List.range 64).map f))) n = leNat ((List.range 4).map fun k => f (4 * n + k)) := by
  have hlt := leNat_lt ((List.range 64).map f)
  have hfield := leNat_field ((List.range 64).map f) (a := 4 * n) (b := 4) (by simp; omega)
  rw [List.length_map, List.length_range] at hlt
  rw [show 256 ^ 64 = 2 ^ 512 from (Nat.pow_mul 2 8 64).symm] at hlt
  rw [drop_take_map_range f (by omega), Nat.pow_mul] at hfield
  rw [laneAt, bitsOf, BitVec.toNat_ofNat, Nat.mod_eq_of_lt hlt, Nat.shiftRight_eq_div_pow, Nat.pow_mul]
  exact hfield

/-- An operation lane by lane. -/
theorem lanes_eq (f : XR → XR → XR → Nat × BitVec 6) (x y z : BitVec 512) :
    let r (n : Nat) := f (fp (laneAt x n)) (fp (laneAt y n)) (fp (laneAt z n))
    lanes f x y z = (lineOf ((List.range 16).map fun n => (r n).1), orAll ((List.range 16).map fun n => (r n).2)) := by
  intro r
  simp only [lanes, laneCodes_eq_map, zip_map_range, List.map_map]
  rfl

/-! ### Codes of fp32 -/

theorem Fmt.overflow_fp32_lt (md : RMode) (neg : Bool) : (Fmt.fp32.overflow md neg).1 < 2 ^ 32 := by
  obtain h | h := Fmt.fp32.overflow_code md neg <;> rw [h] <;> cases neg <;> decide

theorem Fmt.signBit_fp32_le (neg : Bool) : Fmt.fp32.signBit neg ≤ 2 ^ 31 := by cases neg <;> decide

theorem Fmt.finish_fp32_lt (md : RMode) (neg : Bool) (code : Nat) (exact tiny : Bool) :
    (Fmt.fp32.finish md neg code exact tiny).1 < 2 ^ 32 := by
  have hsign := Fmt.signBit_fp32_le neg
  have hmax : Fmt.fp32.maxCode < 2 ^ 31 := by decide
  unfold Fmt.finish
  split
  · exact Fmt.overflow_fp32_lt md neg
  · split
    · exact hsign.trans_lt (by decide)
    · simp only []
      omega

/-- Rounding to fp32 gives a code of 32 bits. -/
theorem rnd_fp32_lt (md : RMode) (dr : Word) (x : XR) : (rnd md dr .fp32 x).1 < 2 ^ 32 := by
  cases x with
  | nan => exact show Fmt.fp32.nanCode < 2 ^ 32 by decide
  | inf neg =>
    have hbig : Fmt.fp32.big neg < 2 ^ 32 := by cases neg <;> decide
    have hinf : Fmt.fp32.infCode neg < 2 ^ 32 := by cases neg <;> decide
    unfold rnd
    cases md.sat
    · exact hinf
    · exact hbig
  | fin neg m e =>
    by_cases hm : m = 0
    · subst hm
      rw [rnd_zero]
      exact (Fmt.signBit_fp32_le neg).trans_lt (by decide)
    · rw [rnd_fin md dr .fp32 neg e hm]
      exact Fmt.finish_fp32_lt _ _ _ _ _

theorem flushOnly_fp32_lt (md : RMode) (x : XR) : (flushOnly md .fp32 x).1 < 2 ^ 32 := by
  cases x with
  | nan => exact show Fmt.fp32.nanCode < 2 ^ 32 by decide
  | inf neg =>
    have hbig : Fmt.fp32.big neg < 2 ^ 32 := by cases neg <;> decide
    have hinf : Fmt.fp32.infCode neg < 2 ^ 32 := by cases neg <;> decide
    unfold flushOnly
    cases md.sat
    · exact hinf
    · exact hbig
  | fin neg m e => exact rnd_fp32_lt _ _ _

theorem fpMulAdd_fp32_lt (md : RMode) (dr : Word) (x y z : XR) : (fpMulAdd md dr .fp32 x y z).1 < 2 ^ 32 := rnd_fp32_lt _ _ _

/-! ### The addresses of an iteration (R373) -/

/-- A sum of index and stride products over a base. -/
theorem sumAddr_eq (base : Word) (l : List (Nat × Int)) :
    sumAddr base l = base + BitVec.ofInt 64 (l.map fun p => (p.1 : Int) * p.2).sum := by
  unfold sumAddr wordOfInt
  induction l generalizing base with
  | nil => simp
  | cons p l ih => rw [List.foldl_cons, ih, List.map_cons, List.sum_cons, BitVec.ofInt_add, BitVec.add_assoc]

/-- A level that is not active (R372). -/
def idleLevel : Level := { count := 1, vlen := 0, pad := 0, xstr := 0, ystr := 0, ostr := 0 }

/-- The index and the level of number `n`. -/
def SeqRun.index (r : SeqRun) (n : Nat) : Nat := nth 0 r.idx n
def SeqRun.level (r : SeqRun) (n : Nat) : Level := nth idleLevel r.levels n

/-- An address of an iteration: the levels from `lo` on, their indices given by `ix`. -/
def SeqRun.place (r : SeqRun) (base : Word) (lo : Nat) (stride : Level → Int) (ix : Nat → Nat) : Word :=
  base + BitVec.ofInt 64 ((List.range (5 - lo)).map fun n => (ix (lo + n) : Int) * stride (r.level (lo + n))).sum

/-- The operand x repeats the last valid index of a level under PAD 2 (R373). -/
def SeqRun.xIndex (r : SeqRun) (n : Nat) : Nat :=
  if (r.level n).pad = 2 then min (r.index n) ((r.level n).vlen - 1) else r.index n

section
variable {r : SeqRun} (hi : r.idx.length = 5) (hl : r.levels.length = 5)
include hi hl

theorem SeqRun.indexed_eq : r.indexed = (List.range 5).map fun n => (r.index n, r.level n) := by
  rw [SeqRun.indexed, ← map_range_nth 0 hi, ← map_range_nth idleLevel hl, zip_map_range]
  rfl

theorem SeqRun.xAddr_eq : r.xAddr = r.place r.x 0 (·.xstr) r.xIndex := by
  rw [SeqRun.xAddr, sumAddr_eq, SeqRun.indexed_eq hi hl, List.map_map, List.map_map]
  simp only [SeqRun.place, Nat.zero_add]
  rfl

theorem SeqRun.yAddr_eq : r.yAddr = r.place r.y 0 (·.ystr) r.index := by
  rw [SeqRun.yAddr, sumAddr_eq, SeqRun.indexed_eq hi hl, List.map_map, List.map_map]
  simp only [SeqRun.place, Nat.zero_add]
  rfl

theorem SeqRun.outAddr_eq : r.outAddr = r.place r.out 0 (·.ostr) r.index := by
  rw [SeqRun.outAddr, sumAddr_eq, SeqRun.indexed_eq hi hl, List.map_map, List.map_map]
  simp only [SeqRun.place, Nat.zero_add]
  rfl

theorem SeqRun.runOut_eq : r.runOut = r.place r.out 1 (·.ostr) r.index := by
  rw [SeqRun.runOut, sumAddr_eq, SeqRun.indexed_eq hi hl]
  simp only [SeqRun.place, List.range_succ_eq_map, List.map_cons, List.map_map, List.drop_succ_cons, List.drop_zero, Function.comp_def]
  rfl

/-- Some level of kind `pad` stands past its valid positions. -/
theorem SeqRun.beyond_iff (pad : Nat) : r.beyond pad = true ↔ ∃ n, (n < 5 ∧ (r.level n).vlen ≤ r.index n) ∧ (r.level n).pad = pad := by
  rw [SeqRun.beyond, SeqRun.indexed_eq hi hl]
  simp only [List.any_map, List.any_eq_true, List.mem_range, Function.comp_def, Bool.and_eq_true, beq_iff_eq, decide_eq_true_iff]
  exact exists_congr fun n => by tauto

end

/-! ### The indices go on (R373) -/

/-- Where the indices stand after a level-0 run: like an odometer, level 1 the fastest, and none after the last. -/
def SeqRun.RunsOn (r z : SeqRun) : Prop :=
  z.phase = 0 ∧
  (∀ m, 1 ≤ m → m < 5 → r.index m + 1 < (r.level m).count → (∀ n, 1 ≤ n → n < m → (r.level n).count ≤ r.index n + 1) →
    z.idx = (List.range 5).map fun n => if n < m then 0 else if n = m then r.index n + 1 else r.index n) ∧
  ((∀ m, 1 ≤ m → m < 5 → (r.level m).count ≤ r.index m + 1) → z.idx = [])

/-- Where the indices stand after one of level 0. -/
def SeqRun.StepsOn (r z : SeqRun) : Prop :=
  z = { r with idx := z.idx, phase := z.phase } ∧
  (r.index 0 + 1 < (r.level 0).count → z.idx = (r.index 0 + 1) :: r.idx.drop 1 ∧ z.phase = 0) ∧
  ((r.level 0).count ≤ r.index 0 + 1 → r.body ≠ 1 → z.idx = r.idx ∧ z.phase = 3) ∧
  ((r.level 0).count ≤ r.index 0 + 1 → r.body = 1 → r.RunsOn z)

theorem nextOuter_step {i : Nat} {l : Level} (is : List Nat) (ls : List Level) (h : i + 1 < l.count) :
    nextOuter (i :: is) (l :: ls) = some ((i + 1) :: is) := if_pos h

theorem nextOuter_over {i : Nat} {l : Level} (is : List Nat) (ls : List Level) (h : l.count ≤ i + 1) :
    nextOuter (i :: is) (l :: ls) = (nextOuter is ls).map fun r => 0 :: r := if_neg (Nat.not_lt.2 h)

theorem SeqRun.nextRun_eq (r : SeqRun) : r.nextRun = { r with idx := r.nextRun.idx, phase := r.nextRun.phase } := by
  unfold SeqRun.nextRun
  split <;> rfl

theorem SeqRun.nextRun_of_some {r : SeqRun} {is : List Nat} (h : nextOuter (r.idx.drop 1) (r.levels.drop 1) = some is) :
    r.nextRun = { r with idx := 0 :: is, phase := 0 } := by rw [SeqRun.nextRun, h]

theorem SeqRun.nextRun_of_none {r : SeqRun} (h : nextOuter (r.idx.drop 1) (r.levels.drop 1) = none) :
    r.nextRun = { r with idx := [], phase := 0 } := by rw [SeqRun.nextRun, h]

/-- The odometer of levels 1 to 4: level `m` steps, those below it start anew, those above it stay. -/
theorem nextOuter_eq {i1 i2 i3 i4 : Nat} {l1 l2 l3 l4 : Level} :
    (i1 + 1 < l1.count → nextOuter [i1, i2, i3, i4] [l1, l2, l3, l4] = some [i1 + 1, i2, i3, i4]) ∧
    (l1.count ≤ i1 + 1 → i2 + 1 < l2.count → nextOuter [i1, i2, i3, i4] [l1, l2, l3, l4] = some [0, i2 + 1, i3, i4]) ∧
    (l1.count ≤ i1 + 1 → l2.count ≤ i2 + 1 → i3 + 1 < l3.count →
      nextOuter [i1, i2, i3, i4] [l1, l2, l3, l4] = some [0, 0, i3 + 1, i4]) ∧
    (l1.count ≤ i1 + 1 → l2.count ≤ i2 + 1 → l3.count ≤ i3 + 1 → i4 + 1 < l4.count →
      nextOuter [i1, i2, i3, i4] [l1, l2, l3, l4] = some [0, 0, 0, i4 + 1]) ∧
    (l1.count ≤ i1 + 1 → l2.count ≤ i2 + 1 → l3.count ≤ i3 + 1 → l4.count ≤ i4 + 1 →
      nextOuter [i1, i2, i3, i4] [l1, l2, l3, l4] = none) := by
  refine ⟨fun h1 => ?_, fun h1 h2 => ?_, fun h1 h2 h3 => ?_, fun h1 h2 h3 h4 => ?_, fun h1 h2 h3 h4 => ?_⟩
  · rw [nextOuter_step _ _ h1]
  · rw [nextOuter_over _ _ h1, nextOuter_step _ _ h2, Option.map_some]
  · rw [nextOuter_over _ _ h1, nextOuter_over _ _ h2, nextOuter_step _ _ h3, Option.map_some, Option.map_some]
  · rw [nextOuter_over _ _ h1, nextOuter_over _ _ h2, nextOuter_over _ _ h3, nextOuter_step _ _ h4]
    rfl
  · rw [nextOuter_over _ _ h1, nextOuter_over _ _ h2, nextOuter_over _ _ h3, nextOuter_over _ _ h4]
    rfl

theorem list_of_length_five {α : Type} {l : List α} (h : l.length = 5) : ∃ a b c d e, l = [a, b, c, d, e] := by
  match l, h with
  | [a, b, c, d, e], _ => exact ⟨a, b, c, d, e, rfl⟩

section
variable {r : SeqRun} (hi : r.idx.length = 5) (hl : r.levels.length = 5)
include hi hl

/-- The end of a level-0 run. -/
theorem SeqRun.runsOn_nextRun : r.RunsOn r.nextRun := by
  obtain ⟨i0, i1, i2, i3, i4, hidx⟩ := list_of_length_five hi
  obtain ⟨l0, l1, l2, l3, l4, hlev⟩ := list_of_length_five hl
  have hphase : r.nextRun.phase = 0 := by unfold SeqRun.nextRun; split <;> rfl
  obtain ⟨h1, h2, h3, h4, hover⟩ := @nextOuter_eq i1 i2 i3 i4 l1 l2 l3 l4
  have hnext {o : Option (List Nat)} (h : nextOuter [i1, i2, i3, i4] [l1, l2, l3, l4] = o) : nextOuter (r.idx.drop 1) (r.levels.drop 1) = o := by
    rw [hidx, hlev]
    exact h
  have hindex (n : Nat) : r.index n = nth 0 [i0, i1, i2, i3, i4] n := by rw [SeqRun.index, hidx]
  have hlevel (n : Nat) : r.level n = nth idleLevel [l0, l1, l2, l3, l4] n := by rw [SeqRun.level, hlev]
  refine ⟨hphase, fun m hm1 hm5 hstep hbelow => ?_, fun hall => ?_⟩
  · have full (n : Nat) (hn : 1 ≤ n) (hnm : n < m) := hbelow n hn hnm
    simp only [hindex, hlevel] at hstep full ⊢
    obtain rfl | rfl | rfl | rfl : m = 1 ∨ m = 2 ∨ m = 3 ∨ m = 4 := by omega
    · rw [SeqRun.nextRun_of_some (hnext (h1 hstep))]
      rfl
    · rw [SeqRun.nextRun_of_some (hnext (h2 (full 1 (by decide) (by decide)) hstep))]
      rfl
    · rw [SeqRun.nextRun_of_some (hnext (h3 (full 1 (by decide) (by decide)) (full 2 (by decide) (by decide)) hstep))]
      rfl
    · rw [SeqRun.nextRun_of_some (hnext (h4 (full 1 (by decide) (by decide)) (full 2 (by decide) (by decide))
        (full 3 (by decide) (by decide)) hstep))]
      rfl
  · simp only [hindex, hlevel] at hall
    rw [SeqRun.nextRun_of_none (hnext (hover (hall 1 (by decide) (by decide)) (hall 2 (by decide) (by decide))
      (hall 3 (by decide) (by decide)) (hall 4 (by decide) (by decide))))]

theorem SeqRun.stepsOn_nextI0 : r.StepsOn r.nextI0 := by
  have hhead : r.idx.headD 0 = r.index 0 := by
    obtain ⟨i0, i1, i2, i3, i4, hidx⟩ := list_of_length_five hi
    rw [SeqRun.index, hidx]
    rfl
  have hcount : (r.levels.head?.map (·.count)).getD 1 = (r.level 0).count := by
    obtain ⟨l0, l1, l2, l3, l4, hlev⟩ := list_of_length_five hl
    rw [SeqRun.level, hlev]
    rfl
  have hcases : r.nextI0 = if r.index 0 + 1 < (r.level 0).count then { r with idx := (r.index 0 + 1) :: r.idx.drop 1, phase := 0 }
      else if r.body = 1 then r.nextRun else { r with phase := 3 } := by
    rw [← hhead, ← hcount]
    rfl
  by_cases hin : r.index 0 + 1 < (r.level 0).count
  · rw [hcases, if_pos hin]
    exact ⟨rfl, fun _ => ⟨rfl, rfl⟩, fun h => absurd hin (Nat.not_lt.2 h), fun h => absurd hin (Nat.not_lt.2 h)⟩
  · rw [hcases, if_neg hin]
    by_cases hb : r.body = 1
    · rw [if_pos hb]
      exact ⟨r.nextRun_eq, fun h => absurd h hin, fun _ h => absurd hb h, fun _ _ => SeqRun.runsOn_nextRun hi hl⟩
    · rw [if_neg hb]
      exact ⟨rfl, fun h => absurd h hin, fun _ _ => ⟨rfl, rfl⟩, fun _ h => absurd h hb⟩

end

end Sys2Proof.Machine

/-! ### What a column command leaves -/
namespace Sys2Proof.Machine

/-- Memory, the contexts, the other drones and the drone's cell store stay. -/
def Rests (d : Nat) (q t : State) : Prop :=
  t.mem = q.mem ∧ t.harts = q.harts ∧ (drone t d).cells = (drone q d).cells ∧ ∀ k, k ≠ d → drone t k = drone q k

theorem Rests.refl (d : Nat) (q : State) : Rests d q q := ⟨rfl, rfl, rfl, fun _ _ => rfl⟩

theorem Rests.modDrone {d : Nat} {q t : State} {f : Drone → Drone} (h : Rests d q t) (hf : ∀ k, (f k).cells = k.cells) :
    Rests d q (modDrone t d f) := by
  obtain ⟨hm, hh, hc, ho⟩ := h
  refine ⟨hm, hh, ?_, fun k hk => ?_⟩
  · rw [drone_modDrone_self, hf, hc]
  · rw [drone_modDrone_ne _ _ _ _ hk, ho k hk]

theorem Rests.setSeq {d : Nat} {q t : State} (h : Rests d q t) (r : SeqRun) : Rests d q (setSeq t d r) := h.modDrone fun _ => rfl

@[simp] theorem drone_setSeq (s : State) (d : Nat) (r : SeqRun) : drone (setSeq s d r) d = { drone s d with seqr := some r } :=
  drone_modDrone_self _ _ _

theorem seqr_setSeq (s : State) (d : Nat) (r : SeqRun) : (drone (setSeq s d r) d).seqr = some r := by rw [drone_setSeq]
theorem accs_setSeq (s : State) (d : Nat) (r : SeqRun) : (drone (setSeq s d r) d).accs = (drone s d).accs := by rw [drone_setSeq]

theorem isCell_iff (a : Word) : isCell a = true ↔ a.toNat / 2 ^ 56 = 2 := by simp [isCell]

theorem isCell_of_global {a : Word} (h : a.toNat / 2 ^ 56 = 0) : isCell a = false := by
  rw [isCell, h]
  rfl

/-! ### Operands (R373, R377) -/

/-- Byte `j` from a near address on, as a call's engine sees it, global memory under the image `i`. -/
def operandByte (i : Image) (s : State) (d : Nat) (o : Option (Word × Nat)) (a : Word) (j : Nat) : Byte :=
  if a.toNat / 2 ^ 56 = 2 then mget (drone s d).cells (a.toNat % 2 ^ 18 + j) else viewReader i (engineView s (1152 + d) o) (a.toNat + j)

/-- Its lane `n`. -/
def operandLane (i : Image) (s : State) (d : Nat) (o : Option (Word × Nat)) (a : Word) (n : Nat) : Nat :=
  leNat ((List.range 4).map fun j => operandByte i s d o a (4 * n + j))

theorem operandByte_cell {i : Image} {s : State} {d : Nat} {o : Option (Word × Nat)} {a : Word} (h : a.toNat / 2 ^ 56 = 2) :
    operandByte i s d o a = fun j => mget (drone s d).cells (cellOff a + j) := funext fun _ => if_pos h

theorem operandByte_global {i : Image} {s : State} {d : Nat} {o : Option (Word × Nat)} {a : Word} (h : ¬a.toNat / 2 ^ 56 = 2) :
    operandByte i s d o a = fun j => viewReader i (engineView s (1152 + d) o) (a.toNat + j) := funext fun _ => if_neg h

theorem viewBad_none {i : Image} (h : i.bad = []) (v : StepView) (a n : Nat) : viewBad i v a n = false := by
  simp only [viewBad, vbad, h, List.filter_nil, List.contains_nil, Bool.and_false, List.any_eq_false]
  intro k _
  split <;> simp

/-- A read that its checks pass and no bad line stops. -/
theorem seqRead_ready {q : State} {d : Nat} {r : SeqRun} {a : Word} (hbad : q.badLines = []) (hcheck : seqCheck q (1152 + d) false a 64 = none) :
    ∃ v, seqRead q d r a = (q, .inr v) ∧ ∀ n, n < 16 → laneAt v n = operandLane q.image q d r.owner a n := by
  have hview := viewBad_none (i := q.image) hbad (engineView q (droneHart d) r.owner) a.toNat 64
  refine ⟨BitVec.ofNat 512 (leNat ((List.range 64).map (operandByte q.image q d r.owner a))), ?_, fun n hn => laneAt_bytes _ hn⟩
  change seqCheck q (droneHart d) false a 64 = none at hcheck
  by_cases hcell : a.toNat / 2 ^ 56 = 2
  · rw [seqRead, hcheck, operandByte_cell hcell]
    simp only [(isCell_iff a).2 hcell, if_true, mread_eq_map]
  · rw [seqRead, hcheck, operandByte_global hcell]
    simp only [hview, Bool.eq_false_iff.2 fun h => hcell ((isCell_iff a).1 h)]
    rfl

theorem seqRead_stop {q : State} {d : Nat} {r : SeqRun} {a : Word} {c : Byte} (hcheck : seqCheck q (1152 + d) false a 64 = some c) :
    seqRead q d r a = (q, .inl { r with cause := c }) := by
  change seqCheck q (droneHart d) false a 64 = some c at hcheck
  rw [seqRead, hcheck]

/-! ### A posted line -/

theorem unelide_plain {s : State} {a : Nat} (h : ∀ b p, findPage s.pages a = some (b, p) → p.rep ≠ 2) (ls : List (Nat × Nat)) :
    unelide s ls a = s := by
  rw [unelide]
  split
  · next b p hf => exact if_neg (h b p hf)
  · rfl

/-- A write in global form, of no elided page, waits posted. -/
theorem post_plain {s : State} {d : Nat} {o : Option (Word × Nat)} {pages : Tab Page} {a : Word} {bytes : List Byte} {bad : Bool}
    (hcell : a.toNat / 2 ^ 56 = 0) (hrep : ∀ b p, findPage s.pages a.toNat = some (b, p) → p.rep ≠ 2) :
    post s d o pages a bytes bad = (findPage pages a.toNat).elim s fun x => modDrone s d fun k => { k with
      posted := k.posted ++ [{ owner := o, pa := physOf x.1 x.2 a.toNat, va := a.toNat, bytes := bytes, bad := bad }] } := by
  have hc : isCell a = false := isCell_of_global hcell
  simp only [post, hc, unelide_plain hrep]
  cases findPage pages a.toNat <;> rfl

/-- What an `out` write that its checks pass leaves. -/
theorem seqOut_plain {q s : State} {d : Nat} {r z : SeqRun} {a : Word} {bytes : List Byte} (hs : Rests d q s) (hcell : a.toNat / 2 ^ 56 = 0)
    (hcheck : seqCheck s (1152 + d) true a bytes.length = none) (hrep : ∀ b p, findPage s.pages a.toNat = some (b, p) → p.rep = 0) :
    Rests d q (seqOut s d r z a bytes) ∧ (drone (seqOut s d r z a bytes) d).seqr = some z ∧
      (drone (seqOut s d r z a bytes) d).accs = (drone s d).accs ∧
      ∀ b p, findPage s.pages a.toNat = some (b, p) → (drone (seqOut s d r z a bytes) d).posted = (drone s d).posted ++
        [{ owner := r.owner, pa := p.frame * 2 ^ 16 + (a.toNat - b), va := a.toNat, bytes := bytes, bad := false }] := by
  have hc : isCell a = false := isCell_of_global hcell
  have heq : seqOut s d r z a bytes = setSeq (post s d r.owner s.pages a bytes false) d z := by
    change seqCheck s (droneHart d) true a bytes.length = none at hcheck
    simp [seqOut, hc, hcheck]
  rw [heq, post_plain hcell fun b p h => by rw [hrep b p h]; decide, drone_setSeq]
  cases hf : findPage s.pages a.toNat with
  | none => exact ⟨hs.setSeq z, rfl, rfl, fun b p h => nomatch h⟩
  | some x =>
    simp only [Option.elim_some, drone_modDrone_self]
    refine ⟨Rests.setSeq (hs.modDrone fun _ => by rfl) z, trivial, trivial, fun b p h => ?_⟩
    rw [Option.some.inj h]
    rfl

/-! ### The commands of a run -/

theorem step_seqStep {s : State} {d : Nat} (h : s.turn = some (.seqStep d)) (hd : d < 544) (hdev : (moving s).host.devState = 1) :
    step s = .next (seqCommand (moving s) d) := by
  have hm : mayMove (moving s) (.seqStep d) = true := by simp [mayMove, Config.drones, hd, hdev]
  have hmove : move s = .done (seqCommand (moving s) d) := by
    unfold move
    dsimp only
    rw [turnOf_named h, ← moving, hm]
    rfl
  rw [step, hmove]

/-- A run that goes on: nothing stops or suspends it, and an iteration is left. -/
structure SeqRun.Goes (q : State) (d : Nat) (r : SeqRun) : Prop where
  runs : (drone q d).seqr = some r
  unfinished : r.finished = false
  served : r.suspended = false
  sound : r.cause = 0
  granted : r.mustSuspend = false
  indices : r.idx.length = 5
  nest : r.levels.length = 5

section
variable {q : State} {d : Nat} {r : SeqRun} (h : r.Goes q d)
include h

theorem SeqRun.Goes.free : (r.finished || r.suspended || r.cause != 0 || r.over || r.mustSuspend) = false := by
  have hover : r.over = false := by
    rw [SeqRun.over]
    exact List.isEmpty_eq_false_iff.2 (List.ne_nil_of_length_pos (by rw [h.indices]; decide))
  simp [h.unfinished, h.served, h.sound, h.granted, hover]

theorem SeqRun.Goes.command_pad3 (hp : r.phase = 0) (hb : r.beyond 3 = true) : seqCommand q d = setSeq q d r.nextI0 := by
  simp only [seqCommand, h.runs, h.free, hp, hb]
  rfl

theorem SeqRun.Goes.command_pad1 (hp : r.phase = 0) (hb : r.beyond 3 = false) (hf : r.beyond 1 = true) :
    seqCommand q d = seqTakeX q d { r with v := 0 } := by
  simp only [seqCommand, h.runs, h.free, hp, hb, hf]
  rfl

theorem SeqRun.Goes.command_x (hp : r.phase = 0) (hb : r.beyond 3 = false) (hf : r.beyond 1 = false) {v : BitVec 512}
    (hv : seqRead q d r.counted r.xAddr = (q, .inr v)) : seqCommand q d = seqTakeX q d { r.counted with v := v } := by
  change seqRead q d r.counted r.counted.xAddr = _ at hv
  simp only [seqCommand, h.runs, h.free, hp, hb, hf, hv]
  rfl

theorem SeqRun.Goes.command_xStop (hp : r.phase = 0) (hb : r.beyond 3 = false) (hf : r.beyond 1 = false) {z : SeqRun}
    (hv : seqRead q d r.counted r.xAddr = (q, .inl z)) : seqCommand q d = setSeq q d z := by
  change seqRead q d r.counted r.counted.xAddr = _ at hv
  simp only [seqCommand, h.runs, h.free, hp, hb, hf, hv]
  rfl

theorem SeqRun.Goes.command_y (hp : r.phase = 1) {w : BitVec 512} (hw : seqRead q d r.counted r.yAddr = (q, .inr w)) :
    seqCommand q d = seqTakeY q d r.counted w := by
  change seqRead q d r.counted r.counted.yAddr = _ at hw
  simp only [seqCommand, h.runs, h.free, hp, hw]
  rfl

theorem SeqRun.Goes.command_out (hp : r.phase = 2) :
    seqCommand q d = seqOut q d r.counted r.counted.nextI0 r.outAddr (natBytes r.v.toNat 64) := by
  simp only [seqCommand, h.runs, h.free, hp]
  rfl

theorem SeqRun.Goes.command_end (hp : r.phase = 3) : seqCommand q d = seqEndRun q d r.counted := by
  simp only [seqCommand, h.runs, h.free, hp]
  rfl

end

/-! ### Their arithmetic -/

/-- A drone's accumulator of the bank that the level-0 run uses. -/
def seqAcc (q t : State) (d : Nat) (r : SeqRun) : BitVec 512 := tget 0 (drone t d).accs (runBank q r)

/-- An accumulator is replaced. -/
def setAcc (q : State) (d k : Nat) (v : BitVec 512) : State := modDrone q d fun x => { x with accs := tset 0 x.accs k v }

theorem Rests.setAcc (q : State) (d k : Nat) (v : BitVec 512) : Rests d q (setAcc q d k v) := (Rests.refl d q).modDrone fun _ => rfl

@[simp] theorem drone_setAcc (q : State) (d k : Nat) (v : BitVec 512) :
    drone (setAcc q d k v) d = { drone q d with accs := tset 0 (drone q d).accs k v } := drone_modDrone_self _ _ _

/-- MAX of a lane with its accumulator. -/
def seqMax (a x : Nat) : Nat := (flushOnly RMode.rne .fp32 (fpPick true (fp a) (fp x))).1

/-- One column of MAX, or any other body's x operand. -/
theorem seqTakeX_spec {q : State} {d : Nat} {r : SeqRun} (hi : r.idx.length = 5) (hl : r.levels.length = 5) :
    let t := seqTakeX q d r
    Rests d q t ∧ (r.body ≠ 3 → (drone t d).seqr = some { r with phase := 1 } ∧ (drone t d).accs = (drone q d).accs) ∧
      (r.body = 3 → (∃ z, (drone t d).seqr = some z ∧ r.StepsOn z) ∧
        ∀ n, n < 16 → laneAt (seqAcc q t d r) n = seqMax (laneAt (seqAcc q q d r) n) (laneAt r.v n)) := by
  intro t
  by_cases hb : r.body = 3
  · have ht : t = setSeq (setAcc q d (runBank q r) (lineOf ((List.range 16).map fun n => seqMax (laneAt (seqAcc q q d r) n) (laneAt r.v n))))
        d r.nextI0 := by
      change seqTakeX q d r = _
      simp only [seqTakeX, if_pos hb, lanes_eq]
      rfl
    rw [ht]
    refine ⟨(Rests.setAcc _ _ _ _).setSeq _, fun h => absurd hb h, fun _ => ⟨⟨_, by simp, SeqRun.stepsOn_nextI0 hi hl⟩, ?_⟩⟩
    intro n hn
    rw [seqAcc, drone_setSeq, drone_setAcc, tget_tset_self, laneAt_lineOf _ hn]
    exact Nat.mod_eq_of_lt (flushOnly_fp32_lt _ _)
  · have ht : t = setSeq q d { r with phase := 1 } := if_neg hb
    rw [ht, drone_setSeq]
    exact ⟨(Rests.refl d q).setSeq _, fun _ => ⟨rfl, rfl⟩, fun h => absurd h hb⟩

/-- Lane `n` of an iteration's multiplication and addition, `w` and `a` the lanes of y and of the accumulator. -/
def SeqRun.mul (r : SeqRun) (w a : Nat → Nat) (n : Nat) : Nat × BitVec 6 :=
  fpMulAdd RMode.rne 0 .fp32 (if r.body = 1 then f32 r.a else fp (laneAt r.v n)) (if r.body = 1 then fp (laneAt r.v n) else fp (w n))
    (if r.body = 1 then fp (w n) else fp (a n))

theorem orAll_map_range (f : Nat → BitVec 6) (n : Nat) : orAll ((List.range n).map f) = (List.range n).foldl (fun g k => g ||| f k) 0 := by
  rw [orAll, List.foldl_map]

/-- One column of MAC or DOT, or SCALE-ADD's arithmetic; `m` are its lanes. -/
theorem seqTakeY_spec {q : State} {d : Nat} {r : SeqRun} (hi : r.idx.length = 5) (hl : r.levels.length = 5) (w : BitVec 512)
    {m : Nat → Nat × BitVec 6} (hm : ∀ n, n < 16 → r.mul (laneAt w) (laneAt (seqAcc q q d r)) n = m n) :
    let t := seqTakeY q d r w
    let x : SeqRun := { r with flags := r.flags ||| (List.range 16).foldl (fun g n => g ||| (m n).2) 0 }
    Rests d q t ∧
      (r.body = 1 → ∃ v, (drone t d).seqr = some { x with v := v, phase := 2 } ∧ (drone t d).accs = (drone q d).accs ∧
        ∀ n, n < 16 → laneAt v n = (m n).1) ∧
      (r.body ≠ 1 → (∃ z, (drone t d).seqr = some z ∧ x.StepsOn z) ∧ ∀ n, n < 16 → laneAt (seqAcc q t d r) n = (m n).1) := by
  intro t x
  let v := lineOf ((List.range 16).map fun n => (r.mul (laneAt w) (laneAt (seqAcc q q d r)) n).1)
  have hlane (n : Nat) (hn : n < 16) : laneAt v n = (m n).1 := by
    rw [laneAt_lineOf _ hn, ← hm n hn]
    exact Nat.mod_eq_of_lt (fpMulAdd_fp32_lt _ _ _ _ _)
  have hflags : orAll ((List.range 16).map fun n => (r.mul (laneAt w) (laneAt (seqAcc q q d r)) n).2) =
      (List.range 16).foldl (fun g n => g ||| (m n).2) 0 := by
    rw [List.map_congr_left fun n hn => by rw [hm n (List.mem_range.1 hn)]]
    exact orAll_map_range _ 16
  by_cases hb : r.body = 1
  · have ht : t = setSeq q d { x with v := v, phase := 2 } := by
      change seqTakeY q d r w = _
      simp only [x, ← hflags, v, seqTakeY, if_pos hb, lanes_eq, SeqRun.mul]
    rw [ht, drone_setSeq]
    exact ⟨(Rests.refl d q).setSeq _, fun _ => ⟨_, rfl, rfl, hlane⟩, fun h => absurd hb h⟩
  · have ht : t = setSeq (setAcc q d (runBank q r) v) d x.nextI0 := by
      change seqTakeY q d r w = _
      simp only [x, ← hflags, v, seqTakeY, if_neg hb, lanes_eq, SeqRun.mul]
      rfl
    rw [ht]
    refine ⟨(Rests.setAcc _ _ _ _).setSeq _, fun h => absurd h hb,
      fun _ => ⟨⟨_, seqr_setSeq _ _ _, SeqRun.stepsOn_nextI0 (r := x) hi hl⟩, fun n hn => ?_⟩⟩
    rw [seqAcc, drone_setSeq, drone_setAcc, tget_tset_self, hlane n hn]

theorem laneAt_accStart (body : Nat) {n : Nat} (hn : n < 16) : laneAt (accStart body) n = if body = 3 then 0xFF800000 else 0 := by
  unfold accStart
  split
  · exact laneAt_lineOf (fun _ => 0xFF800000) hn
  · exact laneAt_zero n

/-- The end of a level-0 run whose write its checks pass. -/
theorem seqEndRun_spec {q : State} {d : Nat} {r : SeqRun} (hi : r.idx.length = 5) (hl : r.levels.length = 5) :
    let t := seqEndRun q d r
    let total := pairSum ((List.range 16).map (laneAt (seqAcc q q d r)))
    let x : SeqRun := { r with flags := if r.body = 2 then r.flags ||| total.2 else r.flags }
    let a := r.runOut
    a.toNat / 2 ^ 56 = 0 → seqCheck q (1152 + d) true a (if r.body = 2 then 4 else 64) = none →
    (∀ b p, findPage q.pages a.toNat = some (b, p) → p.rep = 0) →
    Rests d q t ∧ (∃ z, (drone t d).seqr = some z ∧ z = { x with idx := z.idx, phase := z.phase } ∧ r.RunsOn z) ∧
      (∀ b p, findPage q.pages a.toNat = some (b, p) → (drone t d).posted = (drone q d).posted ++
        [{ owner := r.owner, pa := p.frame * 2 ^ 16 + (a.toNat - b), va := a.toNat
           bytes := if r.body = 2 then natBytes total.1 4 else natBytes (seqAcc q q d r).toNat 64, bad := false }]) ∧
      ∀ n, n < 16 → laneAt (seqAcc q t d r) n = if r.body = 3 then 0xFF800000 else 0 := by
  intro t total x a hcell hcheck hrep
  have hlen : (if r.body = 2 then natBytes total.1 4 else natBytes (seqAcc q q d r).toNat 64).length = if r.body = 2 then 4 else 64 := by
    split <;> exact natBytes_length _ _
  have ht : t = seqOut (setAcc q d (runBank q r) (accStart r.body)) d x x.nextRun a
      (if r.body = 2 then natBytes total.1 4 else natBytes (seqAcc q q d r).toNat 64) := by
    change seqEndRun q d r = _
    unfold seqEndRun
    simp only [x, total, ← laneCodes_eq_map]
    by_cases hb : r.body = 2
    · simp only [if_pos hb]
      rfl
    · simp only [if_neg hb]
      rfl
  rw [← hlen] at hcheck
  obtain ⟨hrest, hseq, haccs, hposted⟩ := seqOut_plain (q := q)
    (s := setAcc q d (runBank q r) (accStart r.body)) (r := x) (z := x.nextRun)
    (Rests.setAcc _ _ _ _) hcell hcheck hrep
  rw [ht]
  refine ⟨hrest, ⟨_, hseq, x.nextRun_eq, SeqRun.runsOn_nextRun (r := x) hi hl⟩, fun b p hf => ?_, ?_⟩
  · rw [hposted b p hf, drone_setAcc]
  · rw [seqAcc, haccs, drone_setAcc, tget_tset_self]
    exact fun n hn => laneAt_accStart r.body hn

end Sys2Proof.Machine

namespace Sys2Proof.Machine

/-! ### BMAC: its operands and its sums (R377) -/

section
variable {s : State} (hbad : s.badLines = []) (d : Nat) (r : BmacRun)

/-- The image in which BMAC reads its matrix: memory now, the translation of its issue. -/
def BmacRun.image (s : State) (r : BmacRun) : Image := { s.image with pages := r.pages }

/-- Element `j` of row `m` of the matrix. -/
def BmacRun.element (s : State) (d : Nat) (r : BmacRun) (m j : Nat) : Nat :=
  operandLane (r.image s) s d r.owner (r.mat + BitVec.ofNat 64 (1024 * m)) j

/-- Result `n` of bank `k`. -/
def BmacRun.result (s : State) (d : Nat) (r : BmacRun) (k n : Nat) : Nat :=
  (pairSum ((List.range 256).map fun j => (fpMul RMode.rne 0 .fp32 (f32 (nth 0 r.v j)) (fp (r.element s d (16 * n + k) j))).1)).1

/-- The lines of a bank's output. -/
def BmacRun.lines (r : BmacRun) : Nat := (r.rows + 255) / 256

/-- Word `n` of bank `k`'s output: a result, or zero to the end of its lines. -/
def BmacRun.word (s : State) (d : Nat) (r : BmacRun) (k n : Nat) : Nat := if n < r.rows / 16 then r.result s d k n else 0

include hbad in
theorem bmacRow_eq (m : Nat) : bmacRow s (droneHart d) r m = ((List.range 256).map (r.element s d m), none) := by
  have hh : droneOf (droneHart d) = d := Nat.add_sub_cancel_left _ _
  by_cases hcell : (r.mat + BitVec.ofNat 64 (1024 * m)).toNat / 2 ^ 56 = 2
  · have helement : r.element s d m = fun j => leNat ((List.range 4).map fun k =>
        mget (drone s d).cells (cellOff (r.mat + BitVec.ofNat 64 (1024 * m)) + (4 * j + k))) := funext fun j => by
      rw [BmacRun.element, operandLane, operandByte_cell hcell]
    simp only [bmacRow, (isCell_iff _).2 hcell, if_true, hh, mnum, mread_eq_map, Nat.add_assoc, helement]
  · have hview (k : Nat) : viewBad (r.image s) (engineView s (droneHart d) r.owner) ((r.mat + BitVec.ofNat 64 (1024 * m)).toNat + 64 * k) 64 = false :=
      viewBad_none hbad _ _ _
    have hnone : (List.range 16).find? (fun k => viewBad (r.image s) (engineView s (droneHart d) r.owner)
        ((r.mat + BitVec.ofNat 64 (1024 * m)).toNat + 64 * k) 64) = none :=
      List.find?_eq_none.2 fun k _ => by rw [hview]; decide
    have hc : isCell (r.mat + BitVec.ofNat 64 (1024 * m)) = false := Bool.eq_false_iff.2 fun h => hcell ((isCell_iff _).1 h)
    have helement : r.element s d m = fun j => leNat ((List.range 4).map fun k =>
        viewReader (r.image s) (engineView s (droneHart d) r.owner) ((r.mat + BitVec.ofNat 64 (1024 * m)).toNat + (4 * j + k))) :=
      funext fun j => by
        rw [BmacRun.element, operandLane, operandByte_global hcell]
        rfl
    rw [BmacRun.image] at hnone
    simp only [bmacRow, hc, hnone, helement, Nat.add_assoc]
    rfl

theorem bmacDot_eq (hv : r.v.length = 256) (x : Nat → Nat) : bmacDot r.v ((List.range 256).map x) =
    (pairSum ((List.range 256).map fun j => (fpMul RMode.rne 0 .fp32 (f32 (nth 0 r.v j)) (fp (x j))).1)).1 := by
  rw [bmacDot]
  conv_lhs => rw [← map_range_nth 0 hv]
  rw [zip_map_range, List.map_map]
  rfl

/-- Words as bytes, little end first. -/
def wordBytes (x : Nat → Nat) (n : Nat) : List Byte := (List.range n).flatMap fun i => natBytes (x i) 4

theorem wordBytes_eq_map (x : Nat → Nat) (n : Nat) : wordBytes x n = (List.range (n * 4)).map fun j => nth 0 (natBytes (x (j / 4)) 4) (j % 4) := by
  rw [wordBytes, ← flatMap_range_map n 4 fun i j => nth 0 (natBytes (x i) 4) j]
  simp only [map_range_nth (0 : Byte) (natBytes_length _ _)]

/-- A line of words. -/
theorem drop_take_wordBytes (x : Nat → Nat) {n i : Nat} (h : 64 * i + 64 ≤ n * 4) :
    ((wordBytes x n).drop (64 * i)).take 64 = wordBytes (fun k => x (16 * i + k)) 16 := by
  rw [wordBytes_eq_map, drop_take_map_range _ h, wordBytes_eq_map]
  refine List.map_congr_left fun k _ => ?_
  rw [show (64 * i + k) / 4 = 16 * i + k / 4 by omega, show (64 * i + k) % 4 = k % 4 by omega]

theorem wordBytes_zero (n : Nat) : wordBytes (fun _ => 0) n = List.replicate (4 * n) 0 := by
  refine List.eq_replicate_iff.2 ⟨by simp [wordBytes_eq_map, Nat.mul_comm], fun b hb => ?_⟩
  obtain ⟨i, -, hi⟩ := List.mem_flatMap.1 hb
  simpa [natBytes] using hi

theorem wordBytes_add (x : Nat → Nat) (a b : Nat) : wordBytes x (a + b) = wordBytes x a ++ wordBytes (fun k => x (a + k)) b := by
  rw [wordBytes, List.range_add, List.flatMap_append, List.flatMap_map]
  rfl

theorem wordBytes_congr {x y : Nat → Nat} {n : Nat} (h : ∀ k, k < n → x k = y k) : wordBytes x n = wordBytes y n := by
  rw [wordBytes, wordBytes, List.flatMap_congr fun k hk => by rw [h k (List.mem_range.1 hk)]]

include hbad in
theorem bmacBank_eq (hv : r.v.length = 256) (hrows : r.rows % 16 = 0) (k : Nat) :
    bmacBank s (droneHart d) r k = (wordBytes (r.word s d k) (16 * r.lines), none) := by
  have hlines : r.rows / 16 + (16 * r.lines - r.rows / 16) = 16 * r.lines := by
    unfold BmacRun.lines
    omega
  have hspan : 64 * r.lines - r.rows / 4 = 4 * (16 * r.lines - r.rows / 16) := by omega
  have hhead : wordBytes (r.word s d k) (r.rows / 16) = wordBytes (r.result s d k) (r.rows / 16) := wordBytes_congr fun n hn => if_pos hn
  have htail : wordBytes (fun n => r.word s d k (r.rows / 16 + n)) (16 * r.lines - r.rows / 16) = List.replicate (64 * r.lines - r.rows / 4) 0 := by
    rw [hspan, ← wordBytes_zero]
    exact wordBytes_congr fun n _ => if_neg (by omega)
  have hnone : ((List.range (r.rows / 16)).map fun i => ((List.range 256).map (r.element s d (16 * i + k)), (none : Option Nat))).findSome? (·.2) = none := by
    simp [List.findSome?_eq_none_iff]
  rw [← hlines, wordBytes_add, hhead, htail, bmacBank]
  simp only [bmacRow_eq hbad, hnone, List.flatMap_map, bmacDot_eq r hv]
  rfl

end

/-! ### Its posted lines -/

/-- What a posted write shows: where, what, and whether its line becomes bad. -/
def Posted.sight (p : Posted) : Nat × List Byte × Bool := (p.va, p.bytes, p.bad)

/-- Writes posted one after another, all else of memory, of the translation and of the drone's cell store as before. -/
def Posts (d : Nat) (s t : State) (l : List (Nat × List Byte × Bool)) : Prop :=
  t.mem = s.mem ∧ t.pages = s.pages ∧ (drone t d).cells = (drone s d).cells ∧ (drone t d).posted.map Posted.sight = (drone s d).posted.map Posted.sight ++ l

theorem Posts.refl (d : Nat) (s : State) : Posts d s s [] := ⟨rfl, rfl, rfl, (List.append_nil _).symm⟩

theorem Posts.trans {d : Nat} {s t u : State} {l k : List (Nat × List Byte × Bool)} (h : Posts d s t l) (g : Posts d t u k) : Posts d s u (l ++ k) := by
  obtain ⟨hm, hp, hc, hl⟩ := h
  obtain ⟨gm, gp, gc, gl⟩ := g
  exact ⟨gm.trans hm, gp.trans hp, gc.trans hc, by rw [gl, hl, List.append_assoc]⟩

theorem Posts.foldl {α : Type} {d : Nat} {f : State → α → State} {g : α → List (Nat × List Byte × Bool)} {l : List α} {s : State}
    (h : ∀ x ∈ l, ∀ t : State, t.pages = s.pages → Posts d t (f t x) (g x)) : Posts d s (l.foldl f s) (l.flatMap g) := by
  induction l generalizing s with
  | nil => exact Posts.refl d s
  | cons x l ih =>
    have hx := h x (List.mem_cons_self ..) s rfl
    exact hx.trans (ih fun y hy t ht => h y (List.mem_cons_of_mem x hy) t (ht.trans hx.2.1))

theorem posts_post {d : Nat} {s : State} {o : Option (Word × Nat)} {pages : Tab Page} {a : Word} (bytes : List Byte) (bad : Bool)
    (hcell : a.toNat / 2 ^ 56 = 0) (hfound : ∃ b p, findPage pages a.toNat = some (b, p))
    (hrep : ∀ b p, findPage s.pages a.toNat = some (b, p) → p.rep ≠ 2) :
    Posts d s (post s d o pages a bytes bad) [(a.toNat, bytes, bad)] := by
  obtain ⟨b, p, hf⟩ := hfound
  rw [post_plain hcell hrep, hf, Option.elim_some]
  refine ⟨rfl, rfl, ?_, ?_⟩ <;> rw [drone_modDrone_self]
  rw [List.map_append]
  rfl

/-- Where line `i` of bank `k` stands. -/
def BmacRun.place (r : BmacRun) (k i : Nat) : Word := r.out + BitVec.ofNat 64 (64 * (k * r.lines + i))

/-- Its bytes. -/
def BmacRun.line (s : State) (d : Nat) (r : BmacRun) (k i : Nat) : List Byte := wordBytes (fun n => r.word s d k (16 * i + n)) 16

/-- What the lines of the output ask: global form, a page under the translation of the issue, not elided now. -/
def BmacRun.Writes (s : State) (r : BmacRun) : Prop :=
  ∀ k i, k < 16 → i < r.lines → (r.place k i).toNat / 2 ^ 56 = 0 ∧ (∃ b p, findPage r.pages (r.place k i).toNat = some (b, p)) ∧
    ∀ b p, findPage s.pages (r.place k i).toNat = some (b, p) → p.rep ≠ 2

theorem posts_postBank {d : Nat} {r : BmacRun} {x : Nat → Nat} {k : Nat} (hk : k < 16) {s : State} (hw : r.Writes s) :
    Posts d s (postBank s d r k (wordBytes x (16 * r.lines), none))
      ((List.range r.lines).map fun i => ((r.place k i).toNat, wordBytes (fun n => x (16 * i + n)) 16, false)) := by
  have hlen : (wordBytes x (16 * r.lines)).length = 64 * r.lines := by
    rw [wordBytes_eq_map, List.length_map, List.length_range]
    omega
  have hplace (i : Nat) : r.out + BitVec.ofNat 64 (k * (64 * r.lines)) + BitVec.ofNat 64 (64 * i) = r.place k i := by
    rw [BmacRun.place, BitVec.add_assoc, ← BitVec.ofNat_add]
    congr 2
    ring
  simp only [postBank, hlen, hplace, Nat.mul_div_cancel_left r.lines (show 0 < 64 by decide)]
  rw [← List.flatMap_singleton' ((List.range r.lines).map _), List.flatMap_map]
  refine Posts.foldl fun i hi t ht => ?_
  have hlt := List.mem_range.1 hi
  obtain ⟨hcell, hfound, hrep⟩ := hw k i hk hlt
  rw [drop_take_wordBytes x (by omega)]
  exact posts_post _ _ hcell hfound (by rw [ht]; exact hrep)

/-- Every bank posts its lines, in order. -/
theorem posts_banks {s : State} {d : Nat} {r : BmacRun} (hbad : s.badLines = []) (hv : r.v.length = 256) (hrows : r.rows % 16 = 0)
    (hw : r.Writes s) :
    Posts d s ((((List.range 16).map (bmacBank s (droneHart d) r)).zip (List.range 16)).foldl (fun s b => postBank s d r b.2 b.1) s)
      ((List.range 16).flatMap fun k => (List.range r.lines).map fun i => ((r.place k i).toNat, r.line s d k i, false)) := by
  have hzip : ((List.range 16).map (bmacBank s (droneHart d) r)).zip (List.range 16) =
      (List.range 16).map fun k => ((wordBytes (r.word s d k) (16 * r.lines), none), k) := by
    rw [show bmacBank s (droneHart d) r = _ from funext (bmacBank_eq hbad d r hv hrows)]
    exact zip_map_range 16 _ id
  rw [hzip, List.foldl_map]
  exact Posts.foldl fun k hk t ht => posts_postBank (List.mem_range.1 hk) (by rw [BmacRun.Writes, ht]; exact hw)

/-- What BMAC_COMPLETE leaves where no line is bad. -/
theorem execBmacComplete_spec {s : State} {d : Nat} {r : BmacRun} (hr : (drone s d).bmac = some r) (hbad : s.badLines = [])
    (hv : r.v.length = 256) (hrows : r.rows % 16 = 0) (hw : r.Writes s) :
    ∃ t, exec (.bmacComplete d) s = .next t ∧ t.mem = s.mem ∧ (drone t d).bmac = none ∧ (drone t d).cells = (drone s d).cells ∧
      (drone t d).posted.map Posted.sight = (drone s d).posted.map Posted.sight ++
        (List.range 16).flatMap fun k => (List.range r.lines).map fun i => ((r.place k i).toNat, r.line s d k i, false) := by
  obtain ⟨hmem, -, hcells, hposted⟩ := posts_banks (d := d) hbad hv hrows hw
  rw [exec_bmacComplete]
  simp only [execBmacComplete, hr]
  split
  · refine ⟨_, rfl, hmem, ?_⟩
    rw [drone_modHart, drone_modDrone_self]
    exact ⟨rfl, hcells, hposted⟩
  · refine ⟨_, rfl, hmem, ?_⟩
    rw [drone_modDrone_self]
    exact ⟨rfl, hcells, hposted⟩

end Sys2Proof.Machine

namespace Sys2Proof.Machine

/-- Settles O51, each phase by what its command leaves, BMAC by its banks' posted lines. -/
theorem sequencerAndBmac : Obligations.SequencerAndBmac := by
  unfold Obligations.SequencerAndBmac
  refine ⟨?_, ?_⟩
  · intro s d r q h ht hd hdev hr hfin hsusp hcause hms hi hl hbad none5 i lv past place xa ya oa o0 byte lane laneOf val acc counted
      rounded runsOn goesOn quiet orAll posts plain
    have hgo : r.Goes q d := ⟨hr, hfin, hsusp, hcause, hms, hi, hl⟩
    have hbeyond (pad : Nat) : r.beyond pad = true ↔ ∃ n, past n ∧ (lv n).pad = pad := SeqRun.beyond_iff hi hl pad
    have hx : r.xAddr = xa := SeqRun.xAddr_eq hi hl
    have hy : r.yAddr = ya := SeqRun.yAddr_eq hi hl
    have ho : r.outAddr = oa := SeqRun.outAddr_eq hi hl
    have ho0 : r.runOut = o0 := SeqRun.runOut_eq hi hl
    have hacc (t : State) : acc t = seqAcc q t d r := by rw [seqAcc, runBank, ho0]
    refine ⟨seqCommand q d, step_seqStep ht hd hdev, fun hp hpad => ?_, fun hp hpad => ?_, fun hp hcheck => ?_, fun hp hplain => ?_,
      fun hp => ?_⟩
    · rw [hgo.command_pad3 hp ((hbeyond 3).2 hpad)]
      exact ⟨⟨_, seqr_setSeq _ _ _, SeqRun.stepsOn_nextI0 hi hl⟩, (Rests.refl d q).setSeq _, accs_setSeq _ _ _⟩
    · have hb3 : r.beyond 3 = false := Bool.eq_false_iff.2 fun hb => by
        obtain ⟨n, hn, h3⟩ := (hbeyond 3).1 hb
        exact hpad n hn h3
      intro filled takes
      have hb1 (hf : ¬filled) : r.beyond 1 = false := Bool.eq_false_iff.2 fun hb => hf ((hbeyond 1).1 hb)
      have htakes (x : Nat → Nat) (z : SeqRun) (v : BitVec 512) (cols : Option Nat) (hz : z = { r with v := v, cols := cols })
          (hv : ∀ n, n < 16 → laneAt v n = x n) (hc : seqCommand q d = seqTakeX q d z) : takes x cols := by
        subst hz
        obtain ⟨hrest, hother, hmax⟩ := seqTakeX_spec (q := q) (d := d) (r := { r with v := v, cols := cols }) hi hl
        rw [← hc] at hrest hother hmax
        refine ⟨hrest, v, hv, hother, fun hb => ⟨(hmax hb).1, fun n hn => ?_⟩⟩
        rw [hacc, hacc, ← hv n hn]
        exact (hmax hb).2 n hn
      refine ⟨fun hf => ?_, fun hf hcheck => ?_, fun c hf hcheck => ?_⟩
      · exact htakes _ _ 0 _ rfl (fun n _ => laneAt_zero n) (hgo.command_pad1 hp hb3 ((hbeyond 1).2 hf))
      · obtain ⟨v, hread, hv⟩ := seqRead_ready (r := r.counted) hbad hcheck
        rw [← hx] at hread
        exact htakes _ _ v _ rfl hv (hgo.command_x hp hb3 (hb1 hf) hread)
      · have hread := seqRead_stop (r := r.counted) hcheck
        rw [← hx] at hread
        rw [hgo.command_xStop hp hb3 (hb1 hf) hread]
        exact seqr_setSeq _ _ _
    · intro mul x
      obtain ⟨w, hread, hw⟩ := seqRead_ready (r := r.counted) hbad hcheck
      rw [← hy] at hread
      rw [hgo.command_y hp hread]
      have hmul (n : Nat) (hn : n < 16) : r.counted.mul (laneAt w) (laneAt (seqAcc q q d r.counted)) n = mul n := by
        rw [SeqRun.mul, hw n hn]
        change _ = fpMulAdd _ _ _ _ _ (if _ then _ else Fmt.fp32.value (laneAt (acc q) n))
        rw [hacc]
        rfl
      obtain ⟨hrest, hscale, hadd⟩ := seqTakeY_spec (r := r.counted) hi hl w hmul
      refine ⟨hrest, hscale, fun hb => ⟨(hadd hb).1, fun n hn => ?_⟩⟩
      rw [hacc]
      exact (hadd hb).2 n hn
    · obtain ⟨hcell, hcheck, hrep⟩ := hplain
      rw [hgo.command_out hp, ho]
      obtain ⟨hrest, hseq, haccs, hposted⟩ := seqOut_plain (r := r.counted) (z := r.counted.nextI0) (bytes := natBytes r.v.toNat 64)
        (Rests.refl d q) hcell (by rw [natBytes_length]; exact hcheck) hrep
      exact ⟨⟨_, hseq, SeqRun.stepsOn_nextI0 (r := r.counted) hi hl⟩, hposted, hrest⟩
    · intro total x hplain
      obtain ⟨hcell, hcheck, hrep⟩ := hplain
      rw [hgo.command_end hp]
      have hend := seqEndRun_spec (q := q) (d := d) (r := r.counted) hi hl
      rw [show r.counted.runOut = o0 from ho0, show seqAcc q q d r.counted = acc q from (hacc q).symm] at hend
      obtain ⟨hrest, hseq, hposted, hstart⟩ := hend hcell hcheck hrep
      refine ⟨hrest, hseq, hposted, ?_⟩
      rw [hacc]
      exact hstart
  · intro s d r hr hbad hv hrows h lines place byte element y line hw
    exact execBmacComplete_spec hr hbad hv hrows hw

end Sys2Proof.Machine

/-! ## Digest records

The fields of a record's body, the order of exact values, and the records of the four kinds as they are built from a block and as they
follow one committed write (O47).
-/
namespace Sys2Proof.Machine

/-! ### Fields of a body -/

theorem getLsbD_onesAt {w : Nat} (lo n : Nat) {j : Nat} (hj : j < w) : (onesAt w lo n).getLsbD j = (decide (lo ≤ j) && decide (j < lo + n)) := by
  rw [onesAt, BitVec.getLsbD_ofNat, Nat.testBit_shiftLeft, Nat.testBit_two_pow_sub_one]
  simp only [decide_eq_true hj, Bool.true_and]
  by_cases h : lo ≤ j
  · simp only [h, decide_true, Bool.true_and]
    exact decide_eq_decide.2 (by omega)
  · simp [h]

/-- Bit `j` of a body after a field is put. -/
theorem getLsbD_putBits (b : BitVec 1984) (lo n v : Nat) {j : Nat} (hj : j < 1984) :
    (putBits b lo n v).getLsbD j = if lo ≤ j ∧ j < lo + n then v.testBit (j - lo) else b.getLsbD j := by
  rw [putBits, mergeBits, BitVec.getLsbD_or, BitVec.getLsbD_and, BitVec.getLsbD_and, BitVec.getLsbD_not, getLsbD_onesAt lo n hj,
    BitVec.getLsbD_ofNat, Nat.testBit_shiftLeft, Nat.testBit_mod_two_pow]
  by_cases hlo : lo ≤ j
  · by_cases hhi : j < lo + n
    · have hn : j - lo < n := by omega
      simp [hj, hlo, hhi, hn]
    · simp [hj, hlo, hhi]
  · simp [hj, hlo]

theorem getLsbD_putBits_in (b : BitVec 1984) {lo n j : Nat} (v : Nat) (hlo : lo ≤ j) (hhi : j < lo + n) (hj : j < 1984) :
    (putBits b lo n v).getLsbD j = v.testBit (j - lo) := by rw [getLsbD_putBits b lo n v hj, if_pos ⟨hlo, hhi⟩]

theorem getLsbD_putBits_out (b : BitVec 1984) {lo n j : Nat} (v : Nat) (h : j < lo ∨ lo + n ≤ j) (hj : j < 1984) :
    (putBits b lo n v).getLsbD j = b.getLsbD j := by rw [getLsbD_putBits b lo n v hj, if_neg (by omega)]

theorem testBit_bitsOf {w : Nat} (b : BitVec w) (lo n i : Nat) : (bitsOf b lo n).testBit i = (decide (i < n) && b.getLsbD (lo + i)) := by
  rw [bitsOf, Nat.testBit_mod_two_pow, Nat.testBit_shiftRight]
  rfl

theorem bitsOf_congr {w : Nat} {b c : BitVec w} {lo n : Nat} (h : ∀ j, lo ≤ j → j < lo + n → b.getLsbD j = c.getLsbD j) :
    bitsOf b lo n = bitsOf c lo n := by
  refine Nat.eq_of_testBit_eq fun i => ?_
  rw [testBit_bitsOf, testBit_bitsOf]
  by_cases hi : i < n
  · rw [h (lo + i) (by omega) (by omega)]
  · simp [hi]

theorem bitsOf_putBits_self (b : BitVec 1984) {lo n : Nat} (v : Nat) (h : lo + n ≤ 1984) : bitsOf (putBits b lo n v) lo n = v % 2 ^ n := by
  refine Nat.eq_of_testBit_eq fun i => ?_
  rw [testBit_bitsOf, Nat.testBit_mod_two_pow]
  by_cases hi : i < n
  · rw [getLsbD_putBits_in b v (by omega) (by omega) (by omega), Nat.add_sub_cancel_left]
  · simp [hi]

theorem bitsOf_putBits_out (b : BitVec 1984) {lo n lo' n' : Nat} (v : Nat) (h : lo' + n' ≤ lo ∨ lo + n ≤ lo') (hw : lo' + n' ≤ 1984) :
    bitsOf (putBits b lo n v) lo' n' = bitsOf b lo' n' :=
  bitsOf_congr fun j h1 h2 => getLsbD_putBits_out b v (by omega) (by omega)

theorem bitsOf_zero {w : Nat} (lo n : Nat) : bitsOf (0 : BitVec w) lo n = 0 := by simp [bitsOf]

/-- A field reads as zero where its bits do. -/
theorem bitsOf_eq_zero {w : Nat} {b : BitVec w} {lo n : Nat} (h : ∀ j, lo ≤ j → j < lo + n → b.getLsbD j = false) : bitsOf b lo n = 0 := by
  refine Nat.eq_of_testBit_eq fun i => ?_
  rw [testBit_bitsOf, Nat.zero_testBit]
  by_cases hi : i < n
  · rw [h (lo + i) (by omega) (by omega), Bool.and_false]
  · simp [hi]

theorem bitsOf_ne_zero_iff {w : Nat} (b : BitVec w) (lo n : Nat) : (bitsOf b lo n != 0) = (List.range n).any fun i => b.getLsbD (lo + i) := by
  rw [Bool.eq_iff_iff, bne_iff_ne, List.any_eq_true]
  constructor
  · intro h
    obtain ⟨i, hi⟩ := Nat.exists_testBit_of_ne_zero h
    rw [testBit_bitsOf, Bool.and_eq_true, decide_eq_true_iff] at hi
    exact ⟨i, List.mem_range.2 hi.1, hi.2⟩
  · rintro ⟨i, hi, hb⟩ h0
    have := testBit_bitsOf b lo n i
    rw [h0, Nat.zero_testBit, hb, decide_eq_true (List.mem_range.1 hi)] at this
    exact absurd this (by decide)

/-! ### The order of exact values -/

/-- An exact value as an extended real number; a NaN is none, and reads as 0 here. -/
noncomputable def XR.toEReal : XR → EReal
  | .nan => 0
  | .inf true => ⊥
  | .inf false => ⊤
  | .fin neg m e => (((if neg then -(m : ℝ) else m) * (2 : ℝ) ^ e : ℝ) : EReal)

theorem numAt_eq (neg : Bool) (m : Nat) {e e0 : Int} (h : e0 ≤ e) :
    ((numAt neg m e e0 : Int) : ℝ) * (2 : ℝ) ^ e0 = (if neg then -(m : ℝ) else m) * (2 : ℝ) ^ e := by
  have hpow : (2 : ℝ) ^ e = (2 : ℝ) ^ (e - e0).toNat * (2 : ℝ) ^ e0 := by
    rw [← zpow_natCast, ← zpow_add₀ (by norm_num), Int.toNat_of_nonneg (by omega), Int.sub_add_cancel]
  rw [hpow]
  cases neg <;> simp [numAt, Nat.shiftLeft_eq] <;> ring

theorem XR.lt_iff {a b : XR} (ha : a.isNaN = false) (hb : b.isNaN = false) : a.lt b = true ↔ a.toEReal < b.toEReal := by
  cases a with
  | nan => nomatch ha
  | inf s =>
    cases b with
    | nan => nomatch hb
    | inf t => cases s <;> cases t <;> simp [XR.lt, XR.toEReal]
    | fin t n f => cases s <;> simp [XR.lt, XR.toEReal, EReal.bot_lt_coe]
  | fin s m e =>
    cases b with
    | nan => nomatch hb
    | inf t => cases t <;> simp [XR.lt, XR.toEReal, EReal.coe_lt_top]
    | fin t n f =>
      rw [XR.lt, XR.toEReal, XR.toEReal, EReal.coe_lt_coe_iff, ← numAt_eq s m (min_le_left e f), ← numAt_eq t n (min_le_right e f),
        mul_lt_mul_iff_left₀ (zpow_pos (by norm_num) _), Int.cast_lt, decide_eq_true_iff]

theorem XR.lt_eq_false_iff {a b : XR} (ha : a.isNaN = false) (hb : b.isNaN = false) : a.lt b = false ↔ b.toEReal ≤ a.toEReal := by
  rw [← Bool.not_eq_true, XR.lt_iff ha hb, not_lt]

end Sys2Proof.Machine

namespace Sys2Proof.Machine

/-! ### BOUNDS (R340) -/

theorem toEReal_minX {a b : XR} (ha : a.isNaN = false) (hb : b.isNaN = false) : (minX a b).toEReal = min a.toEReal b.toEReal := by
  unfold minX
  split
  · next h => rw [min_eq_right ((XR.lt_iff hb ha).1 h).le]
  · next h => rw [min_eq_left ((XR.lt_eq_false_iff hb ha).1 (Bool.eq_false_iff.2 h))]

theorem toEReal_maxX {a b : XR} (ha : a.isNaN = false) (hb : b.isNaN = false) : (maxX a b).toEReal = max a.toEReal b.toEReal := by
  unfold maxX
  split
  · next h => rw [max_eq_right ((XR.lt_iff ha hb).1 h).le]
  · next h => rw [max_eq_left ((XR.lt_eq_false_iff ha hb).1 (Bool.eq_false_iff.2 h))]

theorem minX_cases (a b : XR) : minX a b = a ∨ minX a b = b := by
  unfold minX
  split
  · exact .inr rfl
  · exact .inl rfl

theorem maxX_cases (a b : XR) : maxX a b = a ∨ maxX a b = b := by
  unfold maxX
  split
  · exact .inr rfl
  · exact .inl rfl

theorem isNaN_of_cases {a b c : XR} (h : c = a ∨ c = b) (ha : a.isNaN = false) (hb : b.isNaN = false) : c.isNaN = false := by
  obtain rfl | rfl := h
  · exact ha
  · exact hb

/-- The least of a start value and of the values of a list without a NaN. -/
theorem foldl_minX {l : List XR} (hl : ∀ x ∈ l, x.isNaN = false) {a : XR} (ha : a.isNaN = false) :
    (l.foldl minX a = a ∨ l.foldl minX a ∈ l) ∧ (l.foldl minX a).isNaN = false ∧ (l.foldl minX a).toEReal ≤ a.toEReal ∧
      ∀ x ∈ l, (l.foldl minX a).toEReal ≤ x.toEReal := by
  induction l generalizing a with
  | nil => exact ⟨.inl rfl, ha, le_rfl, fun x hx => nomatch hx⟩
  | cons y l ih =>
    have hy := hl y (List.mem_cons_self ..)
    have hmin := toEReal_minX ha hy
    obtain ⟨hmem, hnan, hle, hall⟩ := ih (fun x hx => hl x (List.mem_cons_of_mem y hx)) (isNaN_of_cases (minX_cases a y) ha hy)
    rw [List.foldl_cons]
    refine ⟨?_, hnan, hle.trans (hmin.le.trans (min_le_left _ _)), fun x hx => ?_⟩
    · obtain h | h := hmem
      · rw [h]
        exact (minX_cases a y).imp id fun h => by rw [h]; exact List.mem_cons_self ..
      · exact .inr (List.mem_cons_of_mem y h)
    · obtain rfl | hx := List.mem_cons.1 hx
      · exact hle.trans (hmin.le.trans (min_le_right _ _))
      · exact hall x hx

theorem foldl_maxX {l : List XR} (hl : ∀ x ∈ l, x.isNaN = false) {a : XR} (ha : a.isNaN = false) :
    (l.foldl maxX a = a ∨ l.foldl maxX a ∈ l) ∧ (l.foldl maxX a).isNaN = false ∧ a.toEReal ≤ (l.foldl maxX a).toEReal ∧
      ∀ x ∈ l, x.toEReal ≤ (l.foldl maxX a).toEReal := by
  induction l generalizing a with
  | nil => exact ⟨.inl rfl, ha, le_rfl, fun x hx => nomatch hx⟩
  | cons y l ih =>
    have hy := hl y (List.mem_cons_self ..)
    have hmax := toEReal_maxX ha hy
    obtain ⟨hmem, hnan, hle, hall⟩ := ih (fun x hx => hl x (List.mem_cons_of_mem y hx)) (isNaN_of_cases (maxX_cases a y) ha hy)
    rw [List.foldl_cons]
    refine ⟨?_, hnan, (le_max_left _ _).trans (hmax.ge.trans hle), fun x hx => ?_⟩
    · obtain h | h := hmem
      · rw [h]
        exact (maxX_cases a y).imp id fun h => by rw [h]; exact List.mem_cons_self ..
      · exact .inr (List.mem_cons_of_mem y h)
    · obtain rfl | hx := List.mem_cons.1 hx
      · exact (le_max_right _ _).trans (hmax.ge.trans hle)
      · exact hall x hx

theorem eq_inf_of_top_le {x : XR} (hx : x.isNaN = false) (h : ⊤ ≤ x.toEReal) : x = .inf false := by
  cases x with
  | nan => nomatch hx
  | inf s => cases s with
    | true => simp [XR.toEReal] at h
    | false => rfl
  | fin s m e => simp [XR.toEReal] at h

theorem eq_inf_of_le_bot {x : XR} (hx : x.isNaN = false) (h : x.toEReal ≤ ⊥) : x = .inf true := by
  cases x with
  | nan => nomatch hx
  | inf s => cases s with
    | true => rfl
    | false => simp [XR.toEReal] at h
  | fin s m e => simp [XR.toEReal] at h

/-- The bounds of a group's values: everything under a NaN, nothing where there is nothing else. -/
def groupBounds (l : List XR) : XR × XR :=
  if l.any XR.isNaN && !l.all XR.isNaN then (.inf true, .inf false)
  else if l.all XR.isNaN then (.inf false, .inf true)
  else (l.foldl minX (.inf false), l.foldl maxX (.inf true))

/-- The bounds of values without a NaN are the least and the greatest of them. -/
theorem groupBounds_numbers {l : List XR} (hne : l ≠ []) (hl : ∀ x ∈ l, x.isNaN = false) :
    (groupBounds l).1 ∈ l ∧ (groupBounds l).2 ∈ l ∧ ∀ x ∈ l, x.lt (groupBounds l).1 = false ∧ (groupBounds l).2.lt x = false := by
  obtain ⟨y, hy⟩ := List.exists_mem_of_ne_nil l hne
  have hany : l.any XR.isNaN = false := List.any_eq_false.2 fun x hx => by rw [hl x hx]; decide
  have hall : l.all XR.isNaN = false := List.all_eq_false.2 ⟨y, hy, by rw [hl y hy]; decide⟩
  have hbounds : groupBounds l = (l.foldl minX (.inf false), l.foldl maxX (.inf true)) := by simp [groupBounds, hany, hall]
  obtain ⟨hlo, hlonan, -, hmin⟩ := foldl_minX hl (a := .inf false) rfl
  obtain ⟨hhi, hhinan, -, hmax⟩ := foldl_maxX hl (a := .inf true) rfl
  rw [hbounds]
  refine ⟨?_, ?_, fun x hx => ⟨(XR.lt_eq_false_iff (hl x hx) hlonan).2 (hmin x hx), (XR.lt_eq_false_iff hhinan (hl x hx)).2 (hmax x hx)⟩⟩
  · obtain h | h := hlo
    · have hyinf := hmin y hy
      rw [h] at hyinf ⊢
      rwa [← eq_inf_of_top_le (hl y hy) hyinf]
    · exact h
  · obtain h | h := hhi
    · have hyinf := hmax y hy
      rw [h] at hyinf ⊢
      rwa [← eq_inf_of_le_bot (hl y hy) hyinf]
    · exact h

theorem groupBounds_mixed {l : List XR} (hnan : ∃ x ∈ l, x.isNaN = true) (hnum : ∃ x ∈ l, x.isNaN = false) :
    groupBounds l = (.inf true, .inf false) := by
  obtain ⟨y, hy, hy0⟩ := hnum
  have hany : l.any XR.isNaN = true := List.any_eq_true.2 hnan
  have hall : l.all XR.isNaN = false := List.all_eq_false.2 ⟨y, hy, by rw [hy0]; decide⟩
  simp [groupBounds, hany, hall]

theorem groupBounds_nan {l : List XR} (h : ∀ x ∈ l, x.isNaN = true) : groupBounds l = (.inf false, .inf true) := by
  have hall : l.all XR.isNaN = true := List.all_eq_true.2 h
  simp [groupBounds, hall]

/-! ### Codes and fields of bounds -/

theorem Region.bw_eq (r : Region) : r.bw = if r.efmt ≤ 4 then 32 else 64 := by simp [Region.bw, Region.floats]

theorem Region.boundCode_float {r : Region} (h : r.efmt ≤ 4) (x : XR) : r.boundCode x = if x.isZero then 0 else (rne32 x).1.toNat := by
  simp only [Region.boundCode, Region.floats, decide_eq_true h, if_true]
  cases x with
  | nan => rfl
  | inf s => rfl
  | fin s m e => cases m <;> rfl

theorem intCode_eq_ofInt (i : Int) : intCode 64 i = (BitVec.ofInt 64 i).toNat := by
  rw [intCode, BitVec.toNat_ofInt]

theorem numAt_ofInt (i : Int) : numAt (decide (i < 0)) i.natAbs 0 0 = i := by
  simp only [numAt, Int.sub_self, Int.toNat_zero, Nat.shiftLeft_zero, decide_eq_true_iff]
  split <;> omega

theorem Region.boundCode_int {r : Region} (h : ¬r.efmt ≤ 4) (i : Int) : r.boundCode (XR.ofInt i) = (BitVec.ofInt 64 i).toNat := by
  simp only [Region.boundCode, Region.floats, decide_eq_false h, XR.ofInt, numAt_ofInt, intCode_eq_ofInt]
  rfl

theorem Region.boundCode_lt (r : Region) (x : XR) : r.boundCode x < 2 ^ r.bw := by
  rw [Region.bw_eq]
  by_cases h : r.efmt ≤ 4
  · rw [Region.boundCode_float h, if_pos h]
    split
    · decide
    · exact (rne32 x).1.isLt
  · rw [if_neg h]
    simp only [Region.boundCode, Region.floats, decide_eq_false h]
    cases x with
    | nan => exact Nat.two_pow_pos 64
    | inf s => cases s <;> exact intCode_lt 64 _
    | fin s m e => exact intCode_lt 64 _

/-- A group's bounds, and what stays. -/
theorem Region.setBounds_spec (r : Region) (x : Rec) (g : Nat) (lo hi : XR) (hw : 2 * r.bw * g + 2 * r.bw ≤ 1984) :
    r.setBounds x g lo hi = { x with body := (r.setBounds x g lo hi).body } ∧
      bitsOf (r.setBounds x g lo hi).body (2 * r.bw * g) r.bw = r.boundCode lo ∧
      bitsOf (r.setBounds x g lo hi).body (2 * r.bw * g + r.bw) r.bw = r.boundCode hi ∧
      ∀ j, j < 1984 → j < 2 * r.bw * g ∨ 2 * r.bw * g + 2 * r.bw ≤ j → (r.setBounds x g lo hi).body.getLsbD j = x.body.getLsbD j := by
  refine ⟨rfl, ?_, ?_, fun j hj h => ?_⟩
  · rw [Region.setBounds, Region.loPos, bitsOf_putBits_out _ _ (by omega) (by omega), bitsOf_putBits_self _ _ (by omega),
      Nat.mod_eq_of_lt (r.boundCode_lt lo)]
  · rw [Region.setBounds, Region.loPos, bitsOf_putBits_self _ _ (by omega), Nat.mod_eq_of_lt (r.boundCode_lt hi)]
  · rw [Region.setBounds, Region.loPos, getLsbD_putBits_out _ _ (by omega) hj, getLsbD_putBits_out _ _ (by omega) hj]

/-- The bounds of groups 0 to `m` - 1, put one after another. -/
theorem Region.setBounds_foldl (r : Region) (L H : Nat → XR) (x : Rec) {m : Nat} (hw : 2 * r.bw * m ≤ 1984) :
    let y := (List.range m).foldl (fun x g => r.setBounds x g (L g) (H g)) x
    y = { x with body := y.body } ∧
      (∀ g, g < m → bitsOf y.body (2 * r.bw * g) r.bw = r.boundCode (L g) ∧ bitsOf y.body (2 * r.bw * g + r.bw) r.bw = r.boundCode (H g)) ∧
      ∀ j, 2 * r.bw * m ≤ j → j < 1984 → y.body.getLsbD j = x.body.getLsbD j := by
  induction m with
  | zero => exact ⟨rfl, fun g hg => absurd hg (Nat.not_lt_zero g), fun j _ _ => rfl⟩
  | succ m ih =>
    rw [Nat.mul_succ] at hw
    obtain ⟨hrest, hfields, hout⟩ := ih (by omega)
    simp only [List.range_succ, List.foldl_append, List.foldl_cons, List.foldl_nil]
    obtain ⟨hset, hlo, hhi, hkeep⟩ := r.setBounds_spec ((List.range m).foldl (fun x g => r.setBounds x g (L g) (H g)) x) m (L m) (H m) hw
    refine ⟨?_, fun g hg => ?_, fun j hj hj' => ?_⟩
    · rw [hset, hrest]
    · by_cases hgm : g = m
      · subst hgm
        exact ⟨hlo, hhi⟩
      · have hle : 2 * r.bw * g + 2 * r.bw ≤ 2 * r.bw * m := by
          rw [← Nat.mul_succ]
          exact Nat.mul_le_mul_left _ (by omega)
        obtain ⟨hglo, hghi⟩ := hfields g (by omega)
        rw [← hglo, ← hghi]
        exact ⟨bitsOf_congr fun j _ _ => hkeep j (by omega) (.inl (by omega)), bitsOf_congr fun j _ _ => hkeep j (by omega) (.inl (by omega))⟩
    · rw [Nat.mul_succ] at hj
      rw [hkeep j hj' (.inr hj), hout j (by omega) hj']

/-- The elements of a group, in order. -/
def Region.group (r : Region) (g : Nat) : List Nat := (List.range r.elems).filter fun e => r.groupOf e == g

/-- The records' bounds as they are built. -/
theorem Region.buildBounds_spec (r : Region) (rd : Reader) (base : Nat) (x : Rec) (hw : 2 * r.bw * r.ng ≤ 1984) :
    let y := r.buildBounds rd base x
    let val (e : Nat) : XR := r.val (r.code rd base e)
    y = { x with body := y.body, tight := !(List.range r.elems).any fun e => (val e).isNaN } ∧
      (∀ g, g < r.ng → bitsOf y.body (2 * r.bw * g) r.bw = r.boundCode (groupBounds ((r.group g).map val)).1 ∧
        bitsOf y.body (2 * r.bw * g + r.bw) r.bw = r.boundCode (groupBounds ((r.group g).map val)).2) ∧
      ∀ j, 2 * r.bw * r.ng ≤ j → j < 1984 → y.body.getLsbD j = false := by
  intro y val
  have hgroup (g : Nat) : (((List.range r.elems).map fun e => (r.groupOf e, val e)).filter fun v => v.1 == g).map (·.2) = (r.group g).map val := by
    rw [List.filter_map, List.map_map]
    rfl
  have htight : (((List.range r.elems).map fun e => (r.groupOf e, val e)).any fun v => v.2.isNaN) = (List.range r.elems).any fun e => (val e).isNaN :=
    List.any_map
  have hstep (z : Rec) (g : Nat) (l : List XR) :
      (if l.any XR.isNaN && !l.all XR.isNaN then r.setBounds z g (.inf true) (.inf false)
        else if l.all XR.isNaN then r.setBounds z g (.inf false) (.inf true)
        else r.setBounds z g (l.foldl minX (.inf false)) (l.foldl maxX (.inf true))) =
      r.setBounds z g (groupBounds l).1 (groupBounds l).2 := by
    unfold groupBounds
    split
    · rfl
    · split <;> rfl
  have hy : y = (List.range r.ng).foldl (fun z g => r.setBounds z g (groupBounds ((r.group g).map val)).1 (groupBounds ((r.group g).map val)).2)
      { x with body := 0, tight := !(List.range r.elems).any fun e => (val e).isNaN } := by
    change r.buildBounds rd base x = _
    simp only [Region.buildBounds, hstep, ← hgroup, ← htight]
    rfl
  obtain ⟨hrest, hfields, hout⟩ := r.setBounds_foldl (fun g => (groupBounds ((r.group g).map val)).1) (fun g => (groupBounds ((r.group g).map val)).2)
    { x with body := 0, tight := !(List.range r.elems).any fun e => (val e).isNaN } hw
  rw [← hy] at hrest hfields hout
  exact ⟨hrest, hfields, fun j h1 h2 => (hout j h1 h2).trans (by simp)⟩

end Sys2Proof.Machine

namespace Sys2Proof.Machine

/-! ### BOUNDS as they follow a write -/

theorem XR.lt_ofInt (a b : Int) : (XR.ofInt a).lt (XR.ofInt b) = decide (a < b) := by
  simp only [XR.lt, XR.ofInt, min_self, numAt_ofInt]

theorem XR.eqv_ofInt (a b : Int) : (XR.ofInt a).eqv (XR.ofInt b) = (a == b) := by
  have hnan (i : Int) : (XR.ofInt i).isNaN = false := rfl
  rw [Bool.eq_iff_iff]
  simp only [XR.eqv, XR.le, hnan, XR.lt_ofInt, Bool.not_false, Bool.true_and, Bool.and_eq_true, Bool.not_eq_true', decide_eq_false_iff_not,
    beq_iff_eq]
  omega

theorem minX_ofInt (a b : Int) : minX (XR.ofInt a) (XR.ofInt b) = XR.ofInt (min a b) := by
  simp only [minX, XR.lt_ofInt, decide_eq_true_eq]
  split
  · next h => rw [min_eq_right h.le]
  · next h => rw [min_eq_left (not_lt.1 h)]

theorem maxX_ofInt (a b : Int) : maxX (XR.ofInt a) (XR.ofInt b) = XR.ofInt (max a b) := by
  simp only [maxX, XR.lt_ofInt, decide_eq_true_eq]
  split
  · next h => rw [max_eq_right h.le]
  · next h => rw [max_eq_left (not_lt.1 h)]

/-- A group's bounds follow an element of it. -/
theorem Region.boundsStep_spec (r : Region) (x : Rec) (e : Nat) (old new : XR) (hw : 2 * r.bw * r.groupOf e + 2 * r.bw ≤ 1984) :
    let y := r.boundsStep x e old new
    let g := r.groupOf e
    y = { x with body := y.body, tight := x.tight && !(old.isNaN || old.eqv (r.lo x g) || old.eqv (r.hi x g)) } ∧
      bitsOf y.body (2 * r.bw * g) r.bw = r.boundCode (if new.isNaN then .inf true else minX (r.lo x g) new) ∧
      bitsOf y.body (2 * r.bw * g + r.bw) r.bw = r.boundCode (if new.isNaN then .inf false else maxX (r.hi x g) new) ∧
      ∀ j, j < 1984 → j < 2 * r.bw * g ∨ 2 * r.bw * g + 2 * r.bw ≤ j → y.body.getLsbD j = x.body.getLsbD j := by
  intro y g
  have hy : y = { r.setBounds x g (if new.isNaN then .inf true else minX (r.lo x g) new) (if new.isNaN then .inf false else maxX (r.hi x g) new) with
      tight := x.tight && !(old.isNaN || old.eqv (r.lo x g) || old.eqv (r.hi x g)) } := by
    change r.boundsStep x e old new = _
    unfold Region.boundsStep
    cases new.isNaN <;> rfl
  obtain ⟨-, hlo, hhi, hout⟩ := r.setBounds_spec x g (if new.isNaN then .inf true else minX (r.lo x g) new)
    (if new.isNaN then .inf false else maxX (r.hi x g) new) hw
  rw [hy]
  exact ⟨rfl, hlo, hhi, hout⟩

/-! ### SUM (R118, R341) -/

/-- A number in the range of a 96-bit sum. -/
def clampSum (i : Int) : Int := max (-(2 ^ 95)) (min (2 ^ 95 - 1) i)

/-- Out of that range. -/
def sumOut (i : Int) : Bool := decide (i < -(2 ^ 95)) || decide (2 ^ 95 - 1 < i)

/-- The entry of a value, not yet clamped. -/
def sumTerm (b : Nat) : XR → Int
  | .nan => 0
  | .inf neg => if neg then -(2 ^ 95) else 2 ^ 95 - 1
  | .fin neg m ex =>
    let q : Nat := if 0 ≤ ex + b then m * 2 ^ (ex + b).toNat else m / 2 ^ (-(ex + b)).toNat
    if neg then -(q : Int) else q

theorem sumClamp_eq (v : Int) : sumClamp v = (clampSum v, sumOut v) := by
  have hmin : sumMin = -(2 ^ 95) := by norm_num [sumMin]
  have hmax : sumMax = 2 ^ 95 - 1 := by norm_num [sumMax]
  unfold sumClamp clampSum sumOut
  rw [hmin, hmax]
  by_cases hlo : v < -(2 ^ 95)
  · rw [if_pos hlo, decide_eq_true hlo, Bool.true_or, max_eq_left (by omega)]
  · rw [if_neg hlo, decide_eq_false hlo, Bool.false_or]
    by_cases hhi : 2 ^ 95 - 1 < v
    · rw [if_pos hhi, decide_eq_true hhi, min_eq_left hhi.le, max_eq_right (by omega)]
    · rw [if_neg hhi, decide_eq_false hhi, min_eq_right (by omega), max_eq_right (by omega)]

theorem sumEntry_eq (b : Nat) (v : XR) : sumEntry b v = (clampSum (sumTerm b v), v.isInf || sumOut (sumTerm b v), v.isNaN) := by
  cases v with
  | nan => rfl
  | inf s => cases s <;> rfl
  | fin s m e =>
    have hshift : shiftNat m (e + b) = if 0 ≤ e + b then m * 2 ^ (e + b).toNat else m / 2 ^ (-(e + b)).toNat := by
      rw [shiftNat, Nat.shiftLeft_eq, Nat.shiftRight_eq_div_pow]
    simp only [sumEntry, sumClamp_eq, hshift]
    rfl

theorem clampSum_mem (i : Int) : -(2 ^ 95) ≤ clampSum i ∧ clampSum i ≤ 2 ^ 95 - 1 := by
  unfold clampSum
  omega

theorem countOf_eq (x : Rec) : countOf x = bitsOf x.body 128 64 := rfl

/-- A record's sum and count after they are put. -/
theorem setSum_spec (x : Rec) {v : Int} (n : Nat) (hv : -(2 ^ 95) ≤ v ∧ v ≤ 2 ^ 95 - 1) :
    setSum x v n = { x with body := (setSum x v n).body } ∧ sumOf (setSum x v n) = v ∧ countOf (setSum x v n) = n % 2 ^ 64 ∧
      ∀ j, j < 1984 → 96 ≤ j ∧ j < 128 ∨ 192 ≤ j → (setSum x v n).body.getLsbD j = x.body.getLsbD j := by
  refine ⟨rfl, ?_, ?_, fun j hj h => ?_⟩
  · have hfield : (setSum x v n).body.extractLsb' 0 96 = BitVec.ofInt 96 v := by
      refine BitVec.eq_of_toNat_eq ?_
      rw [BitVec.extractLsb'_toNat, ← bitsOf, setSum, bitsOf_putBits_out _ _ (by omega) (by omega), bitsOf_putBits_self _ _ (by omega),
        Nat.mod_eq_of_lt (intCode_lt 96 v), intCode, BitVec.toNat_ofInt]
    rw [sumOf, hfield, BitVec.toInt_ofInt, Int.bmod_eq_of_le (by norm_num; omega) (by norm_num; omega)]
  · rw [countOf_eq, setSum, bitsOf_putBits_self _ _ (by omega)]
  · rw [setSum, getLsbD_putBits_out _ _ (by omega) hj, getLsbD_putBits_out _ _ (by omega) hj]

theorem countOf_lt (x : Rec) : countOf x < 2 ^ 64 := Nat.mod_lt _ (Nat.two_pow_pos 64)

theorem addEntry_eq (x : Rec) (v : Int) : addEntry x v = { setSum x (clampSum (sumOf x + v)) (countOf x) with ovf := x.ovf || sumOut (sumOf x + v) } := by
  rw [addEntry, sumClamp_eq]

theorem addEntry_spec (x : Rec) (v : Int) :
    addEntry x v = { x with body := (addEntry x v).body, ovf := x.ovf || sumOut (sumOf x + v) } ∧ sumOf (addEntry x v) = clampSum (sumOf x + v) ∧
      countOf (addEntry x v) = countOf x ∧
      ∀ j, j < 1984 → 96 ≤ j ∧ j < 128 ∨ 192 ≤ j → (addEntry x v).body.getLsbD j = x.body.getLsbD j := by
  obtain ⟨-, hsum, hcount, hout⟩ := setSum_spec x (countOf x) (clampSum_mem (sumOf x + v))
  rw [addEntry_eq]
  exact ⟨rfl, hsum, hcount.trans (Nat.mod_eq_of_lt (countOf_lt x)), hout⟩

theorem nonzero_toNat (v : XR) : (nonzero v).toNat = if v.isZero then 0 else 1 := by
  unfold nonzero
  cases v.isZero <;> rfl

theorem sumOf_mem (x : Rec) : -(2 ^ 95) ≤ sumOf x ∧ sumOf x ≤ 2 ^ 95 - 1 := by
  have hlo := BitVec.le_toInt (x.body.extractLsb' 0 96)
  have hhi := BitVec.toInt_lt (x := x.body.extractLsb' 0 96)
  rw [sumOf]
  omega

/-- Flags joined and the count put, the sum as it is. -/
def Rec.counted (x : Rec) (ovf inv : Bool) (n : Nat) : Rec := setSum { x with ovf := x.ovf || ovf, inv := x.inv || inv } (sumOf x) n

theorem Rec.counted_spec (x : Rec) (ovf inv : Bool) (n : Nat) :
    x.counted ovf inv n = { x with body := (x.counted ovf inv n).body, ovf := x.ovf || ovf, inv := x.inv || inv } ∧
      sumOf (x.counted ovf inv n) = sumOf x ∧ countOf (x.counted ovf inv n) = n % 2 ^ 64 ∧
      ∀ j, j < 1984 → 96 ≤ j ∧ j < 128 ∨ 192 ≤ j → (x.counted ovf inv n).body.getLsbD j = x.body.getLsbD j := by
  obtain ⟨-, hsum, hcount, hout⟩ := setSum_spec { x with ovf := x.ovf || ovf, inv := x.inv || inv } n (sumOf_mem x)
  exact ⟨rfl, hsum, hcount, hout⟩

theorem Region.sumStep_eq (r : Region) (x : Rec) (old new : XR) :
    let z := addEntry (addEntry x (-clampSum (sumTerm r.bpoint old))) (clampSum (sumTerm r.bpoint new))
    r.sumStep x old new = z.counted (old.isInf || sumOut (sumTerm r.bpoint old) || (new.isInf || sumOut (sumTerm r.bpoint new)))
      (old.isNaN || new.isNaN) (countOf z - (nonzero old).toNat + (nonzero new).toNat) := by
  intro z
  simp only [Region.sumStep, sumEntry_eq, Rec.counted, ← Bool.or_assoc]
  rfl

/-- SUM follows an element (R341). -/
theorem Region.sumStep_spec (r : Region) (x : Rec) (old new : XR) :
    let y := r.sumStep x old new
    let less := clampSum (sumOf x - clampSum (sumTerm r.bpoint old))
    let one (v : XR) : Nat := if v.isZero then 0 else 1
    y = { x with
      body := y.body
      ovf := x.ovf || old.isInf || new.isInf || sumOut (sumTerm r.bpoint old) || sumOut (sumTerm r.bpoint new) ||
        sumOut (sumOf x - clampSum (sumTerm r.bpoint old)) || sumOut (less + clampSum (sumTerm r.bpoint new))
      inv := x.inv || old.isNaN || new.isNaN } ∧
      sumOf y = clampSum (less + clampSum (sumTerm r.bpoint new)) ∧ countOf y = (countOf x - one old + one new) % 2 ^ 64 ∧
      ∀ j, j < 1984 → 96 ≤ j ∧ j < 128 ∨ 192 ≤ j → y.body.getLsbD j = x.body.getLsbD j := by
  intro y less one
  obtain ⟨hrest1, hsum1, hcount1, hout1⟩ := addEntry_spec x (-clampSum (sumTerm r.bpoint old))
  obtain ⟨hrest2, hsum2, hcount2, hout2⟩ := addEntry_spec (addEntry x (-clampSum (sumTerm r.bpoint old))) (clampSum (sumTerm r.bpoint new))
  obtain ⟨hrest, hsum, hcount, hout⟩ := Rec.counted_spec (addEntry (addEntry x (-clampSum (sumTerm r.bpoint old))) (clampSum (sumTerm r.bpoint new)))
    (old.isInf || sumOut (sumTerm r.bpoint old) || (new.isInf || sumOut (sumTerm r.bpoint new))) (old.isNaN || new.isNaN)
    (countOf (addEntry (addEntry x (-clampSum (sumTerm r.bpoint old))) (clampSum (sumTerm r.bpoint new))) -
      (nonzero old).toNat + (nonzero new).toNat)
  rw [← Region.sumStep_eq] at hrest hsum hcount hout
  rw [← sub_eq_add_neg] at hsum1 hrest1
  rw [hsum1] at hsum2 hrest2
  refine ⟨?_, hsum.trans hsum2, ?_, fun j hj h => by rw [hout j hj h, hout2 j hj h, hout1 j hj h]⟩
  · change r.sumStep x old new = _
    rw [hrest, hrest2, hrest1]
    simp only [y, less, Rec.mk.injEq, true_and, and_true]
    refine ⟨(Bool.or_assoc ..).symm, ?_⟩
    ac_rfl
  · rw [hcount, hcount2, hcount1, nonzero_toNat, nonzero_toNat]

/-- One element joins a sum that is built. -/
def Region.sumAdd (r : Region) (x : Rec) (v : XR) : Rec :=
  (addEntry x (clampSum (sumTerm r.bpoint v))).counted (v.isInf || sumOut (sumTerm r.bpoint v)) v.isNaN
    (countOf (addEntry x (clampSum (sumTerm r.bpoint v))) + (nonzero v).toNat)

theorem Region.sumAdd_spec (r : Region) (x : Rec) (v : XR) :
    let y := r.sumAdd x v
    let add := clampSum (sumTerm r.bpoint v)
    y = { x with
      body := y.body
      ovf := x.ovf || (v.isInf || sumOut (sumTerm r.bpoint v) || sumOut (sumOf x + add))
      inv := x.inv || v.isNaN } ∧
      sumOf y = clampSum (sumOf x + add) ∧ countOf y = (countOf x + if v.isZero then 0 else 1) % 2 ^ 64 ∧
      ∀ j, j < 1984 → 96 ≤ j ∧ j < 128 ∨ 192 ≤ j → y.body.getLsbD j = x.body.getLsbD j := by
  intro y add
  obtain ⟨hrest1, hsum1, hcount1, hout1⟩ := addEntry_spec x add
  obtain ⟨hrest, hsum, hcount, hout⟩ := Rec.counted_spec (addEntry x add) (v.isInf || sumOut (sumTerm r.bpoint v)) v.isNaN
    (countOf (addEntry x add) + (nonzero v).toNat)
  refine ⟨?_, hsum.trans hsum1, ?_, fun j hj h => by rw [← hout1 j hj h, ← hout j hj h]; rfl⟩
  · change r.sumAdd x v = _
    rw [Region.sumAdd, hrest, hrest1]
    simp only [y, add, Rec.mk.injEq, true_and, and_true]
    refine ⟨rfl, ?_⟩
    ac_rfl
  · rw [← nonzero_toNat, ← hcount1]
    exact hcount

/-- The sum of the first `e` elements, clamped at each. -/
def clampedSum (b : Nat) (val : Nat → XR) (e : Nat) : Int := (List.range e).foldl (fun a e => clampSum (a + clampSum (sumTerm b (val e)))) 0

theorem clampedSum_succ (b : Nat) (val : Nat → XR) (e : Nat) :
    clampedSum b val (e + 1) = clampSum (clampedSum b val e + clampSum (sumTerm b (val e))) := by
  rw [clampedSum, List.range_succ, List.foldl_append]
  rfl

/-- SUM of the first `n` elements. -/
theorem Region.sumAdd_foldl (r : Region) (val : Nat → XR) (x : Rec) (hx : x.body = 0) (hovf : x.ovf = false) (hinv : x.inv = false) {n : Nat}
    (hn : n < 2 ^ 64) :
    let y := (List.range n).foldl (fun x e => r.sumAdd x (val e)) x
    y = { x with
      body := y.body
      ovf := (List.range n).any fun e => (val e).isInf || sumOut (sumTerm r.bpoint (val e)) ||
        sumOut (clampedSum r.bpoint val e + clampSum (sumTerm r.bpoint (val e)))
      inv := (List.range n).any fun e => (val e).isNaN } ∧
      sumOf y = clampedSum r.bpoint val n ∧ countOf y = (List.range n).countP (fun e => !(val e).isZero) ∧
      ∀ j, j < 1984 → 96 ≤ j ∧ j < 128 ∨ 192 ≤ j → y.body.getLsbD j = false := by
  induction n with
  | zero =>
    refine ⟨?_, ?_, ?_, fun j _ _ => ?_⟩
    · obtain ⟨body, valid, poison, inv, ovf, stale, tight⟩ := x
      subst hovf hinv
      rfl
    · simp [sumOf, hx, clampedSum]
    · rw [List.range_zero, List.foldl_nil, countOf_eq, hx, bitsOf_zero]
      rfl
    · rw [List.range_zero, List.foldl_nil, hx]
      simp
  | succ n ih =>
    obtain ⟨hrest, hsum, hcount, hout⟩ := ih (by omega)
    have hle := List.countP_le_length (p := fun e => !(val e).isZero) (l := List.range n)
    rw [List.length_range] at hle
    simp only [List.range_succ, List.foldl_append, List.foldl_cons, List.foldl_nil, List.any_append, List.any_cons, List.any_nil, Bool.or_false,
      List.countP_append, List.countP_cons, List.countP_nil]
    obtain ⟨hrest', hsum', hcount', hout'⟩ := r.sumAdd_spec ((List.range n).foldl (fun x e => r.sumAdd x (val e)) x) (val n)
    refine ⟨?_, ?_, ?_, fun j hj h => by rw [hout' j hj h, hout j hj h]⟩
    · rw [hrest', hsum, hrest]
    · rw [hsum', hsum, clampedSum_succ]
    · rw [hcount', hcount, Nat.mod_eq_of_lt (by split <;> omega)]
      cases (val n).isZero <;> rfl

theorem Region.buildSum_eq (r : Region) (rd : Reader) (base : Nat) (x : Rec) :
    r.buildSum rd base x = (List.range r.elems).foldl (fun x e => r.sumAdd x (r.val (r.code rd base e))) { x with body := 0, ovf := false, inv := false } := by
  simp only [Region.buildSum, sumEntry_eq]
  rfl

/-! ### ZMAP (R342) -/

theorem testBit_toNat (b : Bool) : b.toNat.testBit 0 = b := by cases b <;> rfl

/-- A bit of ZMAP, and what stays. -/
theorem Region.setZmap_spec (r : Region) (rd : Reader) (base : Nat) (x : Rec) {m : Nat} (hm : m < 1984) :
    let y := r.setZmap rd base x m
    y = { x with body := y.body } ∧ y.body.getLsbD m = r.zmapBit rd base m ∧ ∀ j, j < 1984 → j ≠ m → y.body.getLsbD j = x.body.getLsbD j := by
  refine ⟨rfl, ?_, fun j hj hjm => getLsbD_putBits_out _ _ (by omega) hj⟩
  rw [Region.setZmap, getLsbD_putBits_in _ _ le_rfl (Nat.lt_succ_self m) hm, Nat.sub_self, testBit_toNat]

/-- Bits put one by one. -/
theorem Region.setZmap_foldl (r : Region) (rd : Reader) (base : Nat) (x : Rec) {m : Nat} (hm : m ≤ 1984) :
    let y := (List.range m).foldl (r.setZmap rd base) x
    y = { x with body := y.body } ∧ ∀ j, j < 1984 → y.body.getLsbD j = if j < m then r.zmapBit rd base j else x.body.getLsbD j := by
  induction m with
  | zero => exact ⟨rfl, fun j _ => by simp⟩
  | succ m ih =>
    obtain ⟨hrest, hbits⟩ := ih (by omega)
    simp only [List.range_succ, List.foldl_append, List.foldl_cons, List.foldl_nil]
    refine ⟨by rw [Region.setZmap, hrest], fun j hj => ?_⟩
    obtain ⟨-, hin, hout⟩ := r.setZmap_spec rd base ((List.range m).foldl (r.setZmap rd base) x) (show m < 1984 by omega)
    by_cases hjm : j = m
    · subst hjm
      rw [hin, if_pos (Nat.lt_succ_self j)]
    · rw [hout j hj hjm, hbits j hj]
      exact if_congr (by omega) rfl rfl

theorem Region.buildZmap_spec (r : Region) (rd : Reader) (base : Nat) (x : Rec) (hr : r.elems ≤ 15872) :
    let y := r.buildZmap rd base x
    y = { x with body := y.body } ∧ ∀ j, j < 1984 → y.body.getLsbD j = r.zmapBit rd base j := by
  obtain ⟨hrest, hbits⟩ := r.setZmap_foldl rd base { x with body := 0 } (m := (r.elems + 7) / 8) (by omega)
  refine ⟨hrest, fun j hj => (hbits j hj).trans ?_⟩
  split
  · rfl
  · next h =>
    have hout : r.zmapBit rd base j = false := List.any_eq_false.2 fun k _ => by
      rw [decide_eq_false (show ¬8 * j + k < r.elems by omega), Bool.false_and]
      decide
    rw [hout]
    simp

/-! ### SKETCH (R343) -/

/-- Is a value above zero? -/
def XR.above (x : XR) : Bool := (XR.fin false 0 0).lt x

theorem numAt_zero (e e0 : Int) : numAt false 0 e e0 = 0 := by simp [numAt]

theorem XR.above_fin (neg : Bool) (m : Nat) (e : Int) : (XR.fin neg m e).above = (!neg && decide (m ≠ 0)) := by
  rw [XR.above, XR.lt, numAt_zero, Bool.eq_iff_iff, decide_eq_true_iff]
  have hpos := Nat.two_pow_pos (e - min 0 e).toNat
  cases neg with
  | true =>
    simp only [numAt, Nat.shiftLeft_eq, if_true, Bool.not_true, Bool.false_and, Bool.false_eq_true, iff_false]
    omega
  | false =>
    simp only [numAt, Nat.shiftLeft_eq, Bool.false_eq_true, if_false, Bool.not_false, Bool.true_and, decide_eq_true_iff]
    rw [Int.natCast_pos, Nat.mul_pos_iff_of_pos_right hpos, Nat.pos_iff_ne_zero]

theorem XR.isInf_add {a b : XR} (rdn : Bool) (ha : a.isInf = false) (hb : b.isInf = false) : (a.add rdn b).isInf = false := by
  cases a with
  | nan => rfl
  | inf s => nomatch ha
  | fin s m e =>
    cases b with
    | nan => rfl
    | inf t => nomatch hb
    | fin t n f =>
      rw [XR.add]
      split
      · split <;> rfl
      · rfl

theorem XR.isInf_foldl_add {l : List XR} (hl : ∀ x ∈ l, x.isInf = false) {a : XR} (ha : a.isInf = false) :
    (l.foldl (XR.add false) a).isInf = false := by
  induction l generalizing a with
  | nil => exact ha
  | cons x l ih =>
    exact ih (fun y hy => hl y (List.mem_cons_of_mem x hy)) (XR.isInf_add false ha (hl x (List.mem_cons_self ..)))

theorem isInf_xsum {l : List XR} (hl : ∀ x ∈ l, x.isInf = false) : (xsum l).isInf = false := by
  cases l with
  | nil => rfl
  | cons x l => exact XR.isInf_foldl_add (fun y hy => hl y (List.mem_cons_of_mem x hy)) (hl x (List.mem_cons_self ..))

/-- An element as it enters the sum of draw bit `p`, the draw of its column `c`. -/
def sketchTerm (v : XR) (c p : Nat) : XR := if (draw 0 c).getLsbD p then (sketchVal v).neg else sketchVal v

theorem isInf_sketchTerm (v : XR) (c p : Nat) : (sketchTerm v c p).isInf = false := by
  unfold sketchTerm
  cases v <;> split <;> rfl

/-- The sketch bit `p` of a row of `n` elements. -/
def sketchBit (val : Nat → XR) (n p : Nat) : Bool := (xsum ((List.range n).map fun c => sketchTerm (val c) c p)).above

theorem sketchOf_eq (val : Nat → XR) (n : Nat) :
    sketchOf ((List.range n).map val) = pack 1 ((List.range 64).map fun p => (sketchBit val n p).toNat) := by
  have hzip : (((List.range n).map val).map sketchVal).zip ((List.range ((List.range n).map val).length).map fun c => draw 0 c) =
      (List.range n).map fun c => (sketchVal (val c), draw 0 c) := by
    rw [List.length_map, List.length_range, List.map_map, zip_map_range]
    rfl
  simp only [sketchOf, hzip]
  refine congrArg (pack 1) (List.map_congr_left fun p _ => ?_)
  have hinf : (xsum ((List.range n).map fun c => sketchTerm (val c) c p)).isInf = false :=
    isInf_xsum fun x hx => by
      obtain ⟨c, -, rfl⟩ := List.mem_map.1 hx
      exact isInf_sketchTerm _ c p
  rw [sketchBit, List.map_map]
  change (match xsum ((List.range n).map fun c => sketchTerm (val c) c p) with
    | .fin false (_ + 1) _ => 1
    | _ => 0) = _
  generalize xsum ((List.range n).map fun c => sketchTerm (val c) c p) = x at hinf ⊢
  cases x with
  | nan => rfl
  | inf s => nomatch hinf
  | fin s m e =>
    rw [XR.above_fin]
    cases s <;> cases m <;> rfl

theorem testBit_sketchOf (val : Nat → XR) (n : Nat) {p : Nat} (hp : p < 64) : (sketchOf ((List.range n).map val)).testBit p = sketchBit val n p := by
  have hfield := pack_field 1 ((List.range 64).map fun p => (sketchBit val n p).toNat) p (by simpa using hp)
  rw [Nat.mul_one, Nat.pow_one, List.getElem_map, List.getElem_range] at hfield
  rw [sketchOf_eq, Nat.testBit_eq_decide_div_mod_eq, hfield]
  cases sketchBit val n p <;> rfl

/-- A row's stale bit, the flag of them all, and what stays. -/
theorem setStale_spec (x : Rec) {k : Nat} (b : Bool) (hk : k < 64) :
    let y := setStale x k b
    y = { x with body := y.body, stale := y.stale } ∧ y.body.getLsbD (1920 + k) = b ∧
      (y.stale = (List.range 64).any fun j => y.body.getLsbD (1920 + j)) ∧
      ∀ j, j < 1984 → j ≠ 1920 + k → y.body.getLsbD j = x.body.getLsbD j := by
  refine ⟨rfl, ?_, bitsOf_ne_zero_iff _ 1920 64, fun j hj hjk => getLsbD_putBits_out _ _ (by omega) hj⟩
  rw [setStale]
  simp only []
  rw [getLsbD_putBits_in _ _ le_rfl (Nat.lt_succ_self _) (by omega), Nat.sub_self, testBit_toNat]

/-- A row sketched anew, and what stays. -/
theorem Region.sketchRow_spec (r : Region) (rd : Reader) (base : Nat) (x : Rec) {k : Nat} (hk : k < 30) :
    let y := r.sketchRow rd base x k
    y = { x with body := y.body, stale := y.stale } ∧
      (∀ p, p < 64 → y.body.getLsbD (64 * k + p) = sketchBit (fun c => r.val (r.code rd base (k * r.rowLen + c))) r.rowLen p) ∧
      y.body.getLsbD (1920 + k) = false ∧ (y.stale = (List.range 64).any fun j => y.body.getLsbD (1920 + j)) ∧
      ∀ j, j < 1984 → j ≠ 1920 + k → ¬(64 * k ≤ j ∧ j < 64 * k + 64) → y.body.getLsbD j = x.body.getLsbD j := by
  obtain ⟨hrest, hbit, hstale, hout⟩ := setStale_spec { x with body := putBits x.body (64 * k) 64 (sketchOf (r.rowVals rd base k)) } false
    (show k < 64 by omega)
  refine ⟨hrest, fun p hp => ?_, hbit, hstale, fun j hj hjk hjrow => ?_⟩
  · rw [Region.sketchRow, hout _ (by omega) (by omega), getLsbD_putBits_in _ _ (by omega) (by omega) (by omega), Nat.add_sub_cancel_left]
    exact testBit_sketchOf _ _ hp
  · rw [Region.sketchRow, hout j hj hjk, getLsbD_putBits_out _ _ (by omega) hj]

/-- The rows of a block sketched one after another. -/
theorem Region.buildSketch_spec (r : Region) (rd : Reader) (base : Nat) (x : Rec) (hr : r.rpb ≤ 30) :
    let y := r.buildSketch rd base x
    y = { x with body := y.body, stale := false } ∧
      (∀ k p, k < r.rpb → p < 64 →
        y.body.getLsbD (64 * k + p) = sketchBit (fun c => r.val (r.code rd base (k * r.rowLen + c))) r.rowLen p) ∧
      ∀ j, 64 * r.rpb ≤ j → j < 1984 → y.body.getLsbD j = false := by
  unfold Region.buildSketch
  generalize r.rpb = m at hr
  induction m with
  | zero => exact ⟨rfl, fun k p hk => absurd hk (Nat.not_lt_zero k), fun j _ _ => by simp⟩
  | succ m ih =>
    obtain ⟨hrest, hrows, hzero⟩ := ih (by omega)
    simp only [List.range_succ, List.foldl_append, List.foldl_cons, List.foldl_nil]
    obtain ⟨hrest', hrow, hbit, hstale, hout⟩ := r.sketchRow_spec rd base
      ((List.range m).foldl (r.sketchRow rd base) { x with body := 0, stale := false }) (show m < 30 by omega)
    have hzero' (j : Nat) (h1 : 64 * (m + 1) ≤ j) (h2 : j < 1984) :
        (r.sketchRow rd base ((List.range m).foldl (r.sketchRow rd base) { x with body := 0, stale := false }) m).body.getLsbD j = false := by
      by_cases hj : j = 1920 + m
      · rw [hj, hbit]
      · rw [hout j h2 hj (by omega), hzero j (by omega) h2]
    have hfresh : (r.sketchRow rd base ((List.range m).foldl (r.sketchRow rd base) { x with body := 0, stale := false }) m).stale = false := by
      rw [hstale, List.any_eq_false]
      intro j hj
      rw [hzero' (1920 + j) (by omega) (by have := List.mem_range.1 hj; omega)]
      decide
    refine ⟨by rw [hrest', hfresh, hrest], fun k p hk hp => ?_, hzero'⟩
    by_cases hkm : k = m
    · subst hkm
      exact hrow p hp
    · rw [hout _ (by omega) (by omega) (by omega), hrows k p (by omega) hp]

end Sys2Proof.Machine

namespace Sys2Proof.Machine

/-! ### Records written one after another -/

/-- Records put under their keys, in order. -/
def putRecords (s : State) (l : List (Nat × Rec)) : State := l.foldl (fun s e => setRecord s e.1 e.2) s

theorem record_setRecord (s : State) (key j : Nat) (x : Rec) : record (setRecord s key x) j = if j = key then x else record s j :=
  tget_tset _ _ _ _ _

theorem putRecords_eq (s : State) (l : List (Nat × Rec)) : putRecords s l = { s with records := (putRecords s l).records } := by
  unfold putRecords
  induction l generalizing s with
  | nil => rfl
  | cons e l ih => exact ih (setRecord s e.1 e.2)

theorem record_putRecords_out {s : State} {l : List (Nat × Rec)} {j : Nat} (h : ∀ e ∈ l, e.1 ≠ j) : record (putRecords s l) j = record s j := by
  unfold putRecords
  induction l generalizing s with
  | nil => rfl
  | cons e l ih =>
    rw [List.foldl_cons, ih fun x hx => h x (List.mem_cons_of_mem e hx), record_setRecord, if_neg (h e (List.mem_cons_self ..)).symm]

/-- A key that is listed with one record only reads as it. -/
theorem record_putRecords_in {s : State} {l : List (Nat × Rec)} {j : Nat} {x : Rec} (hmem : (j, x) ∈ l) (hone : ∀ y, (j, y) ∈ l → y = x) :
    record (putRecords s l) j = x := by
  unfold putRecords
  induction l generalizing s with
  | nil => nomatch hmem
  | cons e l ih =>
    rw [List.foldl_cons]
    by_cases hin : (j, x) ∈ l
    · exact ih hin fun y hy => hone y (List.mem_cons_of_mem e hy)
    · have he : (j, x) = e := (List.mem_cons.1 hmem).resolve_right hin
      have hout : ∀ y ∈ l, y.1 ≠ j := fun y hy hyj => by
        have hyl : (j, y.2) ∈ l := by
          rw [← hyj]
          exact hy
        exact hin (hone y.2 (List.mem_cons_of_mem e hyl) ▸ hyl)
      rw [← he]
      exact (record_putRecords_out hout).trans ((record_setRecord ..).trans (if_pos rfl))

/-! ### A region's first records (R337, R339) -/

theorem beforeSteps_of_undo {s : State} (h : ∀ e ∈ s.launches, ∀ c, e.2.commit = some c → c.undo = []) : beforeSteps s = s.mem := by
  unfold beforeSteps
  generalize s.mem = m
  generalize s.launches = l at h
  induction l generalizing m with
  | nil => rfl
  | cons e l ih =>
    have hrest := ih m fun x hx => h x (List.mem_cons_of_mem e hx)
    cases hc : e.2.commit with
    | none => simpa only [List.foldl_cons, hc] using hrest
    | some c => simpa only [List.foldl_cons, hc, h e (List.mem_cons_self ..) c hc, List.foldl_nil] using hrest

/-- No step in progress holds a note of what stood in memory. -/
theorem undo_of_noStep {s : State} (h : anyStep s = false) : ∀ e ∈ s.launches, ∀ c, e.2.commit = some c → c.undo = [] := by
  intro e he c hc
  have := List.any_eq_false.1 h e he
  rw [hc] at this
  exact absurd rfl this

theorem snapImage_of_undo {s : State} (h : ∀ e ∈ s.launches, ∀ c, e.2.commit = some c → c.undo = []) : snapImage s = s.image := by
  rw [snapImage, beforeSteps_of_undo h]
  rfl

theorem vbad_none {i : Image} (h : i.bad = []) (va n : Nat) : vbad i va n = false := by
  rw [← viewBad_empty]
  exact viewBad_none h _ _ _

theorem badLinesUnder_none {i : Image} (h : i.bad = []) (va n : Nat) : badLinesUnder i va n = [] :=
  List.filter_eq_nil_iff.2 fun a _ => by simp [vbad_none h]

theorem keeperReads_none {s : State} (h : s.badLines = []) (src va n : Nat) : keeperReads s src va n = s := by
  rw [keeperReads, badLinesUnder_none (i := s.image) h]
  rfl

/-- The records of each kind, built over sound lines. -/
theorem Region.build_sound (r : Region) (rd : Reader) {bad : Nat → Bool} (hbad : ∀ a, bad a = false) (base : Nat) :
    r.build rd bad 1 base = r.buildBounds rd base Rec.blank ∧ r.build rd bad 2 base = r.buildSum rd base Rec.blank ∧
      r.build rd bad 3 base = r.buildZmap rd base Rec.blank ∧ r.build rd bad 4 base = r.buildSketch rd base Rec.blank := by
  have hoffs : r.badOffs bad base = [] := List.filter_eq_nil_iff.2 fun o _ => by simp [hbad]
  refine ⟨?_, ?_, ?_, ?_⟩ <;> simp only [Region.build, hoffs, List.foldl_nil]

/-- The records of a region's blocks, by their keys. -/
def builtRecords (n : Nat) (r : Region) (rd : Reader) (bad : Nat → Bool) : List (Nat × Rec) :=
  (List.range (r.len / r.block)).flatMap fun b => r.kinds.map fun k => (recKey n b k, r.build rd bad k (r.base + b * r.block))

theorem foldl_keeperReads (src : State → Nat) (f : Nat → List (Nat × Rec)) (r : Region) (l : List Nat) {s : State} (h : s.badLines = []) :
    l.foldl (fun s b => putRecords (keeperReads s (src s) (r.base + b * r.block) r.block) (f b)) s = putRecords s (l.flatMap f) := by
  induction l generalizing s with
  | nil => rfl
  | cons b l ih =>
    rw [List.foldl_cons, keeperReads_none h, ih (by rw [putRecords_eq]; exact h), List.flatMap_cons]
    exact (List.foldl_append ..).symm

theorem Region.block_pos (r : Region) : 0 < r.block := by
  unfold Region.block
  split <;> decide

/-- The records of the one region of a module are built. -/
theorem rebuildRange_whole {s : State} {n : Nat} {r : Region} (hr : s.regions = [(n, r)]) (hbad : s.badLines = []) (hstep : anyStep s = false) :
    rebuildRange s r.base r.len = putRecords s (builtRecords n r (readerOf s.image) (badOf s.image)) := by
  have hblocks : ((List.range (r.len / r.block)).filter fun b =>
      decide (r.base < r.base + (b + 1) * r.block) && decide (r.base + b * r.block < r.base + r.len)) = List.range (r.len / r.block) := by
    refine List.filter_eq_self.2 fun b hb => ?_
    have hlt := List.mem_range.1 hb
    have hpos := r.block_pos
    have hle : (b + 1) * r.block ≤ r.len := (Nat.mul_le_mul_right _ hlt).trans (Nat.div_mul_le_self _ _)
    rw [Nat.succ_mul] at hle
    simp only [Nat.succ_mul, Bool.and_eq_true, decide_eq_true_iff]
    omega
  unfold rebuildRange
  rw [hr, List.foldl_cons, List.foldl_nil, snapImage_of_undo (undo_of_noStep hstep)]
  simp only [hblocks]
  refine Eq.trans ?_ (foldl_keeperReads srcFirmware (fun b => r.kinds.map fun k =>
    (recKey n b k, r.build (readerOf s.image) (badOf s.image) k (r.base + b * r.block))) r _ hbad)
  simp only [putRecords, List.foldl_map]

theorem recKey_inj {n b c j k : Nat} (hj : j < 8) (hk : k < 8) (h : recKey n b j = recKey n c k) : b = c ∧ j = k := by
  unfold recKey at h
  omega

theorem record_builtRecords {s : State} {n : Nat} {r : Region} {rd : Reader} {bad : Nat → Bool} {b k : Nat} (hb : b < r.len / r.block) (hk : k ∈ r.kinds)
    (hkinds : ∀ c ∈ r.kinds, c < 8) : record (putRecords s (builtRecords n r rd bad)) (recKey n b k) = r.build rd bad k (r.base + b * r.block) := by
  refine record_putRecords_in (List.mem_flatMap.2 ⟨b, List.mem_range.2 hb, List.mem_map.2 ⟨k, hk, rfl⟩⟩) fun y hy => ?_
  obtain ⟨c, -, hc⟩ := List.mem_flatMap.1 hy
  obtain ⟨j, hj, he⟩ := List.mem_map.1 hc
  obtain ⟨hkey, rfl⟩ := Prod.mk.inj he
  obtain ⟨rfl, rfl⟩ := recKey_inj (hkinds j hj) (hkinds k hk) hkey
  rfl

theorem records_answer (s : State) (a : Ans) : (answer s a).records = s.records := by
  unfold answer
  split <;> rfl

theorem regions_answer (s : State) (a : Ans) : (answer s a).regions = s.regions := by
  unfold answer
  split <;> rfl

/-- REGION where none is defined yet, its record and its pages accepted. -/
theorem exec_region_first {s : State} {ha : Word} (href : s.host.refused = false) (hrun : anyRunning s = false) (hstep : anyStep s = false)
    (hfree : s.channelsFree) (hbad : s.badLines = []) (hregions : s.regions = []) :
    let bytes := mread s.host.mem ha.toNat 64
    let r := regionOf bytes
    regionFields bytes r = true → regionShape r = true → regionPages s r = true → areaRoom s 0 r = true →
    ∃ u, exec (.region ha) s = .next u ∧ u.regions = [(0, r)] ∧ u.mem = s.mem ∧ ∀ b k, b < r.len / r.block → k ∈ r.kinds →
      (∀ c ∈ r.kinds, c < 8) → record u (recKey 0 b k) = r.build (readerOf s.image) (badOf s.image) k (r.base + b * r.block) := by
  intro bytes r hfields hshape hpages hroom
  have hfind : ((List.range 4096).find? fun n => !(s.regions.any fun e => e.1 == n)) = some 0 := by
    rw [show 4096 = 4095 + 1 from rfl, List.range_succ_eq_map, List.find?_cons, hregions]
    rfl
  have hin : inRegion s r.base r.len = false := by
    rw [inRegion, hregions]
    rfl
  have hdef : defineRegion s bytes = (rebuildRange { dropRecords s 0 with regions := [(0, r)] } r.base r.len, ansOk 0) := by
    unfold defineRegion
    simp only [hfind]
    rw [if_pos (by simp [r, hfields, hshape, hpages, hin, hroom]), show (dropRecords s 0).regions = [] from hregions]
    rfl
  have hidle : (whenIdle s fun s => defineRegion s (hostRead s ha.toNat 64)) = some (defineRegion s bytes) := by
    simp [whenIdle, hrun, betweenSteps, hstep, bytes, hostRead]
  have hbuilt := rebuildRange_whole (s := { dropRecords s 0 with regions := [(0, r)] }) rfl hbad hstep
  refine ⟨answer (rebuildRange { dropRecords s 0 with regions := [(0, r)] } r.base r.len) (ansOk 0), ?_, ?_, ?_, fun b k hb hk hkinds => ?_⟩
  · rw [exec_region, execRegion, commandVia_free hfree, command, href, hidle, hdef]
    rfl
  · rw [regions_answer, hbuilt, putRecords_eq]
  · rw [mem_answer, hbuilt, putRecords_eq]
    rfl
  · rw [record, records_answer, ← record, hbuilt, record_builtRecords hb hk hkinds]
    rfl

end Sys2Proof.Machine

namespace Sys2Proof.Machine

/-! ### The shape of a region -/

theorem typeOf_bits : ∀ k, k ≤ 11 → (typeOf k).bits % 8 = 0 ∧ 0 < (typeOf k).bits / 8 := by decide

theorem fmtOf_integer : ∀ k, k ≤ 11 → ¬k ≤ 4 → fmtOf (typeOf k) = none := by decide

/-- What a region's fields and kinds ask of its elements, rows and groups (R336, R337). -/
structure Region.Shaped (r : Region) : Prop where
  format : r.efmt ≤ 11
  row : 1 ≤ r.rowLen
  grain : 1 ≤ r.g
  shape : regionShape r = true

section
variable {r : Region} (h : r.Shaped)
include h

theorem Region.Shaped.width_pos : 0 < r.width := (typeOf_bits r.efmt h.format).2

theorem Region.Shaped.rowBytes_eq : r.rowBytes = r.rowLen * r.width := by
  have hbits := (typeOf_bits r.efmt h.format).1
  rw [Region.rowBytes, Region.width, Nat.mul_div_assoc _ (Nat.dvd_of_mod_eq_zero hbits)]

theorem Region.Shaped.rowBytes_pos : 0 < r.rowBytes := by
  rw [h.rowBytes_eq]
  exact Nat.mul_pos h.row h.width_pos

theorem Region.Shaped.shape_cases : r.block % (r.rowLen * r.width) = 0 ∧ (r.keeps 1 = true → r.ng ≤ if r.floats then 31 else 15) ∧
    (r.keeps 3 = true → r.elems ≤ 15872) ∧ (r.keeps 4 = true → r.rpb ≤ 30) := by
  have hshape := h.shape
  simp only [regionShape, Bool.and_eq_true, Bool.or_eq_true, Bool.not_eq_true', decide_eq_true_iff, beq_iff_eq] at hshape
  obtain ⟨⟨⟨hrow, h1⟩, h3⟩, h4⟩ := hshape
  refine ⟨hrow, fun hk => ?_, fun hk => ?_, fun hk => ?_⟩
  · exact h1.resolve_left (by rw [hk]; decide)
  · exact h3.resolve_left (by rw [hk]; decide)
  · exact h4.resolve_left (by rw [hk]; decide)

/-- A block is whole rows. -/
theorem Region.Shaped.block_eq : r.block = r.rpb * r.rowBytes := by
  have hdvd := Nat.dvd_of_mod_eq_zero h.shape_cases.1
  rw [← h.rowBytes_eq] at hdvd
  exact (Nat.div_mul_cancel hdvd).symm

/-- A block is whole rows of elements. -/
theorem Region.Shaped.elems_eq : r.elems = r.rpb * r.rowLen := by
  rw [Region.elems, h.block_eq, h.rowBytes_eq, ← Nat.mul_assoc, Nat.mul_div_cancel _ h.width_pos]

theorem Region.Shaped.rpb_pos : 0 < r.rpb := by
  refine Nat.pos_of_ne_zero fun h0 => ?_
  have hpos := r.block_pos
  rw [h.block_eq, h0, Nat.zero_mul] at hpos
  exact absurd hpos (Nat.lt_irrefl 0)

theorem Region.Shaped.rowLen_le : r.rowLen ≤ r.elems := by
  rw [h.elems_eq]
  exact Nat.le_mul_of_pos_left _ h.rpb_pos

theorem Region.Shaped.groups (hk : r.keeps 1 = true) : 2 * r.bw * r.ng ≤ 1984 := by
  have hng := h.shape_cases.2.1 hk
  unfold Region.bw
  split at hng
  · next hf => rw [if_pos hf]; omega
  · next hf => rw [if_neg hf]; omega

theorem Region.Shaped.group_ne_nil {g : Nat} (hg : g < r.ng) : r.group g ≠ [] := by
  have hgrain := h.grain
  have hlt : g * r.g < r.rowLen := by
    have := (Nat.le_div_iff_mul_le hgrain).1 (show g + 1 ≤ (r.rowLen + r.g - 1) / r.g from hg)
    rw [Nat.succ_mul] at this
    omega
  refine List.ne_nil_of_mem (a := g * r.g) (List.mem_filter.2 ⟨List.mem_range.2 (hlt.trans_le h.rowLen_le), ?_⟩)
  rw [Region.groupOf, Nat.mod_eq_of_lt hlt, Nat.mul_div_cancel _ hgrain]
  exact beq_self_eq_true g

theorem Region.Shaped.val_integer (hi : ¬r.efmt ≤ 4) (c : Nat) : r.val c = XR.ofInt (intVal (typeOf r.efmt) c) := by
  rw [Region.val, elemVal, fmtOf_integer r.efmt h.format hi]

theorem Region.Shaped.isNaN_integer (hi : ¬r.efmt ≤ 4) (c : Nat) : (r.val c).isNaN = false := by
  rw [h.val_integer hi]
  rfl

end

/-! ### Records as REGION builds them -/

/-- The code of a bound as the statement has it. -/
theorem Region.Shaped.boundCode_val {r : Region} (h : r.Shaped) (c : Nat) :
    r.boundCode (r.val c) = if r.efmt ≤ 4 then (if (r.val c).isZero then 0 else (rne32 (r.val c)).1.toNat)
      else (BitVec.ofInt 64 (intVal (typeOf r.efmt) c)).toNat := by
  by_cases hf : r.efmt ≤ 4
  · rw [if_pos hf, Region.boundCode_float hf]
  · rw [if_neg hf, h.val_integer hf, Region.boundCode_int hf]

theorem Region.boundCode_inf {r : Region} (hf : r.efmt ≤ 4) : r.boundCode (.inf true) = 0xFF800000 ∧ r.boundCode (.inf false) = 0x7F800000 := by
  rw [Region.boundCode_float hf, Region.boundCode_float hf]
  decide

/-- BOUNDS of a block (R340). -/
theorem Region.Shaped.bounds_built {r : Region} (h : r.Shaped) (hk : r.keeps 1 = true) (rd : Reader) (base : Nat) :
    let y := r.buildBounds rd base Rec.blank
    let val (e : Nat) : XR := r.val (r.code rd base e)
    (∀ g, g < r.ng →
      let lo := bitsOf y.body (2 * r.bw * g) r.bw
      let hi := bitsOf y.body (2 * r.bw * g + r.bw) r.bw
      ((∀ e ∈ r.group g, (val e).isNaN = false) → ∃ a ∈ r.group g, ∃ z ∈ r.group g, lo = r.boundCode (val a) ∧ hi = r.boundCode (val z) ∧
        ∀ e ∈ r.group g, (val e).lt (val a) = false ∧ (val z).lt (val e) = false) ∧
      ((∃ e ∈ r.group g, (val e).isNaN = true) → (∃ e ∈ r.group g, (val e).isNaN = false) → lo = 0xFF800000 ∧ hi = 0x7F800000) ∧
      ((∀ e ∈ r.group g, (val e).isNaN = true) → lo = 0x7F800000 ∧ hi = 0xFF800000)) ∧
    (∀ j, 2 * r.bw * r.ng ≤ j → j < 1984 → y.body.getLsbD j = false) ∧ y.tight = !(List.range r.elems).any fun e => (val e).isNaN := by
  intro y val
  obtain ⟨hrest, hfields, hzero⟩ := r.buildBounds_spec rd base Rec.blank (h.groups hk)
  have hfloat (g : Nat) (hnan : ∃ e ∈ r.group g, (val e).isNaN = true) : r.efmt ≤ 4 := by
    by_contra hi
    obtain ⟨e, -, he⟩ := hnan
    exact absurd (h.isNaN_integer hi _) (by rw [he]; decide)
  refine ⟨fun g hg => ?_, hzero, by rw [show y = _ from hrest]⟩
  intro lo hi
  obtain ⟨hlo, hhi⟩ := hfields g hg
  refine ⟨fun hnum => ?_, fun hnan hnum => ?_, fun hnan => ?_⟩
  · have hnum' : ∀ x ∈ (r.group g).map val, x.isNaN = false := fun x hx => by
      obtain ⟨e, he, rfl⟩ := List.mem_map.1 hx
      exact hnum e he
    obtain ⟨hmin, hmax, hall⟩ := groupBounds_numbers (List.map_eq_nil_iff.not.2 (h.group_ne_nil hg)) hnum'
    obtain ⟨a, ha, hva⟩ := List.mem_map.1 hmin
    obtain ⟨z, hz, hvz⟩ := List.mem_map.1 hmax
    refine ⟨a, ha, z, hz, hlo.trans (by rw [hva]), hhi.trans (by rw [hvz]), fun e he => ?_⟩
    rw [hva, hvz]
    exact hall (val e) (List.mem_map.2 ⟨e, he, rfl⟩)
  · obtain ⟨hbot, htop⟩ := Region.boundCode_inf (hfloat g hnan)
    have hmap (b : Bool) : (∃ e ∈ r.group g, (val e).isNaN = b) → ∃ x ∈ (r.group g).map val, x.isNaN = b := fun ⟨e, he, hb⟩ =>
      ⟨val e, List.mem_map.2 ⟨e, he, rfl⟩, hb⟩
    rw [groupBounds_mixed (hmap true hnan) (hmap false hnum)] at hlo hhi
    exact ⟨hlo.trans hbot, hhi.trans htop⟩
  · obtain ⟨e, he⟩ := List.exists_mem_of_ne_nil _ (h.group_ne_nil hg)
    obtain ⟨hbot, htop⟩ := Region.boundCode_inf (hfloat g ⟨e, he, hnan e he⟩)
    rw [groupBounds_nan fun x hx => by
      obtain ⟨e, he, rfl⟩ := List.mem_map.1 hx
      exact hnan e he] at hlo hhi
    exact ⟨hlo.trans htop, hhi.trans hbot⟩

theorem Region.elems_lt (r : Region) : r.elems < 2 ^ 64 := by
  have hblock : r.block ≤ 65536 := by
    unfold Region.block
    split <;> decide
  exact (Nat.div_le_self _ _).trans_lt (hblock.trans_lt (by decide))

/-- SUM of a block (R118, R341). -/
theorem Region.sum_built (r : Region) (rd : Reader) (base : Nat) :
    let y := r.buildSum rd base Rec.blank
    let val (e : Nat) : XR := r.val (r.code rd base e)
    y = { Rec.blank with body := y.body, ovf := y.ovf, inv := y.inv } ∧
    (y.body.extractLsb' 0 96).toInt = clampedSum r.bpoint val r.elems ∧ bitsOf y.body 96 32 = 0 ∧
      bitsOf y.body 128 64 = (List.range r.elems).countP (fun e => !(val e).isZero) ∧
      (∀ j, 192 ≤ j → j < 1984 → y.body.getLsbD j = false) ∧ (y.inv = (List.range r.elems).any fun e => (val e).isNaN) ∧
      y.ovf = (List.range r.elems).any fun e => (val e).isInf || sumOut (sumTerm r.bpoint (val e)) ||
        sumOut (clampedSum r.bpoint val e + clampSum (sumTerm r.bpoint (val e))) := by
  intro y val
  obtain ⟨hrest, hsum, hcount, hzero⟩ := r.sumAdd_foldl val { Rec.blank with body := 0, ovf := false, inv := false } rfl rfl rfl r.elems_lt
  rw [← r.buildSum_eq rd base Rec.blank] at hrest hsum hcount hzero
  have hy : y = _ := hrest
  exact ⟨by rw [hy], hsum, bitsOf_eq_zero fun j h1 h2 => hzero j (by omega) (.inl ⟨h1, h2⟩), hcount, fun j h1 h2 => hzero j h2 (.inr h1),
    by rw [hy], by rw [hy]⟩

end Sys2Proof.Machine

namespace Sys2Proof.Machine

/-! ### What the end of a commit step leaves of records and counts (R289, R312, R324) -/

/-- The records, and the quanta that launch `l` has committed. -/
def ledger (l : Nat) (s : State) : Tab Rec × Nat := (s.records, (launch s l).committed)

theorem ledger_modLaunch (l m : Nat) (s : State) {f : Launch → Launch} (hf : ∀ x, (f x).committed = x.committed) :
    ledger l (modLaunch s m f) = ledger l s := by
  rw [ledger, launch_modLaunch]
  split
  · next h => rw [h, hf]; rfl
  · rfl

theorem ledger_modNode (l m n : Nat) (s : State) (f : Node → Node) : ledger l (modNode s m n f) = ledger l s := ledger_modLaunch l m s fun _ => rfl

theorem ledger_abandonCopied (l m : Nat) (s : State) : ledger l (abandonCopied s m) = ledger l s :=
  abandonCopied_keeps (ledger l) (fun _ _ _ => rfl) (fun _ _ => rfl) s m

theorem ledger_endLaunch (l m : Nat) (s : State) (st : EndSt) : ledger l (endLaunch s m st) = ledger l s := by
  unfold endLaunch
  split
  · refine (ledger_abandonCopied l m _).trans ?_
    rw [ledger_modLaunch l m _ fun _ => by rfl]
    rfl
  · rfl

theorem ledger_nodeFails (l m n : Nat) (s : State) : ledger l (nodeFails s m n) = ledger l s := by
  unfold nodeFails failNode
  split
  · rw [ledger_endLaunch, ledger_modLaunch l m _ fun _ => by rfl]
  · rfl

theorem ledger_startCallNode (l m n : Nat) (s : State) : ledger l (startCallNode s m n) = ledger l s := by
  unfold startCallNode
  simp only []
  split
  · rw [ledger_modNode, ledger_modLaunch l m _ fun _ => by rfl]
    rfl
  · exact ledger_nodeFails l m n s

theorem ledger_startCopyNode (l m n : Nat) (s : State) : ledger l (startCopyNode s m n) = ledger l s := by
  unfold startCopyNode
  simp only []
  split
  · rfl
  · split
    · exact ledger_nodeFails l m n s
    · rw [ledger_modNode]
      rfl

theorem ledger_readyNode (l m n start : Nat) (s : State) : ledger l (readyNode s m n start) = ledger l s := by
  unfold readyNode
  simp only []
  have hmod := ledger_modNode l m n s fun x => { x with st := .ready, start := start }
  split
  · exact hmod
  · rw [ledger_startCallNode, hmod]
  · rw [ledger_startCopyNode, hmod]

theorem ledger_noticeNode (l m start n : Nat) (s : State) : ledger l (noticeNode s m start n) = ledger l s := by
  unfold noticeNode
  simp only []
  split
  · rw [ledger_readyNode, ledger_modNode]
  · rw [ledger_modNode]

theorem ledger_finishNodes (l m q : Nat) (s : State) : ledger l (finishNodes s m q) = ledger l s := by
  unfold finishNodes
  simp only []
  rw [foldl_keeps (ledger l) fun s e => foldl_keeps (ledger l) (fun s n => ledger_noticeNode l m (q + 1) n s) _ s]
  exact foldl_keeps (ledger l) (fun s _ => ledger_modNode l m _ s _) _ s

theorem ledger_checkEnd (l m : Nat) (s : State) : ledger l (checkEnd s m) = ledger l s := by
  unfold checkEnd
  simp only []
  split
  · rfl
  · split
    · split
      · rfl
      · exact ledger_endLaunch l m s _
    · split
      · exact ledger_endLaunch l m s _
      · rfl

end Sys2Proof.Machine

namespace Sys2Proof.Machine

/-! ### Bytes in tables -/

theorem tput_append {α : Type} {t : Tab α} {k : Nat} (v : α) (h : ∀ e ∈ t, e.1 < k) : tput k v t = t ++ [(k, v)] := by
  induction t with
  | nil => rfl
  | cons e t ih =>
    obtain ⟨j, w⟩ := e
    have hj : j < k := h (j, w) (List.mem_cons_self ..)
    rw [tput, if_neg (by omega), if_neg (by omega), ih fun e he => h e (List.mem_cons_of_mem _ he)]
    rfl

theorem tfind_append {α : Type} (t u : Tab α) (k : Nat) : tfind (t ++ u) k = (tfind t k).or (tfind u k) := by
  induction t with
  | nil => rfl
  | cons e t ih =>
    obtain ⟨j, w⟩ := e
    rw [List.cons_append, tfind, tfind]
    split
    · rfl
    · exact ih

/-- Bytes put one after another into an empty table. -/
theorem putBytes_nil (a : Nat) (bytes : List Byte) : putBytes [] a bytes = (List.range bytes.length).map fun k => (a + k, nth 0 bytes k) := by
  have hzip : bytes.zip (List.range bytes.length) = (List.range bytes.length).map fun k => (nth 0 bytes k, k) := by
    conv_lhs => rw [← map_range_nth 0 (rfl : bytes.length = bytes.length)]
    rw [List.length_map, List.length_range]
    simpa using zip_map_range bytes.length (nth 0 bytes) id
  have hput (n : Nat) : (List.range n).foldl (fun o k => tput (a + k) (nth 0 bytes k) o) [] = (List.range n).map fun k => (a + k, nth 0 bytes k) := by
    induction n with
    | zero => rfl
    | succ n ih =>
      rw [List.range_succ, List.foldl_append, ih, List.map_append]
      refine tput_append _ fun e he => ?_
      obtain ⟨k, hk, rfl⟩ := List.mem_map.1 he
      exact Nat.add_lt_add_left (List.mem_range.1 hk) a
  rw [putBytes, hzip, List.foldl_map]
  exact hput _

theorem tfind_map_range {α : Type} (a n : Nat) (f : Nat → α) (x : Nat) :
    tfind ((List.range n).map fun k => (a + k, f k)) x = if a ≤ x ∧ x < a + n then some (f (x - a)) else none := by
  induction n with
  | zero => rw [if_neg (by omega)]; rfl
  | succ n ih =>
    rw [List.range_succ, List.map_append, tfind_append, ih, List.map_singleton, tfind, tfind]
    by_cases hlast : x = a + n
    · rw [if_neg (by omega), if_pos hlast, if_pos (by omega), hlast, Nat.add_sub_cancel_left]
      rfl
    · rw [if_neg hlast, Option.or_none]
      exact if_congr (by omega) rfl rfl

theorem mget_foldl_mset (m : List Host.Cell) (a n : Nat) (f : Nat → Byte) (x : Nat) :
    mget (((List.range n).map fun k => (a + k, f k)).foldl (fun m b => mset m b.1 b.2) m) x = if a ≤ x ∧ x < a + n then f (x - a) else mget m x := by
  induction n with
  | zero => rw [if_neg (by omega)]; rfl
  | succ n ih =>
    rw [List.range_succ, List.map_append, List.foldl_append, List.map_singleton, List.foldl_cons, List.foldl_nil, mget, mset, tget_tset]
    by_cases hlast : x = a + n
    · rw [if_pos hlast, if_pos (by omega), hlast, Nat.add_sub_cancel_left]
    · rw [if_neg hlast, ← mget, ih]
      exact if_congr (by omega) rfl rfl

/-! ### A reader over which bytes are written -/

/-- A reader with bytes written from an address on. -/
def patched (rd : Reader) (a : Nat) (bytes : List Byte) : Reader := fun va => if a ≤ va ∧ va < a + bytes.length then nth 0 bytes (va - a) else rd va

theorem patched_in (rd : Reader) (a : Nat) (bytes : List Byte) {k : Nat} (h : k < bytes.length) : patched rd a bytes (a + k) = nth 0 bytes k := by
  rw [patched, if_pos (by omega), Nat.add_sub_cancel_left]

theorem patched_out (rd : Reader) {a : Nat} {bytes : List Byte} {va : Nat} (h : va < a ∨ a + bytes.length ≤ va) : patched rd a bytes va = rd va :=
  if_neg (by omega)

theorem overReader_nil (rd : Reader) : overReader rd [] = rd := rfl

theorem overReader_putBytes (rd : Reader) (a : Nat) (bytes : List Byte) : overReader rd (putBytes [] a bytes) = patched rd a bytes := by
  funext va
  rw [overReader, putBytes_nil, tfind_map_range, patched]
  split <;> rfl

theorem patched_patched (rd : Reader) (a : Nat) (bytes : List Byte) : patched (patched rd a bytes) a bytes = patched rd a bytes := by
  funext va
  unfold patched
  split <;> rfl

/-- Where bytes are written over one element of a block. -/
structure Region.Element (r : Region) (base e a : Nat) (bytes : List Byte) : Prop where
  shaped : r.Shaped
  place : a = base + e * r.width
  inside : e < r.elems
  size : bytes.length = r.width

section
variable {r : Region} {base e a : Nat} {bytes : List Byte} (h : r.Element base e a bytes)
include h

theorem Region.Element.code_patched (rd : Reader) : r.code (patched rd a bytes) base e = leNat bytes := by
  have hbytes : ((List.range r.width).map fun k => patched rd a bytes (base + e * r.width + k)) = bytes := by
    rw [← map_range_nth (0 : Byte) h.size]
    refine List.map_congr_left fun k hk => ?_
    rw [← h.place, map_range_nth (0 : Byte) h.size, patched_in rd a bytes (by rw [h.size]; exact List.mem_range.1 hk)]
  rw [Region.code, hbytes]

theorem Region.Element.code_patched_ne (rd : Reader) {j : Nat} (hj : j ≠ e) : r.code (patched rd a bytes) base j = r.code rd base j := by
  refine congrArg leNat (List.map_congr_left fun k hk => patched_out rd ?_)
  have hk := List.mem_range.1 hk
  rw [h.place, h.size]
  obtain hlt | hgt := Nat.lt_or_gt_of_ne hj
  · have hle := Nat.mul_le_mul_right r.width (show j + 1 ≤ e from hlt)
    rw [Nat.succ_mul] at hle
    omega
  · have hle := Nat.mul_le_mul_right r.width (show e + 1 ≤ j from hgt)
    rw [Nat.succ_mul] at hle
    omega

theorem Region.Element.touched_eq : r.touched (a - base) bytes.length = [e] := by
  have hw := h.shaped.width_pos
  have hin := h.inside
  have hnext (j : Nat) (hj : e < j) : ¬j * r.width < e * r.width + r.width := by
    rw [← Nat.succ_mul]
    exact Nat.not_lt.2 (Nat.mul_le_mul_right _ hj)
  have hself : e * r.width < (e + 1) * r.width ∧ e * r.width < e * r.width + r.width := by
    rw [Nat.succ_mul]
    omega
  rw [Region.touched, h.size, h.place, Nat.add_sub_cancel_left, Nat.mul_div_cancel _ hw, Nat.div_self hw]
  simp [List.range_succ_eq_map, hin, hself, hnext]

/-- A record after one element of its block was written. -/
def Region.follow (r : Region) (rd' : Reader) (base k e old new : Nat) (x : Rec) : Rec :=
  if old = new then x
  else match k with
    | 1 => r.boundsStep x e (r.val old) (r.val new)
    | 2 => r.sumStep x (r.val old) (r.val new)
    | 3 => r.setZmap rd' base x (e / 8)
    | _ => x

end

theorem foldl_setRecord_eq (key : Nat → Nat) (F : Nat → Rec → Rec) {ks : List Nat} (hnd : ks.Nodup)
    (hkey : ∀ j ∈ ks, ∀ k ∈ ks, key j = key k → j = k) (s : State) :
    ks.foldl (fun s k => setRecord s (key k) (F k (record s (key k)))) s = putRecords s (ks.map fun k => (key k, F k (record s (key k)))) := by
  induction ks generalizing s with
  | nil => rfl
  | cons k ks ih =>
    obtain ⟨hk, hnd⟩ := List.nodup_cons.1 hnd
    rw [List.foldl_cons, ih hnd (fun i hi j hj => hkey i (List.mem_cons_of_mem k hi) j (List.mem_cons_of_mem k hj))]
    have hsame : (ks.map fun j => (key j, F j (record (setRecord s (key k) (F k (record s (key k)))) (key j)))) =
        ks.map fun j => (key j, F j (record s (key j))) := List.map_congr_left fun j hj => by
      rw [record_setRecord, if_neg fun he => hk (hkey j (List.mem_cons_of_mem k hj) k (List.mem_cons_self ..) he ▸ hj)]
    rw [hsame]
    rfl

theorem Region.kinds_nodup {r : Region} (h : r.k1 ≠ r.k2) : r.kinds.Nodup :=
  List.Nodup.filter _ (List.nodup_cons.2 ⟨by simpa using h, List.nodup_singleton _⟩)

/-- The records of one block that follow a written element. -/
theorem digestWrite_eq {s : State} {n : Nat} {r : Region} {b base e a : Nat} {bytes : List Byte} (hat : regionAt s a = some (n, r))
    (hkinds : r.k1 ≠ r.k2) (hb : (a - r.base) / r.block = b) (hbase : r.base + b * r.block = base) (he : r.Element base e a bytes) (rd : Reader) :
    digestWrite s rd a bytes = putRecords s (r.kinds.map fun k =>
      (recKey n b k, r.follow (patched rd a bytes) base k e (r.code rd base e) (leNat bytes) (record s (recKey n b k)))) := by
  refine Eq.trans ?_ (foldl_setRecord_eq (fun k => recKey n b k)
    (fun k x => r.follow (patched rd a bytes) base k e (r.code rd base e) (leNat bytes) x) (Region.kinds_nodup hkinds) (fun j _ k _ hjk => by
      unfold recKey at hjk
      omega) s)
  rw [digestWrite, hat]
  simp only [hb, hbase, he.touched_eq, List.map_singleton]
  refine List.foldl_ext _ _ _ fun t k _ => congrArg (setRecord t _) ?_
  simp only [show (fun x => if a ≤ x ∧ x < a + bytes.length then nth 0 bytes (x - a) else rd x) = patched rd a bytes from rfl, he.code_patched rd]
  by_cases hsame : r.code rd base e = leNat bytes
  · have hnone : ([(e, r.code rd base e, leNat bytes)].filter fun c => c.2.1 != c.2.2) = [] := by simp [hsame]
    simp only [Region.follow, if_pos hsame, hnone, List.foldl_nil]
    split <;> rfl
  · have hone : ([(e, r.code rd base e, leNat bytes)].filter fun c => c.2.1 != c.2.2) = [(e, r.code rd base e, leNat bytes)] := by simp [hsame]
    simp only [Region.follow, if_neg hsame, hone, List.foldl_cons, List.foldl_nil] <;> rfl

end Sys2Proof.Machine

namespace Sys2Proof.Machine

/-! ### The row of an element -/

theorem find?_congr_pairwise {α : Type} {R : α → α → Prop} {p q : α → Bool} {x : α} {l : List α} (hp : l.find? p = some x) (hq : q x = true)
    (hl : l.Pairwise R) (hR : ∀ y, R y x → q y = false) : l.find? q = some x := by
  induction l with
  | nil => nomatch hp
  | cons y l ih =>
    obtain ⟨hy, hl⟩ := List.pairwise_cons.1 hl
    rw [List.find?_cons] at hp ⊢
    split at hp
    · rw [Option.some.inj hp, hq]
    · rw [hR y (hy x (List.mem_of_find?_eq_some hp))]
      exact ih hp hl

section
variable {r : Region} {b base e a : Nat} {bytes : List Byte} (hbase : r.base + b * r.block = base) (h : r.Element base e a bytes)
include h

theorem Region.Element.row_lt : e / r.rowLen < r.rpb := by
  have hin := h.inside
  rw [h.shaped.elems_eq, Nat.mul_comm] at hin
  exact Nat.div_lt_of_lt_mul hin

/-- The row of an element stands in the block. -/
theorem Region.Element.row_le : e / r.rowLen * r.rowBytes + r.rowBytes ≤ r.block := by
  rw [h.shaped.block_eq, ← Nat.succ_mul]
  exact Nat.mul_le_mul_right _ h.row_lt

/-- An element stands in its row. -/
theorem Region.Element.place_row :
    e * r.width = e / r.rowLen * r.rowBytes + e % r.rowLen * r.width ∧ e % r.rowLen * r.width + r.width ≤ r.rowBytes := by
  refine ⟨?_, ?_⟩
  · conv_lhs => rw [← Nat.div_add_mod e r.rowLen]
    rw [h.shaped.rowBytes_eq]
    ring
  · rw [h.shaped.rowBytes_eq, ← Nat.succ_mul]
    exact Nat.mul_le_mul_right _ (Nat.mod_lt _ h.shaped.row)

include hbase

theorem Region.Element.offset_eq : a - r.base = (b * r.rpb + e / r.rowLen) * r.rowBytes + e % r.rowLen * r.width := by
  obtain ⟨hplace, -⟩ := h.place_row
  rw [h.place, ← hbase, h.shaped.block_eq, hplace, Nat.add_mul, Nat.mul_assoc]
  omega

/-- The one row that the bytes of an element lie in. -/
theorem Region.Element.rows : (a - r.base) / r.rowBytes = b * r.rpb + e / r.rowLen ∧
    (a + bytes.length - 1 - r.base) / r.rowBytes = b * r.rpb + e / r.rowLen := by
  have hw := h.shaped.width_pos
  obtain ⟨-, hle⟩ := h.place_row
  have hoff := h.offset_eq hbase
  have hrow (k : Nat) (hk : k < r.rowBytes) : ((b * r.rpb + e / r.rowLen) * r.rowBytes + k) / r.rowBytes = b * r.rpb + e / r.rowLen := by
    rw [Nat.mul_comm, Nat.mul_add_div h.shaped.rowBytes_pos, Nat.div_eq_of_lt hk, Nat.add_zero]
  have hge : r.base ≤ a := by
    rw [h.place]
    omega
  refine ⟨by rw [hoff, hrow _ (by omega)], ?_⟩
  rw [h.size, show a + r.width - 1 - r.base = (a - r.base) + (r.width - 1) by omega, hoff, Nat.add_assoc, hrow _ (by omega)]

/-- Where that row begins. -/
theorem Region.Element.rowStart : r.base + (b * r.rpb + e / r.rowLen) * r.rowBytes = base + e / r.rowLen * r.rowBytes := by
  rw [← hbase, h.shaped.block_eq]
  ring

theorem Region.Element.rowBlock : (base + e / r.rowLen * r.rowBytes - r.base) / r.block = b := by
  have hle := h.row_le
  have hpos := h.shaped.rowBytes_pos
  rw [← hbase, show r.base + b * r.block + e / r.rowLen * r.rowBytes - r.base = r.block * b + e / r.rowLen * r.rowBytes by
    rw [Nat.mul_comm r.block b]; omega, Nat.mul_add_div r.block_pos, Nat.div_eq_of_lt (by omega), Nat.add_zero]

omit hbase in
theorem Region.Element.code_row (rd : Reader) (c : Nat) :
    r.code rd (base + e / r.rowLen * r.rowBytes) c = r.code rd base (e / r.rowLen * r.rowLen + c) := by
  have hplace (k : Nat) : base + e / r.rowLen * r.rowBytes + c * r.width + k = base + (e / r.rowLen * r.rowLen + c) * r.width + k := by
    rw [h.shaped.rowBytes_eq]
    ring
  simp only [Region.code, hplace]

end

theorem Region.keeps_of_mem {r : Region} {k : Nat} (h : k ∈ [r.k1, r.k2]) : r.keeps k = true := by
  simp only [List.mem_cons, List.not_mem_nil, or_false] at h
  obtain rfl | rfl := h <;> simp [Region.keeps]

/-! ### The keepers follow one element -/

/-- Nothing but records has changed. -/
def RecordsOnly (s t : State) : Prop := t = { s with records := t.records }

theorem RecordsOnly.trans {s t u : State} (h : RecordsOnly s t) (g : RecordsOnly t u) : RecordsOnly s u :=
  Eq.trans g (congrArg (fun x : State => { x with records := u.records }) h)

theorem RecordsOnly.putRecords (s : State) (l : List (Nat × Rec)) : RecordsOnly s (putRecords s l) := putRecords_eq s l

theorem RecordsOnly.setRecord (s : State) (key : Nat) (x : Rec) : RecordsOnly s (setRecord s key x) := rfl

theorem record_putRecords_same {s : State} {l : List (Nat × Rec)} (h : ∀ e ∈ l, e.2 = record s e.1) (j : Nat) :
    record (putRecords s l) j = record s j := by
  unfold putRecords
  induction l generalizing s with
  | nil => rfl
  | cons e l ih =>
    have hsame (i : Nat) : record (setRecord s e.1 e.2) i = record s i := by
      rw [record_setRecord]
      split
      · next hi => rw [hi, h e (List.mem_cons_self ..)]
      · rfl
    rw [List.foldl_cons, ih fun x hx => by rw [hsame]; exact h x (List.mem_cons_of_mem e hx), hsame]

/-- A state after one write of the bytes of an element, `old` the reader of the state before. -/
structure Followed (t : State) (old : Reader) (w : StepWrite) (n : Nat) (r : Region) (b base e : Nat) : Prop where
  found : regionAt t w.va = some (n, r)
  apart : t.regions.Pairwise fun x y => x.2.base + x.2.len ≤ y.2.base ∨ y.2.base + y.2.len ≤ x.2.base
  whole : r.len % r.block = 0
  sound : t.badLines = []
  kinds : r.k1 ≠ r.k2
  block : (w.va - r.base) / r.block = b
  start : r.base + b * r.block = base
  element : r.Element base e w.va w.bytes
  good : w.bad = false
  now : ∀ j, j < r.block → readerOf (snapImage t) (base + j) = patched old w.va w.bytes (base + j)

section
variable {t : State} {old : Reader} {w : StepWrite} {n : Nat} {r : Region} {b base e : Nat} (h : Followed t old w n r b base e)
include h

theorem Followed.code_now {j : Nat} (hj : j < r.elems) :
    r.code (readerOf (snapImage t)) base j = r.code (patched old w.va w.bytes) base j := by
  have hle : j * r.width + r.width ≤ r.block := by
    rw [← Nat.succ_mul]
    exact (Nat.mul_le_mul_right _ (show j + 1 ≤ r.elems from hj)).trans (Nat.div_mul_le_self _ _)
  refine congrArg leNat (List.map_congr_left fun k hk => ?_)
  have hk := List.mem_range.1 hk
  rw [Nat.add_assoc]
  exact h.now _ (by omega)

theorem Followed.bytes_now : ((List.range w.bytes.length).map fun k => readerOf (snapImage t) (w.va + k)) = w.bytes := by
  have hin := h.element.inside
  have hle : e * r.width + r.width ≤ r.block := by
    rw [← Nat.succ_mul]
    exact (Nat.mul_le_mul_right _ (show e + 1 ≤ r.elems from hin)).trans (Nat.div_mul_le_self _ _)
  conv_rhs => rw [← map_range_nth (0 : Byte) (rfl : w.bytes.length = w.bytes.length)]
  refine List.map_congr_left fun k hk => ?_
  have hk := List.mem_range.1 hk
  have hsize := h.element.size
  have hnow := h.now (e * r.width + k) (by omega)
  rw [← Nat.add_assoc, ← h.element.place] at hnow
  rw [hnow, patched_in old w.va w.bytes hk]

/-- What the records of the block become before the rows are sketched. -/
def Region.followed (r : Region) (t : State) (old : Reader) (w : StepWrite) (n b base e : Nat) : List (Nat × Rec) :=
  r.kinds.map fun k =>
    (recKey n b k, r.follow (patched old w.va w.bytes) base k e (r.code old base e) (leNat w.bytes) (record t (recKey n b k)))

/-- A write as the state now reads it. -/
def StepWrite.reread (t : State) (w : StepWrite) : StepWrite :=
  { w with bytes := (List.range w.bytes.length).map fun k => readerOf (snapImage t) (w.va + k), bad := false }

theorem Followed.keepWrites : ∃ u, (([w] ++ [w].map (·.reread t)).foldl (keepWrite old) (t, [])).1 = u ∧
    RecordsOnly t u ∧ ∀ j, record u j = record (putRecords t (r.followed t old w n b base e)) j := by
  have hend : [w].map (·.reread t) = [w] := by
    rw [List.map_singleton, StepWrite.reread, h.bytes_now, ← h.good]
  have hfirst : keepWrite old (t, []) w = (putRecords t (r.followed t old w n b base e), putBytes [] w.va w.bytes) := by
    simp only [keepWrite, h.found, h.good, overReader_nil, digestWrite_eq h.found h.kinds h.block h.start h.element]
    rfl
  have hregions : (putRecords t (r.followed t old w n b base e)).regions = t.regions := by rw [putRecords_eq]
  have hfound : regionAt (putRecords t (r.followed t old w n b base e)) w.va = some (n, r) := by
    rw [regionAt, hregions]
    exact h.found
  have hsecond : (keepWrite old (keepWrite old (t, []) w) w).1 =
      putRecords (putRecords t (r.followed t old w n b base e)) (r.kinds.map fun k =>
        (recKey n b k, record (putRecords t (r.followed t old w n b base e)) (recKey n b k))) := by
    rw [hfirst]
    simp only [keepWrite, hfound, h.good, overReader_putBytes, digestWrite_eq hfound h.kinds h.block h.start h.element,
      h.element.code_patched old, Region.follow, if_true]
    rfl
  rw [hend]
  refine ⟨_, hsecond, (RecordsOnly.putRecords _ _).trans (RecordsOnly.putRecords _ _), fun j => record_putRecords_same (fun x hx => ?_) j⟩
  obtain ⟨k, -, rfl⟩ := List.mem_map.1 hx
  rfl

/-- The rows that follow at the end of the step. -/
theorem Followed.sketchedRows_eq {u : State} (hu : RecordsOnly t u) :
    sketchedRows u w.va w.bytes.length = if r.keeps 4 then [base + e / r.rowLen * r.rowBytes] else [] := by
  have hfound : regionAt u w.va = some (n, r) := by
    rw [hu]
    exact h.found
  have hw := h.element.shaped.width_pos
  obtain ⟨hfirst, hlast⟩ := h.element.rows h.start
  have hsize : (w.bytes.length != 0) = true := by
    rw [h.element.size, bne_iff_ne]
    omega
  rw [sketchedRows, hfound]
  simp only [hsize, Bool.and_true, hfirst, hlast, Nat.add_sub_cancel_left]
  rw [List.range_one, List.map_singleton, Nat.add_zero, h.element.rowStart h.start]

theorem Followed.regionAt_row : regionAt t (base + e / r.rowLen * r.rowBytes) = some (n, r) := by
  have hle := h.element.row_le
  have hpos := h.element.shaped.rowBytes_pos
  have hfound := h.found
  have hin := List.find?_some h.found
  simp only [Bool.and_eq_true, decide_eq_true_iff] at hin
  have hblocks : (b + 1) * r.block ≤ r.len := by
    have hlt : b < r.len / r.block := by
      rw [← h.block]
      exact Nat.div_lt_of_lt_mul (by rw [Nat.mul_div_cancel' (Nat.dvd_of_mod_eq_zero h.whole)]; omega)
    exact (Nat.mul_le_mul_right _ hlt).trans (Nat.div_mul_le_self _ _)
  rw [Nat.succ_mul] at hblocks
  have hstart := h.start
  refine find?_congr_pairwise h.found ?_ h.apart fun y hy => ?_
  · simp only [Bool.and_eq_true, decide_eq_true_iff]
    omega
  · have hapart : y.2.base + y.2.len ≤ r.base ∨ r.base + r.len ≤ y.2.base := hy
    rw [Bool.eq_false_iff]
    simp only [ne_eq, Bool.and_eq_true, decide_eq_true_iff]
    omega

/-- The columns of the element's row that read as before. -/
theorem Followed.same_iff (c : Nat) (hc : c < r.rowLen) :
    (r.code old (base + e / r.rowLen * r.rowBytes) c == r.code (readerOf (snapImage t)) (base + e / r.rowLen * r.rowBytes) c) = true ↔
      c ≠ e % r.rowLen ∨ r.code old base e = leNat w.bytes := by
  have hrow := h.element.row_lt
  have hin : e / r.rowLen * r.rowLen + c < r.elems := by
    rw [h.element.shaped.elems_eq]
    have := Nat.mul_le_mul_right r.rowLen (show e / r.rowLen + 1 ≤ r.rpb from hrow)
    rw [Nat.succ_mul] at this
    omega
  have he : e / r.rowLen * r.rowLen + e % r.rowLen = e := by
    rw [Nat.mul_comm]
    exact Nat.div_add_mod e r.rowLen
  rw [h.element.code_row, h.element.code_row, h.code_now hin, beq_iff_eq]
  by_cases hce : c = e % r.rowLen
  · rw [hce, he, h.element.code_patched]
    simp
  · rw [h.element.code_patched_ne old (by omega)]
    simp [hce]

/-- The element's row after the step (R343). -/
theorem Followed.sketchEndRow_eq {u : State} (hu : RecordsOnly t u) :
    sketchEndRow old [w] u (base + e / r.rowLen * r.rowBytes) = setRecord u (recKey n b 4)
      (if r.code old base e = leNat w.bytes ∨ r.rowLen = 1 then
        r.sketchRow (readerOf (snapImage t)) base (record u (recKey n b 4)) (e / r.rowLen)
      else setStale (record u (recKey n b 4)) (e / r.rowLen) true) := by
  have hsnap : snapImage u = snapImage t := by rw [hu]; rfl
  have hbad : badLinesUnder u.image (base + e / r.rowLen * r.rowBytes) r.rowBytes = [] :=
    badLinesUnder_none (by rw [hu]; exact h.sound) _ _
  have hfound : regionAt u (base + e / r.rowLen * r.rowBytes) = some (n, r) := by
    rw [hu]
    exact h.regionAt_row
  have hrow : (base + e / r.rowLen * r.rowBytes - base) / r.rowBytes = e / r.rowLen := by
    rw [Nat.add_sub_cancel_left, Nat.mul_div_cancel _ h.element.shaped.rowBytes_pos]
  have hspoiled : rowSpoiled [w] (base + e / r.rowLen * r.rowBytes) r.rowBytes = false := by simp [rowSpoiled, h.good]
  have hmod := Nat.mod_lt e h.element.shaped.row
  unfold sketchEndRow
  rw [hfound, hsnap]
  simp only [h.element.rowBlock h.start, h.start, hrow, hspoiled]
  generalize hsame : ((List.range r.rowLen).filter fun c => r.code old (base + e / r.rowLen * r.rowBytes) c ==
    r.code (readerOf (snapImage t)) (base + e / r.rowLen * r.rowBytes) c) = same
  rw [if_neg Bool.false_ne_true]
  by_cases hcode : r.code old base e = leNat w.bytes
  · have hall : same = List.range r.rowLen := by
      rw [← hsame]
      exact List.filter_eq_self.2 fun c hc => (h.same_iff c (List.mem_range.1 hc)).2 (.inr hcode)
    have hne : same.isEmpty = false := by
      rw [hall, List.isEmpty_eq_false_iff]
      exact List.ne_nil_of_length_pos (by rw [List.length_range]; exact h.element.shaped.row)
    rw [hne, if_neg Bool.false_ne_true, hall, List.length_range, if_pos rfl, hbad, if_pos (Or.inl hcode)]
  · by_cases hone : r.rowLen = 1
    · have hnone : same = [] := by
        rw [← hsame]
        refine List.filter_eq_nil_iff.2 fun c hc hc' => ?_
        have hc := List.mem_range.1 hc
        obtain h' | h' := (h.same_iff c hc).1 hc'
        · omega
        · exact hcode h'
      rw [hnone, if_pos (Or.inr hone)]
      rfl
    · have hne : same.isEmpty = false := by
        rw [List.isEmpty_eq_false_iff, ← hsame]
        obtain ⟨c, hc, hce⟩ : ∃ c, c < r.rowLen ∧ c ≠ e % r.rowLen := by
          by_cases h0 : e % r.rowLen = 0
          · exact ⟨1, by omega, by omega⟩
          · exact ⟨0, by omega, fun h => h0 h.symm⟩
        exact List.ne_nil_of_mem (List.mem_filter.2 ⟨List.mem_range.2 hc, (h.same_iff c hc).2 (.inl hce)⟩)
      have hlt : same.length ≠ r.rowLen := by
        rw [← hsame]
        refine ne_of_lt ((List.length_filter_lt_length_iff_exists.2 ⟨e % r.rowLen, List.mem_range.2 hmod, fun hc => ?_⟩).trans_eq
          List.length_range)
        obtain h' | h' := (h.same_iff _ hmod).1 hc
        · exact h' rfl
        · exact hcode h'
      rw [hne, if_neg Bool.false_ne_true, if_neg hlt, if_neg (not_or.2 ⟨hcode, hone⟩)]

/-- The records that the keepers leave: those of the element's block follow it, no other changes (R340 to R343). -/
theorem Followed.keepStep_spec :
    let z := keepStep t old [w]
    let follow (k : Nat) : Rec := r.follow (patched old w.va w.bytes) base k e (r.code old base e) (leNat w.bytes) (record t (recKey n b k))
    RecordsOnly t z ∧ (∀ j, (∀ k ∈ r.kinds, j ≠ recKey n b k) → record z j = record t j) ∧
      (∀ k ∈ r.kinds, k ≠ 4 → record z (recKey n b k) = follow k) ∧
      (4 ∈ r.kinds → record z (recKey n b 4) =
        if r.code old base e = leNat w.bytes ∨ r.rowLen = 1 then
          r.sketchRow (readerOf (snapImage t)) base (record t (recKey n b 4)) (e / r.rowLen)
        else setStale (record t (recKey n b 4)) (e / r.rowLen) true) := by
  intro z follow
  obtain ⟨u, hu, honly, hrec⟩ := h.keepWrites
  have hz : z = if r.keeps 4 then setRecord u (recKey n b 4)
      (if r.code old base e = leNat w.bytes ∨ r.rowLen = 1 then
        r.sketchRow (readerOf (snapImage t)) base (record u (recKey n b 4)) (e / r.rowLen)
      else setStale (record u (recKey n b 4)) (e / r.rowLen) true) else u := by
    have hkeep : z = sketchEnd (([w] ++ [w].map (·.reread t)).foldl (keepWrite old) (t, [])).1 old [w] := rfl
    rw [hkeep, hu, sketchEnd, List.flatMap_singleton, h.sketchedRows_eq honly]
    split
    · rw [← h.sketchEndRow_eq honly]
      rfl
    · rfl
  have hkey {j k : Nat} (hjk : recKey n b j = recKey n b k) : j = k := by
    unfold recKey at hjk
    omega
  have hin (k : Nat) (hk : k ∈ r.kinds) : record u (recKey n b k) = follow k := by
    rw [hrec]
    refine record_putRecords_in (List.mem_map.2 ⟨k, hk, rfl⟩) fun y hy => ?_
    obtain ⟨c, -, hc⟩ := List.mem_map.1 hy
    obtain ⟨hck, rfl⟩ := Prod.mk.inj hc
    rw [hkey hck]
  have hout (j : Nat) (hj : ∀ k ∈ r.kinds, j ≠ recKey n b k) : record u j = record t j := by
    rw [hrec]
    refine record_putRecords_out fun x hx => ?_
    obtain ⟨k, hk, rfl⟩ := List.mem_map.1 hx
    exact (hj k hk).symm
  have hmem : r.keeps 4 = true → 4 ∈ r.kinds := fun hk => by
    simp only [Region.keeps, Bool.or_eq_true, beq_iff_eq] at hk
    refine List.mem_filter.2 ⟨?_, by decide⟩
    obtain hk | hk := hk <;> simp [hk]
  have hkeeps : 4 ∈ r.kinds → r.keeps 4 = true := fun hk => Region.keeps_of_mem (List.mem_filter.1 hk).1
  rw [hz]
  refine ⟨?_, fun j hj => ?_, fun k hk h4 => ?_, fun h4 => ?_⟩
  · split
    · exact honly.trans (RecordsOnly.setRecord _ _ _)
    · exact honly
  · split
    · next hk => rw [record_setRecord, if_neg (hj 4 (hmem hk)), hout j hj]
    · exact hout j hj
  · split
    · rw [record_setRecord, if_neg fun he => h4 (hkey he), hin k hk]
    · exact hin k hk
  · have hfollow : follow 4 = record t (recKey n b 4) := by
      simp only [follow, Region.follow]
      exact ite_self _
    rw [if_pos (hkeeps h4), record_setRecord, if_pos rfl, hin 4 h4, hfollow]

end
end Sys2Proof.Machine

namespace Sys2Proof.Machine

/-! ### The commit step of one store (R324) -/

/-- No commit step in progress holds a note of what stood in memory. -/
def NoUndo (s : State) : Prop := ∀ e ∈ s.launches, ∀ c, e.2.commit = some c → c.undo = []

theorem NoUndo.modLaunch {s : State} (h : NoUndo s) (m : Nat) {f : Launch → Launch} (hf : ∀ c, (f (launch s m)).commit = some c → c.undo = []) :
    NoUndo (modLaunch s m f) := by
  intro e he c hc
  obtain rfl | he := mem_tset he
  · exact hf c hc
  · exact h e he c hc

theorem NoUndo.launch {s : State} (h : NoUndo s) (m : Nat) {c : Commit} (hc : (launch s m).commit = some c) : c.undo = [] := by
  obtain hm | hm := tget_mem Launch.none s.launches m
  · exact h _ hm c hc
  · rw [Machine.launch, hm] at hc
    nomatch hc

/-- A state in a step of launch `l`: from `s` only launches differ, and of `l` only its step, now `c`, and what it wrote. -/
structure InStep (s : State) (l : Nat) (c : Commit) (t : State) : Prop where
  rest : t = { s with launches := t.launches }
  step : launch t l = { launch s l with commit := some c, writeLog := (launch t l).writeLog }
  noUndo : NoUndo t
  undo : c.undo = []

section
variable {s t : State} {l : Nat} {c : Commit} (h : InStep s l c t)
include h

theorem InStep.commit : (launch t l).commit = some c := by rw [h.step]

theorem InStep.stepOf_eq : stepOf t l = c := by rw [stepOf, h.commit]; rfl

theorem InStep.modStep {f : Commit → Commit} (hf : (f c).undo = []) : InStep s l (f c) (modStep t l f) := by
  refine ⟨?_, ?_, h.noUndo.modLaunch l fun d hd => ?_, hf⟩
  · exact congrArg (fun x : State => { x with launches := (Machine.modStep t l f).launches }) h.rest
  · rw [Machine.modStep, launch_modLaunch_self, h.commit]
    exact congrArg (fun x : Launch => { x with commit := some (f c), writeLog := (launch t l).writeLog }) h.step
  · simp only [h.commit, Option.map_some, Option.some.injEq] at hd
    rw [← hd, hf]

/-- What a launch wrote is noted. -/
theorem InStep.noteLog (f : Launch → List (Nat × Nat × Nat)) : InStep s l c (modLaunch t l fun x => { x with writeLog := f x }) := by
  refine ⟨?_, ?_, h.noUndo.modLaunch l fun d hd => h.noUndo.launch l hd, h.undo⟩
  · exact congrArg (fun x : State => { x with launches := (modLaunch t l fun x => { x with writeLog := f x }).launches }) h.rest
  · rw [launch_modLaunch_self]
    exact congrArg (fun x : Launch => { x with writeLog := f (launch t l) }) h.step

theorem InStep.logWrites (ws : List StepWrite) :
    InStep s l { c with log := ws.foldl (fun t w => insWrite w t) c.log } (logWrites t l ws) :=
  (h.modStep (f := fun c => { c with log := ws.foldl (fun t w => insWrite w t) c.log }) h.undo).noteLog fun x =>
    x.writeLog ++ (ws.filter fun w => !w.bytes.isEmpty).map fun w =>
      ((Machine.stepOf (Machine.modStep t l fun c => { c with log := ws.foldl (fun t w => insWrite w t) c.log }) l).q, w.va, w.bytes.length)

end

/-- A store as a step's log has it. -/
def storeWrite (a : Nat) (bytes : List Byte) : StepWrite := { place := 0, direct := false, va := a, bytes := bytes, bad := false }

/-- The step of one store, applied. -/
def storeStep (q pa a : Nat) (bytes : List Byte) : Commit :=
  { emptyStep q with
    view := { StepView.empty with bytes := putBytes [] pa bytes }
    log := [storeWrite a bytes] }

/-- A quantum with one store, to a plain page of this module that no other shows, on sound lines. -/
structure OneStore (s : State) (l : Nat) (u : WUnit) (a : Nat) (bytes : List Byte) (base : Nat) (p : Page) : Prop where
  running : (launch s l).ended = none
  idle : (launch s l).commit = none
  may : mayCommit s l ((launch s l).committed + 1) = true
  promos : s.promos = []
  inbox : s.fabric.inbox = []
  noStep : anyStep s = false
  badLines : s.badLines = []
  badRecords : s.badRecords = []
  free : s.channelsFree
  rescans : (launch s l).rescans = []
  units : (launch s l).units = [u]
  quantum : u.q = (launch s l).committed + 1
  kind : u.kind = .gst a bytes
  page : findPage s.pages a = some (base, p)
  alone : aliasesOf s [] a = []
  plain : p.rep = 0
  here : s.remotePage p = false

section
variable {s : State} {l : Nat} {u : WUnit} {a : Nat} {bytes : List Byte} {base : Nat} {p : Page} (h : OneStore s l u a bytes base p)
include h

theorem OneStore.begun : InStep s l { emptyStep u.q with units := [(0, u)] } (beginStep s l u.q) := by
  have hpromos : decidePromos s l = s := by
    have hp := h.promos
    cases s
    simp only at hp
    subst hp
    rfl
  have hunits : (launch s l).units.filter (fun v => v.q ≤ u.q) = [u] := by
    rw [h.units]
    simp
  have hbegin : beginStep s l u.q = modLaunch s l fun x => { x with commit := some { emptyStep u.q with units := [(0, u)] } } := by
    rw [beginStep, hpromos]
    simp only [modLaunch, hunits]
    rfl
  rw [hbegin]
  refine ⟨rfl, by rw [launch_modLaunch_self], NoUndo.modLaunch (undo_of_noStep h.noStep) l fun c hc => ?_, rfl⟩
  rw [← Option.some.inj hc]
  rfl

theorem OneStore.applied {t : State} (ht : InStep s l (emptyStep u.q) t) :
    InStep s l (storeStep u.q (physOf base p a) a bytes) (stepWrite t l 0 u.key a bytes false).1 := by
  have hpage : findPage t.pages a = some (base, p) := by rw [ht.rest]; exact h.page
  have hhere : t.remotePage p = false := by rw [ht.rest]; exact h.here
  have hgood : lineBad t l (physOf base p a) = false := by
    rw [lineBad, ht.rest]
    simp [h.badLines]
  have hopen : stepOpen t l 0 base p = t := by simp [stepOpen, h.plain]
  have hput := ht.modStep (f := fun c => { c with view := { c.view with bytes := putBytes c.view.bytes (physOf base p a) bytes } }) rfl
  have halone : throughAliases t [] (storeWrite a bytes) = [storeWrite a bytes] := by
    have hnone : aliasesOf t [] a = [] := by rw [ht.rest]; exact h.alone
    rw [throughAliases, storeWrite, hnone]
    rfl
  have hwrite : (stepWrite t l 0 u.key a bytes false).1 = logWrites
      (modStep t l fun c => { c with view := { c.view with bytes := putBytes c.view.bytes (physOf base p a) bytes } }) l
      [storeWrite a bytes] := by
    have hopened : (stepOf t l).view.opened = [] := by rw [ht.stepOf_eq]; rfl
    have hbytes : stepPut t l u.key (physOf base p a) bytes false =
        (modStep t l fun c => { c with view := { c.view with bytes := putBytes c.view.bytes (physOf base p a) bytes } }, .done) := by
      simp [stepPut, hgood]
    rw [stepWrite, hpage]
    simp [h.plain, hhere, hopen, hbytes, hgood, hopened]
    exact congrArg (logWrites _ l) halone
  rw [hwrite]
  exact hput.logWrites [storeWrite a bytes]

/-- The step begun and applied. -/
theorem OneStore.continued : InStep s l (storeStep u.q (physOf base p a) a bytes) (continueStep (beginStep s l u.q) l) := by
  have hbegun := h.begun
  have hmod := hbegun.modStep (f := fun c => { c with units := [] }) rfl
  have hbusy : busyTargets (modStep (beginStep s l u.q) l fun c => { c with units := [] }) l = [] := by
    rw [busyTargets, hmod.stepOf_eq]
    rfl
  have hguest : guestCall u = false := by rw [guestCall, h.kind]
  have happly (t : State) : applyUnit t l (0, u) = (stepWrite t l 0 u.key a bytes false).1 := by rw [applyUnit, h.kind]
  rw [continueStep, hbegun.stepOf_eq]
  simp only [advanceUnits, hbusy, hguest]
  rw [if_neg (by simp), happly]
  exact h.applied hmod

end
end Sys2Proof.Machine

namespace Sys2Proof.Machine

/-! ### The step of one store completes -/

theorem dueMsgs_none {f : Fabric} (h : f.inbox = []) : dueMsgs f = [] := by
  rw [dueMsgs, h]
  exact List.flatMap_eq_nil_iff.2 fun _ _ => rfl

theorem RecordsOnly.launch {s t : State} (h : RecordsOnly s t) (l : Nat) : launch t l = launch s l := by
  rw [h]
  rfl

theorem rebuildBad_none {s : State} (h : s.badRecords = []) : rebuildBad s = s := by
  rw [rebuildBad, h, List.foldl_nil]
  exact congrArg (fun b => { s with badRecords := b }) h.symm

theorem InStep.modStep_ne {s t : State} {l m : Nat} {c : Commit} (h : InStep s l c t) (hm : m ≠ l) {f : Commit → Commit}
    (hf : ∀ c, c.undo = [] → (f c).undo = []) : InStep s l c (Machine.modStep t m f) := by
  refine ⟨?_, ?_, h.noUndo.modLaunch m fun d hd => ?_, h.undo⟩
  · exact congrArg (fun x : State => { x with launches := (Machine.modStep t m f).launches }) h.rest
  · rw [Machine.modStep, launch_modLaunch_ne _ _ _ _ hm.symm]
    exact h.step
  · obtain ⟨d', hd', rfl⟩ := Option.map_eq_some_iff.1 hd
    exact hf d' (h.noUndo.launch m hd')

theorem InStep.dropUndo {s t : State} {l : Nat} {c : Commit} (h : InStep s l c t) (v : StepView) (es : List (Nat × Launch)) :
    InStep s l c (es.foldl (fun s e => if e.1 = l then s else
      Machine.modStep s e.1 fun c => { c with undo := c.undo.filter fun u => (tfind v.bytes u.1).isNone }) t) := by
  induction es generalizing t with
  | nil => exact h
  | cons e es ih =>
    refine ih ?_
    dsimp only
    split
    · exact h
    · next he => exact h.modStep_ne he fun c hc => by rw [hc]; rfl

/-- The state after a step of `bytes` at `pa`: only memory and launches differ. -/
structure StoreLanded (s : State) (l q pa : Nat) (bytes : List Byte) (t : State) : Prop where
  rest : t = { s with launches := t.launches, mem := t.mem }
  mem : ∀ x, mget t.mem x = if pa ≤ x ∧ x < pa + bytes.length then nth 0 bytes (x - pa) else mget s.mem x
  committed : (launch t l).committed = q
  noUndo : NoUndo t

/-- What becomes of a launch whose quantum `q` has committed. -/
def Launch.commits (q : Nat) (x : Launch) : Launch :=
  { x with committed := q, units := x.units.filter fun u => q < u.q, rescans := x.rescans.filter fun r => q < r.1 }

section
variable {s : State} {l : Nat} {u : WUnit} {a : Nat} {bytes : List Byte} {base : Nat} {p : Page} (h : OneStore s l u a bytes base p)
include h

/-- The state as the keepers find it. -/
theorem OneStore.landed {t : State} (ht : InStep s l (storeStep u.q (physOf base p a) a bytes) t) :
    StoreLanded s l u.q (physOf base p a) bytes
      (modLaunch (landStep t l (storeStep u.q (physOf base p a) a bytes).view) l fun x => { Launch.commits u.q x with commit := none }) := by
  have hdrop := ht.dropUndo (storeStep u.q (physOf base p a) a bytes).view t.launches
  generalize hd : t.launches.foldl _ t = d at hdrop
  have hland : landStep t l (storeStep u.q (physOf base p a) a bytes).view =
      { d with
        mem := (putBytes [] (physOf base p a) bytes).foldl (fun m b => mset m b.1 b.2) d.mem
        badLines := d.badLines.filter fun n => !(storeStep u.q (physOf base p a) a bytes).view.rewrites n } := by
    rw [← hd]
    rfl
  have hbad : d.badLines = [] := by rw [hdrop.rest]; exact h.badLines
  have hmem : d.mem = s.mem := by rw [hdrop.rest]
  rw [hland, hbad, List.filter_nil, hmem]
  refine ⟨?_, fun x => ?_, ?_, NoUndo.modLaunch ?_ l fun c hc => by simp at hc⟩
  · have hbad' := h.badLines
    rw [hdrop.rest]
    cases s
    simp only at hbad'
    subst hbad'
    rfl
  · change mget ((putBytes [] (physOf base p a) bytes).foldl (fun m b => mset m b.1 b.2) s.mem) x = _
    rw [putBytes_nil, mget_foldl_mset]
  · rw [launch_modLaunch_self]
    rfl
  · exact hdrop.noUndo

/-- The step completes: the keepers follow the store, and nothing else is left to follow. -/
theorem OneStore.ledger_completeStep {t t' : State} (ht : InStep s l (storeStep u.q (physOf base p a) a bytes) t) (hland : modLaunch
      (landStep t l (storeStep u.q (physOf base p a) a bytes).view) l (fun x => { Launch.commits u.q x with commit := none }) = t')
    (hkeep : RecordsOnly t' (keepStep t' (readerOf s.image) [storeWrite a bytes])) :
    ledger l (completeStep t l) =
      ledger l (keepStep t' (readerOf s.image) [storeWrite a bytes]) := by
  have hlanded : StoreLanded s l u.q (physOf base p a) bytes t' := hland ▸ h.landed ht
  have hmsgs : (if oldestLaunch t = some l then applyMsgs t l else t) = t := by
    have hinbox : t.fabric.inbox = [] := by rw [ht.rest]; exact h.inbox
    rw [applyMsgs, dueMsgs_none hinbox]
    exact ite_self t
  have hrescans : (launch t l).rescans = [] := by rw [ht.step]; exact h.rescans
  have himage : t.image = s.image := by rw [ht.rest]; rfl
  have hwrites : landWrites t l (Launch.commits u.q) =
      keepStep t' (readerOf s.image) [storeWrite a bytes] := by
    rw [landWrites, ht.stepOf_eq, snapImage_of_undo ht.noUndo, himage, ← hland]
    rfl
  have hbad : (keepStep t' (readerOf s.image) [storeWrite a bytes]).badRecords = [] := by
    rw [hkeep, hlanded.rest]
    exact h.badRecords
  have hq : (storeStep u.q (physOf base p a) a bytes).q = u.q := rfl
  have hcommits : (fun x : Launch => { x with
      committed := u.q
      units := x.units.filter fun v => decide (u.q < v.q)
      rescans := x.rescans.filter fun r => decide (u.q < r.1) }) = Launch.commits u.q := rfl
  rw [completeStep]
  simp only [hmsgs, ht.stepOf_eq, hq, hrescans, List.filter_nil, List.foldl_nil, hcommits, hwrites]
  generalize keepStep t' (readerOf s.image) [storeWrite a bytes] = k at hbad
  rw [rebuildBad_none (s := aimGloads k l u.q) hbad]
  change ledger l (if (launch (aimGloads k l u.q) l).running = true then checkEnd (finishNodes (aimGloads k l u.q) l u.q) l
    else aimGloads k l u.q) = _
  split
  · rw [ledger_checkEnd, ledger_finishNodes]
    rfl
  · rfl

/-- QUANTUM_COMMIT of that one store: the keepers follow it, and the quantum is committed. -/
theorem OneStore.exec (hkeep : ∀ t, StoreLanded s l u.q (physOf base p a) bytes t →
      RecordsOnly t (keepStep t (readerOf s.image) [storeWrite a bytes])) :
    ∃ t z, StoreLanded s l u.q (physOf base p a) bytes t ∧ Machine.exec (.quantumCommit l) s = .next z ∧ (launch z l).committed = u.q ∧
      z.records = (keepStep t (readerOf s.image) [storeWrite a bytes]).records := by
  have hstep := h.continued
  have hlanded := h.landed hstep
  obtain ⟨hrecords, hcommitted⟩ := Prod.mk.inj (h.ledger_completeStep hstep rfl (hkeep _ hlanded))
  refine ⟨_, _, hlanded, ?_, hcommitted.trans ?_, hrecords⟩
  · have hbegin : ((launch s l).running && (launch s l).commit.isNone && mayCommit s l ((launch s l).committed + 1)) = true := by
      rw [Launch.running, h.running, h.idle, h.may]
      rfl
    rw [← h.quantum] at hbegin
    have hsome : (launch (beginStep s l u.q) l).commit.isNone = false := by rw [h.begun.commit]; rfl
    have hover : stepOver (continueStep (beginStep s l u.q) l) l = true := by
      rw [stepOver, hstep.stepOf_eq]
      rfl
    have hfree : (continueStep (beginStep s l u.q) l).channelsFree :=
      channelsFree_of_drones (by rw [hstep.rest]) h.free
    rw [exec_quantumCommit, execQuantumCommit]
    simp only [hbegin, if_true, ← h.quantum, hsome, Bool.false_eq_true, if_false, hover, ordinaryAccess_free hfree]
  · rw [(hkeep _ hlanded).launch]
    exact hlanded.committed

end
end Sys2Proof.Machine

namespace Sys2Proof.Machine

/-! ### The block of the store, as it then reads -/

theorem findPage_congr {pages : Tab Page} {x y : Nat} (h : x / 2 ^ 16 = y / 2 ^ 16) : findPage pages x = findPage pages y := by
  have hlarge : x / 2 ^ 25 = y / 2 ^ 25 := by omega
  rw [findPage, findPage, h, hlarge]

theorem findPage_base_le {pages : Tab Page} {va base : Nat} {p : Page} (h : findPage pages va = some (base, p)) : base ≤ va := by
  simp only [findPage] at h
  split at h
  · obtain ⟨rfl, -⟩ := Prod.mk.inj (Option.some.inj h)
    exact Nat.div_mul_le_self _ _
  · split at h
    · obtain ⟨rfl, -⟩ := Prod.mk.inj (Option.some.inj h)
      exact Nat.div_mul_le_self _ _
    · nomatch h

/-- A block lies in one page. -/
theorem Region.same_page (r : Region) {x y : Nat} (h : x / r.block = y / r.block) : x / 2 ^ 16 = y / 2 ^ 16 := by
  unfold Region.block at h
  split at h <;> omega

/-- A store of one element into a region that keeps digests of it. -/
structure ElementStore (s : State) (n : Nat) (r : Region) (a : Nat) (bytes : List Byte) : Prop where
  found : regionAt s a = some (n, r)
  apart : s.regions.Pairwise fun x y => x.2.base + x.2.len ≤ y.2.base ∨ y.2.base + y.2.len ≤ x.2.base
  shaped : r.Shaped
  aligned : r.base % r.block = 0
  whole : r.len % r.block = 0
  kinds : r.k1 ≠ r.k2
  place : (a - r.base) % r.width = 0
  size : bytes.length = r.width

/-- The block of an address, where it begins, and the element there. -/
def Region.blockAt (r : Region) (a : Nat) : Nat := (a - r.base) / r.block
def Region.blockBase (r : Region) (a : Nat) : Nat := r.base + r.blockAt a * r.block
def Region.elemAt (r : Region) (a : Nat) : Nat := (a - r.base) % r.block / r.width

section
variable {s : State} {n : Nat} {r : Region} {a : Nat} {bytes : List Byte} (g : ElementStore s n r a bytes)
include g

theorem ElementStore.base_le : r.base ≤ a := by
  have hin := List.find?_some g.found
  simp only [Bool.and_eq_true, decide_eq_true_iff] at hin
  exact hin.1

theorem ElementStore.block_eq : r.block = r.elems * r.width := by
  rw [g.shaped.elems_eq, g.shaped.block_eq, g.shaped.rowBytes_eq, Nat.mul_assoc]

theorem ElementStore.element : r.Element (r.blockBase a) (r.elemAt a) a bytes := by
  have hle := g.base_le
  have hdvd : r.width ∣ (a - r.base) % r.block :=
    (Nat.dvd_mod_iff (by rw [g.block_eq]; exact Nat.dvd_mul_left _ _)).2 (Nat.dvd_of_mod_eq_zero g.place)
  refine ⟨g.shaped, ?_, ?_, g.size⟩
  · rw [Region.elemAt, Nat.div_mul_cancel hdvd, Region.blockBase, Region.blockAt, Nat.mul_comm]
    have := Nat.div_add_mod (a - r.base) r.block
    omega
  · refine Nat.div_lt_of_lt_mul ?_
    rw [Nat.mul_comm, ← g.block_eq]
    exact Nat.mod_lt _ r.block_pos

theorem ElementStore.block_div {j : Nat} (hj : j < r.block) : (r.blockBase a + j) / r.block = a / r.block := by
  have hle := g.base_le
  have hrem := Nat.mod_lt (a - r.base) r.block_pos
  have hdiv := Nat.div_add_mod (a - r.base) r.block
  obtain ⟨m, hm⟩ := Nat.dvd_of_mod_eq_zero g.aligned
  have hdiv' (k : Nat) (hk : k < r.block) : (r.block * (m + r.blockAt a) + k) / r.block = m + r.blockAt a := by
    rw [Nat.mul_add_div r.block_pos, Nat.div_eq_of_lt hk, Nat.add_zero]
  have ha : a = r.block * (m + r.blockAt a) + (a - r.base) % r.block := by
    rw [Nat.mul_add, ← hm, Region.blockAt]
    omega
  conv_rhs => rw [ha]
  rw [hdiv' _ hrem, Region.blockBase, hm, Nat.mul_comm (r.blockAt a), ← Nat.mul_add, hdiv' j hj]

variable {l : Nat} {u : WUnit} {base : Nat} {p : Page} (h : OneStore s l u a bytes base p)
include h

/-- The block after the store reads as before but for the bytes stored. -/
theorem ElementStore.now {t : State} (ht : StoreLanded s l u.q (physOf base p a) bytes t) {j : Nat} (hj : j < r.block) :
    readerOf (snapImage t) (r.blockBase a + j) = patched (readerOf s.image) a bytes (r.blockBase a + j) := by
  have hpage : findPage s.pages (r.blockBase a + j) = some (base, p) :=
    (findPage_congr (r.same_page (g.block_div hj))).trans h.page
  have hplain : ¬p.rep = 2 := by rw [h.plain]; decide
  have hva := findPage_base_le hpage
  have ha := findPage_base_le h.page
  have hpages : t.image.pages = s.pages := by rw [ht.rest]; rfl
  have hmem : t.image.mem = t.mem := rfl
  rw [snapImage_of_undo ht.noUndo, readerOf, patched, readerOf, vbyte, vbyte, hpages, show s.image.pages = s.pages from rfl, hpage]
  simp only [if_neg hplain, Option.getD_some]
  rw [hmem, ht.mem]
  refine if_congr ?_ (congrArg (nth 0 bytes) ?_) rfl <;> unfold physOf <;> omega

theorem ElementStore.followed {t : State} (ht : StoreLanded s l u.q (physOf base p a) bytes t) :
    Followed t (readerOf s.image) (storeWrite a bytes) n r (r.blockAt a) (r.blockBase a) (r.elemAt a) where
  found := by
    rw [ht.rest]
    exact g.found
  apart := by
    rw [ht.rest]
    exact g.apart
  whole := g.whole
  sound := by
    rw [ht.rest]
    exact h.badLines
  kinds := g.kinds
  block := rfl
  start := rfl
  element := g.element
  good := rfl
  now _ hj := g.now h ht hj

/-- The records after the quantum's commit (R344). -/
theorem ElementStore.exec : ∃ z, Machine.exec (.quantumCommit l) s = .next z ∧ (launch z l).committed = u.q ∧
    let old := readerOf s.image
    let b := r.blockAt a
    let e := r.elemAt a
    let x (k : Nat) : Rec := record s (recKey n b k)
    (∀ j, (∀ k ∈ r.kinds, j ≠ recKey n b k) → record z j = record s j) ∧
      (∀ k ∈ r.kinds, k ≠ 4 → record z (recKey n b k) =
        r.follow (patched old a bytes) (r.blockBase a) k e (r.code old (r.blockBase a) e) (leNat bytes) (x k)) ∧
      (4 ∈ r.kinds → ∃ rd, (∀ j, j < r.elems → r.code rd (r.blockBase a) j = r.code (patched old a bytes) (r.blockBase a) j) ∧
        record z (recKey n b 4) = if r.code old (r.blockBase a) e = leNat bytes ∨ r.rowLen = 1 then
          r.sketchRow rd (r.blockBase a) (x 4) (e / r.rowLen)
        else setStale (x 4) (e / r.rowLen) true) := by
  obtain ⟨t, z, ht, hz, hcommitted, hrecords⟩ := h.exec fun t ht => ((g.followed h ht).keepStep_spec).1
  have hf := g.followed h ht
  obtain ⟨-, hout, hkinds, hsketch⟩ := hf.keepStep_spec
  have hsame : record t = record s := by rw [ht.rest]; rfl
  simp only [hsame] at hout hkinds hsketch
  have hrecord (j : Nat) : record z j = record (keepStep t (readerOf s.image) [storeWrite a bytes]) j :=
    congrArg (fun x => tget Rec.blank x j) hrecords
  refine ⟨z, hz, hcommitted, fun j hj => ?_, fun k hk h4 => ?_, fun h4 => ⟨readerOf (snapImage t), fun j hj => hf.code_now hj, ?_⟩⟩
  · rw [hrecord, hout j hj]
  · exact (hrecord _).trans (hkinds k hk h4)
  · exact (hrecord _).trans (hsketch h4)

end
end Sys2Proof.Machine

namespace Sys2Proof.Machine

/-! ### How a record follows one element, kind by kind -/

/-- The field of one bound of the group of an element: the lower one, or with `hi` one the upper. -/
def Region.boundField (r : Region) (e : Nat) (x : Rec) (hi : Nat) : Nat := bitsOf x.body (2 * r.bw * r.groupOf e + hi * r.bw) r.bw

theorem Region.boundField_zero (r : Region) (e : Nat) (x : Rec) : r.boundField e x 0 = bitsOf x.body (2 * r.bw * r.groupOf e) r.bw := by
  rw [Region.boundField, Nat.zero_mul, Nat.add_zero]

theorem Region.boundField_one (r : Region) (e : Nat) (x : Rec) : r.boundField e x 1 = bitsOf x.body (2 * r.bw * r.groupOf e + r.bw) r.bw := by
  rw [Region.boundField, Nat.one_mul]

theorem Region.lo_eq (r : Region) (e : Nat) (x : Rec) : r.lo x (r.groupOf e) = r.boundVal (r.boundField e x 0) := by
  rw [r.boundField_zero]
  rfl

theorem Region.hi_eq (r : Region) (e : Nat) (x : Rec) : r.hi x (r.groupOf e) = r.boundVal (r.boundField e x 1) := by
  rw [r.boundField_one]
  rfl

section
variable {r : Region} (h : r.Shaped) (x : Rec) (e : Nat)
include h

theorem Region.Shaped.groupOf_lt : r.groupOf e < r.ng := by
  have hgrain := h.grain
  have hmod := Nat.mod_lt e h.row
  refine (Nat.lt_div_iff_mul_lt hgrain).2 ?_
  have hdiv := Nat.div_mul_le_self (e % r.rowLen) r.g
  rw [Region.groupOf]
  omega

/-- A group's bounds stand within the body. -/
theorem Region.Shaped.bounds_le (hk : r.keeps 1 = true) : 2 * r.bw * r.groupOf e + 2 * r.bw ≤ 1984 := by
  rw [← Nat.mul_succ]
  exact (Nat.mul_le_mul_left _ (h.groupOf_lt e)).trans (h.groups hk)

/-- The bounds of a floating format (R340). -/
theorem Region.Shaped.boundsStep_float (hk : r.keeps 1 = true) (hf : r.efmt ≤ 4) (old new : XR) :
    let y := r.boundsStep x e old new
    let bound (hi : Nat) : XR := Fmt.fp32.value (r.boundField e x hi)
    let enc (v : XR) : Nat := if v.isZero then 0 else (rne32 v).1.toNat
    y.tight = (x.tight && !(old.isNaN || old.eqv (bound 0) || old.eqv (bound 1))) ∧
      (new.isNaN = true → r.boundField e y 0 = 0xFF800000 ∧ r.boundField e y 1 = 0x7F800000) ∧
      (new.isNaN = false → r.boundField e y 0 = enc (if new.lt (bound 0) then new else bound 0) ∧
        r.boundField e y 1 = enc (if (bound 1).lt new then new else bound 1)) := by
  intro y bound enc
  obtain ⟨hrest, hlo, hhi, -⟩ := r.boundsStep_spec x e old new (h.bounds_le e hk)
  have hval (c : Nat) : r.boundVal c = Fmt.fp32.value c := if_pos (decide_eq_true hf)
  obtain ⟨hbot, htop⟩ := Region.boundCode_inf hf
  rw [← r.boundField_zero, r.lo_eq, hval] at hlo
  rw [← r.boundField_one, r.hi_eq, hval] at hhi
  rw [r.lo_eq, r.hi_eq, hval, hval] at hrest
  refine ⟨congrArg Rec.tight hrest, fun hn => ?_, fun hn => ?_⟩
  · rw [hn] at hlo hhi
    exact ⟨hlo.trans hbot, hhi.trans htop⟩
  · rw [hn] at hlo hhi
    exact ⟨hlo.trans (Region.boundCode_float hf _), hhi.trans (Region.boundCode_float hf _)⟩

/-- The bounds of an integer format (R340). -/
theorem Region.Shaped.boundsStep_integer (hk : r.keeps 1 = true) (hi : ¬r.efmt ≤ 4) (old new : Nat) :
    let y := r.boundsStep x e (r.val old) (r.val new)
    let bound (hi : Nat) : Int := intVal (if (typeOf r.efmt).signed then .int64 else .uint64) (r.boundField e x hi)
    let i (c : Nat) : Int := intVal (typeOf r.efmt) c
    (y.tight = (x.tight && !(i old == bound 0 || i old == bound 1))) ∧
      r.boundField e y 0 = (BitVec.ofInt 64 (min (bound 0) (i new))).toNat ∧
      r.boundField e y 1 = (BitVec.ofInt 64 (max (bound 1) (i new))).toNat := by
  rw [h.val_integer hi old, h.val_integer hi new]
  intro y bound i
  obtain ⟨hrest, hlo, hhi, -⟩ := r.boundsStep_spec x e (XR.ofInt (i old)) (XR.ofInt (i new)) (h.bounds_le e hk)
  have hval (c : Nat) : r.boundVal (r.boundField e x c) = XR.ofInt (bound c) := by
    have hbt : bound c = intVal r.bt (r.boundField e x c) := rfl
    rw [hbt, Region.boundVal, Region.floats, decide_eq_false hi, if_neg Bool.false_ne_true]
    unfold Region.bt
    split <;> rfl
  have hnan (c : Nat) : (XR.ofInt (i c)).isNaN = false := rfl
  rw [← r.boundField_zero, r.lo_eq, hval, hnan, if_neg Bool.false_ne_true, minX_ofInt, Region.boundCode_int hi] at hlo
  rw [← r.boundField_one, r.hi_eq, hval, hnan, if_neg Bool.false_ne_true, maxX_ofInt, Region.boundCode_int hi] at hhi
  rw [r.lo_eq, r.hi_eq, hval, hval, hnan, XR.eqv_ofInt, XR.eqv_ofInt, Bool.false_or] at hrest
  exact ⟨congrArg Rec.tight hrest, hlo, hhi⟩

end

theorem sketchBit_congr {val val' : Nat → XR} {n : Nat} (h : ∀ c, c < n → val c = val' c) (p : Nat) : sketchBit val n p = sketchBit val' n p := by
  have hterms : ((List.range n).map fun c => sketchTerm (val c) c p) = (List.range n).map fun c => sketchTerm (val' c) c p :=
    List.map_congr_left fun c hc => by rw [h c (List.mem_range.1 hc)]
  rw [sketchBit, sketchBit, hterms]

section
variable {r : Region} {base e a : Nat} {bytes : List Byte} (h : r.Element base e a bytes)
include h

theorem Region.Element.code_patched_eq (rd : Reader) (j : Nat) :
    r.code (patched rd a bytes) base j = if j = e then leNat bytes else r.code rd base j := by
  split
  · next hj => rw [hj, h.code_patched]
  · next hj => exact h.code_patched_ne rd hj

/-- An element of the row of the one written stands in the block. -/
theorem Region.Element.row_elem {c : Nat} (hc : c < r.rowLen) : e / r.rowLen * r.rowLen + c < r.elems := by
  have hle := Nat.mul_le_mul_right r.rowLen (show e / r.rowLen + 1 ≤ r.rpb from h.row_lt)
  rw [← h.shaped.elems_eq, Nat.succ_mul] at hle
  omega

end

theorem Region.mem_kinds {r : Region} {k : Nat} (hk : k ∈ [r.k1, r.k2]) (h0 : k ≠ 0) : k ∈ r.kinds := List.mem_filter.2 ⟨hk, by simpa using h0⟩

section
variable {r : Region} {rd : Reader} {base k e old new : Nat} {x : Rec} (h : old ≠ new)
include h

theorem Region.follow_bounds (hk : k = 1) : r.follow rd base k e old new x = r.boundsStep x e (r.val old) (r.val new) := by
  rw [hk, Region.follow, if_neg h]

theorem Region.follow_sum (hk : k = 2) : r.follow rd base k e old new x = r.sumStep x (r.val old) (r.val new) := by
  rw [hk, Region.follow, if_neg h]

theorem Region.follow_zmap (hk : k = 3) : r.follow rd base k e old new x = r.setZmap rd base x (e / 8) := by
  rw [hk, Region.follow, if_neg h]

end

end Sys2Proof.Machine

namespace Sys2Proof.Machine

theorem shaped_of_regionFields {b : List Byte} {r : Region} (hf : regionFields b r = true) (hs : regionShape r = true) :
    r.Shaped ∧ 1 ≤ r.k1 ∧ r.k1 ≤ 4 ∧ r.k2 ≤ 4 := by
  simp only [regionFields, Bool.and_eq_true, decide_eq_true_iff] at hf
  obtain ⟨⟨⟨⟨⟨⟨⟨⟨⟨⟨⟨⟨⟨⟨-, hefmt⟩, hrow⟩, hg⟩, -⟩, hk1⟩, hk1'⟩, hk2⟩, -⟩, -⟩, -⟩, -⟩, -⟩, -⟩, -⟩ := hf
  exact ⟨⟨hefmt, hrow, hg, hs⟩, hk1, hk1', hk2⟩

/-- Settles O47: REGION builds each record as the spec of its kind says, and the commit of one store lets the records of its block follow
(`ElementStore.exec`), each kind by its own step. -/
theorem digestRecords : Obligations.DigestRecords := by
  unfold Obligations.DigestRecords
  refine ⟨?_, ?_⟩
  · intro s ha hdev href hrun hstep hfree hbad hregions bytes r t w n hfields hshape hpages hroom
    obtain ⟨hr, hk1, hk1', hk2⟩ := shaped_of_regionFields hfields hshape
    obtain ⟨u, hu, hur, hmem, hbuilt⟩ := exec_region_first href hrun hstep hfree hbad hregions hfields hshape hpages hroom
    refine ⟨u, hu, hur, hmem, fun b k hb hk hk0 => ?_⟩
    intro x code val elems zeroFrom
    have hkinds : ∀ c ∈ r.kinds, c < 8 := fun c hc => by
      have hc' := (List.mem_filter.1 hc).1
      simp only [List.mem_cons, List.not_mem_nil, or_false] at hc'
      change 1 ≤ r.k1 at hk1
      omega
    have hx : x = r.build (readerOf s.image) (badOf s.image) k (r.base + b * r.block) :=
      hbuilt b k hb (List.mem_filter.2 ⟨hk, by simpa using hk0⟩) hkinds
    have hkeeps := r.keeps_of_mem hk
    obtain ⟨hb1, hb2, hb3, hb4⟩ := r.build_sound (readerOf s.image) (bad := badOf s.image) (fun a => vbad_none (i := s.image) hbad a 1) (r.base + b * r.block)
    have hk4 : k = 1 ∨ k = 2 ∨ k = 3 ∨ k = 4 := by
      simp only [List.mem_cons, List.not_mem_nil, or_false] at hk
      omega
    obtain rfl | rfl | rfl | rfl := hk4
    · rw [hb1] at hx
      have hrest : x = _ := hx.trans (r.buildBounds_spec (readerOf s.image) (r.base + b * r.block) Rec.blank (hr.groups hkeeps)).1
      obtain ⟨hgroups, hzero, htight⟩ := hr.bounds_built hkeeps (readerOf s.image) (r.base + b * r.block)
      rw [← hx] at hgroups hzero htight
      refine ⟨by rw [hrest]; rfl, by rw [hrest]; rfl, by rw [hrest]; rfl, fun h => absurd rfl h, fun _ => by rw [hrest]; exact ⟨rfl, rfl⟩, fun _ => ?_,
        fun h => absurd h (by decide), fun h => absurd h (by decide), fun h => absurd h (by decide)⟩
      rw [r.bw_eq] at hgroups hzero
      simp only [hr.boundCode_val] at hgroups
      exact ⟨hgroups, hzero, htight⟩
    · rw [hb2] at hx
      obtain ⟨hrest, hsum⟩ := r.sum_built (readerOf s.image) (r.base + b * r.block)
      rw [← hx] at hrest hsum
      refine ⟨by rw [hrest]; rfl, by rw [hrest]; rfl, by rw [hrest]; rfl, fun _ => by rw [hrest]; rfl, fun h => absurd rfl h,
        fun h => absurd h (by decide), fun _ => hsum, fun h => absurd h (by decide), fun h => absurd h (by decide)⟩
    · rw [hb3] at hx
      obtain ⟨hrest, hbits⟩ := r.buildZmap_spec (readerOf s.image) (r.base + b * r.block) Rec.blank (hr.shape_cases.2.2.1 hkeeps)
      rw [← hx] at hrest hbits
      refine ⟨by rw [hrest]; rfl, by rw [hrest]; rfl, by rw [hrest]; rfl, fun _ => by rw [hrest]; rfl, fun _ => by rw [hrest]; exact ⟨rfl, rfl⟩,
        fun h => absurd h (by decide), fun h => absurd h (by decide), fun _ => hbits, fun h => absurd h (by decide)⟩
    · rw [hb4] at hx
      obtain ⟨hrest, hrows, hzero⟩ := r.buildSketch_spec (readerOf s.image) (r.base + b * r.block) Rec.blank (hr.shape_cases.2.2.2 hkeeps)
      rw [← hx] at hrest hrows hzero
      have hrpb : r.rpb = r.block / (r.rowLen * w) := by
        rw [Region.rpb, hr.rowBytes_eq]
        rfl
      rw [hrpb] at hrows hzero
      refine ⟨by rw [hrest]; rfl, by rw [hrest]; rfl, by rw [hrest], fun _ => by rw [hrest]; rfl, fun _ => by rw [hrest]; exact ⟨rfl, rfl⟩,
        fun h => absurd h (by decide), fun h => absurd h (by decide), fun h => absurd h (by decide), fun _ => ⟨hrows, hzero⟩⟩
  · intro s l k n a pbase r p u bytes hrunning hidle hmay hpromos hinbox hstep hbad hbadRecords hfree hrescans hunits hq hkind t w hfound hfmt hrow
      hgrain hshape haligned hapart hk hk0 hkinds hplace hsize hrange hwhole hpages hplain hhere
    have hr : r.Shaped := ⟨hfmt, hrow, hgrain, hshape⟩
    obtain ⟨hpage, halone⟩ := hpages 0 hr.width_pos
    have hstore : OneStore s l u a bytes pbase p := ⟨hrunning, hidle, hmay, hpromos, hinbox, hstep, hbad, hbadRecords, hfree, hrescans, hunits, hq,
      hkind, hpage, halone, hplain, hhere⟩
    have helem : ElementStore s n r a bytes := ⟨hfound, hapart, hr, haligned, hwhole, hkinds, hplace, hsize⟩
    obtain ⟨z, hz, hcommitted, hout, hfollow, hsketch⟩ := helem.exec hstore
    refine ⟨z, hz, hcommitted, ?_⟩
    have hel := helem.element
    have hkept := Region.keeps_of_mem hk
    replace hfollow := hfollow k (Region.mem_kinds hk hk0)
    intro b e x y code oldCode newCode val old new same row sketched elsewhere stales
    have hval (j : Nat) : r.val (r.code (patched (readerOf s.image) a bytes) (r.blockBase a) j) = val j := by
      rw [hel.code_patched_eq]
      rfl
    refine ⟨fun j hj => hout j fun c hc => ?_, fun hsame h4 => (hfollow h4).trans (if_pos hsame), fun hne h1 => ?_, fun hne h2 => ?_,
      fun hne h3 => ?_, fun h4 => ?_⟩
    · obtain ⟨hc, hc0⟩ := List.mem_filter.1 hc
      exact hj c hc (by simpa using hc0)
    · have hk1 : r.keeps 1 = true := h1 ▸ hkept
      have hy : y = r.boundsStep x e old new := (hfollow (by omega)).trans (Region.follow_bounds hne h1)
      obtain ⟨hrest, -, -, hsame⟩ := r.boundsStep_spec x e old new (hr.bounds_le e hk1)
      rw [← hy] at hrest hsame
      refine ⟨?_, ?_, fun hf => ?_, fun hi => ?_⟩
      · exact hrest.trans (congrArg (fun b => { x with body := y.body, tight := b }) (congrArg Rec.tight hrest).symm)
      · rw [r.bw_eq] at hsame
        exact hsame
      · have hspec := hr.boundsStep_float x e hk1 hf old new
        rw [← hy] at hspec
        simp only [Region.boundField, r.bw_eq] at hspec
        exact hspec
      · have hspec := hr.boundsStep_integer x e hk1 (by omega) oldCode newCode
        rw [show r.boundsStep x e (r.val oldCode) (r.val newCode) = y from hy.symm] at hspec
        simp only [Region.boundField, r.bw_eq] at hspec
        exact hspec
    · have hy : y = r.sumStep x old new := (hfollow (by omega)).trans (Region.follow_sum hne h2)
      obtain ⟨hrest, hsum, hcount, hsame⟩ := r.sumStep_spec x old new
      rw [← hy] at hrest hsum hcount hsame
      have hovf := congrArg Rec.ovf hrest
      have hinv := congrArg Rec.inv hrest
      refine ⟨?_, hsum, hcount, hsame, hinv, hovf⟩
      exact hrest.trans (congrArg₂ (fun o i => { x with body := y.body, ovf := o, inv := i }) hovf.symm hinv.symm)
    · have hy : y = r.setZmap (patched (readerOf s.image) a bytes) (r.blockBase a) x (e / 8) :=
        (hfollow (by omega)).trans (Region.follow_zmap hne h3)
      have hin := hel.inside
      have hle := hr.shape_cases.2.2.1 (h3 ▸ hkept)
      obtain ⟨hrest, hbit, hsame⟩ := r.setZmap_spec (patched (readerOf s.image) a bytes) (r.blockBase a) x (m := e / 8)
        ((Nat.div_lt_iff_lt_mul (by decide)).2 (hin.trans_le hle))
      rw [← hy] at hrest hbit hsame
      refine ⟨hrest, fun j hj hjm => hsame j hj (by omega), hbit.trans ?_⟩
      simp only [Region.zmapBit, hval, Nat.mul_comm 8 (e / 8)]
      rfl
    · obtain ⟨rd, hcodes, hy⟩ := hsketch (h4 ▸ Region.mem_kinds hk hk0)
      replace hy : y = if oldCode = newCode ∨ r.rowLen = 1 then r.sketchRow rd (r.blockBase a) x row else setStale x row true := by
        simp only [y, x, h4]
        exact hy
      have hrow30 : row < 30 := hel.row_lt.trans_le (hr.shape_cases.2.2.2 (h4 ▸ hkept))
      by_cases hanew : oldCode = newCode ∨ r.rowLen = 1
      · rw [if_pos hanew] at hy
        obtain ⟨hrest, hrowbits, hstale, hflag, hsame⟩ := r.sketchRow_spec rd (r.blockBase a) x hrow30
        rw [← hy] at hrest hrowbits hstale hflag hsame
        refine ⟨hsame, fun _ => ⟨fun q hq => (hrowbits q hq).trans ?_, hrest, hstale, hflag⟩, fun hne hlen => ?_⟩
        · exact sketchBit_congr (fun c hc => (congrArg r.val (hcodes _ (hel.row_elem hc))).trans (hval _)) q
        · omega
      · rw [if_neg hanew] at hy
        obtain ⟨hrest, hstale, hflag, hsame⟩ := setStale_spec x true (show row < 64 by omega)
        rw [← hy] at hrest hstale hflag hsame
        refine ⟨fun j hj hjr _ => hsame j hj hjr, fun hw => absurd hw hanew, fun _ _ => ⟨fun q hq => hsame _ (by omega) (by omega), hrest, hstale, hflag⟩⟩

end Sys2Proof.Machine

/-! ## Scalar integers

Bit counts, reversal, comparisons and division, and the results of the SC slot's integer instructions (O11, O12).
-/
namespace Sys2Proof.Machine

/-! ### Bits and orders -/

theorem wbits_shift (b : Word) : wbits b 0 6 = b.toNat % 64 := rfl

theorem boolWord_decide (p : Prop) [Decidable p] : boolWord (decide p) = if p then 1 else 0 := by simp [boolWord]

theorem boolWord_not_decide (p : Prop) [Decidable p] : boolWord (!decide p) = if p then 0 else 1 := by
  by_cases hp : p <;> simp [boolWord, hp]

/-- A choice under `≤`, written under `<`: where the keys agree it does not matter which one is taken. -/
theorem ite_le_eq_ite_lt {α β : Type} [LinearOrder α] {key : β → α} (hkey : Function.Injective key) (a b : β) :
    (if key a ≤ key b then b else a) = if key a < key b then b else a := by
  rcases lt_trichotomy (key a) (key b) with h | h | h
  · rw [if_pos h.le, if_pos h]
  · rw [if_pos h.le, if_neg h.not_lt, hkey h]
  · rw [if_neg h.not_ge, if_neg h.not_gt]

/-- A choice, written under the converse condition. -/
theorem ite_eq_ite_swap {α : Type} {P Q : Prop} [Decidable P] [Decidable Q] (h : P ↔ ¬Q) (x y : α) : (if P then x else y) = if Q then y else x := by
  rw [if_congr h rfl rfl, ite_not]

theorem revNat_lt (n v : Nat) : revNat n v < 2 ^ n := by
  induction n generalizing v with
  | zero => exact Nat.one_pos
  | succ n ih =>
    have hlow := ih (v / 2)
    have hbit := Nat.mod_lt v Nat.two_pos
    rw [revNat, Nat.pow_succ]
    interval_cases v % 2 <;> omega

theorem testBit_revNat (n v : Nat) {k : Nat} (hk : k < n) : (revNat n v).testBit k = v.testBit (n - 1 - k) := by
  induction n generalizing v k with
  | zero => omega
  | succ n ih =>
    rw [revNat, Nat.mul_comm, Nat.testBit_two_pow_mul_add _ (revNat_lt n _)]
    split
    · next hlt => rw [ih _ hlt, ← Nat.testBit_succ, show (n - 1 - k).succ = n + 1 - 1 - k by omega]
    · next hge => rw [show k = n by omega, Nat.sub_self, Nat.testBit_zero, Nat.add_sub_cancel, Nat.sub_self, Nat.testBit_zero, Nat.mod_mod]

/-- The highest one of a nonzero number stands right below its leading zeros. -/
theorem clzNat_spec {n v : Nat} (hv : v < 2 ^ n) : clzNat n v ≤ n ∧ (∀ k, n - clzNat n v ≤ k → v.testBit k = false) ∧
    (clzNat n v < n → v.testBit (n - 1 - clzNat n v) = true) := by
  rw [clzNat]
  split
  · next h0 => exact ⟨le_rfl, fun k _ => by rw [h0, Nat.zero_testBit], fun h => absurd h (lt_irrefl n)⟩
  · next h0 =>
    have hlog : v.log2 < n := (Nat.log2_lt h0).2 hv
    refine ⟨by omega, fun k hk => ?_, fun _ => ?_⟩
    · exact Nat.testBit_lt_two_pow (Nat.lt_log2_self.trans_le (Nat.pow_le_pow_right Nat.two_pos (by omega)))
    · rw [show n - 1 - (n - 1 - v.log2) = v.log2 by omega]
      exact Nat.testBit_log2 h0

/-! ### Results -/

/-- In an open bundle an instruction of the slots has its effect at once. -/
theorem exec_opened {i : Instr} {eff : State → State} {s : State} (hi : exec i s = issue i eff s) (ho : s.slotsOpen) :
    exec i s = .next (eff s) := hi.trans (issue_open i eff ho)

theorem mulHigh_natCast (m n : Nat) : mulHigh m n = BitVec.ofNat 64 (m * n / 2 ^ 64) := by
  rw [mulHigh, ← BitVec.ofInt_natCast]
  congr 1

/-- Settles O11: each instruction by its effect in an open bundle, bit counts by the bits they read. -/
theorem integerResults : Obligations.IntegerResults := by
  unfold Obligations.IntegerResults
  refine ⟨?_, ?_, ?_⟩
  · intro s sd sa sb sc ho a b gives
    have value {i : Instr} {v w : Word} {k : Nat} (hi : exec i s = .next (landScalar s sd v k)) (hv : v = w) : gives i w k := hv ▸ hi
    have compares (c : ICond) : gives (.cmp c sd sa sb) (boolWord (intCond c a b)) 1 := exec_opened (exec_cmp c sd sa sb s) ho
    refine ⟨?_, ?_, ?_, ?_, ?_, ?_, ?_, ?_, ?_, ?_, ?_, ?_, ?_, ?_, ?_, ?_, ?_, ?_, ?_, ?_, ?_, ?_, ?_, ?_, ?_, ?_⟩
    · exact exec_opened (exec_add sd sa sb s) ho
    · exact exec_opened (exec_sub sd sa sb s) ho
    · exact exec_opened (exec_and sd sa sb s) ho
    · exact exec_opened (exec_or sd sa sb s) ho
    · exact exec_opened (exec_xor sd sa sb s) ho
    · exact value (exec_opened (exec_shl sd sa sb s) ho) (congrArg (a <<< ·) (wbits_shift b))
    · exact value (exec_opened (exec_shr sd sa sb s) ho) (congrArg (a >>> ·) (wbits_shift b))
    · exact value (exec_opened (exec_sar sd sa sb s) ho) (congrArg a.sshiftRight (wbits_shift b))
    · exact value (exec_opened (exec_mul sd sa sb s) ho) (BitVec.eq_of_toNat_eq (by rw [BitVec.toNat_mul, BitVec.toNat_ofNat]))
    · exact exec_opened (exec_mulh sd sa sb s) ho
    · exact value (exec_opened (exec_mulhu sd sa sb s) ho) (mulHigh_natCast a.toNat b.toNat)
    · exact value (exec_opened (exec_min sd sa sb s) ho) (ite_eq_ite_swap not_lt.symm _ _)
    · exact value (exec_opened (exec_max sd sa sb s) ho) (ite_le_eq_ite_lt (fun _ _ => BitVec.toInt_inj.1) a b)
    · exact value (exec_opened (exec_minu sd sa sb s) ho) (ite_eq_ite_swap not_lt.symm _ _)
    · exact value (exec_opened (exec_maxu sd sa sb s) ho) (ite_le_eq_ite_lt (fun _ _ => BitVec.eq_of_toNat_eq) a b)
    · exact exec_opened (exec_sel sd sa sb sc s) ho
    · exact value (compares .eq) (boolWord_decide (a = b))
    · exact value (compares .ne) (boolWord_not_decide (a = b))
    · exact value (compares .lt) (boolWord_decide (a.toInt < b.toInt))
    · exact value (compares .ge) ((boolWord_decide _).trans (ite_eq_ite_swap not_lt.symm _ _))
    · exact value (compares .ltu) (boolWord_decide _)
    · exact value (compares .geu) ((boolWord_decide _).trans (ite_eq_ite_swap not_lt.symm _ _))
    · exact value (compares .gt) (boolWord_decide _)
    · exact value (compares .le) ((boolWord_decide _).trans (ite_eq_ite_swap not_lt.symm _ _))
    · exact value (compares .gtu) (boolWord_decide _)
    · exact value (compares .leu) ((boolWord_decide _).trans (ite_eq_ite_swap not_lt.symm _ _))
  · intro s sd sa ho a
    obtain ⟨hle, hzeros, hone⟩ := clzNat_spec a.isLt
    refine ⟨⟨clzNat 64 a.toNat, exec_opened (exec_clz sd sa s) ho, hle, hzeros, hone⟩, ?_,
      BitVec.ofNat 64 (revNat 64 a.toNat), exec_opened (exec_brev sd sa s) ho, fun k hk => ?_⟩
    · rw [exec_opened (exec_popc sd sa s) ho, alu1, popNat_eq_countP]
      rfl
    · rw [BitVec.getLsbD_ofNat, testBit_revNat 64 _ hk, decide_eq_true hk]
      rfl
  · intro s sd sa imm amt short cc ho a x gives
    refine ⟨?_, ?_, ?_, ?_, ?_, ?_, ?_, ?_, ?_, ?_⟩
    · exact exec_opened (exec_addi sd sa imm s) ho
    · exact exec_opened (exec_andi sd sa imm s) ho
    · exact exec_opened (exec_ori sd sa imm s) ho
    · exact exec_opened (exec_xori sd sa imm s) ho
    · exact exec_opened (exec_shli sd sa amt s) ho
    · exact exec_opened (exec_shri sd sa amt s) ho
    · exact exec_opened (exec_sari sd sa amt s) ho
    · exact exec_opened (exec_li sd imm s) ho
    · refine ⟨imm ++ ((me s).s sd).setWidth 32, exec_opened (exec_lih sd imm s) ho, ?_, ?_⟩
      · exact BitVec.extractLsb'_append_eq_left
      · rw [BitVec.extractLsb'_append_eq_right, BitVec.setWidth_eq_extractLsb' (by decide)]
    · exact exec_opened (exec_cmpi cc sd sa short s) ho

/-! ### Division (R122) -/

theorem divS_eq_sdiv {a b : Word} (hb : b ≠ 0) : divS a b = a.sdiv b := by
  rw [divS, if_neg hb]
  exact BitVec.eq_of_toInt_eq (by rw [BitVec.toInt_ofInt, BitVec.toInt_sdiv])

theorem remS_eq_srem {a b : Word} (hb : b ≠ 0) : remS a b = a.srem b := by
  rw [remS, if_neg hb, ← BitVec.toInt_srem, BitVec.ofInt_toInt]

/-- The operands of the one overflow. -/
theorem overflow_operands {a b : Word} (ha : a.toInt = -2 ^ 63) (hb : b.toInt = -1) : a = BitVec.intMin 64 ∧ b = -1 :=
  ⟨BitVec.eq_of_toInt_eq (ha.trans (by decide)), BitVec.eq_of_toInt_eq (hb.trans (by decide))⟩

/-- Settles O12: division by zero and the overflow by their operands, every other case by the signed and unsigned quotients. -/
theorem divisionRules : Obligations.DivisionRules := by
  unfold Obligations.DivisionRules
  intro s sd sa sb ho a b gives
  have hdiv : gives (.div sd sa sb) (divS a b) := exec_opened (exec_div sd sa sb s) ho
  have hdivu : gives (.divu sd sa sb) (divU a b) := exec_opened (exec_divu sd sa sb s) ho
  have hrem : gives (.rem sd sa sb) (remS a b) := exec_opened (exec_rem sd sa sb s) ho
  have hremu : gives (.remu sd sa sb) (remU a b) := exec_opened (exec_remu sd sa sb s) ho
  refine ⟨fun h i hi => ?_, fun hb => ?_, fun ha hb => ?_, fun hb => ?_⟩
  · simp only [List.mem_cons, List.not_mem_nil, or_false] at hi
    rcases hi with rfl | rfl | rfl | rfl <;> exact ⟨rfl, rfl⟩
  · rw [divS, if_pos hb] at hdiv
    rw [divU, if_pos hb] at hdivu
    rw [remS, if_pos hb] at hrem
    rw [remU, if_pos hb] at hremu
    exact ⟨hdiv, hdivu, hrem, hremu⟩
  · obtain ⟨ha', hb'⟩ := overflow_operands ha hb
    have hquot : divS a b = a := by
      rw [ha', hb']
      decide
    have hzero : remS a b = 0 := by
      rw [ha', hb']
      decide
    exact ⟨hquot ▸ hdiv, hzero ▸ hrem⟩
  · rw [divS_eq_sdiv hb] at hdiv
    rw [divU, if_neg hb] at hdivu
    rw [remS_eq_srem hb] at hrem
    rw [remU, if_neg hb] at hremu
    exact ⟨hdivu, hremu, hdiv, hrem⟩

end Sys2Proof.Machine

/-! ## Index queues

The comb as an index engine reads it, the next push of a producer, and the one consumer of a queue (O45).
-/
namespace Sys2Proof.Machine

/-! ### The comb as an index engine reads it (R202, R260) -/

/-- The byte of the window at an address. -/
def windowByte (s : State) (h a : Nat) : Byte := mget (core s (memberCore h a)).comb (a % 2 ^ 22)

/-- The granule of the window around an address. -/
def windowGranule (s : State) (h a : Nat) : BitVec 128 :=
  BitVec.ofNat 128 (mnum (core s (memberCore h a)).comb (16 * granule (a % 2 ^ 22)) 16)

theorem memberCore_congr (h : Nat) {a b : Nat} (hab : a / 16 = b / 16) : memberCore h a = memberCore h b := by
  unfold memberCore
  omega

theorem windowGranule_congr (s : State) (h : Nat) {a b : Nat} (hab : a / 16 = b / 16) : windowGranule s h a = windowGranule s h b := by
  unfold windowGranule granule
  rw [memberCore_congr h hab, show a % 2 ^ 22 / 16 = b % 2 ^ 22 / 16 by omega]

/-- A field of whole bytes of a granule. -/
theorem bitsOf_windowGranule (s : State) (h a : Nat) {n : Nat} (hn : a % 16 + n ≤ 16) :
    bitsOf (windowGranule s h a) (8 * (a % 16)) (8 * n) = leNat ((List.range n).map fun i => windowByte s h (a + i)) := by
  have hlt := leNat_lt (mread (core s (memberCore h a)).comb (16 * granule (a % 2 ^ 22)) 16)
  rw [mread_length] at hlt
  rw [bitsOf, windowGranule, mnum, BitVec.toNat_ofNat, Nat.mod_eq_of_lt (hlt.trans_le (by decide)), Nat.shiftRight_eq_div_pow,
    pow_mul 2 8 (a % 16), pow_mul 2 8 n, show 2 ^ 8 = 256 from rfl, leNat_field _ (by rw [mread_length]; exact hn), mread_eq_map, drop_take_map_range _ hn]
  refine congrArg leNat (List.map_congr_left fun i hi => ?_)
  have hi := List.mem_range.1 hi
  rw [windowByte, memberCore_congr h (show (a + i) / 16 = a / 16 by omega), granule]
  congr 1
  omega

theorem getLsbD_windowGranule (s : State) (h a : Nat) {j : Nat} (hj : j < 8) :
    (windowGranule s h a).getLsbD (8 * (a % 16) + j) = (windowByte s h a).getLsbD j := by
  have hbyte := bitsOf_windowGranule s h a (n := 1) (by omega)
  have hbit := testBit_bitsOf (windowGranule s h a) (8 * (a % 16)) (8 * 1) j
  rw [hbyte, decide_eq_true (by omega), Bool.true_and] at hbit
  exact hbit.symm

/-- No store of the context is on its way to any comb, and no granule is bad. -/
def CombCalm (s : State) (h : Nat) : Prop := ∀ c g, onItsWay s h c g = false ∧ (core s c).badGranules.contains g = false

/-- What an engine holds of the comb stands there. -/
def HeldTrue (s : State) (h : Nat) (held : Option (Nat × BitVec 128)) : Prop := ∀ x, held = some x → ∀ a, a / 16 = x.1 → x.2 = windowGranule s h a

theorem heldTrue_none (s : State) (h : Nat) : HeldTrue s h none := fun _ hx => nomatch hx

theorem heldTrue_granule (s : State) (h a : Nat) : HeldTrue s h (some (a / 16, windowGranule s h a)) := by
  intro x hx b hb
  obtain rfl := Option.some.inj hx
  exact windowGranule_congr s h hb.symm

theorem lookGranule_calm {s : State} {h : Nat} (hcalm : CombCalm s h) {held : Option (Nat × BitVec 128)} (hheld : HeldTrue s h held) (a : Nat) :
    lookGranule s h held a = .bytes (windowGranule s h a) := by
  obtain ⟨hway, hbad⟩ := hcalm (memberCore h a) (granule (a % 2 ^ 22))
  unfold lookGranule
  dsimp only
  split
  · next x hx =>
    obtain ⟨hx, hk⟩ := Option.filter_eq_some_iff.1 hx
    rw [hheld x hx a (eq_of_beq hk).symm]
  · rw [hway, hbad]
    rfl

/-- The bit of a bitmap at a window address. -/
def bitmapBit (s : State) (h a j : Nat) : Bool := (windowByte s h (a + j / 8)).getLsbD (j % 8)

/-- A step of the search for the next bit. -/
theorem nextBit_succ {s : State} {h : Nat} (hcalm : CombCalm s h) {held : Option (Nat × BitVec 128)} (hheld : HeldTrue s h held) (a n pos : Nat) :
    nextBit s h a (n + 1) pos held =
      if bitmapBit s h a pos = true then .bit pos ((a + pos / 8) / 16, windowGranule s h (a + pos / 8))
      else nextBit s h a n (pos + 1) (some ((a + pos / 8) / 16, windowGranule s h (a + pos / 8))) := by
  rw [nextBit, lookGranule_calm hcalm hheld]
  simp only [getLsbD_windowGranule s h _ (Nat.mod_lt pos (by decide : 0 < 8))]
  rfl

theorem nextBit_zeros {s : State} {h : Nat} (hcalm : CombCalm s h) (a n : Nat) {pos : Nat} {held : Option (Nat × BitVec 128)}
    (hheld : HeldTrue s h held) (hz : ∀ j, pos ≤ j → j < pos + n → bitmapBit s h a j = false) : nextBit s h a n pos held = .none := by
  induction n generalizing pos held with
  | zero => rfl
  | succ n ih =>
    rw [nextBit_succ hcalm hheld, hz pos le_rfl (by omega), if_neg Bool.false_ne_true]
    exact ih (heldTrue_granule s h _) fun j hj hjn => hz j (by omega) (by omega)

theorem nextBit_one {s : State} {h : Nat} (hcalm : CombCalm s h) (a n : Nat) {pos m : Nat} {held : Option (Nat × BitVec 128)}
    (hheld : HeldTrue s h held) (hpos : pos ≤ m) (hm : m < pos + n) (hone : bitmapBit s h a m = true)
    (hz : ∀ j, pos ≤ j → j < m → bitmapBit s h a j = false) : ∃ g, nextBit s h a n pos held = .bit m g := by
  induction n generalizing pos held with
  | zero => omega
  | succ n ih =>
    rw [nextBit_succ hcalm hheld]
    split
    · next hbit =>
      obtain rfl | hlt := Nat.eq_or_lt_of_le hpos
      · exact ⟨_, rfl⟩
      · rw [hz pos le_rfl hlt] at hbit
        nomatch hbit
    · next hbit =>
      have hne : pos ≠ m := fun he => hbit (he ▸ hone)
      exact ih (heldTrue_granule s h _) (by omega) (by omega) fun j hj hjm => hz j (by omega) hjm

/-! ### The queue of a producer (R255) -/

theorem serve_unclaimed {s : State} {h q : Nat} (hc : ((hart s h).queue q).claims = []) : serve s h q = s := by
  rw [serve, hc]
  rfl

/-- An item that nobody waits for joins its queue. -/
theorem pushItem_unclaimed {s : State} {h q : Nat} (it : QItem) (hc : ((hart s h).queue q).claims = []) :
    pushItem s h q it = modHart s h fun x => x.setQueue q { x.queue q with items := (x.queue q).items ++ [it] } :=
  serve_unclaimed (by rw [hart_modHart_self, Ctx.queue_setQueue_self]; exact hc)

theorem queue_setProducer (s : State) (h q : Nat) (p : Producer) :
    (hart (setProducer s h q p) h).queue q = { (hart s h).queue q with prods := p :: ((hart s h).queue q).prods.drop 1 } := by
  rw [setProducer, hart_modHart_self, Ctx.queue_setQueue_self]

theorem queue_pushEntry {s : State} {h q : Nat} (p : Producer) (v : Nat) (hc : ((hart s h).queue q).claims = []) :
    (hart (pushEntry s h q p v) h).queue q = { (hart s h).queue q with
      items := ((hart s h).queue q).items ++ [.entry (v % 2 ^ 32)]
      prods := { p with pushed := p.pushed + 1 } :: ((hart s h).queue q).prods.drop 1 } := by
  have hset := queue_setProducer s h q { p with pushed := p.pushed + 1 }
  rw [pushEntry, pushItem_unclaimed _ (by rw [hset]; exact hc), hart_modHart_self, Ctx.queue_setQueue_self, hset]

theorem queues_settleProducer (s : State) (h : Nat) (p : Producer) (stopped : Bool) :
    (hart (settleProducer s h p stopped) h).queues = (hart s h).queues := by
  unfold settleProducer
  split
  · dsimp only
    rw [hart_modHart_self, Ctx.fillScalar, Ctx.queues_setScalar]
    split
    · rw [hart_modHart_self, Ctx.fillMask, Ctx.queues_setMask]
    · rfl
  · rw [settleScan, hart_modHart_self, Ctx.fillScalar, Ctx.queues_setScalar]
    split <;> split <;> rfl
  · rw [hart_modHart_self, Ctx.fillScalar, Ctx.queues_setScalar]

/-- A producer finishes: its queue is closed unless KEEP, its scalar and its mask stand as they were settled. -/
theorem hart_finishProducer {s : State} {h q : Nat} (p : Producer) (hc : ((hart s h).queue q).claims = []) :
    let u := settleProducer (modHart s h fun x => x.setQueue q { x.queue q with prods := (x.queue q).prods.drop 1 }) h p false
    let z := hart (finishProducer s h q p) h
    z.scalars = (hart u h).scalars ∧ z.masks = (hart u h).masks ∧ z.queue q = { (hart s h).queue q with
      items := if p.keep = true then ((hart s h).queue q).items else ((hart s h).queue q).items ++ [.close p.bound]
      prods := ((hart s h).queue q).prods.drop 1 } := by
  intro u z
  have hq : (hart u h).queue q = { (hart s h).queue q with prods := ((hart s h).queue q).prods.drop 1 } := by
    rw [Ctx.queue, queues_settleProducer, hart_modHart_self]
    exact Ctx.queue_setQueue_self _ _ _
  have hfinish : finishProducer s h q p = if p.keep = true then u else pushItem u h q (.close p.bound) := rfl
  by_cases hk : p.keep = true
  · have hz : z = hart u h := by rw [← if_pos (c := p.keep = true) hk (t := u) (e := pushItem u h q (.close p.bound)), ← hfinish]
    rw [hz, if_pos hk]
    exact ⟨rfl, rfl, hq⟩
  · have hz : z = (hart u h).setQueue q { (hart u h).queue q with items := ((hart u h).queue q).items ++ [.close p.bound] } := by
      have hpush := pushItem_unclaimed (.close p.bound) (s := u) (h := h) (q := q) (by rw [hq]; exact hc)
      simp only [z, hfinish, if_neg hk, hpush, hart_modHart_self]
    rw [hz, if_neg hk, hq]
    exact ⟨rfl, rfl, Ctx.queue_setQueue_self _ _ _⟩

theorem Ctx.scalar_congr {c d : Ctx} (h : c.scalars = d.scalars) (r : Nat) : c.scalar r = d.scalar r := by
  rw [Ctx.scalar, Ctx.scalar, h]

theorem Ctx.mask_congr {c d : Ctx} (h : c.masks = d.masks) (r : Nat) : c.mask r = d.mask r := by
  rw [Ctx.mask, Ctx.mask, h]

theorem Ctx.mask_fillMask {r : Nat} (hr : r ≠ 0) (c : Ctx) (v : Mask) : (c.fillMask r v).mask r = { val := v, pending := false, poison := none } := by
  rw [Ctx.fillMask, Ctx.setMask, if_neg hr, Ctx.mask, if_neg hr]
  exact tget_tset_self _ _ r _

/-- The number that the work of a producer adds to its count (R265). -/
def Work.extra : Work → Nat
  | .list _ _ hi => hi * 2 ^ 32
  | _ => 0

/-- A producer that no scan runs has its count written. -/
theorem scalar_settleProducer (s : State) (h : Nat) {p : Producer} (hscan : ∀ c, p.work ≠ .scan c) (hp : p.count ≠ 0) :
    (hart (settleProducer s h p false) h).scalar p.count =
      { val := BitVec.ofNat 64 (p.pushed + p.work.extra), pending := false, poison := none } := by
  unfold settleProducer
  split
  · next es m hi hw =>
    rw [hart_modHart_self, Ctx.scalar_fillScalar hp, hw]
    rfl
  · next c hc => exact absurd hc (hscan c)
  · next hlist _ =>
    have hextra : p.work.extra = 0 := by
      cases hw : p.work with
      | list es m hi => exact absurd hw (hlist es m hi)
      | _ => rfl
    rw [hart_modHart_self, Ctx.scalar_fillScalar hp, hextra, Nat.add_zero]

/-- SPRED's mask is written as its producer finishes (R263). -/
theorem mask_settleProducer (s : State) (h : Nat) {p : Producer} {es : List Nat} {r hi : Nat} {v : Mask} (hw : p.work = .list es (some (r, v)) hi)
    (hr : r ≠ 0) : (hart (settleProducer s h p false) h).mask r = { val := v, pending := false, poison := none } := by
  unfold settleProducer
  simp only [hw, if_neg Bool.false_ne_true, hart_modHart_self]
  rw [Ctx.mask_congr (d := (hart s h).fillMask r v) (by rw [Ctx.fillScalar, Ctx.masks_setScalar]), Ctx.mask_fillMask hr]

/-! ### The next push -/

/-- The oldest producer of a queue that nobody waits at. -/
structure Producing (s : State) (h q : Nat) (p : Producer) (ps : List Producer) : Prop where
  unclaimed : ((hart s h).queue q).claims = []
  first : ((hart s h).queue q).prods = p :: ps

section
variable {s : State} {h q : Nat} {p : Producer} {ps : List Producer} (hp : Producing s h q p ps)
include hp

theorem Producing.exec : exec (.indexProducerPush h q) s = .next (pushNext s h q p) := by
  rw [exec_indexProducerPush, execIndexProducerPush, hp.first]

theorem Producing.pushes (w : Work) (held : Option (Nat × BitVec 128)) (v : Nat) :
    (hart (pushEntry s h q { p with work := w, held := held } v) h).queue q = { (hart s h).queue q with
      items := ((hart s h).queue q).items ++ [.entry (v % 2 ^ 32)]
      prods := { p with work := w, held := held, pushed := p.pushed + 1 } :: ps } := by
  rw [queue_pushEntry _ _ hp.unclaimed, hp.first]
  rfl

theorem Producing.finishes (hscan : ∀ c, p.work ≠ .scan c) :
    let z := hart (finishProducer s h q p) h
    (∀ es r v hi, p.work = .list es (some (r, v)) hi → r ≠ 0 → z.mask r = { val := v, pending := false, poison := none }) ∧
    (p.count ≠ 0 → z.scalar p.count = { val := BitVec.ofNat 64 (p.pushed + p.work.extra), pending := false, poison := none }) ∧
    z.queue q = { (hart s h).queue q with
      items := if p.keep = true then ((hart s h).queue q).items else ((hart s h).queue q).items ++ [.close p.bound]
      prods := ps } := by
  obtain ⟨hscalars, hmasks, hqueue⟩ := hart_finishProducer p hp.unclaimed
  rw [hp.first] at hqueue
  refine ⟨fun es r v hi hw hr => ?_, fun hcount => ?_, hqueue⟩
  · rw [Ctx.mask_congr hmasks]
    exact mask_settleProducer _ h hw hr
  · rw [Ctx.scalar_congr hscalars]
    exact scalar_settleProducer _ h hscan hcount

end

theorem stepBitmap_one {s : State} {h : Nat} (hcalm : CombCalm s h) (q : Nat) {p : Producer} (hheld : p.held = none) {a pos len m : Nat} (full : Prop) [Decidable full]
    (hpos : pos ≤ m) (hm : m < len) (hone : bitmapBit s h a m = true) (hz : ∀ j, pos ≤ j → j < m → bitmapBit s h a j = false) :
    ∃ g, stepBitmap s h q p a pos len full =
      if full then s else pushEntry s h q { p with work := .bitmap a (m + 1) len, held := some g } m := by
  obtain ⟨g, hg⟩ := nextBit_one (n := len - pos) hcalm a (heldTrue_none s h) hpos (by omega) hone hz
  exact ⟨g, by rw [stepBitmap, hheld, hg]; exact if_congr decide_eq_true_iff rfl rfl⟩

theorem stepBitmap_zeros {s : State} {h : Nat} (hcalm : CombCalm s h) (q : Nat) {p : Producer} (hheld : p.held = none) {a pos len : Nat} (full : Bool)
    (hz : ∀ j, pos ≤ j → j < len → bitmapBit s h a j = false) : stepBitmap s h q p a pos len full = finishProducer s h q p := by
  rw [stepBitmap, hheld, nextBit_zeros hcalm a (len - pos) (heldTrue_none s h) fun j hj hlt => hz j hj (by omega)]

/-- IXRLE takes the next pair of its list: a start, then a length. -/
theorem stepRuns_next {s : State} {h : Nat} (hcalm : CombCalm s h) (q : Nat) {p : Producer} (hheld : p.held = none) {a left : Nat} (start : Nat)
    (full : Bool) (hleft : 0 < left) (ha : a % 8 = 0) : stepRuns s h q p a left start 0 full = setProducer s h q { p with
      work := .runs (a + 8) (left - 1) (leNat ((List.range 4).map fun i => windowByte s h (a + i)))
        (leNat ((List.range 4).map fun i => windowByte s h (a + 4 + i)))
      held := some (a / 16, windowGranule s h a) } := by
  have hlen := bitsOf_windowGranule s h (a + 4) (n := 4) (by omega)
  rw [windowGranule_congr s h (show (a + 4) / 16 = a / 16 by omega), show 8 * ((a + 4) % 16) = 8 * (a % 16) + 32 by omega] at hlen
  have hstart := bitsOf_windowGranule s h a (n := 4) (by omega)
  rw [stepRuns, if_neg (lt_irrefl 0), if_neg hleft.ne', hheld, lookGranule_calm hcalm (heldTrue_none s h) a]
  dsimp only
  rw [← hlen, ← hstart]

/-! ### Consumers (R143, R254, R262) -/

theorem dropPassed_append {n : Nat} {pre : List QItem} (hpre : ∀ i ∈ pre, ∃ b, i = .close (some b) ∧ b ≤ n) (l : List QItem) :
    dropPassed n (pre ++ l) = dropPassed n l := by
  induction pre with
  | nil => rfl
  | cons i pre ih =>
    obtain ⟨b, rfl, hb⟩ := hpre i (List.mem_cons_self ..)
    rw [List.cons_append, dropPassed, if_pos hb]
    exact ih fun j hj => hpre j (List.mem_cons_of_mem _ hj)

/-- Items that a peek looks past: entries, and close marks that only earlier claims reach. -/
def LooksPast (num : Nat) (l : List QItem) : Prop := ∀ i ∈ l, (∃ v, i = .entry v) ∨ ∃ b, i = .close (some b) ∧ b ≤ num

theorem lookAt_append {num : Nat} {pre : List QItem} (hpre : LooksPast num pre) (l : List QItem) {off : Nat}
    (hoff : (pre.filter isEntry).length ≤ off) : lookAt num (pre ++ l) off = lookAt num l (off - (pre.filter isEntry).length) := by
  induction pre generalizing off with
  | nil => rfl
  | cons i pre ih =>
    have hrest := @ih fun j hj => hpre j (List.mem_cons_of_mem _ hj)
    obtain ⟨v, rfl⟩ | ⟨b, rfl, hb⟩ := hpre i (List.mem_cons_self ..)
    · have hlen : ((QItem.entry v :: pre).filter isEntry).length = (pre.filter isEntry).length + 1 := rfl
      rw [hlen] at hoff ⊢
      rw [List.cons_append, lookAt, if_neg (by omega), hrest (by omega)]
      congr 1
      omega
    · rw [List.cons_append, lookAt, if_pos hb]
      exact hrest hoff

theorem usePoison_append {num : Nat} {pre : List QItem} (hpre : LooksPast num pre) (rest : List QItem) :
    usePoison (pre ++ .poison :: rest) = pre ++ .close none :: rest := by
  induction pre with
  | nil => rfl
  | cons i pre ih =>
    have hrest := ih fun j hj => hpre j (List.mem_cons_of_mem _ hj)
    obtain ⟨v, rfl⟩ | ⟨b, rfl, hb⟩ := hpre i (List.mem_cons_self ..) <;> rw [List.cons_append, usePoison, hrest] <;> simp

/-- The claim as it joins its queue. -/
def claimed (s : State) (h q : Nat) (k : ClaimKind) : State :=
  { modHart s h fun x => x.setQueue q { x.queue q with claims := (x.queue q).claims ++ [{ num := s.arrivals, kind := k }] } with
    arrivals := s.arrivals + 1 }

theorem queue_claimed {s : State} {h q : Nat} (k : ClaimKind) (hc : ((hart s h).queue q).claims = []) :
    (hart (claimed s h q k) h).queue q = { (hart s h).queue q with claims := [{ num := s.arrivals, kind := k }] } := by
  have hclaimed : hart (claimed s h q k) h = (hart s h).setQueue q { (hart s h).queue q with
      claims := ((hart s h).queue q).claims ++ [{ num := s.arrivals, kind := k }] } := hart_modHart_self s h fun x =>
    x.setQueue q { x.queue q with claims := (x.queue q).claims ++ [{ num := s.arrivals, kind := k }] }
  rw [hclaimed, Ctx.queue_setQueue_self, hc, List.nil_append]

/-- A lone claim that nothing serves waits. -/
theorem claim_waits {s : State} {h q : Nat} {k : ClaimKind} (hc : ((hart s h).queue q).claims = [])
    (hn : nextServe { (hart s h).queue q with claims := [{ num := s.arrivals, kind := k }] } [] [{ num := s.arrivals, kind := k }] = none) :
    claim s h q [k] = claimed s h q k := by
  change serveQueue (claimed s h q k) h q ((hart (claimed s h q k) h).queue q).claims.length = _
  rw [queue_claimed k hc, List.length_singleton, serveQueue, queue_claimed k hc, hn]

/-- A lone claim that is served at once. -/
theorem claim_served {s : State} {h q : Nat} {k : ClaimKind} {g : Got} {z : IQueue} (hc : ((hart s h).queue q).claims = [])
    (hn : nextServe { (hart s h).queue q with claims := [{ num := s.arrivals, kind := k }] } [] [{ num := s.arrivals, kind := k }] =
      some (k, g, z)) : claim s h q [k] = deliver (modHart (claimed s h q k) h fun x => x.setQueue q z) h q k g := by
  change serveQueue (claimed s h q k) h q ((hart (claimed s h q k) h).queue q).claims.length = _
  rw [queue_claimed k hc, List.length_singleton, serveQueue, queue_claimed k hc, hn]
  rfl

/-- What a consumer's scalar receives: its value, or the origin of its poison. -/
def Got.fill : Got → Word × Option Byte
  | .entry v => (BitVec.ofNat 64 v, none)
  | .closed => (BitVec.allOnes 64, none)
  | .poison => (0, some 0x14)

/-- IXPOP and IXPEEK fill their scalar as the bundle closes. -/
theorem fillFromQueue_open {s : State} (ho : s.slotsOpen) (r : Nat) (v : Word) (bad : Option Byte) :
    fillFromQueue s s.cur r v bad = { s with bundle := { s.bundle with fills := s.bundle.fills ++ [(r, v, bad)] } } := if_pos ⟨ho, rfl⟩

/-- A consumer of scalar `r`. -/
def Consumes (k : ClaimKind) (r : Nat) : Prop := k = .pop r ∨ ∃ off, k = .peek r off

theorem deliver_open {s : State} (ho : s.slotsOpen) (q : Nat) {k : ClaimKind} {r : Nat} (hk : Consumes k r) (g : Got) :
    deliver s s.cur q k g = { s with bundle := { s.bundle with fills := s.bundle.fills ++ [(r, g.fill.1, g.fill.2)] } } := by
  obtain rfl | ⟨off, rfl⟩ := hk <;> cases g <;> exact fillFromQueue_open ho r _ _

section
variable {s : State} {q : Nat} (hc : ((me s).queue q).claims = []) {k : ClaimKind} {r : Nat}
include hc

/-- The one consumer of a queue is served in its own bundle. -/
theorem claim_fills (ho : s.slotsOpen) (hk : Consumes k r) {g : Got} {items : List QItem}
    (hn : nextServe { (me s).queue q with claims := [{ num := s.arrivals, kind := k }] } [] [{ num := s.arrivals, kind := k }] =
      some (k, g, { (me s).queue q with items := items, claims := [] })) :
    let t := claim (markDst s (.scalar r)) s.cur q [k]
    t.bundle.marks = s.bundle.marks ++ [.scalar r] ∧ t.bundle.fills = s.bundle.fills ++ [(r, g.fill.1, g.fill.2)] ∧
      (me t).queue q = { (me s).queue q with items := items } := by
  intro t
  let u := modHart (claimed (markDst s (.scalar r)) s.cur q k) s.cur fun x => x.setQueue q { (me s).queue q with items := items, claims := [] }
  have ht : t = { u with bundle := { u.bundle with fills := u.bundle.fills ++ [(r, g.fill.1, g.fill.2)] } } :=
    (claim_served (s := markDst s (.scalar r)) hc hn).trans (deliver_open (s := u) ho q hk g)
  have hme : me t = hart u s.cur := by
    rw [ht]
    rfl
  refine ⟨by rw [ht]; rfl, by rw [ht]; rfl, ?_⟩
  rw [hme, hart_modHart_self, Ctx.queue_setQueue_self, ← hc]

/-- The one consumer of a queue that has nothing for it yet waits. -/
theorem claim_pending (hn : nextServe { (me s).queue q with claims := [{ num := s.arrivals, kind := k }] } [] [{ num := s.arrivals, kind := k }] =
      none) :
    let t := claim (markDst s (.scalar r)) s.cur q [k]
    t.bundle.marks = s.bundle.marks ++ [.scalar r] ∧ t.bundle.fills = s.bundle.fills ∧
      (me t).queue q = { (me s).queue q with claims := [{ num := s.arrivals, kind := k }] } := by
  intro t
  have ht : t = claimed (markDst s (.scalar r)) s.cur q k := claim_waits (s := markDst s (.scalar r)) hc hn
  rw [ht]
  exact ⟨rfl, rfl, queue_claimed (s := markDst s (.scalar r)) k hc⟩

end

/-! ### A lone claim -/

section
variable {y : IQueue} {num r : Nat}

theorem nextServe_pop_entry {v : Nat} {t : List QItem} (h : dropPassed num y.items = .entry v :: t) :
    nextServe y [] [{ num := num, kind := .pop r }] = some (.pop r, .entry v, { y with items := t, claims := [] }) := by
  simp only [nextServe, h]
  rfl

theorem nextServe_pop_close {b : Option Nat} {t : List QItem} (h : dropPassed num y.items = .close b :: t) :
    nextServe y [] [{ num := num, kind := .pop r }] = some (.pop r, .closed, { y with items := .close b :: t, claims := [] }) := by
  simp only [nextServe, h]
  rfl

theorem nextServe_pop_poison {t : List QItem} (h : dropPassed num y.items = .poison :: t) :
    nextServe y [] [{ num := num, kind := .pop r }] = some (.pop r, .poison, { y with items := .close none :: t, claims := [] }) := by
  simp only [nextServe, h]
  rfl

theorem nextServe_pop_none (h : dropPassed num y.items = []) : nextServe y [] [{ num := num, kind := .pop r }] = none := by
  simp only [nextServe, h]

end

theorem nextServe_peek (y : IQueue) (num r off : Nat) :
    nextServe y [] [{ num := num, kind := .peek r off }] = (lookAt num y.items off).map fun g =>
      (.peek r off, g, { y with items := if g = .poison then usePoison y.items else y.items, claims := [] }) := by
  simp only [nextServe]
  cases lookAt num y.items off <;> rfl

/-- A close mark that reaches a claim stays at the head of the queue. -/
theorem dropPassed_close {num : Nat} {b : Option Nat} (hb : ∀ n, b = some n → num < n) (t : List QItem) :
    dropPassed num (.close b :: t) = .close b :: t := by
  cases b with
  | none => rfl
  | some n => rw [dropPassed, if_neg (not_le.2 (hb n rfl))]

theorem lookAt_close {num : Nat} {b : Option Nat} (hb : ∀ n, b = some n → num < n) (t : List QItem) (off : Nat) :
    lookAt num (.close b :: t) off = some .closed := by
  cases b with
  | none => rfl
  | some n => rw [lookAt, if_neg (not_le.2 (hb n rfl))]

/-- Settles O45: a push by the work of its producer, a consumer by what the lone claim reaches. -/
theorem indexQueues : Obligations.IndexQueues := by
  unfold Obligations.IndexQueues
  intro s h q sd sa x y ends passed before fills waits
  have close_of_ends {i : QItem} (hi : ends i) : ∃ b, i = .close b ∧ ∀ n, b = some n → s.arrivals < n := by
    obtain rfl | ⟨b, rfl, hb⟩ := hi
    · exact ⟨none, rfl, fun n hn => nomatch hn⟩
    · exact ⟨some b, rfl, fun n hn => Option.some.inj hn ▸ hb⟩
  refine ⟨?_, fun ho hc => ?_⟩
  · intro p ps hclaims hprods room pushes finishes waitsFull byte calm
    have hp : Producing s h q.toNat p ps := ⟨hclaims, hprods⟩
    have goesOn {e : Nat} {w : Work} {held : Option (Nat × BitVec 128)} (hstep : pushNext s h q.toNat p =
        if 1024 ≤ occupied (hart s h) q.toNat then s else pushEntry s h q.toNat { p with work := w, held := held } e) :
        (room → pushes e w held) ∧ (¬room → waitsFull) := by
      refine ⟨fun hroom => ⟨_, hp.exec, ?_⟩, fun hroom => hp.exec.trans ?_⟩
      · rw [hstep, if_neg (not_le.2 hroom)]
        exact hp.pushes w held e
      · rw [hstep, if_pos (not_lt.1 hroom)]
    have closes (f : Ctx → Prop) (hscan : ∀ c, p.work ≠ .scan c) (hstep : pushNext s h q.toNat p = finishProducer s h q.toNat p)
        (hf : f (hart (finishProducer s h q.toNat p) h)) : finishes (p.pushed + p.work.extra) f := by
      obtain ⟨-, hcount, hqueue⟩ := hp.finishes hscan
      exact ⟨_, hp.exec, by rw [hstep]; exact ⟨hf, hcount, hqueue⟩⟩
    refine ⟨fun e es m hi hw => ?_, fun m hi hw => ?_, fun a pos len hw hcalm => ⟨fun m hpos hm hone hz => ?_, fun hz => ?_⟩,
      fun a left start len hw => ⟨fun hlen => ?_, fun hlen hleft => ?_, fun hlen hleft hcalm ha => ?_⟩⟩
    · exact goesOn (by simp only [pushNext, hw])
    · have hscan : ∀ c, p.work ≠ .scan c := fun c => by rw [hw]; exact nofun
      have hextra : p.work.extra = hi * 2 ^ 32 := by rw [hw]; rfl
      rw [← hextra]
      refine closes (fun c => ∀ r v, m = some (r, v) → r ≠ 0 → c.mask r = { val := v, pending := false, poison := none }) hscan
        (by simp only [pushNext, hw]) fun r v hm hr => ?_
      exact (hp.finishes hscan).1 [] r v hi (hm ▸ hw) hr
    · obtain ⟨g, hg⟩ := stepBitmap_one hcalm.2 q.toNat hcalm.1 (1024 ≤ occupied (hart s h) q.toNat) hpos hm hone hz
      obtain ⟨hpush, hfull⟩ := goesOn ((by simp only [pushNext, hw] : pushNext s h q.toNat p = _).trans hg)
      exact ⟨fun hroom => ⟨g, hpush hroom⟩, hfull⟩
    · have hextra : p.work.extra = 0 := by rw [hw]; rfl
      rw [← Nat.add_zero p.pushed, ← hextra]
      refine closes (fun _ => True) (fun c => by rw [hw]; exact nofun) ?_ trivial
      simp only [pushNext, hw]
      exact stepBitmap_zeros hcalm.2 q.toNat hcalm.1 _ hz
    · refine goesOn ?_
      simp only [pushNext, hw, stepRuns, if_pos hlen, decide_eq_true_iff]
    · have hextra : p.work.extra = 0 := by rw [hw]; rfl
      rw [← Nat.add_zero p.pushed, ← hextra]
      refine closes (fun _ => True) (fun c => by rw [hw]; exact nofun) ?_ trivial
      simp only [pushNext, hw, stepRuns, hlen, lt_irrefl, if_false, if_pos hleft]
    · refine ⟨_, (a / 16, windowGranule s h a), hp.exec, ?_⟩
      subst hlen
      simp only [pushNext, hw]
      rw [stepRuns_next hcalm.2 q.toNat hcalm.1 start _ hleft ha, queue_setProducer, hprods]
      rfl
  · have pops {g : Got} {items : List QItem} (hn : nextServe { y with claims := [{ num := s.arrivals, kind := .pop sd.toNat }] } []
        [{ num := s.arrivals, kind := .pop sd.toNat }] = some (.pop sd.toNat, g, { y with items := items, claims := [] })) :
        fills (.ixpop q sd) g.fill.1 g.fill.2 items :=
      ⟨_, exec_opened (exec_ixpop q sd s) ho, claim_fills hc ho (.inl rfl) hn⟩
    have hpeek (hoff : ((me s).s sa).toNat ≤ 1023) : exec (.ixpeek q sd sa) s =
        .next (claim (markDst s (.scalar sd.toNat)) s.cur q.toNat [.peek sd.toNat ((me s).s sa).toNat]) :=
      (exec_opened (exec_ixpeek q sd sa s) ho).trans (congrArg _ (if_neg (by omega)))
    have peeks (hoff : ((me s).s sa).toNat ≤ 1023) {g : Got} (hl : lookAt s.arrivals y.items ((me s).s sa).toNat = some g) :
        fills (.ixpeek q sd sa) g.fill.1 g.fill.2 (if g = .poison then usePoison y.items else y.items) :=
      ⟨_, hpeek hoff, claim_fills hc ho (.inr ⟨_, rfl⟩) (by rw [nextServe_peek, hl]; rfl)⟩
    refine ⟨fun pre i rest hy hpre => ⟨fun v hi => ?_, fun hi => ?_, fun hi => ?_⟩, fun hpass => ?_, fun hoff => ?_,
      fun hoff => ⟨fun pre i rest n hy hpre hn => ⟨fun v hi hv => ?_, fun hi => ?_, fun hi => ?_⟩, fun n hpre hn => ?_⟩⟩
    · exact pops (nextServe_pop_entry ((congrArg _ hy).trans ((dropPassed_append hpre _).trans (by rw [hi]; rfl))))
    · obtain ⟨b, rfl, hb⟩ := close_of_ends hi
      exact pops (nextServe_pop_close ((congrArg _ hy).trans ((dropPassed_append hpre _).trans (dropPassed_close hb rest))))
    · exact pops (nextServe_pop_poison ((congrArg _ hy).trans ((dropPassed_append hpre _).trans (by rw [hi]; rfl))))
    · refine ⟨_, exec_opened (exec_ixpop q sd s) ho, claim_pending hc (nextServe_pop_none ?_)⟩
      exact (congrArg _ (List.append_nil y.items)).symm.trans (dropPassed_append hpass [])
    · have hfill := fillFromQueue_open (s := markDst s (.scalar sd.toNat)) ho sd.toNat (BitVec.allOnes 64) none
      exact ⟨_, (exec_opened (exec_ixpeek q sd sa s) ho).trans (congrArg _ ((if_pos hoff).trans hfill)), rfl, rfl, rfl⟩
    · obtain ⟨hpast, hlen⟩ := hpre
      refine peeks hoff (g := .entry v) ?_
      rw [hy, lookAt_append hpast _ (by omega), hi, lookAt, if_pos (by omega)]
    · obtain ⟨hpast, hlen⟩ := hpre
      obtain ⟨b, rfl, hb⟩ := close_of_ends hi
      refine peeks hoff (g := .closed) ?_
      rw [hy, lookAt_append hpast _ (by omega), lookAt_close hb]
    · obtain ⟨hpast, hlen⟩ := hpre
      have hfill := peeks hoff (g := .poison) (by rw [hy, lookAt_append hpast _ (by omega), hi, lookAt])
      rw [if_pos rfl, hy, hi, usePoison_append hpast] at hfill
      exact hfill
    · obtain ⟨hpast, hlen⟩ := hpre
      refine ⟨_, hpeek hoff, claim_pending hc ?_⟩
      have hnone : lookAt s.arrivals y.items ((me s).s sa).toNat = none := by
        rw [← List.append_nil y.items, lookAt_append hpast [] (by omega), lookAt]
      rw [nextServe_peek]
      exact congrArg _ hnone

end Sys2Proof.Machine

/-! ## Quanta as they commit

What the end of a commit step leaves alone, a step by what its units wrote, and the commits of O54.
-/
namespace Sys2Proof.Machine

/-! ### What the keepers leave alone (R345) -/

/-- Memory, launches and contexts: a digest keeper changes none of them. -/
def unkept (s : State) : List Host.Cell × Tab Launch × Tab Ctx := (s.mem, s.launches, s.harts)

theorem unkept_foldl_setRecord (key : Nat → Nat) (f : State → Nat → Rec) (ks : List Nat) (s : State) :
    unkept (ks.foldl (fun s k => setRecord s (key k) (f s k)) s) = unkept s := foldl_keeps unkept (f := fun s k => setRecord s (key k) (f s k)) (fun _ _ => rfl) ks s

theorem unkept_keeperReads (s : State) (src va n : Nat) : unkept (keeperReads s src va n) = unkept s :=
  foldl_keeps unkept (fun s a => by split <;> rfl) _ s

theorem unkept_digestSpoil (s : State) (va : Nat) : unkept (digestSpoil s va) = unkept s := by
  unfold digestSpoil
  split
  · rfl
  · exact unkept_foldl_setRecord _ _ _ s

theorem unkept_digestWrite (s : State) (rd : Reader) (va : Nat) (bytes : List Byte) : unkept (digestWrite s rd va bytes) = unkept s := by
  unfold digestWrite
  split
  · rfl
  · exact unkept_foldl_setRecord _ _ _ s

theorem unkept_keepWrite (rd : Reader) (p : State × Tab Byte) (w : StepWrite) : unkept (keepWrite rd p w).1 = unkept p.1 := by
  unfold keepWrite
  split
  · rfl
  · dsimp only
    split
    · rw [unkept_digestSpoil, unkept_digestWrite]
    · exact unkept_digestWrite ..

theorem unkept_foldl_keepWrite (rd : Reader) (ws : List StepWrite) (p : State × Tab Byte) : unkept (ws.foldl (keepWrite rd) p).1 = unkept p.1 := by
  induction ws generalizing p with
  | nil => rfl
  | cons w ws ih => exact (ih _).trans (unkept_keepWrite rd p w)

theorem unkept_sketchEndRow (old : Reader) (log : List StepWrite) (s : State) (row : Nat) : unkept (sketchEndRow old log s row) = unkept s := by
  unfold sketchEndRow
  dsimp only
  split
  · rfl
  · split
    · rfl
    · split
      · rfl
      · split
        · split
          · rfl
          · exact (foldl_keeps unkept unkept_digestSpoil _ _).trans (unkept_keeperReads ..)
        · rfl

theorem unkept_keepStep (s : State) (old : Reader) (log : List StepWrite) : unkept (keepStep s old log) = unkept s :=
  (foldl_keeps unkept (unkept_sketchEndRow old log) _ _).trans (unkept_foldl_keepWrite ..)

theorem unkept_rescanBlocks (s : State) (n first count : Nat) : unkept (rescanBlocks s n first count) = unkept s := by
  unfold rescanBlocks
  split
  · rfl
  · exact foldl_keeps unkept (fun s i => (unkept_foldl_setRecord _ _ _ _).trans (unkept_keeperReads s ..)) _ s

theorem unkept_rebuildKey (s : State) (key : Nat) : unkept (rebuildKey s key) = unkept s := by
  unfold rebuildKey
  dsimp only
  split <;> rfl

theorem unkept_rebuildBad (s : State) : unkept (rebuildBad s) = unkept s := foldl_keeps unkept unkept_rebuildKey s.badRecords s

theorem launch_of_launches {s t : State} (h : t.launches = s.launches) (l : Nat) : launch t l = launch s l := by rw [launch, launch, h]

/-! ### Writes that reach memory (R325) -/

/-- A launch but for its commit step. -/
def Launch.still (x : Launch) : Launch := { x with commit := Option.none }

theorem still_modStep (s : State) (m l : Nat) (f : Commit → Commit) : (launch (modStep s m f) l).still = (launch s l).still := by
  rw [modStep, launch_modLaunch]
  split
  · next h => rw [h]; rfl
  · rfl

/-- A step of another launch forgets what stood in memory where this step writes. -/
def forgetUndo (l : Nat) (v : StepView) (s : State) (e : Nat × Launch) : State :=
  if e.1 = l then s else modStep s e.1 fun c => { c with undo := c.undo.filter fun u => (tfind v.bytes u.1).isNone }

theorem landStep_eq (s : State) (l : Nat) (v : StepView) :
    let t := v.opened.foldl (fun s o => landPage s (o.1 * 2 ^ 16) o.2) s
    let u := t.launches.foldl (forgetUndo l v) t
    landStep s l v = { u with
      mem := v.bytes.foldl (fun m b => mset m b.1 b.2) u.mem
      badLines := u.badLines.filter fun n => !v.rewrites n } := rfl

theorem still_forgetUndo (m l : Nat) (v : StepView) (s : State) (e : Nat × Launch) : (launch (forgetUndo m v s e) l).still = (launch s l).still := by
  unfold forgetUndo
  split
  · rfl
  · exact still_modStep s e.1 l _

theorem still_landPage (s : State) (base : Nat) (p : Page) (l : Nat) : (launch (landPage s base p) l).still = (launch s l).still := by
  unfold landPage
  exact foldl_keeps (fun s => (launch s l).still) (fun s e => still_modStep s e.1 l _) s.launches s

theorem still_landStep (s : State) (m l : Nat) (v : StepView) : (launch (landStep s m v) l).still = (launch s l).still :=
  (foldl_keeps (fun s => (launch s l).still) (still_forgetUndo m l v) _ _).trans
    (foldl_keeps (fun s => (launch s l).still) (fun s _ => still_landPage s _ _ l) v.opened s)

/-- Where no page is un-elided, a step's bytes are all that memory takes. -/
theorem landStep_memory (s : State) (l : Nat) {v : StepView} (hv : v.opened = []) :
    (landStep s l v).mem = v.bytes.foldl (fun m b => mset m b.1 b.2) s.mem ∧ (landStep s l v).harts = s.harts := by
  have hkeep : ((s.launches.foldl (forgetUndo l v) s).mem, (s.launches.foldl (forgetUndo l v) s).harts) = (s.mem, s.harts) :=
    foldl_keeps (fun t => (t.mem, t.harts)) (fun t e => by unfold forgetUndo; split <;> rfl) s.launches s
  obtain ⟨hmem, hharts⟩ := Prod.mk.inj hkeep
  rw [landStep_eq, hv]
  exact ⟨congrArg (fun m => v.bytes.foldl (fun m b => mset m b.1 b.2) m) hmem, hharts⟩

theorem landWrites_eq (s : State) (l : Nat) (f : Launch → Launch) : landWrites s l f = keepStep
    (modLaunch (landStep s l (stepOf s l).view) l fun x => f x.still) (readerOf (snapImage s)) (stepOf s l).log := rfl

theorem launches_keepStep (s : State) (old : Reader) (log : List StepWrite) : (keepStep s old log).launches = s.launches :=
  congrArg (fun p => p.2.1) (unkept_keepStep s old log)

/-- Of the launch whose step is over, what `Launch.commits` makes of it is left. -/
theorem launch_landWrites (s : State) (l q : Nat) : launch (landWrites s l (Launch.commits q)) l = Launch.commits q (launch s l).still := by
  rw [landWrites_eq, launch_of_launches (launches_keepStep _ _ _), launch_modLaunch_self, still_landStep s l l (stepOf s l).view]

theorem landWrites_memory (s : State) (l : Nat) (f : Launch → Launch) (hv : (stepOf s l).view.opened = []) :
    (landWrites s l f).mem = (stepOf s l).view.bytes.foldl (fun m b => mset m b.1 b.2) s.mem ∧ (landWrites s l f).harts = s.harts := by
  have hkept := unkept_keepStep (modLaunch (landStep s l (stepOf s l).view) l fun x => f x.still) (readerOf (snapImage s)) (stepOf s l).log
  obtain ⟨hmem, hharts⟩ := landStep_memory s l hv
  exact ⟨(congrArg (fun p => p.1) hkept).trans hmem, (congrArg (fun p => p.2.2) hkept).trans hharts⟩

/-! ### The step completes (R289, R324) -/

/-- The state in which a step completes: where it may, it takes the messages that wait (R388). -/
def receive (s : State) (l : Nat) : State := if oldestLaunch s = some l then applyMsgs s l else s

/-- A completed step before the nodes follow it: its writes stand in memory, its rescans are made, its GAMOs have their words. -/
def stepLanded (s : State) (l : Nat) : State :=
  let c := stepOf s l
  let t := ((launch s l).rescans.filter fun r => r.1 ≤ c.q).foldl (fun s r => rescanBlocks s r.2.1 r.2.2.1 r.2.2.2)
    (aimGloads (landWrites s l (Launch.commits c.q)) l c.q)
  c.amos.foldl giveAmo (rebuildBad t)

theorem completeStep_eq (s : State) (l : Nat) :
    let t := receive s l
    let z := stepLanded t l
    completeStep s l = if (launch z l).running then checkEnd (finishNodes z l (stepOf t l).q) l else z := rfl

theorem giveAmo_keeps (s : State) (a : AmoDone) : ((giveAmo s a).mem, (giveAmo s a).launches) = (s.mem, s.launches) := by
  unfold giveAmo
  split <;> rfl

/-- Before its GAMOs have their words a step leaves memory, launches and contexts as its writes do, but for the loads it aims anew. -/
theorem unkept_rescanned (s : State) (l : Nat) :
    let c := stepOf s l
    unkept (rebuildBad (((launch s l).rescans.filter fun r => r.1 ≤ c.q).foldl (fun s r => rescanBlocks s r.2.1 r.2.2.1 r.2.2.2)
      (aimGloads (landWrites s l (Launch.commits c.q)) l c.q))) = unkept (aimGloads (landWrites s l (Launch.commits c.q)) l c.q) :=
  (unkept_rebuildBad _).trans (foldl_keeps unkept (fun s _ => unkept_rescanBlocks s _ _ _) _ _)

theorem launch_stepLanded (s : State) (l : Nat) : launch (stepLanded s l) l = Launch.commits (stepOf s l).q (launch s l).still := by
  have hamos := foldl_keeps (fun s => (s.mem, s.launches)) giveAmo_keeps (stepOf s l).amos
  refine (launch_of_launches (congrArg Prod.snd (hamos _)) l).trans ?_
  refine (launch_of_launches (congrArg (fun p => p.2.1) (unkept_rescanned s l)) l).trans ?_
  exact launch_landWrites s l _

theorem mem_stepLanded (s : State) (l : Nat) (hv : (stepOf s l).view.opened = []) :
    (stepLanded s l).mem = (stepOf s l).view.bytes.foldl (fun m b => mset m b.1 b.2) s.mem := by
  have hamos := foldl_keeps (fun s => (s.mem, s.launches)) giveAmo_keeps (stepOf s l).amos
  refine (congrArg Prod.fst (hamos _)).trans ((congrArg (fun p => p.1) (unkept_rescanned s l)).trans ?_)
  exact (landWrites_memory s l _ hv).1

/-- A table whose every entry is changed, where the default is not. -/
theorem tget_map {α : Type} {d : α} {f : α → α} (hd : f d = d) (t : Tab α) (k : Nat) : tget d (t.map fun e => (e.1, f e.2)) k = f (tget d t k) := by
  induction t with
  | nil => exact hd.symm
  | cons e t ih =>
    obtain ⟨j, w⟩ := e
    rw [List.map_cons, tget, tget]
    split
    · rfl
    · exact ih

theorem hart_aimGloads (s : State) (l q h : Nat) :
    hart (aimGloads s l q) h = { hart s h with gloads := (hart s h).gloads.map (aimGloads.aim s l q) } :=
  tget_map (f := fun c : Ctx => { c with gloads := c.gloads.map (aimGloads.aim s l q) }) rfl s.harts h

/-- The GAMO of a step gives its context the old word. -/
theorem scalar_stepLanded (s : State) (l : Nat) (hv : (stepOf s l).view.opened = []) {a : AmoDone} (ha : (stepOf s l).amos = [a])
    (hkey : (hart s a.h).csr.skey = a.key) (hgood : a.poison = none) (hdst : a.dst ≠ 0) :
    (hart (stepLanded s l) a.h).scalar a.dst = { val := a.old, pending := false, poison := none } := by
  unfold stepLanded
  dsimp only
  rw [ha, List.foldl_cons, List.foldl_nil]
  generalize hu : rebuildBad _ = u
  have hharts : u.harts = (aimGloads (landWrites s l (Launch.commits (stepOf s l).q)) l (stepOf s l).q).harts := by
    rw [← hu]
    exact congrArg (fun p => p.2.2) (unkept_rescanned s l)
  have hland : hart (landWrites s l (Launch.commits (stepOf s l).q)) a.h = hart s a.h := by
    rw [hart, hart, (landWrites_memory s l _ hv).2]
  have hukey : (hart u a.h).csr.skey = a.key := by
    rw [hart, hharts]
    exact (congrArg (fun c : Ctx => c.csr.skey) (hart_aimGloads _ _ _ _)).trans ((congrArg (fun c : Ctx => c.csr.skey) hland).trans hkey)
  rw [giveAmo, if_pos hukey, hart_modHart_self, hgood]
  exact Ctx.scalar_fillScalar hdst _ _

/-! ### The nodes follow (R289, R295, R312) -/

/-- Of memory and launches the end of a launch changes that launch alone. -/
theorem memory_launches_endLaunch {s : State} {l : Nat} (hrun : (launch s l).running = true) (st : EndSt) :
    ((endLaunch s l st).mem, (endLaunch s l st).launches) =
      (s.mem, (modLaunch s l fun x => { x with ended := some st, units := [], rescans := [], usedSlots := [] }).launches) := by
  unfold endLaunch
  rw [if_pos hrun]
  exact abandonCopied_keeps (fun s => (s.mem, s.launches)) (fun _ _ _ => rfl) (fun _ _ => rfl) _ l

/-- From `s` nodes of launch `l` go on: no byte changes and no step of the launch, and a write unit that is new is one of quantum `q`. -/
structure NodesFollow (l q : Nat) (s t : State) : Prop where
  mem : t.mem = s.mem
  committed : (launch t l).committed = (launch s l).committed
  commit : (launch t l).commit = (launch s l).commit
  units : ∀ u ∈ (launch t l).units, u ∈ (launch s l).units ∨ u.q = q

namespace NodesFollow
variable {l q : Nat} {s t u : State}

theorem refl (l q : Nat) (s : State) : NodesFollow l q s s := ⟨rfl, rfl, rfl, fun _ h => .inl h⟩

theorem trans (h : NodesFollow l q s t) (g : NodesFollow l q t u) : NodesFollow l q s u where
  mem := g.mem.trans h.mem
  committed := g.committed.trans h.committed
  commit := g.commit.trans h.commit
  units w hw := (g.units w hw).elim (h.units w) .inr

theorem foldl {α : Type} {f : State → α → State} (hf : ∀ s a, NodesFollow l q s (f s a)) (as : List α) (s : State) :
    NodesFollow l q s (as.foldl f s) := by
  induction as generalizing s with
  | nil => exact refl l q s
  | cons a as ih => exact (hf s a).trans (ih (f s a))

/-- Where neither memory nor a launch changes. -/
theorem of_eq (hmem : t.mem = s.mem) (hlaunches : t.launches = s.launches) : NodesFollow l q s t := by
  have hl := launch_of_launches hlaunches l
  exact ⟨hmem, by rw [hl], by rw [hl], fun u hu => .inl (hl ▸ hu)⟩

theorem modLaunch (s : State) {f : Launch → Launch} (hcommitted : (f (launch s l)).committed = (launch s l).committed)
    (hcommit : (f (launch s l)).commit = (launch s l).commit) (hunits : ∀ u ∈ (f (launch s l)).units, u ∈ (launch s l).units ∨ u.q = q) :
    NodesFollow l q s (Machine.modLaunch s l f) := by
  refine ⟨rfl, ?_, ?_, ?_⟩ <;> rw [launch_modLaunch_self]
  exacts [hcommitted, hcommit, hunits]

theorem modNode (l q : Nat) (s : State) (n : Nat) (f : Node → Node) : NodesFollow l q s (Machine.modNode s l n f) :=
  modLaunch s rfl rfl fun _ h => .inl h

theorem endLaunch (l q : Nat) (s : State) (st : EndSt) : NodesFollow l q s (Machine.endLaunch s l st) := by
  by_cases hrun : (launch s l).running = true
  · refine (modLaunch s (f := fun x => { x with ended := some st, units := [], rescans := [], usedSlots := [] }) rfl rfl fun _ h => absurd h List.not_mem_nil).trans ?_
    obtain ⟨hmem, hlaunches⟩ := Prod.mk.inj (memory_launches_endLaunch hrun st)
    exact of_eq hmem hlaunches
  · unfold Machine.endLaunch
    rw [if_neg hrun]
    exact refl l q s

theorem nodeFails (l q : Nat) (s : State) (n : Nat) : NodesFollow l q s (Machine.nodeFails s l n) := by
  unfold Machine.nodeFails failNode
  split
  · exact (modLaunch s rfl rfl fun _ h => .inl h).trans (endLaunch l q _ _)
  · exact refl l q s

/-- The one new unit of a call node is of its start quantum (R295). -/
theorem startCallNode (s : State) {n : Nat} (hq : (nodeOf s l n).start = q) : NodesFollow l q s (Machine.startCallNode s l n) := by
  unfold Machine.startCallNode
  dsimp only
  split
  · refine (of_eq rfl rfl : NodesFollow l q s (setHart s _ _)).trans ((modLaunch _ rfl rfl fun u hu => ?_).trans (modNode l q _ n _))
    obtain hu | hu := List.mem_append.1 hu
    · exact .inl hu
    · rw [List.mem_singleton.1 hu]
      exact .inr hq
  · exact nodeFails l q s n

theorem startCopyNode (l q : Nat) (s : State) (n : Nat) : NodesFollow l q s (Machine.startCopyNode s l n) := by
  unfold Machine.startCopyNode
  dsimp only
  split
  · exact refl l q s
  · split
    · exact nodeFails l q s n
    · exact (of_eq rfl rfl : NodesFollow l q s (setHart { s with arrivals := s.arrivals + 1 } _ _)).trans (modNode l q _ n _)

theorem readyNode (l q : Nat) (s : State) (n : Nat) : NodesFollow l q s (Machine.readyNode s l n q) := by
  unfold Machine.readyNode
  dsimp only
  have hready := modNode l q s n fun x => { x with st := .ready, start := q }
  split
  · exact hready.trans (of_eq rfl rfl)
  · refine hready.trans (startCallNode _ ?_)
    rw [nodeOf, Machine.modNode, launch_modLaunch_self]
    exact congrArg Node.start (tget_tset_self _ _ _ _)
  · exact hready.trans (startCopyNode l q _ n)

theorem noticeNode (l q : Nat) (s : State) (n : Nat) : NodesFollow l q s (Machine.noticeNode s l q n) := by
  unfold Machine.noticeNode
  dsimp only
  split
  · exact (modNode l q s n _).trans (readyNode l q _ n)
  · exact modNode l q s n _

theorem finishNodes (l q : Nat) (s : State) : NodesFollow l (q + 1) s (Machine.finishNodes s l q) :=
  (foldl (fun s (e : Nat × Node) => modNode l (q + 1) s e.1 _) _ s).trans
    (foldl (fun s (e : Nat × Node) => foldl (fun s n => noticeNode l (q + 1) s n) e.2.desc.succs s) _ _)

theorem checkEnd (l q : Nat) (s : State) : NodesFollow l q s (Machine.checkEnd s l) := by
  unfold Machine.checkEnd
  dsimp only
  split
  · exact refl l q s
  · split
    · split
      · exact refl l q s
      · exact endLaunch l q s _
    · split
      · exact endLaunch l q s _
      · exact refl l q s

end NodesFollow

/-- The end of a completed step: its nodes follow. -/
theorem completeStep_follows (s : State) (l : Nat) :
    NodesFollow l ((stepOf (receive s l) l).q + 1) (stepLanded (receive s l) l) (completeStep s l) := by
  rw [completeStep_eq]
  split
  · exact (NodesFollow.finishNodes l _ _).trans (NodesFollow.checkEnd l _ _)
  · exact NodesFollow.refl l _ _

/-- A launch that no node leaves goes on as it is. -/
theorem nodes_stay {s : State} {l q : Nat} (hrun : ∃ e ∈ (launch s l).nodes, e.2.st = .running)
    (hend : ∀ e ∈ (launch s l).nodes, e.2.st ≠ .completing) : checkEnd (finishNodes s l q) l = s := by
  have hnone : ((launch s l).nodes.filter fun e => e.2.st == .completing && e.2.final ≤ q) = [] :=
    List.filter_eq_nil_iff.2 fun e he => by simp [hend e he]
  have hfinish : finishNodes s l q = s := by rw [finishNodes, hnone]; rfl
  obtain ⟨e, he, hst⟩ := hrun
  have hdone : (launch s l).nodes.all (fun e => e.2.st == .done) = false := List.all_eq_false.2 ⟨e, he, by rw [hst]; decide⟩
  rw [hfinish]
  unfold checkEnd
  dsimp only
  split
  · rfl
  · rw [if_neg (by rw [hdone]; exact Bool.false_ne_true)]
    split
    · next hdead =>
      simp only [Bool.and_eq_true, Bool.not_eq_true'] at hdead
      obtain ⟨⟨-, hmoves⟩, -⟩ := hdead
      have hstill := List.any_eq_false.1 hmoves e he
      rw [hst] at hstill
      exact absurd rfl hstill
    · rfl

/-! ### Messages in a step (R388) -/

/-- The quantum of the step that a launch has in progress. -/
def stepQuantum (l : Nat) (s : State) : Option Nat := (launch s l).commit.map (·.q)

theorem stepQuantum_modLaunch (s : State) (l m : Nat) {f : Launch → Launch} (hf : ∀ x, (f x).commit.map (·.q) = x.commit.map (·.q)) :
    stepQuantum l (modLaunch s m f) = stepQuantum l s := by
  rw [stepQuantum, launch_modLaunch]
  split
  · next h => rw [hf, h]; rfl
  · rfl

theorem stepQuantum_modStep (s : State) (l m : Nat) {f : Commit → Commit} (hf : ∀ c, (f c).q = c.q) :
    stepQuantum l (modStep s m f) = stepQuantum l s :=
  stepQuantum_modLaunch s l m fun x => by cases hx : x.commit <;> simp [hf]

theorem stepQuantum_logWrites (s : State) (l m : Nat) (ws : List StepWrite) : stepQuantum l (logWrites s m ws) = stepQuantum l s := by
  unfold logWrites
  rw [stepQuantum_modLaunch _ l m fun _ => by rfl, stepQuantum_modStep s l m fun _ => by rfl]

theorem stepQuantum_stepOpen (s : State) (l m place base : Nat) (p : Page) : stepQuantum l (stepOpen s m place base p) = stepQuantum l s := by
  unfold stepOpen
  dsimp only
  split
  · exact (stepQuantum_logWrites _ l m _).trans (stepQuantum_modStep s l m fun _ => by rfl)
  · rfl

theorem stepQuantum_stepPut (s : State) (l m : Nat) (key : Word) (pa : Nat) (bytes : List Byte) (whole : Bool) :
    stepQuantum l (stepPut s m key pa bytes whole).1 = stepQuantum l s := by
  unfold stepPut
  dsimp only
  split
  · rfl
  · exact stepQuantum_modStep s l m fun _ => by rfl

theorem stepQuantum_stepWrite (s : State) (l m place : Nat) (key : Word) (va : Nat) (bytes : List Byte) (whole : Bool) :
    stepQuantum l (stepWrite s m place key va bytes whole).1 = stepQuantum l s := by
  unfold stepWrite
  split
  · rfl
  · split
    · rfl
    · split
      · rfl
      · dsimp only
        rw [stepQuantum_logWrites, stepQuantum_stepPut, stepQuantum_stepOpen]

theorem stepQuantum_msgWrite (s : State) (l m place : Nat) (key : Word) (pa : Nat) (bytes : List Byte) (whole : Bool) :
    stepQuantum l (msgWrite s m place key pa bytes whole) = stepQuantum l s := by
  unfold msgWrite
  split
  · exact stepQuantum_stepWrite ..
  · exact stepQuantum_stepPut ..

theorem stepQuantum_msgAdd (s : State) (l m place : Nat) (key : Word) (a : Nat × Nat × Word) :
    stepQuantum l (msgAdd s m place key a) = stepQuantum l s := stepQuantum_msgWrite ..

theorem stepQuantum_applyMsg (s : State) (l m : Nat) (x : Msg) : stepQuantum l (applyMsg s m x) = stepQuantum l s := by
  unfold applyMsg
  dsimp only
  refine (foldl_keeps (stepQuantum l) (fun s t => (rfl : stepQuantum l (bumpBarrier s _ _ 1 none) = _)) x.notify _).trans ?_
  refine (stepQuantum_logWrites _ l m _).trans ?_
  rw [foldl_keeps (stepQuantum l) fun s a => stepQuantum_msgAdd s l m _ _ a]
  exact foldl_keeps (stepQuantum l) (fun s g => stepQuantum_msgWrite s l m _ _ _ _ _) _ s

theorem stepQuantum_receive (s : State) (l : Nat) : stepQuantum l (receive s l) = stepQuantum l s := by
  unfold receive
  split
  · exact foldl_keeps (stepQuantum l) (fun s m => stepQuantum_applyMsg s l l m) _ s
  · rfl

theorem receive_none {s : State} (h : s.fabric.inbox = []) (l : Nat) : receive s l = s := by
  rw [receive, applyMsgs, dueMsgs_none h]
  exact ite_self s

theorem stepOf_quantum {s : State} {l q : Nat} (h : stepQuantum l s = some q) : (stepOf s l).q = q := by
  obtain ⟨c, hc, hq⟩ := Option.map_eq_some_iff.1 h
  rw [stepOf, hc]
  exact hq

/-- What a completed step leaves of its launch. -/
theorem launch_completeStep {s : State} {l q : Nat} (hq : stepQuantum l s = some q) :
    (launch (completeStep s l) l).committed = q ∧ (launch (completeStep s l) l).commit = none ∧
      ∀ w ∈ (launch (completeStep s l) l).units, w.q ≠ q := by
  have hrq := stepOf_quantum ((stepQuantum_receive s l).trans hq)
  obtain ⟨-, hcommitted, hcommit, hunits⟩ := completeStep_follows s l
  rw [launch_stepLanded, hrq] at hcommitted hcommit hunits
  refine ⟨hcommitted, hcommit, fun w hw => ?_⟩
  obtain hold | hnew := hunits w hw
  · exact (of_decide_eq_true (List.mem_filter.1 hold).2).ne'
  · omega

/-! ### The bytes of a step (R324) -/

/-- A table whose keys rise. -/
def Rising {α : Type} (t : Tab α) : Prop := t.Pairwise fun x y => x.1 < y.1

theorem Rising.tput {α : Type} {t : Tab α} (h : Rising t) (k : Nat) (v : α) : Rising (tput k v t) := by
  induction t with
  | nil => exact List.pairwise_singleton _ _
  | cons e t ih =>
    obtain ⟨j, w⟩ := e
    obtain ⟨habove, hrest⟩ := List.pairwise_cons.1 h
    rw [Machine.tput]
    split
    · next hk =>
      refine List.pairwise_cons.2 ⟨fun x hx => ?_, h⟩
      obtain rfl | hx := List.mem_cons.1 hx
      · exact hk
      · exact hk.trans (habove x hx)
    · split
      · next hk => exact List.pairwise_cons.2 ⟨fun x hx => hk ▸ habove x hx, hrest⟩
      · exact List.pairwise_cons.2 ⟨tput_above habove (by omega), ih hrest⟩

theorem tfind_tput {α : Type} (t : Tab α) (k : Nat) (v : α) (x : Nat) : tfind (tput k v t) x = if x = k then some v else tfind t x := by
  induction t with
  | nil => rfl
  | cons e t ih =>
    obtain ⟨j, w⟩ := e
    rw [tput]
    split
    · rfl
    · split
      · next hk =>
        subst hk
        rw [tfind, tfind]
        split <;> rfl
      · next hk =>
        rw [tfind, tfind, ih]
        split
        · next hx => rw [if_neg (by omega)]
        · rfl

theorem tfind_above {α : Type} {t : Tab α} {k : Nat} (h : tabAbove k t) : tfind t k = none := by
  induction t with
  | nil => rfl
  | cons e t ih =>
    obtain ⟨j, w⟩ := e
    have hk : k < j := h (j, w) (List.mem_cons_self ..)
    rw [tfind, if_neg hk.ne, ih fun x hx => h x (List.mem_cons_of_mem _ hx)]

/-- Memory after the bytes of a table. -/
theorem mget_foldl_mset_table {t : Tab Byte} (h : Rising t) (m : List Host.Cell) (x : Nat) :
    mget (t.foldl (fun m b => mset m b.1 b.2) m) x = (tfind t x).getD (mget m x) := by
  induction t generalizing m with
  | nil => rfl
  | cons e t ih =>
    obtain ⟨j, w⟩ := e
    obtain ⟨habove, hrest⟩ := List.pairwise_cons.1 h
    rw [List.foldl_cons, ih hrest, mget_mset, tfind]
    split
    · next hx => rw [hx, tfind_above habove]; rfl
    · rfl

theorem putBytes_eq_foldl (t : Tab Byte) (a : Nat) (bytes : List Byte) :
    putBytes t a bytes = (List.range bytes.length).foldl (fun o k => tput (a + k) (nth 0 bytes k) o) t := by
  have hzip : bytes.zip (List.range bytes.length) = (List.range bytes.length).map fun k => (nth 0 bytes k, k) := by
    conv_lhs => rw [← map_range_nth 0 (rfl : bytes.length = bytes.length)]
    rw [List.length_map, List.length_range]
    simpa using zip_map_range bytes.length (nth 0 bytes) id
  rw [putBytes, hzip, List.foldl_map]

theorem Rising.putBytes {t : Tab Byte} (h : Rising t) (a : Nat) (bytes : List Byte) : Rising (putBytes t a bytes) := by
  rw [putBytes_eq_foldl]
  generalize List.range bytes.length = ks
  induction ks generalizing t with
  | nil => exact h
  | cons k ks ih => exact ih (h.tput _ _)

theorem tfind_putBytes (t : Tab Byte) (a : Nat) (bytes : List Byte) (x : Nat) :
    tfind (putBytes t a bytes) x = if a ≤ x ∧ x < a + bytes.length then some (nth 0 bytes (x - a)) else tfind t x := by
  have hput (n : Nat) : tfind ((List.range n).foldl (fun o k => tput (a + k) (nth 0 bytes k) o) t) x =
      if a ≤ x ∧ x < a + n then some (nth 0 bytes (x - a)) else tfind t x := by
    induction n with
    | zero => exact (if_neg (by omega)).symm
    | succ n ih =>
      rw [List.range_succ, List.foldl_append, List.foldl_cons, List.foldl_nil, tfind_tput, ih]
      by_cases hlast : x = a + n
      · rw [if_pos hlast, if_pos (by omega), hlast, Nat.add_sub_cancel_left]
      · rw [if_neg hlast]
        exact if_congr (by omega) rfl rfl
  rw [putBytes_eq_foldl]
  exact hput bytes.length

/-- Memory `m'` is memory `m` with the bytes of a step over it. -/
structure Overlay (t : Tab Byte) (m m' : List Host.Cell) : Prop where
  rising : Rising t
  read : ∀ x, mget m' x = (tfind t x).getD (mget m x)

theorem Overlay.nil (m : List Host.Cell) : Overlay [] m m := ⟨List.Pairwise.nil, fun _ => rfl⟩

theorem Overlay.write {t : Tab Byte} {m m' : List Host.Cell} (h : Overlay t m m') (a : Nat) (bytes : List Byte) :
    Overlay (putBytes t a bytes) m (mwrite m' a bytes) := by
  refine ⟨h.rising.putBytes a bytes, fun x => ?_⟩
  rw [mget_mwrite, tfind_putBytes]
  by_cases hx : a ≤ x ∧ x < a + bytes.length
  · rw [dif_pos (by omega), if_pos hx, Option.getD_some, nth_eq_getD, List.getD_eq_getElem]
  · rw [dif_neg (by omega), if_neg hx]
    exact h.read x

/-- The bytes of the step written to memory. -/
theorem Overlay.landed {t : Tab Byte} {m m' : List Host.Cell} (h : Overlay t m m') (x : Nat) :
    mget (t.foldl (fun m b => mset m b.1 b.2) m) x = mget m' x := (mget_foldl_mset_table h.rising m x).trans (h.read x).symm

/-! ### A step by what its units wrote -/

/-- A state in a step of launch `l`: from `s` only launches differ, and of `l` only its step, which is `c` but for its log, and what the launch
wrote. -/
structure AtStep (s : State) (l : Nat) (c : Commit) (t : State) : Prop where
  rest : t = { s with launches := t.launches }
  step : ∃ log wl, launch t l = { launch s l with commit := some { c with log := log }, writeLog := wl }

/-- A plain page of this module, as it holds an address. -/
structure PlainAt (s : State) (a base : Nat) (p : Page) : Prop where
  page : findPage s.pages a = some (base, p)
  plain : p.rep = 0
  here : s.remotePage p = false

section
variable {s t : State} {l : Nat} {c : Commit} (h : AtStep s l c t)
include h

theorem AtStep.stepOf_eq : ∃ log, stepOf t l = { c with log := log } := by
  obtain ⟨log, wl, hl⟩ := h.step
  exact ⟨log, by rw [stepOf, hl]; rfl⟩

theorem AtStep.modStep {f : Commit → Commit} {d : Commit} (hf : ∀ log, ∃ log', f { c with log := log } = { d with log := log' }) :
    AtStep s l d (modStep t l f) := by
  obtain ⟨log, wl, hl⟩ := h.step
  obtain ⟨log', hlog⟩ := hf log
  refine ⟨?_, log', wl, ?_⟩
  · exact congrArg (fun x : State => { x with launches := (Machine.modStep t l f).launches }) h.rest
  · rw [Machine.modStep, launch_modLaunch_self, hl, ← hlog]
    rfl

theorem AtStep.noteLog (f : Launch → List (Nat × Nat × Nat)) : AtStep s l c (modLaunch t l fun x => { x with writeLog := f x }) := by
  obtain ⟨log, wl, hl⟩ := h.step
  refine ⟨?_, log, f (launch t l), ?_⟩
  · exact congrArg (fun x : State => { x with launches := (modLaunch t l fun x => { x with writeLog := f x }).launches }) h.rest
  · rw [launch_modLaunch_self, hl]

theorem AtStep.logWrites (ws : List StepWrite) : AtStep s l c (logWrites t l ws) := by
  have hlog := h.modStep (f := fun c => { c with log := ws.foldl (fun t w => insWrite w t) c.log }) (d := c) fun _ => ⟨_, rfl⟩
  exact hlog.noteLog fun x => x.writeLog ++ (ws.filter fun w => !w.bytes.isEmpty).map fun w =>
    ((Machine.stepOf (Machine.modStep t l fun c => { c with log := ws.foldl (fun t w => insWrite w t) c.log }) l).q, w.va, w.bytes.length)

theorem AtStep.busyTargets_none (hcalls : c.calls = []) : busyTargets t l = [] := by
  obtain ⟨log, hlog⟩ := h.stepOf_eq
  rw [busyTargets, hlog]
  simp only [hcalls]
  rfl

theorem AtStep.stepQuantum : stepQuantum l t = some c.q := by
  obtain ⟨log, wl, hl⟩ := h.step
  rw [Machine.stepQuantum, hl]
  rfl

/-- Bytes of a unit on a plain page join the step. -/
theorem AtStep.stepWrite (hbad : s.badLines = []) {a base : Nat} {p : Page} (hp : PlainAt s a base p)
    (place : Nat) (key : Word) (bytes : List Byte) (whole : Bool) :
    AtStep s l { c with view := { c.view with bytes := putBytes c.view.bytes (physOf base p a) bytes } } (stepWrite t l place key a bytes whole).1 ∧
      (Machine.stepWrite t l place key a bytes whole).2 = .done := by
  have hpage : findPage t.pages a = some (base, p) := by rw [h.rest]; exact hp.page
  have hhere : t.remotePage p = false := by rw [h.rest]; exact hp.here
  have hgood : lineBad t l (physOf base p a) = false := by
    rw [lineBad, h.rest]
    simp [hbad]
  have hsame : stepOpen t l place base p = t := by simp [stepOpen, hp.plain]
  have hput : stepPut t l key (physOf base p a) bytes whole =
      (Machine.modStep t l fun c => { c with view := { c.view with bytes := putBytes c.view.bytes (physOf base p a) bytes } }, .done) := by
    simp [stepPut, hgood]
  have hwrite : ∃ ws, Machine.stepWrite t l place key a bytes whole = (Machine.logWrites
      (Machine.modStep t l fun c => { c with view := { c.view with bytes := putBytes c.view.bytes (physOf base p a) bytes } }) l ws, .done) := by
    rw [Machine.stepWrite, hpage]
    simp [hp.plain, hhere, hsame, hput]
  obtain ⟨ws, hws⟩ := hwrite
  rw [hws]
  exact ⟨(h.modStep fun log => ⟨log, rfl⟩).logWrites ws, rfl⟩

/-- A unit that nothing holds back applies at once. -/
theorem AtStep.advanceUnits_cons (hcalls : c.calls = []) (u : Nat × WUnit) (us : List (Nat × WUnit)) :
    advanceUnits t l (u :: us) [] = advanceUnits (applyUnit t l u) l us [] := by
  rw [advanceUnits]
  simp [h.busyTargets_none hcalls]

end

/-! ### Stores in the order of their units -/

/-- The bytes of a step after one more store. -/
def storeBytes (pages : Tab Page) (t : Tab Byte) (u : WUnit) : Tab Byte := match u.kind with
  | .gst a bytes => match findPage pages a with
    | some (base, p) => putBytes t (physOf base p a) bytes
    | none => t
  | _ => t

/-- A store to a plain page. -/
def PlainStore (s : State) (u : WUnit) : Prop := ∃ a bytes base p, u.kind = .gst a bytes ∧ PlainAt s a base p

theorem AtStep.advance_stores {s t : State} {l : Nat} {c : Commit} (h : AtStep s l c t) (hcalls : c.calls = [])
    (hbad : s.badLines = []) {us : List (Nat × WUnit)} (hus : ∀ u ∈ us, PlainStore s u.2) :
    AtStep s l { c with view := { c.view with bytes := us.foldl (fun b u => storeBytes s.pages b u.2) c.view.bytes } } (advanceUnits t l us []) := by
  induction us generalizing t c with
  | nil => exact h
  | cons u us ih =>
    obtain ⟨a, bytes, base, p, hk, hp⟩ := hus u (List.mem_cons_self ..)
    have happly : applyUnit t l u = (Machine.stepWrite t l u.1 u.2.key a bytes false).1 := by rw [applyUnit, hk]
    have hbytes : storeBytes s.pages c.view.bytes u.2 = putBytes c.view.bytes (physOf base p a) bytes := by simp only [storeBytes, hk, hp.page]
    rw [h.advanceUnits_cons hcalls, happly, List.foldl_cons, hbytes]
    exact ih (h.stepWrite hbad hp u.1 u.2.key bytes false).1 hcalls fun v hv => hus v (List.mem_cons_of_mem _ hv)

/-- Stores that are written to memory one after another. -/
theorem Overlay.stores {s : State} {put : List Host.Cell → WUnit → List Host.Cell} {us : List WUnit} (hus : ∀ u ∈ us, ∃ a bytes base p,
      u.kind = .gst a bytes ∧ PlainAt s a base p ∧ ∀ m, put m u = mwrite m (physOf base p a) bytes) {t : Tab Byte} {m m' : List Host.Cell}
    (h : Overlay t m m') : Overlay (us.foldl (storeBytes s.pages) t) m (us.foldl put m') := by
  induction us generalizing t m' with
  | nil => exact h
  | cons u us ih =>
    obtain ⟨a, bytes, base, p, hk, hp, hput⟩ := hus u (List.mem_cons_self ..)
    have hbytes : storeBytes s.pages t u = putBytes t (physOf base p a) bytes := by simp only [storeBytes, hk, hp.page]
    rw [List.foldl_cons, List.foldl_cons, hbytes, hput]
    exact ih (fun v hv => hus v (List.mem_cons_of_mem _ hv)) (h.write _ bytes)

/-- A list in the strict order of a sort is the sorted form of each of its permutations. -/
theorem sortBy_eq {α : Type} {before : α → α → Bool} (hasymm : ∀ x y, before x y = true → before y x = false) {l us : List α} (hperm : us.Perm l)
    (hsorted : us.Pairwise fun x y => before x y = true) : sortBy before l = us := by
  have insert_mid (x : α) (as bs : List α) (h : (as ++ x :: bs).Pairwise fun x y => before x y = true) :
      insertBy before x (as ++ bs) = as ++ x :: bs := by
    induction as with
    | nil =>
      cases bs with
      | nil => rfl
      | cons y bs =>
        have hxy : before x y = true := (List.pairwise_cons.1 h).1 y (List.mem_cons_self ..)
        rw [List.nil_append, insertBy, hasymm x y hxy]
        rfl
    | cons a as ih =>
      obtain ⟨ha, hrest⟩ := List.pairwise_cons.1 h
      rw [List.cons_append, insertBy, if_pos (ha x (by simp)), ih hrest]
      rfl
  induction l generalizing us with
  | nil => exact hperm.eq_nil.symm
  | cons x l ih =>
    obtain ⟨as, bs, rfl⟩ := List.append_of_mem (hperm.mem_iff.2 (List.mem_cons_self ..))
    have hrest : (as ++ bs).Perm l := (List.perm_middle.symm.trans hperm).cons_inv
    have hsub : (as ++ bs).Pairwise fun x y => before x y = true :=
      hsorted.sublist ((List.Sublist.refl as).append (List.sublist_cons_self x bs))
    rw [sortBy, ih hrest hsub, insert_mid x as bs hsorted]

theorem unitBefore_iff (u v : WUnit) : unitBefore u v = true ↔ u.key.toNat < v.key.toNat ∨ (u.key = v.key ∧ u.ord < v.ord) := by
  simp [unitBefore]

theorem unitBefore_asymm (u v : WUnit) (h : unitBefore u v = true) : unitBefore v u = false := by
  rw [← Bool.not_eq_true, unitBefore_iff]
  obtain hlt | ⟨heq, hlt⟩ := (unitBefore_iff u v).1 h
  · rintro (hgt | ⟨he, -⟩)
    · omega
    · exact absurd hlt (by rw [he]; exact lt_irrefl _)
  · rintro (hgt | ⟨-, hgt⟩)
    · rw [heq] at hgt
      exact lt_irrefl _ hgt
    · omega

/-! ### A step begins and completes -/

/-- The next quantum of a running launch may commit; nothing is promoted and no message waits. -/
structure CommitStarts (s : State) (l : Nat) : Prop where
  running : (launch s l).ended = none
  idle : (launch s l).commit = none
  may : mayCommit s l ((launch s l).committed + 1) = true
  promos : s.promos = []
  inbox : s.fabric.inbox = []

section
variable {s : State} {l : Nat} (h : CommitStarts s l)
include h

/-- The units of the quantum, in the order in which they apply. -/
theorem CommitStarts.begun {us : List WUnit} (hus : sortBy unitBefore ((launch s l).units.filter fun u => u.q ≤ (launch s l).committed + 1) = us) :
    AtStep s l { emptyStep ((launch s l).committed + 1) with units := (List.range us.length).zip us }
      (beginStep s l ((launch s l).committed + 1)) := by
  have hpromos : decidePromos s l = s := by
    have hp := h.promos
    cases s
    simp only at hp
    subst hp
    rfl
  rw [beginStep, hpromos]
  refine ⟨rfl, [], (launch s l).writeLog, ?_⟩
  rw [launch_modLaunch_self]
  simp only [hus]
  rfl

theorem CommitStarts.continued {us : List WUnit} (hus : sortBy unitBefore ((launch s l).units.filter fun u => u.q ≤ (launch s l).committed + 1) = us) :
    ∃ t, AtStep s l (emptyStep ((launch s l).committed + 1)) t ∧
      continueStep (beginStep s l ((launch s l).committed + 1)) l = advanceUnits t l ((List.range us.length).zip us) [] := by
  have hbegun := h.begun hus
  obtain ⟨log, hlog⟩ := hbegun.stepOf_eq
  refine ⟨_, hbegun.modStep (f := fun c => { c with units := [] }) fun log => ⟨log, rfl⟩, ?_⟩
  rw [continueStep, hlog]

/-- The step of a quantum with one unit. -/
theorem CommitStarts.continued_one {u : WUnit} (hu : (launch s l).units = [u]) (hq : u.q = (launch s l).committed + 1) :
    ∃ t, AtStep s l (emptyStep ((launch s l).committed + 1)) t ∧
      continueStep (beginStep s l ((launch s l).committed + 1)) l = applyUnit t l (0, u) := by
  obtain ⟨t, ht, hcont⟩ := h.continued (us := [u]) (by simp [hu, hq, sortBy, insertBy])
  exact ⟨t, ht, hcont.trans (ht.advanceUnits_cons rfl (0, u) [])⟩

theorem CommitStarts.exec : exec (.quantumCommit l) s =
    let z := continueStep (beginStep s l ((launch s l).committed + 1)) l
    .next (if stepOver z l = true then ordinaryAccess z (stepChannels z l) (.step l) fun s => completeStep s l else z) := by
  have hbegin : ((launch s l).running && (launch s l).commit.isNone && mayCommit s l ((launch s l).committed + 1)) = true := by
    rw [Launch.running, h.running, h.idle, h.may]
    rfl
  have hsome : (launch (beginStep s l ((launch s l).committed + 1)) l).commit.isNone = false := by
    obtain ⟨log, wl, hl⟩ := (h.begun rfl).step
    rw [hl]
    rfl
  rw [exec_quantumCommit, execQuantumCommit]
  simp only [hbegin, if_true, hsome, Bool.false_eq_true, if_false]
  split <;> rfl

/-- A step of which nothing is left completes at once. -/
theorem CommitStarts.exec_over (hfree : s.channelsFree) {c : Commit} (ht : AtStep s l c (continueStep (beginStep s l ((launch s l).committed + 1)) l))
    (hunits : c.units = []) (hcalls : c.calls = []) :
    Machine.exec (.quantumCommit l) s = .next (completeStep (continueStep (beginStep s l ((launch s l).committed + 1)) l) l) := by
  obtain ⟨log, hlog⟩ := ht.stepOf_eq
  have hover : stepOver (continueStep (beginStep s l ((launch s l).committed + 1)) l) l = true := by
    rw [stepOver, hlog]
    simp only [hunits, hcalls]
    rfl
  rw [h.exec]
  simp only [hover, if_true]
  rw [ordinaryAccess_free (channelsFree_of_drones (by rw [ht.rest]) hfree)]

theorem CommitStarts.receive_eq {c : Commit} {t : State} (ht : AtStep s l c t) : receive t l = t :=
  receive_none (by rw [ht.rest]; exact h.inbox) l

/-- Memory takes the bytes of the step. -/
theorem CommitStarts.mem_completeStep {c : Commit} {t : State} (ht : AtStep s l c t) (hopen : c.view.opened = []) :
    (completeStep t l).mem = c.view.bytes.foldl (fun m b => mset m b.1 b.2) s.mem := by
  obtain ⟨log, hlog⟩ := ht.stepOf_eq
  have hmem : t.mem = s.mem := by rw [ht.rest]
  have hfollow := (completeStep_follows t l).mem
  rw [h.receive_eq ht, mem_stepLanded t l (by rw [hlog]; exact hopen), hlog, hmem] at hfollow
  exact hfollow

/-- A step with one write to memory. -/
theorem CommitStarts.mem_write {c : Commit} {t : State} (ht : AtStep s l c t) (hopen : c.view.opened = []) {pa : Nat} {bytes : List Byte}
    (hbytes : c.view.bytes = putBytes [] pa bytes) (x : Nat) : mget (completeStep t l).mem x = mget (mwrite s.mem pa bytes) x := by
  rw [h.mem_completeStep ht hopen, hbytes]
  exact ((Overlay.nil s.mem).write pa bytes).landed x

/-- The GAMO of a step whose launch goes on has its word. -/
theorem CommitStarts.scalar_completeStep {c : Commit} {t : State} (ht : AtStep s l c t) (hopen : c.view.opened = []) {a : AmoDone}
    (hamos : c.amos = [a]) (hkey : (hart s a.h).csr.skey = a.key) (hgood : a.poison = none) (hdst : a.dst ≠ 0)
    (hrun : ∃ e ∈ (launch s l).nodes, e.2.st = .running) (hend : ∀ e ∈ (launch s l).nodes, e.2.st ≠ .completing) :
    (hart (completeStep t l) a.h).scalar a.dst = { val := a.old, pending := false, poison := none } := by
  obtain ⟨log, hlog⟩ := ht.stepOf_eq
  have hnodes : (launch (stepLanded t l) l).nodes = (launch s l).nodes := by
    obtain ⟨_, _, hl⟩ := ht.step
    rw [launch_stepLanded, hl]
    rfl
  have hstay : completeStep t l = stepLanded t l := by
    rw [completeStep_eq, h.receive_eq ht, nodes_stay (by rw [hnodes]; exact hrun) (by rw [hnodes]; exact hend)]
    exact ite_self _
  have hhart : hart t a.h = hart s a.h := by rw [ht.rest]; rfl
  rw [hstay]
  exact scalar_stepLanded t l (by rw [hlog]; exact hopen) (by rw [hlog]; exact hamos) (by rw [hhart]; exact hkey) hgood hdst

end

/-- The bytes of a memory from an address on are those written there, all others are as they were. -/
def Lands (pa : Nat) (bytes : List Byte) (m m' : List Host.Cell) : Prop :=
  mread m' pa bytes.length = bytes ∧ ∀ o, (o < pa ∨ pa + bytes.length ≤ o) → mget m' o = mget m o

theorem lands_of_mwrite {m m' : List Host.Cell} {pa : Nat} {bytes : List Byte} (h : ∀ x, mget m' x = mget (mwrite m pa bytes) x) :
    Lands pa bytes m m' := by
  refine ⟨?_, fun o ho => (h o).trans (mget_mwrite_outside m ho)⟩
  conv_rhs => rw [← mread_mwrite m pa bytes]
  rw [mread_eq_map, mread_eq_map]
  exact List.map_congr_left fun k _ => h _

theorem physOf_add {base a : Nat} (h : base ≤ a) (p : Page) (i : Nat) : physOf base p (a + i) = physOf base p a + i := by
  rw [physOf, physOf, Nat.sub_add_comm h, Nat.add_assoc]

/-! ### A GAMO, a PUBLISH, an RCALL.Q (R135, R246, R363) -/

section
variable {s t : State} {l q : Nat} (ht : AtStep s l (emptyStep q) t) (hbad : s.badLines = []) {a base : Nat} {p : Page}
include ht

/-- A byte that no unit of the step has written reads as memory has it. -/
theorem AtStep.stepReader_eq (hp : PlainAt s a base p) : stepReader t l a = mget s.mem (physOf base p a) := by
  obtain ⟨log, hlog⟩ := ht.stepOf_eq
  have hpage : findPage t.image.pages a = some (base, p) := by rw [ht.rest]; exact hp.page
  have hmem : t.image.mem = s.mem := by rw [ht.rest]; rfl
  rw [stepReader, hlog, viewReader, viewByte, hpage]
  simp only [hp.plain]
  rw [← hmem]
  rfl

include hbad

/-- A GAMO at its place, alone in its step: the old word is kept for its scalar. -/
theorem AtStep.applyGamo (u : WUnit) (h dst n : Nat) (f : AFunc) (v w : Word) (hpos : 0 < n)
    (hp : ∀ i, i < n → PlainAt s (a + i) base p) {old : Word} (hold : old = BitVec.ofNat 64 (leNat (mread s.mem (physOf base p a) n))) :
    AtStep s l { emptyStep q with
      view := { StepView.empty with bytes := putBytes [] (physOf base p a) (natBytes (amoResult f n old v w).toNat n) }
      amos := [{ h := h, key := u.key, dst := dst, old := old, poison := none }] } (applyGamo t l 0 u h dst a n f v w) := by
  have hfirst : PlainAt s a base p := hp 0 hpos
  have hbase := findPage_base_le hfirst.page
  have hread : ((List.range n).map fun i => stepReader t l (a + i)) = mread s.mem (physOf base p a) n := by
    rw [mread_eq_map]
    refine List.map_congr_left fun i hi => ?_
    rw [ht.stepReader_eq (hp i (List.mem_range.1 hi)), physOf_add hbase]
  obtain ⟨hwrite, hdone⟩ := ht.stepWrite hbad hfirst 0 u.key (natBytes (amoResult f n old v w).toNat n) false
  unfold Machine.applyGamo
  simp only [hread, ← hold]
  rw [hdone]
  exact hwrite.modStep fun log => ⟨log, rfl⟩

/-- One granule of a copy at its place, alone in its step. -/
theorem AtStep.publish (key : Word) {y : Copy} {g : Nat} {v : BitVec 128} (hform : tpXform y.tp ≠ 2) (hshadow : y.shadow = [(g, v)])
    (hp : PlainAt s (16 * g) base p) : AtStep s l { emptyStep q with
      view := { StepView.empty with bytes := putBytes [] (physOf base p (16 * g)) (natBytes v.toNat 16) } }
      (publishRemote (publishOwn t l 0 key [y]) l q key [y]) := by
  have hown : ownGranules t y = [(g, v)] := by
    have hpage : findPage t.pages (16 * g) = some (base, p) := by rw [ht.rest]; exact hp.page
    have hhere : t.remotePage p = false := by rw [ht.rest]; exact hp.here
    simp [ownGranules, hshadow, hpage, hhere]
  have hpieces : shadowPieces 1 [(g, v)] = [(g, natBytes v.toNat 16)] := by simp [shadowPieces]
  have hcopy (covered : List Nat) : AtStep s l { emptyStep q with
      view := { StepView.empty with bytes := putBytes [] (physOf base p (16 * g)) (natBytes v.toNat 16) } }
      (publishCopy t l 0 key covered y) := by
    unfold publishCopy
    simp only [hown, if_neg hform, List.length_singleton, hpieces, List.foldl_cons, List.foldl_nil]
    exact (ht.stepWrite hbad hp 0 key _ _).1
  have hpublished : AtStep s l { emptyStep q with
      view := { StepView.empty with bytes := putBytes [] (physOf base p (16 * g)) (natBytes v.toNat 16) } } (publishOwn t l 0 key [y]) :=
    (hcopy _).logWrites _
  have hremote (peer : Nat) : remoteGranules (publishOwn t l 0 key [y]) peer y = [] := by
    have hpage : findPage (publishOwn t l 0 key [y]).pages (16 * g) = some (base, p) := by rw [hpublished.rest]; exact hp.page
    have hhere : (publishOwn t l 0 key [y]).remotePage p = false := by rw [hpublished.rest]; exact hp.here
    simp [remoteGranules, hshadow, hpage, hhere]
  have hnone : publishRemote (publishOwn t l 0 key [y]) l q key [y] = publishOwn t l 0 key [y] := by
    unfold publishRemote
    exact List.foldl_fixed' (fun peer => by simp [hremote]) _
  rw [hnone]
  exact hpublished

end

theorem memory_markSent (s : State) (h : Nat) (key : Word) (n : Nat) :
    (markSent s h key n).mem = s.mem ∧ (markSent s h key n).launches = s.launches ∧ (markSent s h key n).ports = s.ports := by
  unfold markSent
  split <;> exact ⟨rfl, rfl, rfl⟩

/-- A call that waits for no room at a drone joins its queue. -/
theorem acceptCall_drone {s : State} {g : Nat} (hg : isDrone g = true) (hcache : (port s g).cache = []) (m : CallMsg) :
    ∃ cache, acceptCall s g m = setPort s g { port s g with queue := (port s g).queue ++ [m], cache := cache } := by
  have hguest : isGuest g = false := by rw [isGuest, hg]; rfl
  have hcached : (if (m.reissue && m.ordered) = true then cached (port s g) m else none) = none := by
    rw [cached, hcache]
    exact ite_self _
  refine ⟨if m.ordered = true then (port s g).cache ++
    [{ callerDie := dieOf m.caller, skey := m.skey, seqNo := m.seqNo, reply := none, others := [] }] else (port s g).cache, ?_⟩
  unfold acceptCall
  simp only [hguest, Bool.false_and, Bool.false_eq_true, if_false, hcached]

/-- A call dispatched to a drone at which nothing waits stands in its queue. -/
theorem dispatchCall_drone {s : State} {g : Nat} (hg : isDrone g = true) (hlink : (port s g).link = []) (hqueue : (port s g).queue = [])
    (hcache : (port s g).cache = []) (m : CallMsg) :
    let u := dispatchCall s g m
    u.mem = s.mem ∧ u.launches = s.launches ∧ (port u g).queue = [m] ∧ (port u g).link = [] := by
  have hadmits : admits g { port s g with link := [m] } m = true := by simp [admits, cached, hg, hcache]
  have hnext : nextAdmitted g { port s g with link := [m] } [m] [] = some (m, []) := by
    rw [nextAdmitted, hadmits]
    rfl
  have hempty : ({ port s g with link := [] } : Port) = port s g := by rw [← hlink]
  obtain ⟨cache, haccept⟩ := acceptCall_drone (s := setPort (setPort s g { port s g with link := [m] }) g (port s g)) hg
    (by rw [port_setPort_self]; exact hcache) m
  have hdispatch : dispatchCall s g m = acceptCall (setPort (setPort s g { port s g with link := [m] }) g (port s g)) g m := by
    rw [dispatchCall, hlink]
    simp only [List.nil_append, List.length_nil, pumpLinks, port_setPort_self, hnext, hempty]
  intro u
  have hu : u = _ := hdispatch.trans haccept
  rw [port_setPort_self, hqueue] at hu
  rw [hu, port_setPort_self]
  exact ⟨rfl, rfl, rfl, hlink⟩

/-! ### Commits of O54 -/

theorem getElem?_setNth {α : Type} (v : α) {l : List α} {k : Nat} (h : k < l.length) : (setNth v l k)[k]? = some v := by
  induction l generalizing k with
  | nil => exact absurd h (Nat.not_lt_zero k)
  | cons x l ih =>
    cases k with
    | zero => rfl
    | succ k => exact ih (Nat.lt_of_succ_lt_succ h)

/-- The open step of a launch completes once its calls are over. -/
theorem exec_quantumCommit_open {s : State} {l : Nat} {y : Commit} (hy : (launch s l).commit = some y) (hunits : y.units = [])
    (hcalls : ∀ r ∈ y.calls, callOver s r = true) (hfree : s.channelsFree) :
    ∃ u, exec (.quantumCommit l) s = .next (completeStep u l) ∧ stepQuantum l u = some y.q := by
  have hstep : stepOf s l = y := by rw [stepOf, hy]; rfl
  have hbegin : ((launch s l).running && (launch s l).commit.isNone && mayCommit s l ((launch s l).committed + 1)) = false := by
    rw [hy]
    simp
  have hcont : continueStep s l = modStep s l fun c => { c with units := [] } := by
    rw [continueStep, hstep, hunits]
    rfl
  have hnow : (launch (modStep s l fun c => { c with units := [] }) l).commit = some { y with units := [] } := by
    rw [modStep, launch_modLaunch_self, hy]
    rfl
  have hover : stepOver (modStep s l fun c => { c with units := [] }) l = true := by
    rw [stepOver, stepOf, hnow]
    simp only [Option.getD_some, List.isEmpty_nil, Bool.true_and, List.all_eq_true]
    exact hcalls
  have hstill : (modStep s l fun c => { c with units := [] }).channelsFree := channelsFree_of_drones rfl hfree
  refine ⟨modStep s l fun c => { c with units := [] }, ?_, by rw [stepQuantum, hnow]; rfl⟩
  rw [exec_quantumCommit, execQuantumCommit]
  simp only [hbegin, Bool.false_eq_true, if_false]
  simp only [hy, Option.isNone_some, Bool.false_eq_true, if_false, hcont, hover, if_true]
  rw [ordinaryAccess_free hstill]

/-- A promotion whose consumer runs has its copy done (R333). -/
theorem exec_promotionCopyDone_running {s : State} {k : Nat} {p : Promo} (hp : s.promos[k]? = some p) (hrun : (launch s p.launch).ended = none)
    (hfree : s.channelsFree) :
    exec (.promotionCopyDone k) s = .next { s with promos := setNth { p with copied := true } s.promos k } := by
  obtain ⟨hk, hget⟩ := List.getElem?_eq_some_iff.1 hp
  have hrunning : (launch s p.launch).running = true := by rw [Launch.running, hrun]; rfl
  rw [exec_promotionCopyDone, execPromotionCopyDone, List.drop_eq_getElem_cons hk, hget]
  simp only [ordinaryAccess_free hfree, hrunning]
  rfl

section
variable {s : State} {l : Nat} (h : CommitStarts s l)
include h

/-- A quantum without a write unit. -/
theorem CommitStarts.commits_none (hu : (launch s l).units = []) (hfree : s.channelsFree) :
    ∃ t, Machine.exec (.quantumCommit l) s = .next t ∧ (launch t l).committed = (launch s l).committed + 1 ∧ t.mem = s.mem := by
  obtain ⟨t, ht, hcont⟩ := h.continued (us := []) (by rw [hu]; rfl)
  have hstep : AtStep s l (emptyStep ((launch s l).committed + 1)) (continueStep (beginStep s l ((launch s l).committed + 1)) l) := hcont ▸ ht
  exact ⟨_, h.exec_over hfree hstep rfl rfl, (launch_completeStep hstep.stepQuantum).1, h.mem_completeStep hstep rfl⟩

/-- A quantum of stores: they stand in memory in the order of their units (R324, R325). -/
theorem CommitStarts.commits_stores (hbad : s.badLines = []) (hfree : s.channelsFree) {us : List WUnit} (hperm : us.Perm (launch s l).units)
    (hsorted : us.Pairwise fun u v => unitBefore u v = true) (hq : ∀ u ∈ us, u.q = (launch s l).committed + 1)
    {put : List Host.Cell → WUnit → List Host.Cell} (hput : ∀ u ∈ us, ∃ a bytes base p,
      u.kind = .gst a bytes ∧ PlainAt s a base p ∧ ∀ m, put m u = mwrite m (physOf base p a) bytes) :
    ∃ t, Machine.exec (.quantumCommit l) s = .next t ∧ (launch t l).committed = (launch s l).committed + 1 ∧
      (∀ w ∈ (launch t l).units, w.q ≠ (launch s l).committed + 1) ∧ ∀ o, mget t.mem o = mget (us.foldl put s.mem) o := by
  have hquantum : (launch s l).units.filter (fun u => u.q ≤ (launch s l).committed + 1) = (launch s l).units :=
    List.filter_eq_self.2 fun u hu => decide_eq_true (hq u (hperm.mem_iff.2 hu)).le
  obtain ⟨t, ht, hcont⟩ := h.continued (us := us) (by rw [hquantum]; exact sortBy_eq unitBefore_asymm hperm hsorted)
  have hstep := ht.advance_stores rfl hbad (us := (List.range us.length).zip us) fun u hu => by
    obtain ⟨a, bytes, base, p, hk, hp, -⟩ := hput u.2 (List.of_mem_zip hu).2
    exact ⟨a, bytes, base, p, hk, hp⟩
  rw [← hcont] at hstep
  have hbytes : ((List.range us.length).zip us).foldl (fun b u => storeBytes s.pages b u.2) [] = us.foldl (storeBytes s.pages) [] := by
    conv_rhs => rw [← List.map_snd_zip (show us.length ≤ (List.range us.length).length by simp), List.foldl_map]
  obtain ⟨hcommitted, -, hunits⟩ := launch_completeStep hstep.stepQuantum
  refine ⟨_, h.exec_over hfree hstep rfl rfl, hcommitted, hunits, fun o => ?_⟩
  rw [h.mem_completeStep hstep rfl]
  exact (hbytes ▸ (Overlay.nil s.mem).stores hput).landed o

variable {u : WUnit} (hu : (launch s l).units = [u]) (hq : u.q = (launch s l).committed + 1)
include hu hq

/-- A quantum of one GAMO: its scalar has the old word, memory the new one (R135). -/
theorem CommitStarts.commits_gamo (hbad : s.badLines = []) (hfree : s.channelsFree) {x dst a n base : Nat} {f : AFunc} {v w : Word} {p : Page}
    (hk : u.kind = .gamo x dst a n f v w) (hpos : 0 < n) (hp : ∀ i, i < n → PlainAt s (a + i) base p) (hdst : dst ≠ 0)
    (hkey : (hart s x).csr.skey = u.key) (hrun : ∃ e ∈ (launch s l).nodes, e.2.st = .running)
    (hend : ∀ e ∈ (launch s l).nodes, e.2.st ≠ .completing) {old : Word}
    (hold : old = BitVec.ofNat 64 (leNat (mread s.mem (physOf base p a) n))) :
    ∃ t, Machine.exec (.quantumCommit l) s = .next t ∧ (launch t l).committed = (launch s l).committed + 1 ∧
      (hart t x).scalar dst = { val := old, pending := false, poison := none } ∧
      Lands (physOf base p a) (natBytes (amoResult f n old v w).toNat n) s.mem t.mem := by
  obtain ⟨t, ht, hcont⟩ := h.continued_one hu hq
  have hstep := ht.applyGamo hbad u x dst n f v w hpos hp hold
  have happly : applyUnit t l (0, u) = applyGamo t l 0 u x dst a n f v w := by rw [applyUnit, hk]
  rw [← happly, ← hcont] at hstep
  generalize hput : putBytes [] (physOf base p a) (natBytes (amoResult f n old v w).toNat n) = written at hstep
  have hscalar := h.scalar_completeStep hstep rfl rfl hkey rfl hdst hrun hend
  exact ⟨_, h.exec_over hfree hstep rfl rfl, (launch_completeStep hstep.stepQuantum).1, hscalar, lands_of_mwrite (h.mem_write hstep rfl hput.symm)⟩

/-- A quantum of one PUBLISH of one granule (R246). -/
theorem CommitStarts.commits_publish (hbad : s.badLines = []) (hfree : s.channelsFree) {y : Copy} {g base : Nat} {v : BitVec 128} {p : Page}
    (hk : u.kind = .publish [y]) (hform : tpXform y.tp ≠ 2) (hshadow : y.shadow = [(g, v)]) (hp : PlainAt s (16 * g) base p) :
    ∃ t, Machine.exec (.quantumCommit l) s = .next t ∧ (launch t l).committed = (launch s l).committed + 1 ∧
      Lands (physOf base p (16 * g)) (natBytes v.toNat 16) s.mem t.mem := by
  obtain ⟨t, ht, hcont⟩ := h.continued_one hu hq
  have hstep := ht.publish hbad u.key hform hshadow hp
  have happly : applyUnit t l (0, u) = publishRemote (publishOwn t l 0 u.key [y]) l u.q u.key [y] := by rw [applyUnit, hk]
  rw [← hq, ← happly, hq, ← hcont] at hstep
  generalize hput : putBytes [] (physOf base p (16 * g)) (natBytes v.toNat 16) = written at hstep
  exact ⟨_, h.exec_over hfree hstep rfl rfl, (launch_completeStep hstep.stepQuantum).1, lands_of_mwrite (h.mem_write hstep rfl hput.symm)⟩

/-- A quantum of one RCALL.Q: the call stands in its drone's queue and holds the step open (R363). -/
theorem CommitStarts.calls {x g : Nat} {m : CallMsg} (hk : u.kind = .rcall x m g) (hg : isDrone g = true)
    (hlink : (port s g).link = []) (hqueue : (port s g).queue = []) (hcache : (port s g).cache = []) :
    ∃ t y, Machine.exec (.quantumCommit l) s = .next t ∧ (launch t l).committed = (launch s l).committed ∧ t.mem = s.mem ∧
      (port t g).queue = [m] ∧ (port t g).link = [] ∧ (launch t l).commit = some y ∧ y.q = (launch s l).committed + 1 ∧ y.units = [] ∧
      ∃ r, y.calls = [r] ∧ r.h = g ∧ r.seqNo = m.seqNo ∧ r.replied = false := by
  obtain ⟨t, ht, hcont⟩ := h.continued_one hu hq
  let r : CallRef := { place := 0, h := g, key := m.skey, seqNo := m.seqNo, replied := false }
  have hcall := ht.modStep (f := fun c => { c with calls := c.calls ++ [r] }) (d := { emptyStep ((launch s l).committed + 1) with calls := [r] })
    fun log => ⟨log, rfl⟩
  generalize hw : modStep t l (fun c => { c with calls := c.calls ++ [r] }) = w at hcall
  obtain ⟨hmem, hlaunches, hports⟩ := memory_markSent w x m.skey m.seqNo
  have hport : port (markSent w x m.skey m.seqNo) g = port s g := by
    rw [port, hports, hcall.rest]
    rfl
  obtain ⟨hmem', hlaunches', hqueue', hlink'⟩ := dispatchCall_drone (s := markSent w x m.skey m.seqNo) hg (by rw [hport]; exact hlink)
    (by rw [hport]; exact hqueue) (by rw [hport]; exact hcache) m
  have hz : continueStep (beginStep s l ((launch s l).committed + 1)) l = dispatchCall (markSent w x m.skey m.seqNo) g m := by
    rw [hcont, applyUnit, hk, ← hw]
    rfl
  obtain ⟨log, wl, hl⟩ := hcall.step
  have hlaunch : launch (dispatchCall (markSent w x m.skey m.seqNo) g m) l = _ := (launch_of_launches (hlaunches'.trans hlaunches) l).trans hl
  have hover : stepOver (dispatchCall (markSent w x m.skey m.seqNo) g m) l = false := by
    rw [stepOver, stepOf, hlaunch]
    rfl
  refine ⟨dispatchCall (markSent w x m.skey m.seqNo) g m, { emptyStep ((launch s l).committed + 1) with calls := [r], log := log }, ?_,
    by rw [hlaunch], ?_, hqueue', hlink', by rw [hlaunch], rfl, rfl, r, rfl, rfl, rfl, rfl⟩
  · rw [h.exec, hz]
    simp only [hover, Bool.false_eq_true, if_false]
  · rw [hmem', hmem, hcall.rest]

end

/-- Settles O54: a commit by what its units wrote and how its step completes, the other clauses by their events. -/
theorem commits : Obligations.Commits := by
  unfold Obligations.Commits
  intro s l h k q
  refine ⟨fun hended hidle hmay hpromos hinbox => ?_, fun y hy hunits hcalls hfree => ?_, fun hcounts => ?_, fun p hp hrun hfree => ?_⟩
  · have hstart : CommitStarts s l := ⟨hended, hidle, hmay, hpromos, hinbox⟩
    refine ⟨fun hnone hfree => hstart.commits_none hnone hfree, ?_⟩
    intro plain place lands hbad hfree
    have plainAt {a n base i : Nat} {p : Page} (hp : plain a n base p) (hi : i < n) : PlainAt s (a + i) base p := by
      obtain ⟨hpages, hplain, hhere⟩ := hp
      exact ⟨hpages i hi, hplain, hhere⟩
    refine ⟨?_, fun u hu hq => ⟨?_, fun y g v base p hk hform hshadow hp => ?_,
      fun h m g hk hg hlink hqueue hcache => hstart.calls hu hq hk hg hlink hqueue hcache⟩⟩
    · intro us hperm hsorted hstores put
      refine hstart.commits_stores hbad hfree hperm (hsorted.imp fun huv => (unitBefore_iff _ _).2 huv) (fun u hu => (hstores u hu).1) fun u hu => ?_
      obtain ⟨-, a, bytes, base, p, hk, hne, hp⟩ := hstores u hu
      have hat : PlainAt s a base p := plainAt hp (List.length_pos_of_ne_nil hne)
      refine ⟨a, bytes, base, p, hk, hat, fun m => ?_⟩
      simp only [put, hk, hat.page]
      rfl
    · intro h dst a n f v w base p hk hn hp hdst hkey hrun hend old
      exact hstart.commits_gamo hu hq hbad hfree hk (by omega) (fun i hi => plainAt hp hi) hdst hkey hrun hend rfl
    · exact hstart.commits_publish hu hq hbad hfree hk hform hshadow (plainAt hp (i := 0) (by decide))
  · obtain ⟨u, hexec, hq⟩ := exec_quantumCommit_open hy hunits hcalls hfree
    obtain ⟨hcommitted, hcommit, -⟩ := launch_completeStep hq
    exact ⟨_, hexec, hcommitted, hcommit⟩
  · intro next
    refine ⟨fun hlim => ⟨modHart s h endQuantum, ?_, hart_modHart_self s h endQuantum, rfl⟩,
      fun hlim => ⟨modHart s h endQuantum, ?_, hart_modHart_self s h endQuantum, rfl⟩⟩
    · rw [exec_qwQuantumEnd, execQwQuantumEnd, if_pos (by simp [hcounts, hlim])]
    · rw [exec_qbQuantumEnd, execQbQuantumEnd, if_pos (by simp [hcounts, hlim])]
  · exact ⟨_, exec_promotionCopyDone_running hp hrun hfree, getElem?_setNth _ (List.getElem?_eq_some_iff.1 hp).1, rfl⟩

end Sys2Proof.Machine

/-! ## Vector comparisons

The words of a vector slot that its layout does not read, and the masks that VCMP and VICMP write (O27).
-/
namespace Sys2Proof

/-- A slot whose layout reads no instruction is illegal. -/
theorem decodeSlot_of_rawV_none {u : VUnit} {w : Word} (hop : (fld w 56 8).toNat ≠ 0 ∧ (fld w 56 8).toNat < 96) (h : rawV u w = none) :
    decodeSlot u.slot w = .illegal := by
  obtain ⟨h0, h96⟩ := hop
  have hVB : rawVB w = none := Option.eq_none_iff_forall_ne_some.2 fun i hi => by
    have := (rawVB_opcode hi).1
    omega
  have hraw : rawSlot u.slot w = none := by
    refine (if_neg (by omega)).trans ((if_neg h0).trans ?_)
    cases u with
    | va => exact h
    | vb => exact (congrArg (Option.orElse · _) h).trans hVB
  rw [decodeSlot, hraw]

/-- The word of an instruction whose values the encoding does not admit is illegal. -/
theorem decodeSlot_encodeSlot_of_not_wf {t : Slot} {i : Instr} (hslot : slotOf i = some t) (hwf : i.wf = false) :
    decodeSlot t (encodeSlot i) = .illegal := by
  simp [decodeSlot, rawSlot_encodeSlot i hslot, hwf]

/-- The layout of VICMP reads no condition from the codes 6 and 7 (R154). -/
theorem rawV_vicmp_condition (u : VUnit) {w : Word} (hop : fld w 56 8 = 0x1B) (h : 6 ≤ (fld w 8 3).toNat) : rawV u w = none := by
  have hcond : VICond.ofCode (fld w 8 3) = none := by
    generalize fld w 8 3 = c at h
    revert h
    revert c
    decide
  delta rawV
  simp only [hop, BitVec.reduceToNat, hcond]
  simp

end Sys2Proof

namespace Sys2Proof.Machine

/-- A comparison of two operands writes each mask bit that its elements, and the source mask, allow. -/
theorem exec_compare_open {s : State} {u : VUnit} {md m : MReg} {a : TSrc} {b : BSrc} {t : EType} {i : Instr} {f : Nat → Nat → Bool}
    (hi : exec i s = .next (vecCmp s md m t (elemsA s u t a) (elemsB s u t b) f)) :
    let k := ((me s).mask m.toNat).val
    ∃ v : Mask, exec i s = .next (land s (.mask md.toNat v) (vecLat s 2) 0) ∧ ∀ j, j < 1024 →
      v.getLsbD j = (govBit t (fun n => f (opA s u t a n) (opB s u t b n)) j && k.getLsbD (if t.bits = 64 then j / 2 * 2 else j)) := by
  intro k
  refine ⟨_, hi, fun j hj => ?_⟩
  have hzip : ((elemsA s u t a).zip (elemsB s u t b)).map (fun p => f p.1 p.2) =
      (List.range (elemCount t)).map fun n => f (opA s u t a n) (opB s u t b n) := by
    rw [elemsA_eq_map, elemsB_eq_map]
    exact List.ext_getElem (by simp) fun n h1 h2 => by simp
  rw [hzip, getLsbD_maskFrom t k _ hj]

/-- Settles O27: each bit of the mask by `maskFrom` of one condition per element; VICMP's other codes by its layout. -/
theorem vectorCompares : Obligations.VectorCompares := by
  unfold Obligations.VectorCompares
  intro s u md m a b t cc ci ho k bit gives
  have hbit (ok : Nat → Bool) (j : Nat) : bit ok j = (govBit t ok j && k.getLsbD (if t.bits = 64 then j / 2 * 2 else j)) := by
    by_cases h64 : t.bits = 64 <;> simp [bit, govBit, h64]
  have compared {i : Instr} {f : Nat → Nat → Bool} (hi : exec i s = .next (vecCmp s md m t (elemsA s u t a) (elemsB s u t b) f)) :
      gives i fun n => f (opA s u t a n) (opB s u t b n) := by
    obtain ⟨v, hv, hbits⟩ := exec_compare_open hi
    exact ⟨v, hv, fun j hj => (hbits j hj).trans (hbit _ j).symm⟩
  refine ⟨fun _ => compared ((exec_vcmp u cc md m a b t s).trans (issue_open _ _ ho)),
    fun _ => compared ((exec_vicmp u ci md m a b t s).trans (issue_open _ _ ho)), fun h due v => hart_landOne_mask_zero s h due v,
    fun w hop h => decodeSlot_of_rawV_none (by simp [hop]) (rawV_vicmp_condition u hop h)⟩

end Sys2Proof.Machine

/-! ## Vector moves

Codes that land by position and row after row, one element replaced, and the moves, selections, permutations, rotations and broadcasts
(O28).
-/
namespace Sys2Proof

/-- An immediate amount at its limit or above does not fit (R160). -/
theorem RotAmt.ok_imm_of_le {lim : Nat} {n : BitVec 8} (h : lim ≤ n.toNat) : (RotAmt.imm n).ok lim = false := by simp [RotAmt.ok, h]

/-- An immediate that is neither a zero nor a sign extension from a narrow type's width does not fit (R158). -/
theorem moviOk_of_unfit {t : EType} {imm : BitVec 32} (hbits : t.bits < 32) (hz : imm ≠ (imm.setWidth t.bits).setWidth 32)
    (hs : imm ≠ (imm.setWidth t.bits).signExtend 32) : moviOk t imm = false := by
  simp [moviOk, hz, hs, hbits]

/-- The layout of a rotation or broadcast reads no amount from an immediate beside a scalar (R160). -/
theorem rawV_rotation_immediate (u : VUnit) {w : Word} (hlo : 0x30 ≤ (fld w 56 8).toNat) (hhi : (fld w 56 8).toNat ≤ 0x33)
    (hs : fld w 11 1 = 1) (himm : fld w 0 8 ≠ 0) : rawV u w = none := by
  have hrot : readRot (fld w 11 1) (fld w 26 10) (fld w 0 8) = none := by rw [readRot, if_pos hs, if_neg himm]
  delta rawV
  generalize (fld w 56 8).toNat = n at hlo hhi
  interval_cases n <;> simp [hrot]

end Sys2Proof

namespace Sys2Proof.Machine

/-! ### Codes by position -/

theorem perRow_pos (t : EType) : 0 < t.perRow := by cases t <;> decide

theorem orAll_map_zero (n : Nat) : (orAll ((List.range n).map fun _ => 0#6)) = 0#6 :=
  BitVec.eq_of_getLsbD_eq fun i _ => by simp [getLsbD_orAll]

/-- Codes given by position land as one result without a flag. -/
theorem tileResult_landCodes (s : State) (td : TReg) (m : MReg) (t : EType) (k : Nat) (f : Nat → Nat) :
    TileResult s (landCodes s td m t k ((List.range (elemCount t)).map f)) td m t k fun n => (f n, 0) := by
  refine ⟨tileOf t.bits ((List.range (elemCount t)).map f), ?_, fun n hn => ?_⟩
  · exact congrArg (land s _ (vecLat s k)) (orAll_map_zero (elemCount t)).symm
  · rw [tileElem_tileOf t _ n (by simp) (by simpa using hn)]
    simp

/-- One code in every element. -/
theorem tileResult_replicate (s : State) (td : TReg) (m : MReg) (t : EType) (k c : Nat) :
    TileResult s (landCodes s td m t k (List.replicate (elemCount t) c)) td m t k fun _ => (c, 0) := by
  have hl : List.replicate (elemCount t) c = (List.range (elemCount t)).map fun _ => c := by simp
  rw [hl]
  exact tileResult_landCodes s td m t k _

/-- A tile lands as it is. -/
theorem tileResult_landTile (s : State) (td : TReg) (m : MReg) (t : EType) (k : Nat) (v : Tile) :
    TileResult s (landTile s td m t k v) td m t k fun n => (tileElem t v n, 0) := by
  refine ⟨v, ?_, fun n _ => (Nat.mod_eq_of_lt (tileElem_lt t v n)).symm⟩
  exact congrArg (land s _ (vecLat s k)) (orAll_map_zero (elemCount t)).symm

/-- Only the positions that the tile has count. -/
theorem TileResult.congr_codes {s r : State} {td : TReg} {m : MReg} {t : EType} {k : Nat} {f g : Nat → Nat}
    (h : TileResult s r td m t k fun n => (f n, 0)) (hfg : ∀ n, n < elemCount t → f n % 2 ^ t.bits = g n % 2 ^ t.bits) :
    TileResult s r td m t k fun n => (g n, 0) := by
  obtain ⟨v, hr, he⟩ := h
  exact ⟨v, hr, fun n hn => (he n hn).trans (hfg n hn)⟩

/-- Codes given row after row land as one result without a flag. -/
theorem tileResult_rows (s : State) (td : TReg) (m : MReg) (t : EType) (k : Nat) (g : Nat → List Nat) (hg : ∀ i, (g i).length = t.perRow) :
    TileResult s (landCodes s td m t k ((List.range 16).flatMap g)) td m t k fun n => (nth 0 (g (n / t.perRow)) (n % t.perRow), 0) := by
  have hrows : (List.range 16).flatMap g = (List.range (elemCount t)).map fun n => nth 0 (g (n / t.perRow)) (n % t.perRow) := by
    rw [elemCount, ← flatMap_range_map 16 t.perRow fun i => nth 0 (g i)]
    simp only [map_range_nth 0 (hg _)]
  rw [hrows]
  exact tileResult_landCodes s td m t k _

/-! ### Moves along and across rows (R160) -/

/-- Each element comes from the row and the column that `src` names. -/
theorem tileResult_moveElems (s : State) (u : VUnit) (td : TReg) (m : MReg) (a : TSrc) (t : EType) (k : Nat) {src : Nat → Nat → Nat × Nat}
    (hsrc : ∀ i j, i < 16 → j < t.perRow → (src i j).1 < 16 ∧ (src i j).2 < t.perRow) :
    TileResult s (moveElems s td m t k (elemsA s u t a) src) td m t k fun n =>
      (opA s u t a ((src (n / t.perRow) (n % t.perRow)).1 * t.perRow + (src (n / t.perRow) (n % t.perRow)).2), 0) := by
  rw [moveElems, elemsA_eq_map, rowsOf_eq_map, flatMap_range_map]
  refine (tileResult_landCodes s td m t k _).congr_codes fun n hn => ?_
  obtain ⟨hrow, hcol⟩ := hsrc (n / t.perRow) (n % t.perRow) (Nat.div_lt_of_lt_mul (by rwa [Nat.mul_comm]))
    (Nat.mod_lt _ (perRow_pos t))
  rw [nth_map_range [] _ hrow, nth_map_range 0 _ hcol]

/-! ### One element of a tile (R159) -/

/-- The tile with one element replaced. -/
theorem tileElem_insert (t : EType) (v : Tile) (x : Nat) {n k : Nat} (hn : n < elemCount t) (hk : k < elemCount t) :
    tileElem t (mergeBits v (BitVec.ofNat 32768 ((x % 2 ^ t.bits) <<< (n * t.bits))) (onesAt 32768 (n * t.bits) t.bits)) k =
      if k = n then x % 2 ^ t.bits else tileElem t v k := by
  refine Nat.eq_of_testBit_eq fun i => ?_
  rw [testBit_tileElem]
  by_cases hi : i < t.bits
  · have hfit := elem_fits t hk
    have hlt : k * t.bits + i < 32768 := by omega
    rw [mergeBits, BitVec.getLsbD_or, BitVec.getLsbD_and, BitVec.getLsbD_and, BitVec.getLsbD_not, getLsbD_onesAt _ _ hlt,
      BitVec.getLsbD_ofNat, Nat.testBit_shiftLeft]
    by_cases hkn : k = n
    · subst hkn
      simp [hi, hlt]
    · have hout : ¬ (n * t.bits ≤ k * t.bits + i ∧ k * t.bits + i < n * t.bits + t.bits) := by
        rintro ⟨h1, h2⟩
        have h3 : n * t.bits < (k + 1) * t.bits := by rw [Nat.succ_mul]; omega
        have h4 : k * t.bits < (n + 1) * t.bits := by rw [Nat.succ_mul]; omega
        have h5 := Nat.lt_of_mul_lt_mul_right h3
        have h6 := Nat.lt_of_mul_lt_mul_right h4
        omega
      rw [← Bool.decide_and, decide_eq_false hout, if_neg hkn, testBit_tileElem]
      simp [hi, hlt]
  · have hbits : ¬ i < t.bits := hi
    split
    · simp [Nat.testBit_mod_two_pow, hbits]
    · simp [testBit_tileElem, hbits]

/-! ### The instructions -/

/-- VSEL (R152). -/
theorem exec_vsel_open {s : State} (ho : s.slotsOpen) (u : VUnit) (td : TReg) (m : MReg) (a : TSrc) (b : BSrc) (t : EType) :
    ∃ v, exec (.vsel u td m a b t) s = .next v ∧ TileResult s v td 0 t 2 fun n =>
      (if govern t ((me s).mask m.toNat).val n then opA s u t a n else opB s u t b n, 0) := by
  refine ⟨_, (exec_vsel u td m a b t s).trans (issue_open _ _ ho), ?_⟩
  have hl : (((elemsA s u t a).zip (elemsB s u t b)).zip (List.range (elemCount t))).map
      (fun p => if govern t (maskVal s m) p.2 then p.1.1 else p.1.2) =
      (List.range (elemCount t)).map fun n => if govern t (maskVal s m) n then opA s u t a n else opB s u t b n := by
    rw [elemsA_eq_map, elemsB_eq_map]
    exact List.ext_getElem (by simp) fun n h1 h2 => by simp
  simp only [hl]
  exact tileResult_landCodes s td 0 t 2 _

/-- VPERM (R161). -/
theorem exec_vperm_open {s : State} (ho : s.slotsOpen) (u : VUnit) (td : TReg) (m : MReg) (a b : TSrc) (t : EType) :
    ∃ r, exec (.vperm u td m a b t) s = .next r ∧ TileResult s r td m t 4 fun n =>
      let x := tileElem t ((me s).src (latchPos u 1) b) n
      (if x < t.perRow then opA s u t a (n / t.perRow * t.perRow + x) else 0, 0) := by
  refine ⟨_, (exec_vperm u td m a b t s).trans (issue_open _ _ ho), ?_⟩
  have hidx : (me s).srcElems t (latchPos u 1) b = (List.range (elemCount t)).map (tileElem t ((me s).src (latchPos u 1) b)) :=
    tileElems_eq_map t _
  simp only [hidx, elemsA_eq_map, rowsOf_eq_map, List.zip_map', List.flatMap_map, List.map_map, flatMap_range_map]
  refine (tileResult_landCodes s td m t 4 _).congr_codes fun n hn => ?_
  have hn' : n / t.perRow * t.perRow + n % t.perRow = n := by rw [Nat.mul_comm, Nat.div_add_mod]
  simp only [Function.comp_apply, hn']
  split
  next hx => rw [nth_map_range 0 _ hx]
  next => rfl

/-- Settles O28: the moves by position, the rows and columns that a rotation reads, and the words that the layout does not read. -/
theorem vectorMoves : Obligations.VectorMoves := by
  unfold Obligations.VectorMoves
  refine ⟨fun s u td m a b sb sc sd k imm t ho => ?_, fun s u td m a b t ho => exec_vperm_open ho u td m a b t⟩
  intro e x r gives
  have opened {i : Instr} {eff : State → State} {l : Nat} {f : Nat → Nat} (hi : exec i s = issue i eff s)
      (h : TileResult s (eff s) td m t l fun n => (f n, 0)) : gives i l f := ⟨_, hi.trans (issue_open i eff ho), h⟩
  have he : 0 < e := perRow_pos t
  refine ⟨?_, ?_, ?_, ?_, ?_, exec_vsel_open ho u td m a b t, ?_, ?_, ?_, ?_, (exec_vext u sd a sb t s).trans (issue_open _ _ ho), ?_,
    fun hbits hz hs => decodeSlot_encodeSlot_of_not_wf rfl ?_,
    fun n => ⟨fun hn => ⟨decodeSlot_encodeSlot_of_not_wf rfl ?_, decodeSlot_encodeSlot_of_not_wf rfl ?_⟩,
      fun hn => ⟨decodeSlot_encodeSlot_of_not_wf rfl ?_, decodeSlot_encodeSlot_of_not_wf rfl ?_⟩⟩,
    fun w hlo hhi hs himm => decodeSlot_of_rawV_none (by omega) (rawV_rotation_immediate u hlo hhi hs himm)⟩
  · exact opened (exec_vmov u td m a t s) (tileResult_landTile s td m t 2 _)
  · exact opened (exec_vmovs u td m sb t s) ((tileResult_replicate s td m t 2 _).congr_codes fun n _ => Nat.mod_mod _ _)
  · refine opened (exec_vmovi u td m imm t s) ((tileResult_replicate s td m t 2 _).congr_codes fun n _ => ?_)
    split
    · rfl
    · exact Nat.mod_mod _ _
  · exact opened (exec_viota u td m (some sb) t s) ((tileResult_landCodes s td m t 2 _).congr_codes fun n _ => Nat.mod_mod _ _)
  · refine opened (exec_viota u td m none t s) ((tileResult_landCodes s td m t 2 _).congr_codes fun n _ => ?_)
    rw [Nat.zero_add, Nat.mod_mod]
  · exact opened (exec_vrotr u td m a k t s) (tileResult_moveElems s u td m a t 2 fun i j hi _ => ⟨hi, Nat.mod_lt _ he⟩)
  · exact opened (exec_vrotc u td m a k t s) (tileResult_moveElems s u td m a t 5 fun i j _ hj => ⟨Nat.mod_lt _ (by decide), hj⟩)
  · exact opened (exec_vbcr u td m a k t s) (tileResult_moveElems s u td m a t 2 fun i j hi _ => ⟨hi, Nat.mod_lt _ he⟩)
  · exact opened (exec_vbcc u td m a k t s) (tileResult_moveElems s u td m a t 5 fun i j _ hj => ⟨Nat.mod_lt _ (by decide), hj⟩)
  · refine ⟨_, (exec_vins u td a sb sc t s).trans (issue_open _ _ ho), (tileResult_landTile s td 0 t 2 _).congr_codes fun n hn => ?_⟩
    have hsc : ((me s).s sc).toNat % elemCount t < elemCount t := Nat.mod_lt _ (by have := perRow_pos t; unfold elemCount; omega)
    rw [tileElem_insert t _ _ hsc hn]
    split
    · rw [Nat.mod_mod]
    · rfl
  · simp [Instr.wf, moviOk_of_unfit hbits hz hs]
  · simp [Instr.wf, RotAmt.ok_imm_of_le (lim := t.perRow) hn]
  · simp [Instr.wf, RotAmt.ok_imm_of_le (lim := t.perRow) hn]
  · simp [Instr.wf, RotAmt.ok_imm_of_le hn]
  · simp [Instr.wf, RotAmt.ok_imm_of_le hn]

end Sys2Proof.Machine

/-! ## Sorted streams

The stable sort as a permutation of positions in order, the merge of two rows, and VSORT, VTOPK and VMERGE (O29).
-/
namespace Sys2Proof.Machine

/-! ### A stable sort (R166) -/

theorem perm_insertBy {α : Type} (before : α → α → Bool) (x : α) (l : List α) : (insertBy before x l).Perm (x :: l) := by
  induction l with
  | nil => exact .refl _
  | cons y ys ih =>
    rw [insertBy]
    split
    · exact (ih.cons y).trans (.swap x y ys)
    · exact .refl _

theorem perm_sortBy {α : Type} (before : α → α → Bool) (l : List α) : (sortBy before l).Perm l := by
  induction l with
  | nil => exact .refl _
  | cons x xs ih => exact (perm_insertBy before x _).trans (ih.cons x)

/-- Two elements with their positions stand in order: strictly, or as equal ones in the order of their positions. -/
def StableOrder (bef : Nat → Nat → Bool) (x y : Nat × Nat) : Prop := bef x.1 y.1 = true ∨ (bef y.1 x.1 = false ∧ x.2 < y.2)

section

variable {bef : Nat → Nat → Bool} (hasymm : ∀ x y, bef x y = true → bef y x = false)
  (htrans : ∀ x y z, bef y x = false → bef z y = false → bef z x = false)
include hasymm htrans

/-- An element put in front of equal ones, all of which stand behind it in the source. -/
theorem pairwise_insertBy {x : Nat × Nat} {l : List (Nat × Nat)} (hl : l.Pairwise (StableOrder bef)) (hx : ∀ y ∈ l, x.2 < y.2) :
    (insertBy (fun x y => bef x.1 y.1) x l).Pairwise (StableOrder bef) := by
  induction l with
  | nil => exact List.pairwise_singleton _ x
  | cons y ys ih =>
    obtain ⟨hy, hys⟩ := List.pairwise_cons.1 hl
    rw [insertBy]
    split
    next hbef =>
      refine List.pairwise_cons.2 ⟨fun z hz => ?_, ih hys fun z hz => hx z (List.mem_cons_of_mem y hz)⟩
      obtain rfl | hz := List.mem_cons.1 ((perm_insertBy _ x ys).mem_iff.1 hz)
      · exact .inl hbef
      · exact hy z hz
    next hbef =>
      have hyx : bef y.1 x.1 = false := by simpa using hbef
      refine List.pairwise_cons.2 ⟨fun z hz => .inr ⟨?_, hx z hz⟩, hl⟩
      obtain rfl | hz := List.mem_cons.1 hz
      · exact hyx
      · exact htrans _ _ _ hyx ((hy z hz).elim (hasymm _ _) And.left)

theorem pairwise_sortBy {l : List (Nat × Nat)} (hl : l.Pairwise fun x y => x.2 < y.2) :
    (sortBy (fun x y => bef x.1 y.1) l).Pairwise (StableOrder bef) := by
  induction l with
  | nil => exact .nil
  | cons x xs ih =>
    obtain ⟨hx, hxs⟩ := List.pairwise_cons.1 hl
    exact pairwise_insertBy hasymm htrans (ih hxs) fun y hy => hx y ((perm_sortBy _ xs).mem_iff.1 hy)

end

/-! ### The order in force (R164) -/

theorem comesBefore_asymm (desc : Bool) (t : EType) (x y : Nat) (h : comesBefore desc t x y = true) : comesBefore desc t y x = false := by
  cases desc <;> simp [comesBefore] at h ⊢ <;> omega

theorem comesBefore_negTrans (desc : Bool) (t : EType) (x y z : Nat) (h : comesBefore desc t y x = false)
    (h' : comesBefore desc t z y = false) : comesBefore desc t z x = false := by
  cases desc <;> simp [comesBefore] at h h' ⊢ <;> omega

/-! ### Rows with their positions -/

theorem withPos_rowAt (t : EType) (x : Nat → Nat) (i p : Nat) :
    withPos p (rowAt t x i) = (List.range t.perRow).map fun j => (x (i * t.perRow + j), p + j) := by
  rw [withPos, rowAt, List.length_map, List.length_range, List.zip_map']

/-- The positions that VSORT writes for row `i`. -/
def sortPos (desc : Bool) (t : EType) (x : Nat → Nat) (i j : Nat) : Nat := (nth (0, 0) (sortRow desc t (rowAt t x i)) j).2

/-- A row with its positions from 0 on. -/
theorem withPos_zero_rowAt (t : EType) (x : Nat → Nat) (i : Nat) :
    withPos 0 (rowAt t x i) = (List.range t.perRow).map fun j => (x (i * t.perRow + j), j) := by
  simp only [withPos_rowAt, Nat.zero_add]

/-- A sorted row has the elements of the row with their positions. -/
theorem perm_sortRow (desc : Bool) (t : EType) (x : Nat → Nat) (i : Nat) :
    (sortRow desc t (rowAt t x i)).Perm ((List.range t.perRow).map fun j => (x (i * t.perRow + j), j)) := by
  rw [← withPos_zero_rowAt]
  exact perm_sortBy _ _

theorem length_sortRow (desc : Bool) (t : EType) (x : Nat → Nat) (i : Nat) : (sortRow desc t (rowAt t x i)).length = t.perRow := by
  rw [(perm_sortRow desc t x i).length_eq, List.length_map, List.length_range]

theorem pairwise_sortRow (desc : Bool) (t : EType) (x : Nat → Nat) (i : Nat) :
    (sortRow desc t (rowAt t x i)).Pairwise (StableOrder (comesBefore desc t)) := by
  refine pairwise_sortBy (comesBefore_asymm desc t) (comesBefore_negTrans desc t) ?_
  rw [withPos_zero_rowAt, List.pairwise_map]
  exact List.pairwise_lt_range

/-- The element at place `j` of a sorted row, with the position it had. -/
theorem nth_sortRow (desc : Bool) (t : EType) (x : Nat → Nat) (i : Nat) {j : Nat} (hj : j < t.perRow) :
    nth (0, 0) (sortRow desc t (rowAt t x i)) j = (x (i * t.perRow + sortPos desc t x i j), sortPos desc t x i j) := by
  have hlen : j < (sortRow desc t (rowAt t x i)).length := by rwa [length_sortRow]
  have hmem : nth (0, 0) (sortRow desc t (rowAt t x i)) j ∈ sortRow desc t (rowAt t x i) := by
    rw [nth_eq_getD, List.getD_eq_getElem _ _ hlen]
    exact List.getElem_mem hlen
  obtain ⟨p, -, hp⟩ := List.mem_map.1 ((perm_sortRow desc t x i).mem_iff.1 hmem)
  rw [sortPos, ← hp]

/-- The positions of a sorted row are all the positions of the row. -/
theorem perm_sortPos (desc : Bool) (t : EType) (x : Nat → Nat) (i : Nat) :
    ((List.range t.perRow).map (sortPos desc t x i)).Perm (List.range t.perRow) := by
  have hmap : (List.range t.perRow).map (sortPos desc t x i) = (sortRow desc t (rowAt t x i)).map Prod.snd := by
    conv_rhs => rw [← map_range_nth (0, 0) (length_sortRow desc t x i), List.map_map]
    rfl
  rw [hmap]
  refine ((perm_sortRow desc t x i).map Prod.snd).trans (.of_eq ?_)
  rw [List.map_map]
  exact List.map_id _

/-- Each pair of a sorted row is in order. -/
theorem sortPos_ordered (desc : Bool) (t : EType) (x : Nat → Nat) (i : Nat) {j k : Nat} (hjk : j < k) (hk : k < t.perRow) :
    let y := x (i * t.perRow + sortPos desc t x i j)
    let z := x (i * t.perRow + sortPos desc t x i k)
    comesBefore desc t y z = true ∨ (comesBefore desc t z y = false ∧ sortPos desc t x i j < sortPos desc t x i k) := by
  have hlen := length_sortRow desc t x i
  have hpair : StableOrder (comesBefore desc t) (nth (0, 0) (sortRow desc t (rowAt t x i)) j) (nth (0, 0) (sortRow desc t (rowAt t x i)) k) := by
    rw [nth_eq_getD, nth_eq_getD, List.getD_eq_getElem _ _ (by omega), List.getD_eq_getElem _ _ (by omega)]
    exact List.pairwise_iff_getElem.1 (pairwise_sortRow desc t x i) j k _ _ hjk
  rwa [nth_sortRow desc t x i (hjk.trans hk), nth_sortRow desc t x i hk] at hpair

/-! ### Merging two rows (R165) -/

theorem length_mergeRows (bef : Nat → Nat → Bool) (n : Nat) (xs ys : List (Nat × Nat)) (h : xs.length + ys.length ≤ n) :
    (mergeRows bef n xs ys).length = xs.length + ys.length := by
  induction n generalizing xs ys with
  | zero =>
    obtain ⟨hx, hy⟩ : xs.length = 0 ∧ ys.length = 0 := by omega
    simp [mergeRows, hx, hy]
  | succ n ih =>
    cases ys with
    | nil => simp [mergeRows]
    | cons y ys =>
      cases xs with
      | nil => simp [mergeRows]
      | cons x xs =>
        simp only [List.length_cons] at h
        rw [mergeRows]
        split
        · rw [List.length_cons, ih _ _ (by simp only [List.length_cons]; omega)]
          simp only [List.length_cons]
          omega
        · rw [List.length_cons, ih _ _ (by simp only [List.length_cons]; omega)]
          simp only [List.length_cons]
          omega

/-! ### The instructions (R165 to R167) -/

theorem nth_map {α β : Type} (f : α → β) {l : List α} (d : α) (d' : β) {j : Nat} (h : j < l.length) :
    nth d' (l.map f) j = f (nth d l j) := by
  rw [nth_eq_getD, nth_eq_getD, List.getD_eq_getElem _ _ h, List.getD_eq_getElem _ _ (by simpa using h), List.getElem_map]

theorem rowsOf_elemsA (s : State) (u : VUnit) (t : EType) (a : TSrc) :
    rowsOf t (elemsA s u t a) = (List.range 16).map (rowAt t (opA s u t a)) := by
  rw [elemsA_eq_map, rowsOf_eq_map]
  rfl

theorem outElem_mod (t : EType) (idx : Bool) (z : Nat × Nat) :
    outElem t idx z % 2 ^ t.bits = (if idx then z.2 else canonElem t z.1) % 2 ^ t.bits := by
  cases idx <;> simp [outElem]

/-- The code that VSORT writes at position `n`. -/
def sortedCode (desc idx : Bool) (t : EType) (x : Nat → Nat) (n : Nat) : Nat :=
  nth 0 ((sortRow desc t (rowAt t x (n / t.perRow))).map (outElem t idx)) (n % t.perRow)

/-- VSORT, the codes of each row as they come from the sorted row. -/
theorem exec_vsort_open {s : State} (ho : s.slotsOpen) (u : VUnit) (desc idx : Bool) (td : TReg) (m : MReg) (a : TSrc) (t : EType) :
    ∃ r, exec (.vsort u desc idx td m a t) s = .next r ∧ TileResult s r td m t 14 fun n =>
      (sortedCode desc idx t (opA s u t a) n, 0) := by
  refine ⟨_, (exec_vsort u desc idx td m a t s).trans (issue_open _ _ ho), ?_⟩
  rw [vsortEff, rowsOf_elemsA, List.flatMap_map]
  exact tileResult_rows s td m t 14 _ fun i => by rw [List.length_map, length_sortRow]

/-- VSORT by the positions of the sorted row. -/
theorem exec_vsort_positions {s : State} (ho : s.slotsOpen) (u : VUnit) (desc idx : Bool) (td : TReg) (m : MReg) (a : TSrc) (t : EType) :
    ∃ r, exec (.vsort u desc idx td m a t) s = .next r ∧ TileResult s r td m t 14 fun n =>
      let p := sortPos desc t (opA s u t a) (n / t.perRow) (n % t.perRow)
      (if idx then p else canonElem t (opA s u t a (n / t.perRow * t.perRow + p)), 0) := by
  obtain ⟨r, hr, h⟩ := exec_vsort_open ho u desc idx td m a t
  refine ⟨r, hr, h.congr_codes fun n _ => ?_⟩
  have hj := Nat.mod_lt n (perRow_pos t)
  rw [sortedCode, nth_map _ (0, 0) 0 (by rwa [length_sortRow]), nth_sortRow _ _ _ _ hj, outElem_mod]

/-- The first `k` codes of a row with zeros behind them. -/
theorem nth_take_zeros {l : List Nat} {e : Nat} (hl : l.length = e) (k : Nat) {j : Nat} (hj : j < e) :
    nth 0 (l.take k ++ List.replicate (e - k) 0) j = if j < k then nth 0 l j else 0 := by
  rw [nth_eq_getD, nth_eq_getD]
  by_cases hk : j < k
  · rw [if_pos hk, List.getD_append _ _ _ _ (by simp; omega), List.getD_eq_getElem _ _ (by simp; omega),
      List.getD_eq_getElem _ _ (by omega), List.getElem_take]
  · rw [if_neg hk, List.getD_append_right _ _ _ _ (by simp; omega)]
    simp

/-- VTOPK: the first `k` codes that VSORT writes, and zeros. -/
theorem exec_vtopk_open {s : State} (ho : s.slotsOpen) (u : VUnit) (least idx : Bool) (td : TReg) (m : MReg) (a : TSrc) (k : BitVec 8)
    (t : EType) : ∃ w, exec (.vtopk u least idx td m a k t) s = .next w ∧ TileResult s w td m t 12 fun n =>
      (if n % t.perRow < k.toNat then sortedCode (!least) idx t (opA s u t a) n else 0, 0) := by
  refine ⟨_, (exec_vtopk u least idx td m a k t s).trans (issue_open _ _ ho), ?_⟩
  have hlen (i : Nat) : ((sortRow (!least) t (rowAt t (opA s u t a) i)).map (outElem t idx)).length = t.perRow := by
    rw [List.length_map, length_sortRow]
  rw [vtopkEff, rowsOf_elemsA, List.flatMap_map]
  simp only [List.map_take]
  refine (tileResult_rows s td m t 12 _ fun i => ?_).congr_codes fun n _ => ?_
  · simp only [List.length_append, List.length_take, List.length_replicate, hlen]
    omega
  · exact congrArg (· % 2 ^ t.bits) (nth_take_zeros (hlen _) k.toNat (Nat.mod_lt n (perRow_pos t)))

/-- An element of a half of a list. -/
theorem nth_map_half {α β : Type} (f : α → β) {d : α} {d' : β} {l : List α} {e : Nat} (hl : l.length = 2 * e) (hi : Bool) {j : Nat} (hj : j < e) :
    nth d' ((if hi then l.drop e else l.take e).map f) j = f (nth d l (j + if hi then e else 0)) := by
  cases hi
  · rw [if_neg Bool.false_ne_true, if_neg Bool.false_ne_true, nth_map f d d' (by simp; omega), nth_eq_getD, nth_eq_getD,
      List.getD_eq_getElem _ _ (by simp; omega), List.getD_eq_getElem _ _ (by omega), List.getElem_take]
    rfl
  · rw [if_pos rfl, if_pos rfl, nth_map f d d' (by simp; omega), nth_eq_getD, nth_eq_getD, List.getD_eq_getElem _ _ (by simp; omega),
      List.getD_eq_getElem _ _ (by omega), List.getElem_drop]
    congr 2
    omega

/-- VMERGE: a half of the merged rows. -/
theorem exec_vmerge_open {s : State} (ho : s.slotsOpen) (u : VUnit) (desc idx hi : Bool) (td : TReg) (m : MReg) (a b : TSrc) (t : EType) :
    ∃ r, exec (.vmerge u desc idx hi td m a b t) s = .next r ∧ TileResult s r td m t 10 fun n =>
      let l := mergeRows (comesBefore desc t) (2 * t.perRow) (withPos 0 (rowAt t (opA s u t a) (n / t.perRow)))
        (withPos t.perRow (rowAt t (tileElem t ((me s).src (latchPos u 1) b)) (n / t.perRow)))
      let z := nth (0, 0) l (n % t.perRow + if hi then t.perRow else 0)
      (if idx then z.2 else canonElem t z.1, 0) := by
  refine ⟨_, (exec_vmerge u desc idx hi td m a b t s).trans (issue_open _ _ ho), ?_⟩
  have hb : rowsOf t ((me s).srcElems t (latchPos u 1) b) = (List.range 16).map (rowAt t (tileElem t ((me s).src (latchPos u 1) b))) := by
    rw [Ctx.srcElems, tileElems_eq_map, rowsOf_eq_map]
    rfl
  simp only [vmergeEff, rowsOf_elemsA, hb, zip_map_range, List.flatMap_map]
  have hlen (i : Nat) : (mergeRows (comesBefore desc t) (2 * t.perRow) (withPos 0 (rowAt t (opA s u t a) i))
      (withPos t.perRow (rowAt t (tileElem t ((me s).src (latchPos u 1) b)) i))).length = 2 * t.perRow := by
    rw [length_mergeRows _ _ _ _ (by simp [withPos_rowAt]; omega)]
    simp [withPos_rowAt]
    omega
  refine (tileResult_rows s td m t 10 _ fun i => ?_).congr_codes fun n _ => ?_
  · cases hi <;> simp [hlen] <;> omega
  · have hj := Nat.mod_lt n (perRow_pos t)
    rw [← outElem_mod, nth_map_half (outElem t idx) (hlen _) hi hj]

/-- Settles O29: each row by the positions of its stable sort, VTOPK by what VSORT writes, VMERGE by the length of what it merges. -/
theorem vsortSorts : Obligations.VsortSorts := by
  unfold Obligations.VsortSorts
  refine ⟨fun s u desc td m a t ho _ => ?_, fun s u flag idx hi td m a b k t ho ht => ⟨?_, fun hk => ?_, ?_⟩⟩
  · obtain ⟨r, hr, hidx⟩ := exec_vsort_positions ho u desc true td m a t
    obtain ⟨w, hw, hval⟩ := exec_vsort_positions ho u desc false td m a t
    exact ⟨sortPos desc t (opA s u t a), r, w, hr, hidx, hw, hval, fun i _ => ⟨perm_sortPos desc t _ i, fun j k hjk hk =>
      sortPos_ordered desc t _ i hjk hk⟩⟩
  · obtain ⟨r, hr, hsort⟩ := exec_vsort_open ho u (!flag) idx td m a t
    obtain ⟨w, hw, htop⟩ := exec_vtopk_open ho u flag idx td m a k t
    exact ⟨sortedCode (!flag) idx t (opA s u t a), r, w, hr, hsort, hw, htop⟩
  · refine decodeSlot_encodeSlot_of_not_wf rfl ?_
    simp [Instr.wf]
    omega
  · obtain ⟨r, hr, h⟩ := exec_vmerge_open ho u flag idx hi td m a b t
    refine ⟨r, hr, ?_⟩
    simpa only [withPos_rowAt] using h

end Sys2Proof.Machine

/-! ## Special functions

The fixed-point series of ln 2, of the exponential and of the inverse hyperbolic tangent beside the real ones, values that are cut with their
last bit set, and the four special functions (O26).
-/
namespace Sys2Proof.Machine

/-! ### Fixed point -/

/-- The value of the last fraction bit. -/
noncomputable def fixUnit : ℝ := ((2 : ℝ) ^ fixBits)⁻¹

theorem fixUnit_pos : 0 < fixUnit := by unfold fixUnit; positivity

theorem pow_fixBits_mul_fixUnit : (2 : ℝ) ^ fixBits * fixUnit = 1 := mul_inv_cancel₀ (by positivity)

theorem fixUnit_eq : fixUnit = (1 / 2 : ℝ) ^ 160 * (1 / 2 : ℝ) ^ 160 := by
  rw [← pow_add, one_div, inv_pow]
  rfl

/-- A quotient of naturals is cut by less than one. -/
theorem floorDiv_bounds (a b : Nat) : (a : ℝ) / b - 1 ≤ ((a / b : Nat) : ℝ) ∧ ((a / b : Nat) : ℝ) ≤ (a : ℝ) / b := by
  refine ⟨?_, Nat.cast_div_le⟩
  rw [← Nat.floor_div_eq_div (K := ℝ)]
  exact (Nat.sub_one_lt_floor _).le

/-- The same in units of the last bit. -/
theorem floorDiv_units (a b : Nat) :
    (a : ℝ) / b * fixUnit - fixUnit ≤ (a / b : Nat) * fixUnit ∧ (a / b : Nat) * fixUnit ≤ (a : ℝ) / b * fixUnit := by
  obtain ⟨hcut, hle⟩ := floorDiv_bounds a b
  have hcut' := mul_le_mul_of_nonneg_right hcut fixUnit_pos.le
  rw [sub_mul, one_mul] at hcut'
  exact ⟨hcut', mul_le_mul_of_nonneg_right hle fixUnit_pos.le⟩

/-- A number that falls short of a sum in fixed point by at most `c` units, the sum near a real number. -/
theorem fixed_close {N S y c : ℝ} (hc : 0 ≤ c) (hlo : 2 ^ fixBits * S - c ≤ N) (hhi : N ≤ 2 ^ fixBits * S) (hS : |S - y| ≤ fixUnit) :
    |N * fixUnit - y| ≤ (c + 1) * fixUnit := by
  have hu := fixUnit_pos
  have hone : 2 ^ fixBits * S * fixUnit = S := by rw [mul_right_comm, pow_fixBits_mul_fixUnit, one_mul]
  have hlo' := mul_le_mul_of_nonneg_right hlo hu.le
  have hhi' := mul_le_mul_of_nonneg_right hhi hu.le
  rw [sub_mul, hone] at hlo'
  rw [hone] at hhi'
  have hcu : 0 ≤ c * fixUnit := mul_nonneg hc hu.le
  obtain ⟨h1, h2⟩ := abs_le.1 hS
  rw [abs_le]
  constructor <;> linarith

/-! ### ln 2 -/

/-- The series of -log (1 - x) at x = 1/2. -/
noncomputable def ln2Sum (n : Nat) : ℝ := ∑ i ∈ Finset.range n, (1 / 2 : ℝ) ^ (i + 1) / (i + 1)

/-- Each of the terms is cut by less than one. -/
theorem ln2Fix_bounds (n : Nat) : 2 ^ fixBits * ln2Sum n - n ≤ ln2Fix n ∧ (ln2Fix n : ℝ) ≤ 2 ^ fixBits * ln2Sum n := by
  induction n with
  | zero => simp [ln2Sum, ln2Fix]
  | succ n ih =>
    obtain ⟨hlo, hhi⟩ := ih
    obtain ⟨hcut, hle⟩ := floorDiv_bounds (2 ^ fixBits) ((n + 1) * 2 ^ (n + 1))
    have hterm : ((2 ^ fixBits : Nat) : ℝ) / (((n + 1) * 2 ^ (n + 1) : Nat) : ℝ) = 2 ^ fixBits * ((1 / 2 : ℝ) ^ (n + 1) / (n + 1)) := by
      push_cast
      rw [one_div, inv_pow]
      field_simp
    rw [hterm] at hcut hle
    have hsum : ln2Sum (n + 1) = ln2Sum n + (1 / 2 : ℝ) ^ (n + 1) / (n + 1) := Finset.sum_range_succ _ n
    rw [ln2Fix, hsum, mul_add]
    push_cast at hcut hle ⊢
    constructor <;> linarith

/-- The tail of the series is below a unit, the 340 terms are cut by less than a unit each. -/
theorem ln2Fix_close : |ln2Fix 340 * fixUnit - Real.log 2| ≤ 341 * fixUnit := by
  have hseries := Real.abs_log_sub_add_sum_range_le (x := 1 / 2) (by norm_num [abs_of_pos]) 340
  have htail : |(1 / 2 : ℝ)| ^ (340 + 1) / (1 - |1 / 2|) ≤ fixUnit := by
    rw [abs_of_pos (by norm_num), pow_succ, show (1 : ℝ) - 1 / 2 = 1 / 2 by norm_num, mul_div_cancel_right₀ _ (by norm_num), fixUnit_eq,
      ← pow_add]
    exact pow_le_pow_of_le_one (by norm_num) (by norm_num) (by decide)
  have hlog : Real.log (1 - 1 / 2 : ℝ) = -Real.log 2 := by
    rw [← Real.log_inv]
    norm_num
  rw [hlog] at hseries
  obtain ⟨hlo, hhi⟩ := ln2Fix_bounds 340
  refine (fixed_close (Nat.cast_nonneg 340) hlo hhi (hseries.trans htail)).trans_eq ?_
  norm_num

/-! ### The series of e^x -/

/-- A term of the series of e^x times the next factor. -/
theorem expTerm_succ (ξ : ℝ) (k : Nat) : ξ ^ k / k.factorial * (ξ / (k + 1)) = ξ ^ (k + 1) / (k + 1).factorial := by
  rw [Nat.factorial_succ, pow_succ, div_mul_div_comm, mul_comm (k.factorial : ℝ)]
  push_cast
  rfl

theorem sum_range_shift (f : Nat → ℝ) (k n : Nat) :
    ∑ j ∈ Finset.range (n + 1), f (k + j) = f k + ∑ j ∈ Finset.range n, f (k + 1 + j) := by
  rw [Finset.sum_range_succ', add_comm, Nat.add_zero]
  exact congrArg (f k + ·) (Finset.sum_congr rfl fun j _ => congrArg f (by omega))

/-- Each term is cut by at most one more than the term before it. -/
theorem expFix_bounds {x : Nat} {ξ : ℝ} (hx : (x : ℝ) = 2 ^ fixBits * ξ) (h0 : 0 ≤ ξ) (h1 : ξ ≤ 1) (n k term : Nat) {d : ℝ}
    (hd : 0 ≤ d) (hlo : 2 ^ fixBits * (ξ ^ k / k.factorial) - d ≤ term) (hhi : (term : ℝ) ≤ 2 ^ fixBits * (ξ ^ k / k.factorial)) :
    2 ^ fixBits * (∑ j ∈ Finset.range n, ξ ^ (k + j) / (k + j).factorial) - n * (d + n) ≤ expFix x n k term ∧
      (expFix x n k term : ℝ) ≤ 2 ^ fixBits * ∑ j ∈ Finset.range n, ξ ^ (k + j) / (k + j).factorial := by
  induction n generalizing k term d with
  | zero => simp [expFix]
  | succ n ih =>
    obtain ⟨hcut, hle⟩ := floorDiv_bounds (term * x) (2 ^ fixBits * (k + 1))
    have hnext : ((term * x : Nat) : ℝ) / ((2 ^ fixBits * (k + 1) : Nat) : ℝ) = term * (ξ / (k + 1)) := by
      push_cast
      rw [hx]
      field_simp
    have hr0 : 0 ≤ ξ / (k + 1 : ℝ) := by positivity
    have hr1 : ξ / (k + 1 : ℝ) ≤ 1 := div_le_one_of_le₀ (by have : (0 : ℝ) ≤ k := k.cast_nonneg; linarith) (by positivity)
    rw [hnext] at hcut hle
    have hlo' := mul_le_mul_of_nonneg_right hlo hr0
    have hhi' := mul_le_mul_of_nonneg_right hhi hr0
    rw [sub_mul, mul_assoc, expTerm_succ] at hlo'
    rw [mul_assoc, expTerm_succ] at hhi'
    have hdr : d * (ξ / (k + 1)) ≤ d := mul_le_of_le_one_right hd hr1
    obtain ⟨ihlo, ihhi⟩ := ih (k + 1) (term * x / (2 ^ fixBits * (k + 1))) (d := d + 1) (by linarith) (by linarith) (by linarith)
    rw [sum_range_shift (fun i => ξ ^ i / i.factorial) k n, expFix, mul_add]
    have hn : (0 : ℝ) ≤ n := n.cast_nonneg
    push_cast at ihlo ihhi ⊢
    constructor
    · nlinarith
    · linarith

/-- 90 terms of the exponential up to 1. -/
theorem expFix_close {x : Nat} (hx : (x : ℝ) * fixUnit ≤ 1) :
    |expFix x 90 0 (2 ^ fixBits) * fixUnit - Real.exp (x * fixUnit)| ≤ 8101 * fixUnit := by
  have hu := fixUnit_pos
  have h0 : 0 ≤ (x : ℝ) * fixUnit := by positivity
  obtain ⟨hlo, hhi⟩ := expFix_bounds (x := x) (ξ := x * fixUnit) (by rw [mul_left_comm, pow_fixBits_mul_fixUnit, mul_one]) h0 hx 90 0
    (2 ^ fixBits) le_rfl (by simp) (by simp)
  have hseries := Real.exp_bound (x := x * fixUnit) (by rwa [abs_of_nonneg h0]) (n := 90) (by decide)
  have htail : |(x : ℝ) * fixUnit| ^ 90 * ((Nat.succ 90 : ℕ) / ((Nat.factorial 90 : ℕ) * (90 : ℕ) : ℝ)) ≤ fixUnit := by
    have hpow : |(x : ℝ) * fixUnit| ^ 90 ≤ 1 := pow_le_one₀ (abs_nonneg _) (by rwa [abs_of_nonneg h0])
    refine (mul_le_of_le_one_left (by positivity) hpow).trans ?_
    rw [fixUnit_eq]
    norm_num [Nat.factorial]
  simp only [Nat.zero_add] at hlo hhi
  rw [abs_sub_comm] at hseries
  refine (fixed_close (by positivity) hlo hhi (hseries.trans htail)).trans_eq ?_
  norm_num

/-! ### The inverse hyperbolic tangent -/

/-- The product of two values in fixed point, whose errors are `d` and one unit. -/
theorem fixedProduct_bounds {F a b x y d : ℝ} (hF : 0 < F) (hx0 : 0 ≤ x) (hx1 : x ≤ 1) (hy1 : y ≤ 1) (hd : 0 ≤ d)
    (hb0 : 0 ≤ b) (ha : F * x - d ≤ a) (ha' : a ≤ F * x) (hb : F * y - 1 ≤ b) (hb' : b ≤ F * y) :
    F * (x * y) - (d + 1) ≤ a * b / F ∧ a * b / F ≤ F * (x * y) := by
  have hbF : b ≤ F := hb'.trans (mul_le_of_le_one_right hF.le hy1)
  have hxF : F * x ≤ F := mul_le_of_le_one_right hF.le hx1
  rw [le_div_iff₀ hF, div_le_iff₀ hF]
  constructor
  · have e1 : F * x * (F * y - 1) ≤ F * x * b := mul_le_mul_of_nonneg_left hb (by positivity)
    have e2 : (F * x - d) * b ≤ a * b := mul_le_mul_of_nonneg_right ha hb0
    have e3 : d * b ≤ d * F := mul_le_mul_of_nonneg_left hbF hd
    linarith
  · have e1 : a * b ≤ F * x * (F * y) := mul_le_mul ha' hb' hb0 (by positivity)
    linarith

/-- Each power is cut by at most two more than the power before it, and each term by one more. -/
theorem atanhFix_bounds {z2 : Nat} {ζ : ℝ} (h0 : 0 ≤ ζ) (h1 : ζ ≤ 1) (hz : 2 ^ fixBits * ζ ^ 2 - 1 ≤ z2)
    (hz' : (z2 : ℝ) ≤ 2 ^ fixBits * ζ ^ 2) (n k zp : Nat) {d : ℝ} (hd : 0 ≤ d) (hlo : 2 ^ fixBits * ζ ^ (2 * k + 1) - d ≤ zp)
    (hhi : (zp : ℝ) ≤ 2 ^ fixBits * ζ ^ (2 * k + 1)) :
    2 ^ fixBits * (∑ j ∈ Finset.range n, ζ ^ (2 * (k + j) + 1) / (2 * ((k + j : Nat) : ℝ) + 1)) - n * (d + 2 * n + 1) ≤ atanhFix z2 n k zp ∧
      (atanhFix z2 n k zp : ℝ) ≤ 2 ^ fixBits * ∑ j ∈ Finset.range n, ζ ^ (2 * (k + j) + 1) / (2 * ((k + j : Nat) : ℝ) + 1) := by
  induction n generalizing k zp d with
  | zero => simp [atanhFix]
  | succ n ih =>
    obtain ⟨hcut, hle⟩ := floorDiv_bounds zp (2 * k + 1)
    obtain ⟨hcut2, hle2⟩ := floorDiv_bounds (zp * z2) (2 ^ fixBits)
    have hk1 : (1 : ℝ) ≤ 2 * k + 1 := by have : (0 : ℝ) ≤ k := k.cast_nonneg; linarith
    push_cast at hcut hle hcut2 hle2
    have hp1 : ζ ^ (2 * k + 1) ≤ 1 := pow_le_one₀ h0 h1
    have hp0 : 0 ≤ ζ ^ (2 * k + 1) := by positivity
    have hq1 : ζ ^ 2 ≤ 1 := pow_le_one₀ h0 h1
    have hpow : ζ ^ (2 * k + 1) * ζ ^ 2 = ζ ^ (2 * (k + 1) + 1) := by rw [← pow_add]; rfl
    obtain ⟨hnext_lo, hnext_hi⟩ := fixedProduct_bounds (by positivity) hp0 hp1 hq1 hd z2.cast_nonneg hlo hhi hz hz'
    rw [hpow] at hnext_lo hnext_hi
    have hdiv_lo : 2 ^ fixBits * (ζ ^ (2 * k + 1) / (2 * k + 1)) - d ≤ (zp : ℝ) / (2 * k + 1) := by
      have h := div_le_div_of_nonneg_right hlo (by linarith : (0 : ℝ) ≤ 2 * k + 1)
      rw [sub_div, mul_div_assoc] at h
      have := div_le_self hd hk1
      linarith
    have hdiv_hi : (zp : ℝ) / (2 * k + 1) ≤ 2 ^ fixBits * (ζ ^ (2 * k + 1) / (2 * k + 1)) := by
      have h := div_le_div_of_nonneg_right hhi (by linarith : (0 : ℝ) ≤ 2 * k + 1)
      rwa [mul_div_assoc] at h
    obtain ⟨ihlo, ihhi⟩ := ih (k + 1) (zp * z2 / 2 ^ fixBits) (d := d + 2) (by linarith) (by linarith) (by linarith)
    rw [sum_range_shift (fun i => ζ ^ (2 * i + 1) / (2 * (i : ℝ) + 1)) k n, atanhFix, mul_add]
    have hn : (0 : ℝ) ≤ n := n.cast_nonneg
    push_cast at ihlo ihhi ⊢
    constructor
    · nlinarith
    · linarith

/-- 110 terms of the inverse hyperbolic tangent up to 1/3. -/
theorem atanhFix_close {z : Nat} (hz : (z : ℝ) * fixUnit ≤ 1 / 3) :
    |atanhFix (z * z / 2 ^ fixBits) 110 0 z * fixUnit - 1 / 2 * Real.log ((1 + z * fixUnit) / (1 - z * fixUnit))| ≤ 24311 * fixUnit := by
  have hu := fixUnit_pos
  set ζ : ℝ := z * fixUnit with hζ
  have h0 : 0 ≤ ζ := by positivity
  have hz' : (z : ℝ) = 2 ^ fixBits * ζ := by rw [hζ, mul_left_comm, pow_fixBits_mul_fixUnit, mul_one]
  obtain ⟨hcut, hle⟩ := floorDiv_bounds (z * z) (2 ^ fixBits)
  have hsq : ((z * z : Nat) : ℝ) / ((2 ^ fixBits : Nat) : ℝ) = 2 ^ fixBits * ζ ^ 2 := by
    push_cast
    rw [hz']
    field_simp
  rw [hsq] at hcut hle
  obtain ⟨hlo, hhi⟩ := atanhFix_bounds h0 (by linarith) hcut hle 110 0 z le_rfl (by simp [hz']) (by simp [hz'])
  have hseries := Real.sum_range_sub_log_div_le (x := ζ) (by rw [abs_of_nonneg h0]; linarith) 110
  have htail : |ζ| ^ (2 * 110 + 1) / (1 - ζ ^ 2) ≤ fixUnit := by
    have hpow : |ζ| ^ (2 * 110 + 1) ≤ (1 / 3 : ℝ) ^ (2 * 110 + 1) := pow_le_pow_left₀ (abs_nonneg _) (by rwa [abs_of_nonneg h0]) _
    have hden : (1 / 2 : ℝ) ≤ 1 - ζ ^ 2 := by nlinarith
    refine (div_le_div₀ (by positivity) hpow (by norm_num) hden).trans ?_
    rw [fixUnit_eq]
    norm_num
  simp only [Nat.zero_add] at hlo hhi
  rw [abs_sub_comm] at hseries
  refine (fixed_close (by positivity) hlo hhi (hseries.trans htail)).trans_eq ?_
  norm_num

/-! ### Values cut with their last bit set (R163) -/

/-- A value of at least 100 bits, cut to an integer with half a unit standing for what was cut, stands to every number of at most 100 bits
as the value itself does. -/
theorem halfUnit_stands {q n : Nat} {h : Int} {y : ℝ} (hq : 2 ^ 100 ≤ q) (hn : n < 2 ^ 100) (hlo : (q : ℝ) < y) (hhi : y < q + 1) :
    ((n : ℝ) * 2 ^ h < q + 1 / 2 ↔ (n : ℝ) * 2 ^ h < y) ∧ ((q : ℝ) + 1 / 2 < n * 2 ^ h ↔ y < (n : ℝ) * 2 ^ h) := by
  by_cases hh : 0 ≤ h
  · obtain ⟨k, rfl⟩ := Int.eq_ofNat_of_zero_le hh
    have hN : (n : ℝ) * 2 ^ (k : Int) = ((n * 2 ^ k : Nat) : ℝ) := by push_cast; rfl
    rw [hN]
    generalize n * 2 ^ k = N
    rcases Nat.lt_or_ge q N with hlt | hge
    · have hN1 : (q : ℝ) + 1 ≤ N := by exact_mod_cast hlt
      constructor <;> constructor <;> intro _ <;> linarith
    · have hN1 : (N : ℝ) ≤ q := by exact_mod_cast hge
      constructor <;> constructor <;> intro _ <;> linarith
  · have hsmall : (n : ℝ) * 2 ^ h < q := by
      have h1 : (2 : ℝ) ^ h ≤ 1 := zpow_le_one_of_nonpos₀ (by norm_num) (by omega)
      have h2 : (n : ℝ) < q := by exact_mod_cast hn.trans_le hq
      exact (mul_le_of_le_one_right n.cast_nonneg h1).trans_lt h2
    constructor <;> constructor <;> intro _ <;> linarith

theorem XR.lt_fin_iff_real (m n : Nat) (e f : Int) : XR.lt (.fin false m e) (.fin false n f) = true ↔ (m : ℝ) * 2 ^ e < n * 2 ^ f := by
  rw [XR.lt_iff rfl rfl, XR.toEReal, XR.toEReal, EReal.coe_lt_coe_iff]
  simp

/-- `m` at exponent `f - 1` is the value `y` at exponent `f`, cut after the bits of `q`, its last bit set where a part was cut. -/
def CutAt (y : ℝ) (q m : Nat) : Prop := (q : ℝ) ≤ y ∧ y < q + 1 ∧ (m = 2 * q ∧ y = q ∨ m = 2 * q + 1 ∧ y ≠ q)

/-- A cut value stands to every number of at most 100 bits as the value itself does. -/
theorem CutAt.stands {y : ℝ} {q m n : Nat} (hcut : CutAt y q m) (f g : Int) (hq : 2 ^ 100 ≤ q) (hn : n < 2 ^ 100) :
    (XR.lt (.fin false n g) (.fin false m (f - 1)) = true ↔ (n : ℝ) * 2 ^ g < y * 2 ^ f) ∧
      (XR.lt (.fin false m (f - 1)) (.fin false n g) = true ↔ y * 2 ^ f < (n : ℝ) * 2 ^ g) := by
  obtain ⟨hlo, hhi, hm⟩ := hcut
  have hf : (0 : ℝ) < 2 ^ f := by positivity
  have hg : (n : ℝ) * 2 ^ g = (n * 2 ^ (g - f)) * 2 ^ f := by rw [mul_assoc, ← zpow_add₀ (by norm_num), Int.sub_add_cancel]
  have hpred : (m : ℝ) * 2 ^ (f - 1) = (m / 2) * 2 ^ f := by rw [zpow_sub_one₀ (by norm_num)]; ring
  rw [XR.lt_fin_iff_real, XR.lt_fin_iff_real, hg, hpred, mul_lt_mul_iff_left₀ hf, mul_lt_mul_iff_left₀ hf, mul_lt_mul_iff_left₀ hf,
    mul_lt_mul_iff_left₀ hf]
  obtain ⟨rfl, hy⟩ | ⟨rfl, hy⟩ := hm
  · have hhalf : ((2 * q : Nat) : ℝ) / 2 = y := by rw [hy]; push_cast; ring
    rw [hhalf]
    exact ⟨Iff.rfl, Iff.rfl⟩
  · have hhalf : ((2 * q + 1 : Nat) : ℝ) / 2 = q + 1 / 2 := by push_cast; ring
    rw [hhalf]
    exact halfUnit_stands hq hn (lt_of_le_of_ne hlo hy.symm) hhi

/-! ### 1/x -/

/-- The quotient of two naturals, cut where its remainder is not zero. -/
theorem cutAt_div (a : Nat) {b : Nat} (hb : 0 < b) : CutAt ((a : ℝ) / b) (a / b) (2 * (a / b) + if a % b = 0 then 0 else 1) := by
  have hb' : (b : ℝ) ≠ 0 := by positivity
  have hexact : a % b = 0 ↔ (a : ℝ) / b = ((a / b : Nat) : ℝ) := by
    rw [← Nat.dvd_iff_mod_eq_zero, div_eq_iff hb', ← Nat.cast_mul, Nat.cast_inj]
    exact ⟨fun h => (Nat.div_mul_cancel h).symm, fun h => h ▸ Nat.dvd_mul_left b _⟩
  refine ⟨Nat.cast_div_le, ?_, ?_⟩
  · rw [← Nat.floor_div_eq_div (K := ℝ)]
    exact Nat.lt_floor_add_one _
  · by_cases h : a % b = 0
    · exact .inl ⟨by rw [if_pos h, Nat.add_zero], hexact.1 h⟩
    · exact .inr ⟨by rw [if_neg h], fun hy => h (hexact.2 hy)⟩

/-- The quotient of one by a finite value. -/
theorem XR.one_div_eq (neg : Bool) {m : Nat} (e : Int) (hm : 0 < m) :
    let k := 200 + m.log2
    XR.div (.fin false 1 0) (.fin neg m e) = .fin neg (2 * (2 ^ k / m) + if 2 ^ k % m = 0 then 0 else 1) (-e - k - 1) := by
  have hlog : Nat.log2 1 = 0 := rfl
  simp [XR.div, quotient, hm.ne', Nat.shiftLeft_eq, hlog]

/-- 1/x stands to every number of at most 100 bits as the real one does (R163). -/
theorem recip_stands (neg : Bool) {m n : Nat} (e g : Int) (hm : 0 < m) (hn : n < 2 ^ 100) :
    let recip := XR.div (.fin false 1 0) (.fin neg m e)
    let x : ℝ := m * 2 ^ e
    recip.sign = neg ∧ (XR.lt (.fin false n g) recip.abs = true ↔ n * 2 ^ g * x < 1) ∧
      (XR.lt recip.abs (.fin false n g) = true ↔ 1 < n * 2 ^ g * x) := by
  intro recip x
  have hx : 0 < x := by positivity
  have hm' : (m : ℝ) ≠ 0 := by positivity
  have hq : 2 ^ 100 ≤ 2 ^ (200 + m.log2) / m := by
    rw [Nat.le_div_iff_mul_le hm]
    have hlt : m < 2 ^ (m.log2 + 1) := Nat.lt_log2_self
    calc 2 ^ 100 * m ≤ 2 ^ 100 * 2 ^ (m.log2 + 1) := Nat.mul_le_mul_left _ hlt.le
      _ = 2 ^ (100 + (m.log2 + 1)) := (pow_add 2 100 _).symm
      _ ≤ 2 ^ (200 + m.log2) := Nat.pow_le_pow_right (by decide) (by omega)
  have hval : ((2 ^ (200 + m.log2) : Nat) : ℝ) / m * 2 ^ (-e - (200 + m.log2 : Nat) : Int) = 1 / x := by
    rw [zpow_sub₀ (by norm_num), zpow_neg, zpow_natCast]
    push_cast
    field_simp
    rfl
  have hrecip : recip = _ := XR.one_div_eq neg e hm
  obtain ⟨hbelow, habove⟩ := (cutAt_div (2 ^ (200 + m.log2)) hm).stands (-e - (200 + m.log2 : Nat)) g hq hn
  rw [hval] at hbelow habove
  rw [hrecip]
  exact ⟨rfl, hbelow.trans (lt_div_iff₀ hx), habove.trans (div_lt_iff₀ hx)⟩

/-! ### 1/√x -/

/-- A bit is kept where the square stays within the number. -/
theorem isqrtFrom_eq {v : Nat} (n r : Nat) (hlo : r * r ≤ v) (hhi : v < (r + 2 ^ n) * (r + 2 ^ n)) : isqrtFrom v n r = Nat.sqrt v := by
  induction n generalizing r with
  | zero => exact Nat.eq_sqrt.2 ⟨hlo, hhi⟩
  | succ n ih =>
    rw [isqrtFrom]
    split
    next h => exact ih _ h (by rwa [Nat.add_assoc, ← Nat.two_mul, ← Nat.pow_succ'])
    next h => exact ih _ hlo (Nat.not_le.1 h)

theorem isqrt_eq_sqrt (v : Nat) : isqrt v = Nat.sqrt v := by
  refine isqrtFrom_eq _ 0 (Nat.zero_le _) ?_
  rw [Nat.zero_add, ← pow_add]
  exact Nat.lt_log2_self.trans_le (Nat.pow_le_pow_right (by decide) (by omega))

/-- 2^k / √m, cut. -/
theorem cutAt_rsqrt (k : Nat) {m : Nat} (hm : 0 < m) :
    let q := Nat.sqrt (2 ^ (2 * k) / m)
    CutAt (2 ^ k / √m) q (2 * q + if m * q * q = 2 ^ (2 * k) then 0 else 1) := by
  intro q
  have hm' : (0 : ℝ) < m := by positivity
  have hs : 0 < √(m : ℝ) := Real.sqrt_pos.2 hm'
  have hle : m * q * q ≤ 2 ^ (2 * k) := by
    have h := (Nat.le_div_iff_mul_le hm).1 (Nat.sqrt_le (2 ^ (2 * k) / m))
    rwa [Nat.mul_comm, ← Nat.mul_assoc] at h
  have hlt : 2 ^ (2 * k) < m * (q + 1) * (q + 1) := by
    have h := (Nat.div_lt_iff_lt_mul hm).1 (Nat.lt_succ_sqrt (2 ^ (2 * k) / m))
    rwa [Nat.mul_comm _ m, ← Nat.mul_assoc] at h
  -- the comparison of q with the value is that of the squares
  have hcmp (r : Nat) : (m * r * r : ℝ) = (r * √m) ^ 2 := by rw [mul_pow, Real.sq_sqrt hm'.le]; ring
  have hpow : ((2 : ℝ) ^ (2 * k)) = (2 ^ k) ^ 2 := by rw [← pow_mul, mul_comm]
  refine ⟨?_, ?_, ?_⟩
  · rw [le_div_iff₀ hs]
    refine le_of_sq_le_sq ?_ (by positivity)
    rw [← hcmp, ← hpow]
    exact_mod_cast hle
  · rw [div_lt_iff₀ hs]
    refine lt_of_pow_lt_pow_left₀ 2 (by positivity) ?_
    have h := hcmp (q + 1)
    push_cast at h
    rw [← h, ← hpow]
    exact_mod_cast hlt
  · have hexact : m * q * q = 2 ^ (2 * k) ↔ (2 : ℝ) ^ k / √m = q := by
      rw [div_eq_iff hs.ne', eq_comm, ← pow_left_inj₀ (by positivity : (0 : ℝ) ≤ 2 ^ k) (by positivity) two_ne_zero, ← hcmp, ← hpow]
      norm_cast
    by_cases h : m * q * q = 2 ^ (2 * k)
    · exact .inl ⟨by rw [if_pos h, Nat.add_zero], hexact.1 h⟩
    · exact .inr ⟨by rw [if_neg h], fun hy => h (hexact.2 hy)⟩

/-- The root of a value of even exponent. -/
theorem rsq_even_stands {m n : Nat} {e : Int} (g : Int) (he : e % 2 = 0) (hm : 0 < m) (hn : n < 2 ^ 100) :
    let q := Nat.sqrt (2 ^ (2 * (240 + m.log2)) / m)
    let z := XR.fin false (2 * q + if m * q * q = 2 ^ (2 * (240 + m.log2)) then 0 else 1) (-(e / 2) - (240 + m.log2 : Nat) - 1)
    let x : ℝ := m * 2 ^ e
    (XR.lt (.fin false n g) z = true ↔ (n * 2 ^ g) ^ 2 * x < 1) ∧ (XR.lt z (.fin false n g) = true ↔ 1 < (n * 2 ^ g) ^ 2 * x) := by
  intro q z x
  have hx : 0 < x := by positivity
  have hq : 2 ^ 100 ≤ q := by
    rw [Nat.le_sqrt, Nat.le_div_iff_mul_le hm, ← pow_add]
    have hlt : m < 2 ^ (m.log2 + 1) := Nat.lt_log2_self
    calc 2 ^ (100 + 100) * m ≤ 2 ^ (100 + 100) * 2 ^ (m.log2 + 1) := Nat.mul_le_mul_left _ hlt.le
      _ = 2 ^ (100 + 100 + (m.log2 + 1)) := (pow_add 2 _ _).symm
      _ ≤ 2 ^ (2 * (240 + m.log2)) := Nat.pow_le_pow_right (by decide) (by omega)
  have hroot : √x = √m * 2 ^ (e / 2) := by
    have hsq : (2 : ℝ) ^ e = (2 ^ (e / 2)) ^ 2 := by
      rw [← zpow_natCast, ← zpow_mul]
      congr 1
      omega
    rw [Real.sqrt_mul m.cast_nonneg, hsq, Real.sqrt_sq (by positivity)]
  have hval : (2 : ℝ) ^ (240 + m.log2) / √m * 2 ^ (-(e / 2) - (240 + m.log2 : Nat) : Int) = 1 / √x := by
    have hm' : √(m : ℝ) ≠ 0 := (Real.sqrt_pos.2 (by positivity)).ne'
    rw [hroot, zpow_sub₀ (by norm_num), zpow_neg, zpow_natCast]
    field_simp
  obtain ⟨hbelow, habove⟩ := (cutAt_rsqrt (240 + m.log2) hm).stands (-(e / 2) - (240 + m.log2 : Nat)) g hq hn
  rw [hval] at hbelow habove
  have hs : 0 < √x := Real.sqrt_pos.2 hx
  have hc : 0 ≤ (n : ℝ) * 2 ^ g * √x := by positivity
  have hsq : (n * 2 ^ g : ℝ) ^ 2 * x = (n * 2 ^ g * √x) ^ 2 := by rw [mul_pow _ √x, Real.sq_sqrt hx.le]
  rw [hsq, sq_lt_one_iff₀ hc, one_lt_sq_iff₀ hc]
  exact ⟨hbelow.trans (lt_div_iff₀ hs), habove.trans (div_lt_iff₀ hs)⟩

/-- 1/√x stands to every number of at most 100 bits as the real one does (R163): an odd exponent moves a factor of two to the mantissa. -/
theorem rsqX_stands {m n : Nat} (e g : Int) (hm : 0 < m) (hn : n < 2 ^ 100) :
    let x : ℝ := m * 2 ^ e
    (XR.lt (.fin false n g) (rsqX m e) = true ↔ (n * 2 ^ g) ^ 2 * x < 1) ∧
      (XR.lt (rsqX m e) (.fin false n g) = true ↔ 1 < (n * 2 ^ g) ^ 2 * x) := by
  intro x
  by_cases he : e % 2 = 0
  · simpa [rsqX, he, isqrt_eq_sqrt] using rsq_even_stands g he hm hn
  · have hx : x = ((2 * m : Nat) : ℝ) * 2 ^ (e - 1) := by
      rw [zpow_sub_one₀ (by norm_num)]
      push_cast
      ring
    rw [hx]
    simpa only [rsqX, he, if_false, isqrt_eq_sqrt, decide_eq_true_eq] using
      rsq_even_stands (m := 2 * m) (e := e - 1) g (by omega) (by omega) hn

/-! ### 2^x -/

/-- The bound of the approximate functions is 2^30 units. -/
theorem million_units_le {c : ℝ} (hc : c ≤ 1000000) : c * fixUnit ≤ (2 : ℝ) ^ (-290 : ℤ) := by
  have hsplit : (2 : ℝ) ^ (-290 : ℤ) = 2 ^ (30 : ℤ) * fixUnit := by
    rw [fixUnit, ← zpow_natCast, ← zpow_neg, ← zpow_add₀ (by norm_num)]
    rfl
  rw [hsplit]
  exact mul_le_mul_of_nonneg_right (hc.trans (by norm_num)) fixUnit_pos.le

theorem fixUnit_small : fixUnit ≤ 1 / 1000000 := by
  have h : (2 : ℝ) ^ (-290 : ℤ) ≤ 1 := zpow_le_one_of_nonpos₀ (by norm_num) (by norm_num)
  have h' := (million_units_le le_rfl).trans h
  linarith

/-- 2^φ of a fraction in fixed point. -/
def pow2Frac (f : Nat) : Nat := expFix (f * ln2Fix 340 / 2 ^ fixBits) 90 0 (2 ^ fixBits)

/-- e^x moves with x. -/
theorem abs_exp_sub_exp_le {a b : ℝ} (hab : |a - b| ≤ 1) : |Real.exp a - Real.exp b| ≤ Real.exp b * (2 * |a - b|) := by
  have h : Real.exp a - Real.exp b = Real.exp b * (Real.exp (a - b) - 1) := by
    rw [mul_sub, ← Real.exp_add, add_sub_cancel, mul_one]
  rw [h, abs_mul, abs_of_pos (Real.exp_pos b)]
  exact mul_le_mul_of_nonneg_left (Real.abs_exp_sub_one_le hab) (Real.exp_pos b).le

/-- A product in fixed point is cut by less than a unit. -/
theorem mulFix_bounds (a b : Nat) :
    a * fixUnit * (b * fixUnit) - fixUnit ≤ (a * b / 2 ^ fixBits : Nat) * fixUnit ∧
      (a * b / 2 ^ fixBits : Nat) * fixUnit ≤ a * fixUnit * (b * fixUnit) := by
  have hcut := floorDiv_units (a * b) (2 ^ fixBits)
  have hval : ((a * b : Nat) : ℝ) / ((2 ^ fixBits : Nat) : ℝ) * fixUnit = a * fixUnit * (b * fixUnit) := by
    rw [Nat.cast_mul, Nat.cast_pow, Nat.cast_ofNat, div_eq_mul_inv, ← fixUnit]
    ring
  rwa [hval] at hcut

/-- The exponential at a cut product with a value near ln 2. -/
theorem exp_mul_close {φ L a u : ℝ} (hφ0 : 0 ≤ φ) (hφ1 : φ ≤ 1) (hu : 0 ≤ u) (hsmall : u ≤ 1 / 1000000) (hL : |L - Real.log 2| ≤ 341 * u)
    (hlo : φ * L - u ≤ a) (hhi : a ≤ φ * L) : a ≤ 1 ∧ |Real.exp a - 2 ^ φ| ≤ 1368 * u := by
  have hl2 := Real.log_two_lt_d9
  have hl2' := Real.log_two_gt_d9
  obtain ⟨hl, hl'⟩ := abs_le.1 hL
  have hpow : (2 : ℝ) ^ φ = Real.exp (Real.log 2 * φ) := Real.rpow_def_of_pos (by norm_num) φ
  have hpow2 : (2 : ℝ) ^ φ ≤ 2 := (Real.rpow_le_rpow_of_exponent_le (by norm_num) hφ1).trans (Real.rpow_one 2).le
  have hdiff : |a - Real.log 2 * φ| ≤ 342 * u := by
    have h1 : φ * (L - Real.log 2) ≤ 341 * u := (mul_le_mul_of_nonneg_left hl' hφ0).trans (mul_le_of_le_one_left (by linarith) hφ1)
    have h2 : φ * (Real.log 2 - L) ≤ 341 * u :=
      (mul_le_mul_of_nonneg_left (by linarith) hφ0).trans (mul_le_of_le_one_left (by linarith) hφ1)
    rw [abs_le]
    constructor <;> linarith
  refine ⟨hhi.trans ((mul_le_of_le_one_left (by linarith) hφ1).trans (by linarith)), ?_⟩
  have hexp := abs_exp_sub_exp_le (hdiff.trans (by linarith))
  rw [← hpow] at hexp
  calc |Real.exp a - 2 ^ φ| ≤ 2 ^ φ * (2 * |a - Real.log 2 * φ|) := hexp
    _ ≤ 2 * (2 * (342 * u)) := by gcongr
    _ = 1368 * u := by ring

/-- A fraction in fixed point is below one. -/
theorem fraction_lt_one {f : Nat} (hf : f < 2 ^ fixBits) : (f : ℝ) * fixUnit < 1 := by
  have h : (f : ℝ) < 2 ^ fixBits := by exact_mod_cast hf
  exact (mul_lt_mul_of_pos_right h fixUnit_pos).trans_eq pow_fixBits_mul_fixUnit

/-- The errors of the argument and of the series together. -/
theorem pow2Frac_close {f : Nat} (hf : f < 2 ^ fixBits) :
    |pow2Frac f * fixUnit - (2 : ℝ) ^ (f * fixUnit : ℝ)| ≤ 9469 * fixUnit := by
  have hu := fixUnit_pos
  obtain ⟨hlo, hhi⟩ := mulFix_bounds f (ln2Fix 340)
  obtain ⟨hle, hexp⟩ := exp_mul_close (mul_nonneg f.cast_nonneg hu.le) (fraction_lt_one hf).le hu.le fixUnit_small ln2Fix_close hlo hhi
  refine (abs_sub_le _ _ _).trans ((add_le_add (expFix_close hle) hexp).trans_eq ?_)
  rw [← add_mul]
  norm_num

/-- 2^x of a number in fixed point. -/
def pow2Fix (n : Int) : XR :=
  let i := n / (2 ^ fixBits : Nat)
  let f := (n % (2 ^ fixBits : Nat)).toNat
  if f = 0 then .fin false 1 i else .fin false (2 * pow2Frac f + 1) (i - fixBits - 1)

theorem exp2X_eq_pow2Fix (neg : Bool) {m : Nat} {e : Int} (hm : 0 < m) (he : -200 ≤ e) (hlt : e + m.log2 < 12) :
    exp2X neg m e = pow2Fix (numAt neg m e (-fixBits)) := by
  have hfix : -(fixBits : Int) ≤ e := by unfold fixBits; omega
  simp only [exp2X, if_neg hm.ne', if_neg (Int.not_le.2 hlt), max_eq_left hfix, if_neg (Int.not_lt.2 hfix)]
  rfl

/-- The parts of a number in fixed point. -/
theorem fixed_parts (n : Int) :
    let i := n / (2 ^ fixBits : Nat)
    let f := (n % (2 ^ fixBits : Nat)).toNat
    f < 2 ^ fixBits ∧ (n : ℝ) * fixUnit = i + f * fixUnit := by
  intro i f
  have hpos : (0 : Int) < (2 ^ fixBits : Nat) := by positivity
  have h0 := Int.emod_nonneg n hpos.ne'
  have h1 := Int.emod_lt_of_pos n hpos
  have hf : (f : Int) = n % (2 ^ fixBits : Nat) := Int.toNat_of_nonneg h0
  refine ⟨by omega, ?_⟩
  have hn : (n : ℝ) = 2 ^ fixBits * i + f := by
    have h := Int.mul_ediv_add_emod n (2 ^ fixBits : Nat)
    rw [← hf] at h
    exact_mod_cast h.symm
  rw [hn, add_mul, mul_right_comm, pow_fixBits_mul_fixUnit, one_mul]

/-- 2^x in fixed point is near the real one, and exact where x is an integer. -/
theorem pow2Fix_close (n : Int) : ∃ (k : Nat) (f : Int), pow2Fix n = .fin false k f ∧
    |(k : ℝ) * 2 ^ f - 2 ^ (n * fixUnit : ℝ)| ≤ 2 ^ (n * fixUnit : ℝ) * (2 : ℝ) ^ (-290 : ℤ) ∧
    ∀ i : Int, (n : ℝ) * fixUnit = i → (k : ℝ) * 2 ^ f = (2 : ℝ) ^ i := by
  obtain ⟨hf, hn⟩ := fixed_parts n
  unfold pow2Fix
  generalize n / (2 ^ fixBits : Nat) = i at hn
  generalize (n % (2 ^ fixBits : Nat)).toNat = f at hf hn
  have hu := fixUnit_pos
  by_cases h0 : f = 0
  · subst h0
    rw [Nat.cast_zero, zero_mul, add_zero] at hn
    refine ⟨1, i, if_pos rfl, ?_, fun j hj => ?_⟩
    · rw [hn, Real.rpow_intCast, Nat.cast_one, one_mul, sub_self, abs_zero]
      positivity
    · rw [Nat.cast_one, one_mul, Int.cast_injective (hn.symm.trans hj)]
  · refine ⟨2 * pow2Frac f + 1, i - fixBits - 1, if_neg h0, ?_, fun j hj => ?_⟩
    · have hclose := pow2Frac_close hf
      rw [hn, Real.rpow_add (by norm_num), Real.rpow_intCast]
      have hφ1 : (1 : ℝ) ≤ 2 ^ (f * fixUnit : ℝ) := Real.one_le_rpow (by norm_num) (by positivity)
      generalize (2 : ℝ) ^ (f * fixUnit : ℝ) = P at hclose hφ1
      have hval : ((2 * pow2Frac f + 1 : Nat) : ℝ) * 2 ^ (i - fixBits - 1 : Int) = 2 ^ i * (pow2Frac f * fixUnit + fixUnit / 2) := by
        rw [zpow_sub_one₀ (by norm_num), zpow_sub₀ (by norm_num), zpow_natCast, fixUnit]
        push_cast
        ring
      have hi : (0 : ℝ) < 2 ^ i := by positivity
      rw [hval, ← mul_sub, abs_mul, abs_of_pos hi, mul_assoc]
      refine mul_le_mul_of_nonneg_left ?_ hi.le
      have hbound : |pow2Frac f * fixUnit + fixUnit / 2 - P| ≤ 9470 * fixUnit := by
        obtain ⟨h1, h2⟩ := abs_le.1 hclose
        rw [abs_le]
        constructor <;> linarith
      exact (hbound.trans (million_units_le (by norm_num))).trans (le_mul_of_one_le_left (by positivity) hφ1)
    · -- a fraction that is not zero is no integer
      exfalso
      have hfr : ((j - i : Int) : ℝ) = f * fixUnit := by push_cast; linarith
      have hpos : (0 : ℝ) < f * fixUnit := by positivity
      have hlt := fraction_lt_one hf
      rw [← hfr] at hpos hlt
      have h1 : (0 : Int) < j - i := by exact_mod_cast hpos
      have h2 : (j - i : Int) < 1 := by exact_mod_cast hlt
      omega

/-- 2^x of a finite value is near the real one, and exact where x is an integer (R163). -/
theorem exp2X_close (neg : Bool) {m : Nat} {e : Int} (hm : 0 < m) (he : -200 ≤ e) (hlt : e + m.log2 < 12) :
    let x : ℝ := (if neg then -1 else 1) * m * 2 ^ e
    ∃ (k : Nat) (f : Int), exp2X neg m e = .fin false k f ∧ |(k : ℝ) * 2 ^ f - 2 ^ x| ≤ 2 ^ x * (2 : ℝ) ^ (-290 : ℤ) ∧
      ∀ i : Int, x = i → (k : ℝ) * 2 ^ f = (2 : ℝ) ^ i := by
  intro x
  have hx : x = (numAt neg m e (-fixBits) : ℝ) * fixUnit := by
    have hfix : -(fixBits : Int) ≤ e := by unfold fixBits; omega
    have h := numAt_eq neg m hfix
    rw [zpow_neg, zpow_natCast] at h
    rw [fixUnit, h]
    cases neg <;> simp [x]
  rw [hx, exp2X_eq_pow2Fix neg hm he hlt]
  exact pow2Fix_close _

/-! ### log2 -/

/-- A dyadic number in [1, 2) in fixed point. -/
theorem fixed_mantissa {m : Nat} (hm : m.log2 ≤ fixBits) :
    ((m <<< fixBits / 2 ^ m.log2 : Nat) : ℝ) = (m : ℝ) / 2 ^ m.log2 * 2 ^ fixBits := by
  have hdvd : 2 ^ m.log2 ∣ m <<< fixBits := by
    rw [Nat.shiftLeft_eq]
    exact (pow_dvd_pow 2 hm).mul_left m
  rw [Nat.cast_div hdvd (by positivity), Nat.shiftLeft_eq]
  push_cast
  ring

/-- (μ - 1) / (μ + 1) in fixed point, μ given by `y`. -/
def atanhArg (y : Nat) : Nat := ((y - 2 ^ fixBits) <<< fixBits) / (y + 2 ^ fixBits)

theorem atanhArg_bounds {y : Nat} {μ : ℝ} (hy : (y : ℝ) = μ * 2 ^ fixBits) (h1 : 1 ≤ μ) :
    (μ - 1) / (μ + 1) - fixUnit ≤ atanhArg y * fixUnit ∧ (atanhArg y : ℝ) * fixUnit ≤ (μ - 1) / (μ + 1) := by
  have hF : (0 : ℝ) < 2 ^ fixBits := by positivity
  have hle : 2 ^ fixBits ≤ y := by
    have h : (2 : ℝ) ^ fixBits ≤ y := hy ▸ le_mul_of_one_le_left hF.le h1
    exact_mod_cast h
  have hcut := floorDiv_units ((y - 2 ^ fixBits) <<< fixBits) (y + 2 ^ fixBits)
  have hval : (((y - 2 ^ fixBits) <<< fixBits : Nat) : ℝ) / ((y + 2 ^ fixBits : Nat) : ℝ) * fixUnit = (μ - 1) / (μ + 1) := by
    have hμ : μ + 1 ≠ 0 := by linarith
    rw [Nat.shiftLeft_eq, Nat.cast_mul, Nat.cast_sub hle, Nat.cast_add, hy, fixUnit]
    push_cast
    field_simp
  rwa [hval] at hcut

/-- log μ by the series at a cut argument. -/
theorem log_ratio_close {ζ μ u : ℝ} (hμ1 : 1 ≤ μ) (hμ2 : μ ≤ 2) (hζ0 : 0 ≤ ζ) (hlo : (μ - 1) / (μ + 1) - u ≤ ζ)
    (hhi : ζ ≤ (μ - 1) / (μ + 1)) : |Real.log ((1 + ζ) / (1 - ζ)) - Real.log μ| ≤ 3 * u := by
  have hden : (0 : ℝ) < μ + 1 := by linarith
  have hlo' : μ - 1 - u * (μ + 1) ≤ ζ * (μ + 1) := by
    have h := mul_le_mul_of_nonneg_right hlo hden.le
    rwa [sub_mul, div_mul_cancel₀ _ hden.ne'] at h
  have hhi' : ζ * (μ + 1) ≤ μ - 1 := (le_div_iff₀ hden).1 hhi
  have hζ1 : 0 < 1 - ζ := by nlinarith
  have hu : 0 ≤ u := by linarith
  have hr : 0 < (1 + ζ) / (1 - ζ) := by positivity
  have hle : (1 + ζ) / (1 - ζ) ≤ μ := by
    rw [div_le_iff₀ hζ1]
    linarith
  have hge : μ / ((1 + ζ) / (1 - ζ)) - 1 ≤ 3 * u := by
    rw [div_div_eq_mul_div, div_sub_one (by positivity), div_le_iff₀ (by positivity)]
    nlinarith
  have hlogle : Real.log ((1 + ζ) / (1 - ζ)) ≤ Real.log μ := Real.log_le_log hr hle
  have hdiff : Real.log μ - Real.log ((1 + ζ) / (1 - ζ)) ≤ 3 * u := by
    rw [← Real.log_div (by linarith) hr.ne']
    exact (Real.log_le_sub_one_of_pos (by positivity)).trans hge
  rw [abs_le]
  constructor <;> linarith

/-- ln μ in fixed point. -/
def lnFix (y : Nat) : Nat := 2 * atanhFix (atanhArg y * atanhArg y / 2 ^ fixBits) 110 0 (atanhArg y)

/-- The errors of the series and of its argument together. -/
theorem lnFix_close {y : Nat} {μ : ℝ} (hy : (y : ℝ) = μ * 2 ^ fixBits) (h1 : 1 ≤ μ) (h2 : μ ≤ 2) :
    |lnFix y * fixUnit - Real.log μ| ≤ 48625 * fixUnit := by
  obtain ⟨hlo, hhi⟩ := atanhArg_bounds hy h1
  have hu := fixUnit_pos
  have hthird : (μ - 1) / (μ + 1) ≤ 1 / 3 := by
    rw [div_le_iff₀ (by linarith)]
    linarith
  have hlog := log_ratio_close h1 h2 (by positivity) hlo hhi
  obtain ⟨ha, ha'⟩ := abs_le.1 (atanhFix_close (hhi.trans hthird))
  obtain ⟨hb, hb'⟩ := abs_le.1 hlog
  rw [lnFix, abs_le]
  push_cast
  constructor <;> linarith

/-- A quotient of two values near the real ones, the divisor at least a half. -/
theorem abs_div_sub_div_le {a b α β c d : ℝ} (hβ : 0 < β) (hα0 : 0 ≤ α) (hα : α ≤ β) (hb : 1 / 2 ≤ b) (ha : |a - α| ≤ c) (hbβ : |b - β| ≤ d) :
    |a / b - α / β| ≤ 2 * (c + d) := by
  have hb0 : 0 < b := by linarith
  have hid : a / b - α / β = ((a - α) * β + α * (β - b)) / (b * β) := by
    field_simp
    ring
  have hnum : |(a - α) * β + α * (β - b)| ≤ (c + d) * β := by
    refine (abs_add_le _ _).trans ?_
    rw [abs_mul, abs_mul, abs_of_pos hβ, abs_of_nonneg hα0, abs_sub_comm β b]
    have h1 := mul_le_mul_of_nonneg_right ha hβ.le
    have h2 := mul_le_mul hα hbβ (abs_nonneg _) hβ.le
    linarith
  have hcd : 0 ≤ c + d := add_nonneg ((abs_nonneg _).trans ha) ((abs_nonneg _).trans hbβ)
  rw [hid, abs_div, abs_of_pos (mul_pos hb0 hβ), div_le_iff₀ (mul_pos hb0 hβ)]
  refine hnum.trans ?_
  have h3 : 1 ≤ 2 * b := by linarith
  calc (c + d) * β = (c + d) * 1 * β := by ring
    _ ≤ (c + d) * (2 * b) * β := by gcongr
    _ = 2 * (c + d) * (b * β) := by ring

/-- log2 μ in fixed point. -/
def lgFix (y : Nat) : Nat := (lnFix y <<< fixBits) / ln2Fix 340

/-- The errors of the logarithm and of ln 2 together. -/
theorem lgFix_close {y : Nat} {μ : ℝ} (hy : (y : ℝ) = μ * 2 ^ fixBits) (h1 : 1 ≤ μ) (h2 : μ ≤ 2) :
    |lgFix y * fixUnit - Real.logb 2 μ| ≤ 97933 * fixUnit := by
  have hu := fixUnit_pos
  have hsmall := fixUnit_small
  have hl2 := Real.log_two_gt_d9
  obtain ⟨hl, -⟩ := abs_le.1 ln2Fix_close
  have hhalf : 1 / 2 ≤ (ln2Fix 340 : ℝ) * fixUnit := by linarith
  have hquot := abs_div_sub_div_le (by linarith : 0 < Real.log 2) (Real.log_nonneg h1) (Real.log_le_log (by linarith) h2) hhalf
    (lnFix_close hy h1 h2) ln2Fix_close
  have hcut := floorDiv_units (lnFix y <<< fixBits) (ln2Fix 340)
  have hval : ((lnFix y <<< fixBits : Nat) : ℝ) / (ln2Fix 340 : ℝ) * fixUnit = lnFix y * fixUnit / (ln2Fix 340 * fixUnit) := by
    rw [Nat.shiftLeft_eq, mul_div_mul_right _ _ hu.ne', Nat.cast_mul, div_mul_eq_mul_div, mul_assoc]
    push_cast
    rw [pow_fixBits_mul_fixUnit, mul_one]
  rw [hval] at hcut
  obtain ⟨hlo, hhi⟩ := hcut
  obtain ⟨hq, hq'⟩ := abs_le.1 hquot
  change |((lnFix y <<< fixBits / ln2Fix 340 : Nat) : ℝ) * fixUnit - Real.log μ / Real.log 2| ≤ _
  rw [abs_le]
  constructor <;> linarith

/-- log2 of a value in fixed point with its last bit set. -/
def lgCut (v : Int) : XR := .fin (v < 0) (2 * v.natAbs + 1) (-(fixBits : Int) - 1)

/-- log2 of a value that is no power of two. -/
theorem log2X_eq_lgCut {m : Nat} (e : Int) (hm : m ≠ 2 ^ m.log2) :
    log2X m e = lgCut ((e + m.log2) * (2 ^ fixBits : Nat) + lgFix (m <<< fixBits / 2 ^ m.log2)) := by
  rw [log2X, if_neg hm]
  rfl

/-- An integer from its sign and its magnitude. -/
theorem sign_mul_natAbs (v : Int) : (if decide (v < 0) = true then (-1 : ℝ) else 1) * (v.natAbs : ℝ) = v := by
  rw [Nat.cast_natAbs]
  by_cases hv : v < 0
  · rw [if_pos (decide_eq_true hv), abs_of_neg hv, Int.cast_neg, neg_one_mul, neg_neg]
  · rw [if_neg (by simpa using hv), abs_of_nonneg (Int.not_lt.1 hv), one_mul]

theorem abs_sign (b : Bool) : |if b = true then (-1 : ℝ) else 1| = 1 := by cases b <;> simp

/-- The last bit moves a value by half a unit. -/
theorem lgCut_value (v : Int) : ∃ (neg : Bool) (k : Nat) (f : Int), lgCut v = .fin neg k f ∧
    |(if neg then -1 else 1) * (k : ℝ) * 2 ^ f - v * fixUnit| ≤ fixUnit := by
  refine ⟨v < 0, 2 * v.natAbs + 1, -(fixBits : Int) - 1, rfl, ?_⟩
  have hpow : (2 : ℝ) ^ (-(fixBits : Int) - 1) = fixUnit / 2 := by
    rw [zpow_sub_one₀ (by norm_num), zpow_neg, zpow_natCast]
    rfl
  have hv := sign_mul_natAbs v
  have hs := abs_sign (decide (v < 0))
  generalize (if decide (v < 0) = true then (-1 : ℝ) else 1) = σ at hv hs
  have hval : σ * ((2 * v.natAbs + 1 : Nat) : ℝ) * (fixUnit / 2) - v * fixUnit = σ * (fixUnit / 2) := by
    rw [← hv]
    push_cast
    ring
  have hu := fixUnit_pos
  rw [hpow, hval, abs_mul, hs, one_mul, abs_of_pos (by linarith)]
  linarith

/-- Only a power of two has an integer logarithm. -/
theorem eq_two_pow_of_logb_int {m : Nat} {e i : Int} (hm : 0 < m) (h : Real.logb 2 ((m : ℝ) * 2 ^ e) = i) : m = 2 ^ m.log2 := by
  have hx : (m : ℝ) * 2 ^ e = 2 ^ i := by
    rw [← Real.rpow_intCast 2 i, ← h, Real.rpow_logb (by norm_num) (by norm_num) (by positivity)]
  have hmz : (m : ℝ) = 2 ^ (i - e) := by
    rw [zpow_sub₀ (by norm_num), ← hx, mul_div_cancel_right₀ _ (by positivity)]
  have hnonneg : 0 ≤ i - e := by
    by_contra hneg
    have hlt : (2 : ℝ) ^ (i - e) < 1 := zpow_lt_one_of_neg₀ (by norm_num) (by omega)
    have hge : (1 : ℝ) ≤ m := by exact_mod_cast hm
    linarith
  obtain ⟨j, hj⟩ := Int.eq_ofNat_of_zero_le hnonneg
  have hmj : m = 2 ^ j := by
    rw [hj, zpow_natCast] at hmz
    exact_mod_cast hmz
  rw [hmj, Nat.log2_two_pow]

/-- The exponent and the logarithm of the mantissa. -/
theorem logb_mantissa {m : Nat} (e : Int) (hm : 0 < m) :
    Real.logb 2 ((m : ℝ) * 2 ^ e) = ((e + m.log2 : Int) : ℝ) + Real.logb 2 ((m : ℝ) / 2 ^ m.log2) := by
  have hpow : Real.logb 2 ((2 : ℝ) ^ e) = e := by rw [← Real.rpow_intCast, Real.logb_rpow (by norm_num) (by norm_num)]
  have hpow' : Real.logb 2 ((2 : ℝ) ^ m.log2) = m.log2 := by rw [← Real.rpow_natCast, Real.logb_rpow (by norm_num) (by norm_num)]
  rw [Real.logb_mul (by positivity) (by positivity), Real.logb_div (by positivity) (by positivity), hpow, hpow']
  push_cast
  ring

/-- log2 of a positive finite value is near the real one, and exact where that is an integer (R163). -/
theorem log2X_close {m : Nat} (e : Int) (hm : 0 < m) (hm64 : m < 2 ^ 64) :
    let y : ℝ := Real.logb 2 ((m : ℝ) * 2 ^ e)
    ∃ (neg : Bool) (k : Nat) (f : Int), log2X m e = .fin neg k f ∧
      let v : ℝ := (if neg then -1 else 1) * (k : ℝ) * 2 ^ f
      |v - y| ≤ (2 : ℝ) ^ (-290 : ℤ) ∧ ∀ i : Int, y = (i : ℝ) → v = (i : ℝ) := by
  intro y
  have hy : y = _ := logb_mantissa e hm
  by_cases hpow : m = 2 ^ m.log2
  · have hy' : y = ((e + m.log2 : Int) : ℝ) := by
      have h1 : (m : ℝ) / 2 ^ m.log2 = 1 := by
        rw [div_eq_one_iff_eq (by positivity)]
        exact_mod_cast hpow
      rw [hy, h1, Real.logb_one, add_zero]
    refine ⟨_, _, _, (if_pos hpow : log2X m e = XR.ofInt (e + m.log2)), ?_⟩
    have hv : (if decide (e + (m.log2 : Int) < 0) = true then (-1 : ℝ) else 1) * ((e + (m.log2 : Int)).natAbs : ℝ) * 2 ^ (0 : Int) = y := by
      rw [hy', zpow_zero, mul_one, sign_mul_natAbs]
    intro v
    have hvy : v = y := hv
    exact ⟨by rw [hvy, sub_self, abs_zero]; positivity, fun i hi => hvy.trans hi⟩
  · have hlog : m.log2 ≤ fixBits := by
      have h : m.log2 < 64 := (Nat.log2_lt hm.ne').2 hm64
      unfold fixBits
      omega
    have hμ1 : 1 ≤ (m : ℝ) / 2 ^ m.log2 := by
      rw [one_le_div₀ (by positivity)]
      exact_mod_cast Nat.log2_self_le hm.ne'
    have hμ2 : (m : ℝ) / 2 ^ m.log2 ≤ 2 := by
      rw [div_le_iff₀ (by positivity), ← pow_succ']
      exact_mod_cast (Nat.lt_log2_self (n := m)).le
    obtain ⟨hlo, hhi⟩ := abs_le.1 (lgFix_close (fixed_mantissa hlog) hμ1 hμ2)
    rw [log2X_eq_lgCut e hpow]
    obtain ⟨neg, k, f, heq, hval⟩ := lgCut_value ((e + m.log2) * (2 ^ fixBits : Nat) + lgFix (m <<< fixBits / 2 ^ m.log2))
    refine ⟨neg, k, f, heq, ?_, fun i hi => absurd (eq_two_pow_of_logb_int hm hi) hpow⟩
    have hv : (((e + m.log2) * (2 ^ fixBits : Nat) + lgFix (m <<< fixBits / 2 ^ m.log2) : Int) : ℝ) * fixUnit =
        ((e + m.log2 : Int) : ℝ) + lgFix (m <<< fixBits / 2 ^ m.log2) * fixUnit := by
      push_cast
      rw [add_mul, mul_assoc, pow_fixBits_mul_fixUnit, mul_one]
    rw [hv] at hval
    obtain ⟨h1, h2⟩ := abs_le.1 hval
    refine le_trans ?_ (million_units_le (c := 97934) (by norm_num))
    rw [hy, abs_le]
    constructor <;> linarith

/-- Settles O26: 1/x and 1/√x by the integer quotient and root that are cut, 2^x and log2 by their series in fixed point. -/
theorem specialValues : Obligations.SpecialValues := by
  unfold Obligations.SpecialValues
  refine ⟨fun neg m n e g hm hn => ?_, fun neg m e hm _ he => ⟨fun hlt => ?_, fun hge => ?_⟩, fun neg e => rfl, fun m e hm hm64 => ?_⟩
  · have hrsq : rsqFn (.fin false m e) = (rsqX m e, 0) := by rw [rsqFn, if_neg hm.ne', if_neg Bool.false_ne_true]
    obtain ⟨hsign, hrecip⟩ := recip_stands neg e g hm hn
    rw [hrsq]
    exact ⟨⟨hsign, hrecip⟩, rsqX_stands e g hm hn, rfl⟩
  · obtain ⟨k, f, heq, hclose, hexact⟩ := exp2X_close neg hm he hlt
    exact ⟨k, f, by rw [exp2Fn, heq], hclose, hexact⟩
  · rw [exp2Fn, exp2X, if_neg hm.ne', if_pos hge]
    cases neg <;> rfl
  · obtain ⟨neg, k, f, heq, hclose⟩ := log2X_close e hm hm64
    exact ⟨neg, k, f, by rw [log2Fn, if_neg hm.ne', if_neg Bool.false_ne_true, heq], hclose⟩

end Sys2Proof.Machine
